-- ==== Sys2Proof/Word.lean ====
section
/-! DEFINITION. The word types of the block: a register, a descriptor word and a FIFO word are 32 bits (R15),
system memory is a space of bytes (R100). -/

namespace Sys2Proof

/-- A 32-bit word with bit 0 least significant (R15); also a 32-bit physical address (R100). -/
abbrev Word := BitVec 32

/-- A byte of system memory (R100). -/
abbrev Byte := BitVec 8

end Sys2Proof
end

