-- ==== Sys2Proof/Config.lean ====
section
/-! DEFINITION. The free values: what the spec leaves open and a run may read. Each is a constant without a body
applied to the draw counter of the state, so nothing can be proved of its value. -/

namespace Sys2Proof

/-- The value of a read that the spec leaves unspecified: an empty receive queue (U5), FIFO words that nobody has
pushed (U4, U12), any register but GRSTCTL while a reset or a flush is settling (U10). DESIGN CHOICE, log entry 8. -/
opaque Config.freeWord : Nat → Word

/-- UPPER's answer to a `class_request` that the platform record does not script (R14): none is `stall`, otherwise the
bytes of the reply. DESIGN CHOICE, log entry 9. -/
opaque Config.freeAnswer : Nat → Option (List Byte)

end Sys2Proof
end

