-- ==== Sys2Proof/Syntax.lean ====
section
/-! DEFINITION. The operations of the block as syntax: one constructor of `Instr` for every row of
spec/opcode_table.json. The rows are commands (R143), interrupt events (R151 to R154), SETUP requests (R166)
and receive-status entries (R31, R155); operands are typed values (R142). -/

namespace Sys2Proof

/-- Transfer direction, named from the USB host's side (R19): `IN` moves data to the host. -/
inductive Dir where
  | OUT | IN
  deriving DecidableEq, Repr

/-- USB transfer types; the codes 0 to 3 of EPTYPE (R39, R49) in this order. -/
inductive XferType where
  | control | isochronous | bulk | interrupt
  deriving DecidableEq, Repr

/-- Speed of a host channel's target (R350). -/
inductive Speed where
  | high | full | low
  deriving DecidableEq, Repr

/-- Data PIDs (R42, R62). -/
inductive Pid where
  | data0 | data1 | data2 | mdata | setup
  deriving DecidableEq, Repr

/-- The negotiated DMA modes (R12). -/
inductive DmaMode where
  | slave | bufferDma | descDma
  deriving DecidableEq, Repr

/-- PHY types (R9). -/
inductive PhyType where
  | utmi | ulpi | fsSerial
  deriving DecidableEq, Repr

/-- Which of HNP and SRP are enabled (R10). -/
inductive OtgCap where
  | hnpSrp | srpOnly | none
  deriving DecidableEq, Repr

/-- An endpoint reference: endpoint number and direction (R142 `epref`). -/
structure EpRef where
  num : Fin 16
  dir : Dir
  deriving DecidableEq, Repr

/-- An endpoint direction or a host channel: the `x` of the transfer engine (R143 `epref or chref`). -/
inductive XRef where
  | ep (e : EpRef)
  | ch (c : Fin 16)
  deriving DecidableEq, Repr

/-- Host-side target of a submission (R350); `pid = none` is `auto`. -/
structure HcParams where
  devAddr : BitVec 7
  epNum : Fin 16
  epDir : Dir
  epType : XferType
  mps : BitVec 11
  speed : Speed
  doSplit : Bool
  hubAddr : BitVec 7
  portAddr : BitVec 7
  interval : BitVec 8
  multiCount : BitVec 2
  pid : Option Pid
  deriving DecidableEq, Repr

/-- Operand `target` of SUBMIT and ISO_START (R142): an endpoint in a peripheral role, channel parameters in a
host role. -/
inductive Target where
  | ep (e : EpRef)
  | pipe (t : HcParams)
  deriving DecidableEq, Repr

/-- Configuration parameters of `core_init` (R10); `phyWidth16` selects 16 bit over 8 bit, `fullSpeed` selects
`full` over `high`; `epTx` holds the requests for the Tx FIFOs 1 to 15, in order. R10 gives no range for `burst`, which has the 4
bits of HBSTLEN here, nor for the FIFO requests, which have 32 (DESIGN CHOICE, log entry 2). -/
structure InitParams where
  dmaMode : DmaMode
  phyType : PhyType
  phyWidth16 : Bool
  fullSpeed : Bool
  burst : BitVec 4
  rxFifo : Word
  nptxFifo : Word
  epTx : List Word
  hptxFifo : Word
  dedicatedFifo : Bool
  otgCap : OtgCap
  deriving DecidableEq, Repr

/-- The 7-byte USB endpoint descriptor handed to ENABLE_ENDPOINT (R168). -/
structure Epd where
  bLength : Byte
  bDescriptorType : Byte
  bEndpointAddress : Byte
  bmAttributes : Byte
  wMaxPacketSize : BitVec 16
  bInterval : Byte
  deriving DecidableEq, Repr

/-- Halt reasons of a channel, codes 1 to 8 in this order (R352). -/
inductive HaltReason where
  | nak | ack | xactErr | stall | ahbErr | babble | descErr | cancelled
  deriving DecidableEq, Repr

/-- A callback identity with its opaque context (R142 `cbid`). -/
structure CbId where
  id : Word
  ctx : Word
  deriving DecidableEq, Repr

/-- A SETUP packet, field by field (R165). -/
structure SetupPkt where
  bmRequestType : Byte
  bRequest : Byte
  wValue : BitVec 16
  wIndex : BitVec 16
  wLength : BitVec 16
  deriving DecidableEq, Repr

/-- The fields of a SETUP packet of TYPE 0 whose request code a named row fixes (R165, R166). -/
structure SetupFields where
  dir : Dir
  recip : BitVec 5
  wValue : BitVec 16
  wIndex : BitVec 16
  wLength : BitVec 16
  deriving DecidableEq, Repr

/-- The operand fields of an Rx status entry (R31, R155); PKTSTS selects the constructor of `Instr`. -/
structure RxEntry where
  num : Fin 16
  bcnt : BitVec 11
  dpid : BitVec 2
  deriving DecidableEq, Repr

/-- The instructions of the block, one constructor for each row of spec/opcode_table.json. A handle is a slot index of the pool,
to which R142 gives no width: 16 bits here (DESIGN CHOICE, log entry 2). -/
inductive Instr where
  -- commands, R143
  | coreInit (base : Word) (params : InitParams)
  | coreDeinit
  | coreReset
  | flushTxFifo (num : BitVec 8)
  | flushRxFifo
  | enableGint
  | disableGint
  | regRead (off : Word)
  | regWrite (off : Word) (v : Word)
  | regModify (off : Word) (clear : Word) (set : Word)
  | poolAlloc
  | poolFree (h : BitVec 16)
  | submit (t : Target) (buf : Word) (len : Word) (zeroFlag : Bool) (cb : CbId)
  | cancel (h : BitVec 16)
  | startTransfer (x : XRef) (h : BitVec 16)
  | continueTransfer (x : XRef)
  | enableEndpoint (d : Epd)
  | disableEndpoint (e : EpRef)
  | halt (c : Fin 16) (r : HaltReason)
  | isoStart (t : Target) (buf0 : Word) (buf1 : Word) (pktLen : BitVec 16) (pktPerBuf : BitVec 16) (cb : CbId)
  | isoStop (x : XRef)
  | isr
  -- top-level events, R151
  | topOtgint
  | topRxflvl
  | topNptxfemp
  | topUsbsusp
  | topUsbrst
  | topEnumdone
  | topIsooutdrop
  | topIepint
  | topOepint
  | topHchint
  | topPtxfemp
  | topConidstschng
  | topDisconnint
  | topWkupint
  | topUnassigned (k : Fin 32)
  -- OTG events, R152
  | otgSesenddet
  | otgSesreqsucstschng
  | otgHstnegsucstschng
  | otgUnassigned (k : Fin 32)
  -- device IN endpoint events, R153
  | inXfercompl (n : Fin 16)
  | inEpdisbld (n : Fin 16)
  | inAhberr (n : Fin 16)
  | inTimeout (n : Fin 16)
  | inTxfemp (n : Fin 16)
  | inBna (n : Fin 16)
  | inUnassigned (n : Fin 16) (k : Fin 32)
  -- device OUT endpoint events, R153
  | outXfercompl (n : Fin 16)
  | outEpdisbld (n : Fin 16)
  | outAhberr (n : Fin 16)
  | outSetup (n : Fin 16)
  | outOutpkterr (n : Fin 16)
  | outBna (n : Fin 16)
  | outBbleerr (n : Fin 16)
  | outUnassigned (n : Fin 16) (k : Fin 32)
  -- host channel events, R154
  | chXfercompl (c : Fin 16)
  | chChhltd (c : Fin 16)
  | chAhberr (c : Fin 16)
  | chStall (c : Fin 16)
  | chNak (c : Fin 16)
  | chAck (c : Fin 16)
  | chNyet (c : Fin 16)
  | chXacterr (c : Fin 16)
  | chBblerr (c : Fin 16)
  | chBna (c : Fin 16)
  | chUnassigned (c : Fin 16) (k : Fin 32)
  -- SETUP requests, R166
  | getStatus (f : SetupFields)
  | clearFeature (f : SetupFields)
  | setFeature (f : SetupFields)
  | setAddress (f : SetupFields)
  | getDescriptor (f : SetupFields)
  | setConfiguration (f : SetupFields)
  | setInterface (f : SetupFields)
  | delegatedRequest (p : SetupPkt)
  -- Rx status entries, R31
  | rxsOutData (e : RxEntry)
  | rxsOutComplete (e : RxEntry)
  | rxsSetupComplete (e : RxEntry)
  | rxsSetupData (e : RxEntry)
  | rxsInData (e : RxEntry)
  | rxsInComplete (e : RxEntry)
  | rxsChannelHalted (e : RxEntry)
  deriving DecidableEq, Repr

/-- Where an instruction comes from: the formats of R140. An event word belongs to one status register, an Rx status
entry to one mode. -/
inductive Port where
  | cmd | gintsts | gotgint | diepint (n : Fin 16) | doepint (n : Fin 16) | hcint (c : Fin 16)
  | setup | rxsDevice | rxsHost
  deriving DecidableEq, Repr

end Sys2Proof
end

