-- ==== Sys2Proof/WellFormed.lean ====
section
/-! DEFINITION. Well-formed instructions: the operand ranges that the spec puts into the operands' types (R350, R10),
the bits an unassigned-event row covers, and the packets the delegated row takes (opcode table, R166). -/

namespace Sys2Proof

/-- A channel-parameter record is in the ranges of R350: mps 1 to 1024, interval at least 1, multi_count 1 to 3. -/
def HcParams.wf (t : HcParams) : Bool :=
  decide (1 ≤ t.mps.toNat) && decide (t.mps.toNat ≤ 1024) && decide (t.interval ≠ 0) && decide (t.multiCount ≠ 0)

/-- A target is well formed when its channel parameters are. -/
def Target.wf : Target → Bool
  | .ep _ => true
  | .pipe t => t.wf

/-- Init parameters request one size for each of the Tx FIFOs 1 to 15 (R10). -/
def InitParams.wf (p : InitParams) : Bool :=
  decide (p.epTx.length = 15)

/-- Bits of GINTSTS that no field table names (table row GINTSTS.UNASSIGNED). -/
def topUnassignedMask : Word := 0x49F387CA
/-- Bits of GOTGINT that no field table names (table row GOTGINT.UNASSIGNED). -/
def otgUnassignedMask : Word := 0xFFFFFCFB
/-- Bits of DIEPINT[n] that no field table names (table row DIEPINT[n].UNASSIGNED). -/
def inUnassignedMask : Word := 0xFFFFFD70
/-- Bits of DOEPINT[n] that no field table names (table row DOEPINT[n].UNASSIGNED). -/
def outUnassignedMask : Word := 0xFFFFECF0
/-- Bits of HCINT[c] that no field table names (table row HCINT[c].UNASSIGNED). -/
def chUnassignedMask : Word := 0xFFFFF600

/-- TYPE = 0 and one of the seven request codes the block serves itself (R166). -/
def SetupPkt.named (p : SetupPkt) : Bool :=
  decide (p.bmRequestType &&& 0x60#8 = 0#8) &&
    [0x00#8, 0x01#8, 0x03#8, 0x05#8, 0x06#8, 0x09#8, 0x0B#8].contains p.bRequest

/-- Well-formed instructions. -/
def Instr.wf : Instr → Bool
  | .coreInit _ p => p.wf
  | .submit t _ _ _ _ => t.wf
  | .isoStart t _ _ _ _ _ => t.wf
  | .topUnassigned k => topUnassignedMask.getLsbD k.val
  | .otgUnassigned k => otgUnassignedMask.getLsbD k.val
  | .inUnassigned _ k => inUnassignedMask.getLsbD k.val
  | .outUnassigned _ k => outUnassignedMask.getLsbD k.val
  | .chUnassigned _ k => chUnassignedMask.getLsbD k.val
  | .delegatedRequest p => !p.named
  | .coreDeinit | .coreReset | .flushTxFifo _ | .flushRxFifo | .enableGint | .disableGint | .regRead _
  | .regWrite _ _ | .regModify _ _ _ | .poolAlloc | .poolFree _ | .cancel _ | .startTransfer _ _
  | .continueTransfer _ | .enableEndpoint _ | .disableEndpoint _ | .halt _ _ | .isoStop _ | .isr
  | .topOtgint | .topRxflvl | .topNptxfemp | .topUsbsusp | .topUsbrst | .topEnumdone | .topIsooutdrop
  | .topIepint | .topOepint | .topHchint | .topPtxfemp | .topConidstschng | .topDisconnint | .topWkupint
  | .otgSesenddet | .otgSesreqsucstschng | .otgHstnegsucstschng
  | .inXfercompl _ | .inEpdisbld _ | .inAhberr _ | .inTimeout _ | .inTxfemp _ | .inBna _
  | .outXfercompl _ | .outEpdisbld _ | .outAhberr _ | .outSetup _ | .outOutpkterr _ | .outBna _ | .outBbleerr _
  | .chXfercompl _ | .chChhltd _ | .chAhberr _ | .chStall _ | .chNak _ | .chAck _ | .chNyet _ | .chXacterr _
  | .chBblerr _ | .chBna _
  | .getStatus _ | .clearFeature _ | .setFeature _ | .setAddress _ | .getDescriptor _ | .setConfiguration _
  | .setInterface _
  | .rxsOutData _ | .rxsOutComplete _ | .rxsSetupComplete _ | .rxsSetupData _ | .rxsInData _ | .rxsInComplete _
  | .rxsChannelHalted _ => true

end Sys2Proof
end

