-- ==== Sys2Proof/Decode.lean ====
section
/-! DEFINITION. The decoder, total on any bytes and refusing by name, and after it the encoder. A command is its
operation code (R143) followed by its operands, little-endian, in the order of R143 (the byte layout of the operands is
a DESIGN CHOICE, log entry 2); an event word and an Rx status entry are 32 bits, a SETUP packet 8 bytes (R140). -/

namespace Sys2Proof

/-- Why a decoder refuses: `unknownOp` is an operation code outside R143, `badOperand` an operand outside its type,
`short` bytes that end too early, `noEvent` an event word with no event, `reservedEntry` an Rx status entry whose
PKTSTS no row names. -/
inductive DecodeError where
  | unknownOp (op : Byte)
  | badOperand
  | short
  | noEvent
  | reservedEntry (code : Nat)
  deriving DecidableEq, Repr

/-- A parser of operand bytes. -/
abbrev Parser (α : Type) := StateT (List Byte) (Except DecodeError) α

/-- The next byte. -/
def pByte : Parser Byte := fun
  | [] => .error .short
  | b :: bs => .ok (b, bs)

/-- Accept `some`, refuse `none` as an operand out of range. -/
def pSome {α : Type} (o : Option α) : Parser α := fun bs =>
  match o with
  | some a => .ok (a, bs)
  | none => .error .badOperand

/-- A 16-bit operand, low byte first (R103). -/
def pHalf : Parser (BitVec 16) := do
  let b0 ← pByte
  let b1 ← pByte
  return b1 ++ b0

/-- A 32-bit operand, low byte first (R103). -/
def pWord : Parser Word := do
  let h0 ← pHalf
  let h1 ← pHalf
  return h1 ++ h0

/-- `n` words in order. -/
def pWords : Nat → Parser (List Word)
  | 0 => return []
  | n + 1 => do
    let w ← pWord
    let ws ← pWords n
    return w :: ws

/-- The value a byte codes in a table of codes. -/
def decodeCode {α : Type} (table : List α) (b : Byte) : Option α := table[b.toNat]?

/-- The 16 numbers of endpoints and channels. -/
def numOfByte (b : Byte) : Option (Fin 16) := if h : b.toNat < 16 then some ⟨b.toNat, h⟩ else none

/-- An endpoint reference as an address byte: number in bits 3:0, direction in bit 7 (1 = IN), the rest 0. -/
def epOfByte (b : Byte) : Option EpRef :=
  if h : b.toNat < 16 then some ⟨⟨b.toNat, h⟩, .OUT⟩
  else if h : b.toNat - 128 < 16 ∧ 128 ≤ b.toNat then some ⟨⟨b.toNat - 128, h.1⟩, .IN⟩ else none

/-- The 7-bit values of device, hub and port addresses. -/
def sevenOfByte (b : Byte) : Option (BitVec 7) := if b.toNat < 128 then some (b.setWidth 7) else none

def boolCodes : List Bool := [false, true]
def typeCodes : List XferType := [.control, .isochronous, .bulk, .interrupt]
def speedCodes : List Speed := [.high, .full, .low]
def pidCodes : List (Option Pid) := [none, some .data0, some .data1, some .data2, some .mdata, some .setup]
def dmaCodes : List DmaMode := [.slave, .bufferDma, .descDma]
def phyCodes : List PhyType := [.utmi, .ulpi, .fsSerial]
def otgCodes : List OtgCap := [.hnpSrp, .srpOnly, .none]
/-- The halt reasons by their codes 1 to 8 (R352). Code 0 is none of the rule's: it reads as the reason 8 (DESIGN CHOICE,
log entry 2). -/
def haltCodes : List HaltReason := [.cancelled, .nak, .ack, .xactErr, .stall, .ahbErr, .babble, .descErr, .cancelled]

/-- One byte of a table of codes. -/
def pCode {α : Type} (table : List α) : Parser α := do
  let b ← pByte
  pSome (decodeCode table b)

def pNum : Parser (Fin 16) := do
  let b ← pByte
  pSome (numOfByte b)

def pEp : Parser EpRef := do
  let b ← pByte
  pSome (epOfByte b)

def pSeven : Parser (BitVec 7) := do
  let b ← pByte
  pSome (sevenOfByte b)

/-- `epref or chref`: a tag byte, then the reference. -/
def pXRef : Parser XRef := do
  let isCh ← pCode boolCodes
  if isCh then do
    let c ← pNum
    return .ch c
  else do
    let e ← pEp
    return .ep e

/-- The channel parameters of R350. -/
def pHcParams : Parser HcParams := do
  let devAddr ← pSeven
  let e ← pEp
  let epType ← pCode typeCodes
  let mps ← pHalf
  let speed ← pCode speedCodes
  let doSplit ← pCode boolCodes
  let hubAddr ← pSeven
  let portAddr ← pSeven
  let interval ← pByte
  let multi ← pByte
  let pid ← pCode pidCodes
  let t : HcParams := ⟨devAddr, e.num, e.dir, epType, mps.setWidth 11, speed, doSplit, hubAddr, portAddr, interval,
    multi.setWidth 2, pid⟩
  pSome (if decide (mps.toNat ≤ 1024) && decide (multi.toNat ≤ 3) && t.wf then some t else none)

/-- The operand `target`: a tag byte, then the endpoint or the channel parameters. -/
def pTarget : Parser Target := do
  let isPipe ← pCode boolCodes
  if isPipe then do
    let t ← pHcParams
    return .pipe t
  else do
    let e ← pEp
    return .ep e

/-- The configuration parameters of R10; a byte for `burst` that does not fit in 4 bits is refused (DESIGN CHOICE, log entry 2). -/
def pInitParams : Parser InitParams := do
  let dmaMode ← pCode dmaCodes
  let phyType ← pCode phyCodes
  let w16 ← pCode boolCodes
  let full ← pCode boolCodes
  let burst ← pNum
  let rx ← pWord
  let np ← pWord
  let epTx ← pWords 15
  let hp ← pWord
  let ded ← pCode boolCodes
  let otg ← pCode otgCodes
  return ⟨dmaMode, phyType, w16, full, BitVec.ofFin burst, rx, np, epTx, hp, ded, otg⟩

/-- The 7 bytes of R168. -/
def pEpd : Parser Epd := do
  let b0 ← pByte
  let b1 ← pByte
  let b2 ← pByte
  let b3 ← pByte
  let w ← pHalf
  let b6 ← pByte
  return ⟨b0, b1, b2, b3, w, b6⟩

/-- The callback identity with its context. -/
def pCbId : Parser CbId := do
  let id ← pWord
  let ctx ← pWord
  return ⟨id, ctx⟩

/-- The operands of one operation code (R143). -/
def pOperands (op : Byte) : Parser Instr :=
  match op.toNat with
  | 0x01 => do
    let base ← pWord
    let p ← pInitParams
    return .coreInit base p
  | 0x02 => return .coreDeinit
  | 0x03 => return .coreReset
  | 0x04 => do
    let num ← pByte
    return .flushTxFifo num
  | 0x05 => return .flushRxFifo
  | 0x06 => return .enableGint
  | 0x07 => return .disableGint
  | 0x08 => do
    let off ← pWord
    return .regRead off
  | 0x09 => do
    let off ← pWord
    let v ← pWord
    return .regWrite off v
  | 0x0A => do
    let off ← pWord
    let clear ← pWord
    let set ← pWord
    return .regModify off clear set
  | 0x10 => return .poolAlloc
  | 0x11 => do
    let h ← pHalf
    return .poolFree h
  | 0x12 => do
    let t ← pTarget
    let buf ← pWord
    let len ← pWord
    let z ← pCode boolCodes
    let cb ← pCbId
    return .submit t buf len z cb
  | 0x13 => do
    let h ← pHalf
    return .cancel h
  | 0x14 => do
    let x ← pXRef
    let h ← pHalf
    return .startTransfer x h
  | 0x15 => do
    let x ← pXRef
    return .continueTransfer x
  | 0x16 => do
    let d ← pEpd
    return .enableEndpoint d
  | 0x17 => do
    let e ← pEp
    return .disableEndpoint e
  | 0x20 => do
    let c ← pNum
    let r ← pCode haltCodes
    return .halt c r
  | 0x30 => do
    let t ← pTarget
    let b0 ← pWord
    let b1 ← pWord
    let len ← pHalf
    let per ← pHalf
    let cb ← pCbId
    return .isoStart t b0 b1 len per cb
  | 0x31 => do
    let x ← pXRef
    return .isoStop x
  | 0x38 => return .isr
  | _ => fun _ => .error (.unknownOp op)

/-- A command: the operation code, then its operands (R142). -/
def pCommand : Parser Instr := do
  let op ← pByte
  pOperands op

/-- Priority orders of R473: the named bits in their order; every other bit follows upward. -/
def topOrder : List Nat := [28, 29, 2, 12, 13, 11, 31, 4, 14, 19, 18, 25, 5, 26]
def otgOrder : List Nat := [2, 9]
def inOrder : List Nat := [2, 1, 0, 3, 9, 7]
def outOrder : List Nat := [2, 12, 8, 1, 0, 3, 9]
def chOrder : List Nat := [2, 8, 3, 7, 11, 0, 6, 5, 4, 1]

/-- All 32 bits, in ascending order. -/
def allBits : List (Fin 32) := List.finRange 32

/-- The first bit of the order that is 1 in `w`, then every other bit upward (R473). -/
def firstEvent (order : List Nat) (w : Word) : Option (Fin 32) :=
  match order.find? (fun k => w.getLsbD k) with
  | some k => if h : k < 32 then some ⟨k, h⟩ else none
  | none => allBits.find? (fun k => w.getLsbD k.val)

/-- The top-level event of a GINTSTS bit (R151). -/
def topEvent (k : Fin 32) : Instr :=
  match k.val with
  | 2 => .topOtgint | 4 => .topRxflvl | 5 => .topNptxfemp | 11 => .topUsbsusp | 12 => .topUsbrst
  | 13 => .topEnumdone | 14 => .topIsooutdrop | 18 => .topIepint | 19 => .topOepint | 25 => .topHchint
  | 26 => .topPtxfemp | 28 => .topConidstschng | 29 => .topDisconnint | 31 => .topWkupint
  | _ => .topUnassigned k

/-- The OTG event of a GOTGINT bit (R152). -/
def otgEvent (k : Fin 32) : Instr :=
  match k.val with
  | 2 => .otgSesenddet | 8 => .otgSesreqsucstschng | 9 => .otgHstnegsucstschng
  | _ => .otgUnassigned k

/-- The event of a DIEPINT[n] bit (R153). -/
def inEvent (n : Fin 16) (k : Fin 32) : Instr :=
  match k.val with
  | 0 => .inXfercompl n | 1 => .inEpdisbld n | 2 => .inAhberr n | 3 => .inTimeout n | 7 => .inTxfemp n
  | 9 => .inBna n
  | _ => .inUnassigned n k

/-- The event of a DOEPINT[n] bit (R153). -/
def outEvent (n : Fin 16) (k : Fin 32) : Instr :=
  match k.val with
  | 0 => .outXfercompl n | 1 => .outEpdisbld n | 2 => .outAhberr n | 3 => .outSetup n | 8 => .outOutpkterr n
  | 9 => .outBna n | 12 => .outBbleerr n
  | _ => .outUnassigned n k

/-- The event of an HCINT[c] bit (R154). -/
def chEvent (c : Fin 16) (k : Fin 32) : Instr :=
  match k.val with
  | 0 => .chXfercompl c | 1 => .chChhltd c | 2 => .chAhberr c | 3 => .chStall c | 4 => .chNak c | 5 => .chAck c
  | 6 => .chNyet c | 7 => .chXacterr c | 8 => .chBblerr c | 11 => .chBna c
  | _ => .chUnassigned c k

/-- The event an event word stands for at its port, highest priority first (R150, R473). Bit 0 of GINTSTS is CURMOD and
no event. -/
def decodeEvent : Port → Word → Option Instr
  | .gintsts, w => (firstEvent topOrder (w &&& 0xFFFFFFFE)).map topEvent
  | .gotgint, w => (firstEvent otgOrder w).map otgEvent
  | .diepint n, w => (firstEvent inOrder w).map (inEvent n)
  | .doepint n, w => (firstEvent outOrder w).map (outEvent n)
  | .hcint c, w => (firstEvent chOrder w).map (chEvent c)
  | .cmd, _ | .setup, _ | .rxsDevice, _ | .rxsHost, _ => none

/-- The operand fields of an Rx status entry (R155): NUM 3:0, BCNT 14:4, DPID 16:15. -/
def rxEntryOf (w : Word) : RxEntry :=
  ⟨(w.extractLsb' 0 4).toFin, w.extractLsb' 4 11, w.extractLsb' 15 2⟩

/-- PKTSTS of an Rx status entry (R31). -/
def pktSts (w : Word) : Nat := (w.extractLsb' 17 4).toNat

/-- Device-mode Rx status entries (R31); other codes have no row. -/
def decodeRxDevice (w : Word) : Option Instr :=
  match pktSts w with
  | 2 => some (.rxsOutData (rxEntryOf w))
  | 3 => some (.rxsOutComplete (rxEntryOf w))
  | 4 => some (.rxsSetupComplete (rxEntryOf w))
  | 6 => some (.rxsSetupData (rxEntryOf w))
  | _ => none

/-- Host-mode Rx status entries (R31); other codes have no row. -/
def decodeRxHost (w : Word) : Option Instr :=
  match pktSts w with
  | 2 => some (.rxsInData (rxEntryOf w))
  | 3 => some (.rxsInComplete (rxEntryOf w))
  | 7 => some (.rxsChannelHalted (rxEntryOf w))
  | _ => none

/-- The fields of a SETUP packet of TYPE 0 (R165): DIR is bit 7 of bmRequestType, RECIP its bits 4:0. -/
def SetupPkt.fields (p : SetupPkt) : SetupFields :=
  ⟨if p.bmRequestType.getLsbD 7 then .IN else .OUT, p.bmRequestType.extractLsb' 0 5, p.wValue, p.wIndex, p.wLength⟩

/-- The row a SETUP packet selects (R166, R306). -/
def decodeSetup (p : SetupPkt) : Instr :=
  if p.bmRequestType &&& 0x60#8 = 0#8 then
    match p.bRequest.toNat with
    | 0x00 => .getStatus p.fields
    | 0x01 => .clearFeature p.fields
    | 0x03 => .setFeature p.fields
    | 0x05 => .setAddress p.fields
    | 0x06 => .getDescriptor p.fields
    | 0x09 => .setConfiguration p.fields
    | 0x0B => .setInterface p.fields
    | _ => .delegatedRequest p
  else .delegatedRequest p

/-- The 8 bytes of a SETUP packet (R165). -/
def pSetup : Parser SetupPkt := do
  let b0 ← pByte
  let b1 ← pByte
  let v ← pHalf
  let i ← pHalf
  let l ← pHalf
  return ⟨b0, b1, v, i, l⟩

/-- An event word. -/
def pEvent (p : Port) : Parser Instr := do
  let w ← pWord
  match decodeEvent p w with
  | some i => return i
  | none => fun _ => .error .noEvent

/-- An Rx status entry of the mode whose rows `f` decodes. -/
def pRxEntry (f : Word → Option Instr) : Parser Instr := do
  let w ← pWord
  match f w with
  | some i => return i
  | none => fun _ => .error (.reservedEntry (pktSts w))

/-- The parser of a port. -/
def pPort : Port → Parser Instr
  | .cmd => pCommand
  | .setup => do
    let p ← pSetup
    return decodeSetup p
  | .rxsDevice => pRxEntry decodeRxDevice
  | .rxsHost => pRxEntry decodeRxHost
  | .gintsts => pEvent .gintsts
  | .gotgint => pEvent .gotgint
  | .diepint n => pEvent (.diepint n)
  | .doepint n => pEvent (.doepint n)
  | .hcint c => pEvent (.hcint c)

/-- The decoder: the instruction that stands at the head of the bytes of a port, and the bytes after it. -/
def decode (p : Port) (bs : List Byte) : Except DecodeError (Instr × List Byte) := pPort p bs

/-! The words of the host's table interface. -/

/-- Whether exactly one bit is set. -/
def oneBit (w : Nat) : Bool := decide (w ≠ 0) && decide (w &&& (w - 1) = 0)

/-- The ports whose named bits an event word of one bit may belong to, in the order of the opcode table; a bit that no
row names belongs to GINTSTS. -/
def eventPort (w : Word) : Port :=
  if decide (w &&& 0xFFFFFFFE &&& ~~~topUnassignedMask ≠ 0) then .gintsts
  else if decide (w &&& ~~~otgUnassignedMask ≠ 0) then .gotgint
  else if decide (w &&& ~~~inUnassignedMask ≠ 0) then .diepint 0
  else if decide (w &&& ~~~outUnassignedMask ≠ 0) then .doepint 0
  else if decide (w &&& ~~~chUnassignedMask ≠ 0) then .hcint 0
  else .gintsts

/-- The port of a table word: the width and the bits tell commands (8 bits, R142), SETUP packets (64 bits, or a
request code in 16), Rx status entries and event words (32 bits, R140) apart; where several rows share a word the first
row of the table is taken (log entry 3). -/
def tablePort (nbits w : Nat) : Port :=
  if nbits ≤ 8 then
    (if w = 0x40 ∨ w = 0x80 then eventPort (BitVec.ofNat 32 w) else .cmd)
  else if nbits ≤ 16 then
    (if [0x0000, 0x0100, 0x0300, 0x0500, 0x0600, 0x0900, 0x0B00].contains (w &&& 0xFF60) then .setup
     else eventPort (BitVec.ofNat 32 w))
  else if nbits ≤ 32 then
    (if oneBit w then eventPort (BitVec.ofNat 32 w)
     else if (decodeRxDevice (BitVec.ofNat 32 w)).isSome then .rxsDevice
     else if (decodeRxHost (BitVec.ofNat 32 w)).isSome then .rxsHost
     else eventPort (BitVec.ofNat 32 w))
  else .setup

/-- The low `n` bytes of a number, lowest first. -/
def bytesOfNat : Nat → Nat → List Byte
  | 0, _ => []
  | n + 1, w => BitVec.ofNat 8 w :: bytesOfNat n (w / 256)

/-- The longest instruction: CORE_INIT with its operands. -/
def maxInstrBytes : Nat := 84

/-- The bytes of a table word as a port delivers them: padded with zeros to the longest instruction for a command, to
the format's length elsewhere (R140). -/
def tableBytes (nbits w : Nat) : List Byte :=
  match tablePort nbits w with
  | .cmd => bytesOfNat maxInstrBytes (w % 2 ^ nbits)
  | .setup => bytesOfNat 8 (w % 2 ^ nbits)
  | .gintsts | .gotgint | .diepint _ | .doepint _ | .hcint _ | .rxsDevice | .rxsHost =>
    bytesOfNat 4 (w % 2 ^ nbits)

/-- What the decoder reads from the instruction whose bits are `w`. -/
def decodeTableWord (nbits w : Nat) : Option Instr :=
  match decode (tablePort nbits w) (tableBytes nbits w) with
  | .ok (i, _) => some i
  | .error _ => none

/-! The encoder. -/

def encHalf (h : BitVec 16) : List Byte := [h.extractLsb' 0 8, h.extractLsb' 8 8]
def encWord (w : Word) : List Byte := encHalf (w.extractLsb' 0 16) ++ encHalf (w.extractLsb' 16 16)

def encWords : List Word → List Byte
  | [] => []
  | w :: ws => encWord w ++ encWords ws

def encBool (b : Bool) : Byte := if b then 1 else 0

def encType : XferType → Byte
  | .control => 0 | .isochronous => 1 | .bulk => 2 | .interrupt => 3

def encSpeed : Speed → Byte
  | .high => 0 | .full => 1 | .low => 2

def encPid : Option Pid → Byte
  | none => 0 | some .data0 => 1 | some .data1 => 2 | some .data2 => 3 | some .mdata => 4 | some .setup => 5

def encDma : DmaMode → Byte
  | .slave => 0 | .bufferDma => 1 | .descDma => 2

def encPhy : PhyType → Byte
  | .utmi => 0 | .ulpi => 1 | .fsSerial => 2

def encOtg : OtgCap → Byte
  | .hnpSrp => 0 | .srpOnly => 1 | .none => 2

/-- The code of a halt reason (R352). -/
def encHalt : HaltReason → Byte
  | .nak => 1 | .ack => 2 | .xactErr => 3 | .stall => 4 | .ahbErr => 5 | .babble => 6 | .descErr => 7 | .cancelled => 8

def encNum (n : Fin 16) : Byte := BitVec.ofNat 8 n.val

def encEp (e : EpRef) : Byte :=
  match e.dir with
  | .OUT => BitVec.ofNat 8 e.num.val
  | .IN => BitVec.ofNat 8 (128 + e.num.val)

def encXRef : XRef → List Byte
  | .ep e => [0, encEp e]
  | .ch c => [1, encNum c]

def encHcParams (t : HcParams) : List Byte :=
  [t.devAddr.setWidth 8, encEp ⟨t.epNum, t.epDir⟩, encType t.epType] ++ encHalf (t.mps.setWidth 16) ++
  [encSpeed t.speed, encBool t.doSplit, t.hubAddr.setWidth 8, t.portAddr.setWidth 8, t.interval,
   t.multiCount.setWidth 8, encPid t.pid]

def encTarget : Target → List Byte
  | .ep e => [0, encEp e]
  | .pipe t => 1 :: encHcParams t

def encInitParams (p : InitParams) : List Byte :=
  [encDma p.dmaMode, encPhy p.phyType, encBool p.phyWidth16, encBool p.fullSpeed, encNum p.burst.toFin] ++
  encWord p.rxFifo ++ encWord p.nptxFifo ++ encWords p.epTx ++ encWord p.hptxFifo ++
  [encBool p.dedicatedFifo, encOtg p.otgCap]

def encEpd (d : Epd) : List Byte :=
  [d.bLength, d.bDescriptorType, d.bEndpointAddress, d.bmAttributes] ++ encHalf d.wMaxPacketSize ++ [d.bInterval]

def encCbId (c : CbId) : List Byte := encWord c.id ++ encWord c.ctx

/-- An event word with one bit set. -/
def encBit (k : Nat) : List Byte := encWord (1#32 <<< k)

/-- A SETUP packet as its 8 bytes (R165). -/
def encSetupPkt (p : SetupPkt) : List Byte :=
  [p.bmRequestType, p.bRequest] ++ encHalf p.wValue ++ encHalf p.wIndex ++ encHalf p.wLength

/-- The packet of a named SETUP row: TYPE 0 and the row's request code. -/
def SetupFields.packet (code : Byte) (f : SetupFields) : SetupPkt :=
  ⟨(match f.dir with | .IN => 0x80#8 | .OUT => 0#8) ||| f.recip.setWidth 8, code, f.wValue, f.wIndex, f.wLength⟩

/-- An Rx status entry word with its PKTSTS code (R31). -/
def encRxEntry (code : BitVec 4) (e : RxEntry) : List Byte :=
  encWord ((code ++ e.dpid ++ e.bcnt ++ (BitVec.ofFin e.num : BitVec 4)).setWidth 32)

/-- The port an instruction belongs to. -/
def portOf : Instr → Port
  | .coreInit _ _ | .coreDeinit | .coreReset | .flushTxFifo _ | .flushRxFifo | .enableGint | .disableGint | .regRead _
  | .regWrite _ _ | .regModify _ _ _ | .poolAlloc | .poolFree _ | .submit _ _ _ _ _ | .cancel _ | .startTransfer _ _
  | .continueTransfer _ | .enableEndpoint _ | .disableEndpoint _ | .halt _ _ | .isoStart _ _ _ _ _ _ | .isoStop _
  | .isr => .cmd
  | .topOtgint | .topRxflvl | .topNptxfemp | .topUsbsusp | .topUsbrst | .topEnumdone | .topIsooutdrop
  | .topIepint | .topOepint | .topHchint | .topPtxfemp | .topConidstschng | .topDisconnint | .topWkupint
  | .topUnassigned _ => .gintsts
  | .otgSesenddet | .otgSesreqsucstschng | .otgHstnegsucstschng | .otgUnassigned _ => .gotgint
  | .inXfercompl n | .inEpdisbld n | .inAhberr n | .inTimeout n | .inTxfemp n | .inBna n
  | .inUnassigned n _ => .diepint n
  | .outXfercompl n | .outEpdisbld n | .outAhberr n | .outSetup n | .outOutpkterr n | .outBna n | .outBbleerr n
  | .outUnassigned n _ => .doepint n
  | .chXfercompl c | .chChhltd c | .chAhberr c | .chStall c | .chNak c | .chAck c | .chNyet c | .chXacterr c
  | .chBblerr c | .chBna c | .chUnassigned c _ => .hcint c
  | .getStatus _ | .clearFeature _ | .setFeature _ | .setAddress _ | .getDescriptor _ | .setConfiguration _
  | .setInterface _ | .delegatedRequest _ => .setup
  | .rxsOutData _ | .rxsOutComplete _ | .rxsSetupComplete _ | .rxsSetupData _ => .rxsDevice
  | .rxsInData _ | .rxsInComplete _ | .rxsChannelHalted _ => .rxsHost

/-- The bytes of an instruction. -/
def encode : Instr → List Byte
  | .coreInit base p => 0x01 :: encWord base ++ encInitParams p
  | .coreDeinit => [0x02]
  | .coreReset => [0x03]
  | .flushTxFifo num => [0x04, num]
  | .flushRxFifo => [0x05]
  | .enableGint => [0x06]
  | .disableGint => [0x07]
  | .regRead off => 0x08 :: encWord off
  | .regWrite off v => 0x09 :: encWord off ++ encWord v
  | .regModify off clear set => 0x0A :: encWord off ++ encWord clear ++ encWord set
  | .poolAlloc => [0x10]
  | .poolFree h => 0x11 :: encHalf h
  | .submit t buf len z cb => 0x12 :: encTarget t ++ encWord buf ++ encWord len ++ encBool z :: encCbId cb
  | .cancel h => 0x13 :: encHalf h
  | .startTransfer x h => 0x14 :: encXRef x ++ encHalf h
  | .continueTransfer x => 0x15 :: encXRef x
  | .enableEndpoint d => 0x16 :: encEpd d
  | .disableEndpoint e => [0x17, encEp e]
  | .halt c r => [0x20, encNum c, encHalt r]
  | .isoStart t b0 b1 len per cb =>
    0x30 :: encTarget t ++ encWord b0 ++ encWord b1 ++ encHalf len ++ encHalf per ++ encCbId cb
  | .isoStop x => 0x31 :: encXRef x
  | .isr => [0x38]
  | .topOtgint => encBit 2
  | .topRxflvl => encBit 4
  | .topNptxfemp => encBit 5
  | .topUsbsusp => encBit 11
  | .topUsbrst => encBit 12
  | .topEnumdone => encBit 13
  | .topIsooutdrop => encBit 14
  | .topIepint => encBit 18
  | .topOepint => encBit 19
  | .topHchint => encBit 25
  | .topPtxfemp => encBit 26
  | .topConidstschng => encBit 28
  | .topDisconnint => encBit 29
  | .topWkupint => encBit 31
  | .topUnassigned k => encBit k.val
  | .otgSesenddet => encBit 2
  | .otgSesreqsucstschng => encBit 8
  | .otgHstnegsucstschng => encBit 9
  | .otgUnassigned k => encBit k.val
  | .inXfercompl _ => encBit 0
  | .inEpdisbld _ => encBit 1
  | .inAhberr _ => encBit 2
  | .inTimeout _ => encBit 3
  | .inTxfemp _ => encBit 7
  | .inBna _ => encBit 9
  | .inUnassigned _ k => encBit k.val
  | .outXfercompl _ => encBit 0
  | .outEpdisbld _ => encBit 1
  | .outAhberr _ => encBit 2
  | .outSetup _ => encBit 3
  | .outOutpkterr _ => encBit 8
  | .outBna _ => encBit 9
  | .outBbleerr _ => encBit 12
  | .outUnassigned _ k => encBit k.val
  | .chXfercompl _ => encBit 0
  | .chChhltd _ => encBit 1
  | .chAhberr _ => encBit 2
  | .chStall _ => encBit 3
  | .chNak _ => encBit 4
  | .chAck _ => encBit 5
  | .chNyet _ => encBit 6
  | .chXacterr _ => encBit 7
  | .chBblerr _ => encBit 8
  | .chBna _ => encBit 11
  | .chUnassigned _ k => encBit k.val
  | .getStatus f => encSetupPkt (f.packet 0x00)
  | .clearFeature f => encSetupPkt (f.packet 0x01)
  | .setFeature f => encSetupPkt (f.packet 0x03)
  | .setAddress f => encSetupPkt (f.packet 0x05)
  | .getDescriptor f => encSetupPkt (f.packet 0x06)
  | .setConfiguration f => encSetupPkt (f.packet 0x09)
  | .setInterface f => encSetupPkt (f.packet 0x0B)
  | .delegatedRequest p => encSetupPkt p
  | .rxsOutData e => encRxEntry 2 e
  | .rxsOutComplete e => encRxEntry 3 e
  | .rxsSetupComplete e => encRxEntry 4 e
  | .rxsSetupData e => encRxEntry 6 e
  | .rxsInData e => encRxEntry 2 e
  | .rxsInComplete e => encRxEntry 3 e
  | .rxsChannelHalted e => encRxEntry 7 e

end Sys2Proof
end

