-- ==== Sys2Proof/Machine/State.lean ====
section
/-! DEFINITION. The state of the machine as plain data (R20): the register file, the FIFO RAM, system memory, the
records of the sequencer, the hidden state of the hardware, and the plain-data scripts that stand for the agents LINK, DMA
and UPPER (R8). -/

namespace Sys2Proof.Machine

open Sys2Proof

/-- Names of the model's assertions and fatal waits, one per asserting rule (R458). -/
inductive Assertion where
  /-- R246: `start_transfer` with a transfer already active, or on a target that is not idle (U1). -/
  | transferActive
  /-- R246: the handle of `start_transfer` is not a pending request of its target. -/
  | badRequest
  /-- R487: an interrupt bit that has no handler (U18). -/
  | unhandledBit
  /-- R544: a command from a context its row does not allow (U2). -/
  | context
  /-- R241: freeing a slot that is free, active or queued. -/
  | poolFree
  /-- R410: an engine start while an engine is started. -/
  | engineStart
  /-- R272: completing a request on a target that has none. -/
  | noActive
  /-- R317: a `class_request` answer longer than the reply buffer. -/
  | replyCapacity
  deriving DecidableEq, Repr

/-- Why the machine stops in a fault. -/
inductive Fault where
  /-- A register access the register file refuses: unmapped, out of range or of the other mode's group (R24, R459, U3).
  Raised by `regRead` and `regWrite`. Safe: the hardware's behaviour is not stated. -/
  | accessFault (off : Nat)
  /-- An assertion of a debug build failed (R458). Raised only when `debug` is set. Safe: the spec stops there. -/
  | assertion (a : Assertion)
  /-- The bounded wait for the mode bit was exhausted: fatal with and without `debug` (R458 (3), R402, R410). Raised by
  the role switch and the engine starts. Safe: the spec stops there. -/
  | modeWait
  /-- `start_transfer` without `debug` on a target with an active request, or with one whose start waits for a confirmation (log
  entry 39): no successor state (U1, R543). Safe: the spec gives none. -/
  | stuckTransferActive
  /-- The sequencer writes a descriptor that DMA owns, HostReady or DmaBusy while its owner is enabled: no successor state
  (R117, U7). Raised by `memWrite32`. Safe: the spec gives none. -/
  | stuckOwnedDescriptor
  /-- Descriptor-DMA programming of a target for which the platform provides no descriptor array, a precondition of
  R530 (2). Raised by the chain builders. Safe: outside the spec's domain. -/
  | noDescriptorArray
  deriving DecidableEq, Repr

/-- Why an instruction has no step. -/
inductive Refusal where
  /-- No meaning is modelled for the instruction. Safe. -/
  | notModelled (mnemonic : String)
  /-- Bytes placed at a port that is not the command port, which the decoder refuses. Raised by `step`. Safe: no rule
  delivers such bytes. -/
  | badStimulus
  deriving DecidableEq, Repr

/-- How a procedure ends without a result: a fault, a refusal, or an interrupt handler run inside it that has handled as
many events as the step's bound allows; the step is then taken again with a larger bound (`Machine.again`, log entry 16). -/
inductive Stop where
  | fault (f : Fault)
  | refusal (r : Refusal)
  | unfinished
  deriving DecidableEq, Repr

/-- Status codes (R450); `Status.code` numbers them. -/
inductive Status where
  | ok | pending | cancelled | timeout | stalled
  | ahbError | babble | overflow | xactError | descriptorError | bufferError
  | badCommand | badParam | badHandle | notFunctional | notEnabled | alreadyEnabled | busy | noFreeChannel
  | noFreeIoBlock | noFifo | configError | initTimeoutAhbIdle | initTimeoutSoftReset | initTimeoutFlush | flushTimeout
  deriving DecidableEq, Repr

/-- What a command returns (R143): nothing, a status, a word, a pool handle, a channel number or a truth value. Nothing is the
answer of a command whose cell of R143 is blank, as the programs show it, where R142 and R450 let every command return a status
(DESIGN CHOICE, log entry 44). -/
inductive Result where
  | unit
  | status (s : Status)
  | value (w : Word)
  | handle (h : Nat)
  | channel (c : Nat)
  | flag (b : Bool)
  deriving DecidableEq, Repr

/-- The registers of R22. -/
inductive Reg where
  | GOTGCTL | GOTGINT | GAHBCFG | GUSBCFG | GRSTCTL | GINTSTS | GINTMSK | GRXSTSR | GRXSTSP | GRXFSIZ | GNPTXFSIZ
  | GNPTXSTS | GHWCFG2 | GHWCFG3 | GHWCFG4 | HPTXFSIZ | DIEPTXF (n : Fin 16)
  | HCFG | HFNUM | HPTXSTS | HAINT | HAINTMSK
  | HCCHAR (c : Fin 16) | HCSPLT (c : Fin 16) | HCINT (c : Fin 16) | HCINTMSK (c : Fin 16) | HCTSIZ (c : Fin 16)
  | HCDMA (c : Fin 16)
  | DCFG | DSTS | DIEPMSK | DOEPMSK | DAINT | DAINTMSK | DIEPEMPMSK
  | DIEPCTL (n : Fin 16) | DIEPINT (n : Fin 16) | DIEPTSIZ (n : Fin 16) | DIEPDMA (n : Fin 16) | DTXFSTS (n : Fin 16)
  | DOEPCTL (n : Fin 16) | DOEPINT (n : Fin 16) | DOEPTSIZ (n : Fin 16) | DOEPDMA (n : Fin 16)
  | PCGCCTL | FIFO (n : Fin 16)
  deriving DecidableEq, Repr

/-- A sparse map in canonical form: keys strictly rising, no entry equal to the default. -/
abbrev SMap (β : Type) := List (Nat × β)

/-- What DMA architecture the hardware has (R9). -/
inductive CapDma where
  | none | buffer | bufferAndDescriptor
  deriving DecidableEq, Repr

/-- The capability parameters of R9, as the hardware has them and as `core.caps` caches them. -/
structure Caps where
  fifoDepth : Nat
  nEp : Nat
  nCh : Nat
  utmi : Bool
  ulpi : Bool
  fsSerial : Bool
  xw : Nat
  pw : Nat
  capDma : CapDma
  dedFifo : Bool
  deriving DecidableEq, Repr

/-- The parameters of the machine (R9, R11, R13): read by the rules, written by none. `reqDepth` is the number of entries
of each hardware request queue (R70). -/
structure HwParams where
  caps : Caps
  ep0Xw : Nat
  ep0Pw : Nat
  resetPollLimit : Nat
  flushPollLimit : Nat
  modeWaitLimit : Nat
  poolCap : Nat
  maxDesc : Nat
  errLimit : Nat
  debug : Bool
  reqDepth : Nat
  deriving DecidableEq, Repr

/-- An answer of UPPER to `class_request` (R14): `value n` with the `n` bytes put into the reply buffer, or `stall`. -/
inductive ClassAnswer where
  | stall
  | value (bytes : List Byte)
  deriving DecidableEq, Repr

/-- The platform's parameter functions as tables (R14); `holes` are the ranges of memory, each a first address and a length, that
the platform does not let DMA reach (R109). -/
structure Platform where
  descTable : List ((Byte × Byte × BitVec 16) × List Byte)
  configs : List (Byte × List Epd)
  ifaces : List ((BitVec 16 × BitVec 16) × List Epd)
  selfPowered : Bool
  descArrays : List ((XRef × Bool) × Word)
  answers : List ClassAnswer
  holes : List (Word × Nat)
  deriving DecidableEq, Repr

/-- The on-chip FIFO RAM as its queues (R71, R31, R55) and the hardware's request queues (R70). `tx 0` is the
non-periodic Tx FIFO. `inHand` are the channels whose requests LINK has taken from its queues and not performed yet, a channel once for each request
(R255, R361). -/
structure Fifo where
  tx : Vector (List Word) 16
  ptx : List Word
  rxStatus : List Word
  rxData : List Word
  npReq : List (Fin 16)
  pReq : List (Fin 16)
  inHand : List (Fin 16)
  deriving DecidableEq, Repr

/-- OTG role states (R400). -/
inductive OpState where
  | aHost | aPeripheral | aSuspend | bPeripheral | bHost
  deriving DecidableEq, Repr

/-- The FIFO partition table (R60): start and depth of each FIFO in words. -/
structure FifoTable where
  rx : Nat × Nat
  nptx : Nat × Nat
  hptx : Nat × Nat
  epTx : Vector (Nat × Nat) 16
  deriving DecidableEq, Repr

/-- The ControllerCore record (R60). -/
structure CoreRec where
  base : Word
  caps : Caps
  dmaMode : DmaMode
  opState : OpState
  fifo : FifoTable
  functional : Bool
  cfgError : Bool
  params : InitParams
  deviceEngine : Bool
  hostEngine : Bool
  deriving DecidableEq, Repr

/-- Which request is active: a pool slot, or EP0's own request record (R66). -/
inductive ReqId where
  | pool (h : Nat)
  | ep0
  deriving DecidableEq, Repr

/-- The transfer bookkeeping that endpoints and channels share (R61, R62, R68). -/
structure Xfer where
  active : Option ReqId
  queue : List Nat
  desc : Option Word
  chunkLen : Nat
  chunkDone : Nat
  zlpPhase : Bool
  deriving DecidableEq, Repr

/-- Transfer states of an endpoint (R61). -/
inductive EpState where
  | idle | active | haltedPendingDisable | stalled
  deriving DecidableEq, Repr

/-- An Endpoint record (R61); its number and direction are its place in the table. -/
structure EpRec where
  type : XferType
  mps : Nat
  txFifo : Fin 16
  state : EpState
  enabled : Bool
  multiCount : Nat
  interval : Nat
  pendingStatus : Status
  pendingAll : Bool
  /-- The model's own: EPDIS has been written by an abort (R284) or a stall (R287), and EPDISBLD has not come yet (R550, log
  entry 39). -/
  disabling : Bool
  /-- The model's own: the active request has been started between EPDIS and EPDISBLD, and its first chunk is programmed at
  EPDISBLD (R246, R550, log entry 39). -/
  waits : Bool
  /-- The model's own: an isochronous chain is to be armed once EPDISBLD has come and the endpoint is not Stalled (R550, R436,
  log entry 39). -/
  rearm : Bool
  /-- The model's own: the control word that ENABLE_ENDPOINT has given before EPDISBLD came, to be written then (R280, R550, log
  entry 39). -/
  enabling : Option Word
  x : Xfer
  deriving DecidableEq, Repr

/-- Halt status of a channel (R62, R69 (c)). -/
inductive HaltStatus where
  | noHalt | haltPending | halted (r : HaltReason)
  deriving DecidableEq, Repr

/-- What a completion under a pending halt has left for the confirmed halt to do (R550, log entry 39): the next request or the
release, since the request has ended; the next chunk of the request; the other isochronous chain. -/
inductive Ended where
  | request
  | chunk (short : Bool)
  | chain
  deriving DecidableEq, Repr

/-- A HostChannel record (R62); the target's fields are those of `params`, which no rule changes one by one. -/
structure ChRec where
  allocated : Bool
  params : HcParams
  completeSplit : Bool
  xactPos : BitVec 2
  haltStatus : HaltStatus
  haltReason : Option HaltReason
  haltDeferred : Option HaltReason
  errorState : Bool
  errorCount : Nat
  requests : Nat
  dataPid : Pid
  cancelAll : Bool
  /-- The model's own: what a completion under a pending halt has left to do, none without one (R550, log entry 39). -/
  ended : Option Ended
  x : Xfer
  deriving DecidableEq, Repr

/-- A TransferRequest (R63). -/
structure Req where
  buf : Word
  length : Nat
  done : Nat
  zeroFlag : Bool
  cb : Word
  ctx : Word
  status : Status
  owner : Option XRef
  deriving DecidableEq, Repr

/-- EP0 states (R300). -/
inductive Ep0State where
  | disconnected | idle | inData | outData | inStatus | outStatus | stall
  deriving DecidableEq, Repr

/-- The EP0 record (R66); `reply` is the address and `replyCap` the capacity of the reply buffer. -/
structure Ep0Rec where
  state : Ep0State
  setup : SetupPkt
  setupBuf : Word
  reply : Word
  replyCap : Nat
  totalLength : Nat
  address : BitVec 7
  config : Byte
  remoteWakeup : Bool
  request : Req
  deriving DecidableEq, Repr

/-- Status of an isochronous packet slot (R435). -/
inductive SlotStatus where
  | ok | packetDropped | bufferError
  deriving DecidableEq, Repr

/-- Per-packet status, length and offset (R67). -/
structure IsoInfo where
  status : SlotStatus
  length : Nat
  offset : Nat
  deriving DecidableEq, Repr

/-- An isochronous double-buffer record (R67); `procBuf` is `proc_buf_num` (false is 0). -/
structure IsoRec where
  owner : XRef
  buf0 : Word
  buf1 : Word
  chain0 : Word
  chain1 : Word
  procBuf : Bool
  pktPerBuf : Nat
  pktLen : Nat
  nextFrame : BitVec 14
  info0 : List IsoInfo
  info1 : List IsoInfo
  cb : CbId
  deriving DecidableEq, Repr

/-- The two contexts of the sequencer (R470). -/
inductive Ctx where
  | task | isr
  deriving DecidableEq, Repr

/-- The callbacks of R176 with their arguments. -/
inductive Callback where
  | transferComplete (cb : Word) (ctx : Word) (status : Status) (bytes : Nat)
  | classRequest (setup : SetupPkt) (reply : Word)
  | suspend
  | resume
  | busReset
  | disconnect
  | hostRoleStart
  | hostRoleStop
  | deviceRoleStart
  | deviceRoleStop
  | isoBufferReady (cb : CbId) (index : Bool)
  deriving DecidableEq, Repr

/-- The log outputs of R494. -/
inductive LogMsg where
  | hnpPeerUnresponsive | ep0DisableTimeout | flushTimeout
  deriving DecidableEq, Repr

/-- One line of the trace (R178, R120): register and memory accesses of the sequencer, callbacks, returns, logs, the boundaries
of a handler run, packets that LINK moved, and the steps of LINK and DMA: `hw` a register word they changed (`HW` and
`EVT`), `dma` bytes they wrote to memory. -/
inductive TraceEv where
  | rd (off : Nat) (v : Word)
  | wr (off : Nat) (v : Word)
  | mr (a : Nat) (v : Word)
  | mw (a : Nat) (v : Word)
  | cb (c : Callback)
  | ret (r : Result)
  | log (m : LogMsg)
  | isrEnter
  | isrExit
  | busTx (x : XRef) (bytes : List Byte)
  | busRx (x : XRef) (bytes : List Byte)
  | hw (off : Nat) (v : Word)
  | dma (a : Nat) (bytes : List Byte)
  deriving DecidableEq, Repr

/-- What a peer answers to a host transaction that carries no IN data (R361). -/
inductive Handshake where
  | ack | nak | nyet | stall | xactErr | babble | ahbErr
  deriving DecidableEq, Repr

/-- One act of LINK, DMA or the platform between two atomic steps of the sequencer (R8, R474). An act whose condition
does not hold does nothing. In `inToken` and `chHandshake`, `taken` says whether the bytes of a packet that the peer does not
acknowledge are gone (R255) or kept to be sent again (R275); both may happen (log entry 18). `takeRequest` is LINK's taking a
request before it can perform the transaction (R255); `rxReserved` is an Rx status entry of a code that R31 reserves (U20). -/
inductive EnvAct where
  | softResetDone
  | txFlushDone
  | rxFlushDone
  | ahbIdle (b : Bool)
  | curmod (host : Bool)
  | conid (bDevice : Bool)
  | sessions (a : Bool) (b : Bool)
  | hnpOutcome (success : Bool)
  | srpOutcome (success : Bool)
  | raiseTop (k : Fin 32)
  | raiseOtg (k : Fin 32)
  | raiseIn (n : Fin 16) (k : Fin 32)
  | raiseOut (n : Fin 16) (k : Fin 32)
  | raiseCh (c : Fin 16) (k : Fin 32)
  | frameTick
  | frameRemaining (r : BitVec 16)
  | enumSpeed (v : BitVec 2)
  | suspended (b : Bool)
  | endpointDisabled (e : EpRef)
  | channelDisabled (c : Fin 16)
  | inToken (n : Fin 16) (acked taken : Bool)
  | outPacket (n : Fin 16) (dpid : BitVec 2) (bytes : List Byte)
  | setupPacket (n : Fin 16) (p : SetupPkt) (counts : Bool)
  | takeRequest (c : Fin 16) (periodic : Bool)
  | chHandshake (c : Fin 16) (h : Handshake) (taken : Bool)
  | chInData (c : Fin 16) (dpid : BitVec 2) (acked : Bool) (bytes : List Byte)
  | dmaBusy (x : XRef)
  | dmaTx (x : XRef) (error : Bool)
  | dmaRx (x : XRef) (bytes : List Byte) (error : Bool)
  | isoServed (x : XRef) (pid : BitVec 2) (bytes : List Byte)
  | isoMissed (x : XRef) (error : Bool)
  | isoDropStop (n : Fin 16)
  | rxReserved (num : Fin 16) (bcnt : BitVec 11) (dpid : BitVec 2) (code : BitVec 4)
  | memWrite (a : Word) (b : Byte)
  | hold (b : Bool)
  | deliver (r : Reg) (k : Fin 32)
  | busReset
  deriving DecidableEq, Repr

/-- A descriptor that DMA has fetched and not yet written back (R72, R254): its status word, its buffer address and the
bytes it has moved. -/
structure Walk where
  x : XRef
  word : Word
  buf : Word
  moved : Nat
  deriving DecidableEq, Repr

/-- The state of the machine. -/
structure State where
  /-- The parameters of the machine (R9, R11). -/
  hw : HwParams
  /-- The platform's parameter functions (R14). -/
  plat : Platform
  /-- The stored words of the register file by byte offset (R22); an unlisted register holds 0. -/
  regs : SMap Word
  /-- FIFO RAM and request queues (R70, R71). -/
  fifo : Fifo
  /-- The descriptors that DMA is processing, at most one of each endpoint or channel (R72). -/
  engine : List Walk
  /-- System memory, by byte address (R101). -/
  mem : List Host.Cell
  /-- The ControllerCore record (R60). -/
  core : CoreRec
  /-- The IN endpoints (R61). -/
  epIn : Vector EpRec 16
  /-- The OUT endpoints (R61). -/
  epOut : Vector EpRec 16
  /-- The host channels (R62). -/
  ch : Vector ChRec 16
  /-- The Transfer Object Pool; `none` is a free slot (R64). -/
  pool : List (Option Req)
  /-- The EP0 record (R66). -/
  ep0 : Ep0Rec
  /-- The isochronous records (R67). -/
  iso : List IsoRec
  /-- The host data-toggle table: true is DATA1 (R75). -/
  htog : SMap Bool
  /-- The context (R470). -/
  ctx : Ctx
  /-- Whether UPPER's commands run inside a callback (R544, R547). -/
  inCb : Bool
  /-- Whether the sequencer's records exist (R81, R522). -/
  recordsExist : Bool
  /-- The channel served by the last NPTXFEMP event (R264). -/
  rrNp : Option (Fin 16)
  /-- The channel served by the last PTXFEMP event (R264). -/
  rrP : Option (Fin 16)
  /-- What UPPER and the test bench deliver, by port: commands still to be issued. -/
  inbox : List (Port × List Byte)
  /-- The commands UPPER issues from inside each coming callback (R471). -/
  replies : List (List (List Byte))
  /-- What LINK and DMA do before each coming access of the sequencer (R474, U14). -/
  env : List (List EnvAct)
  /-- Whether LINK finishes resets, flushes and the EP0 IN disable before the next access (R204, R216). -/
  prompt : Bool
  /-- Whether LINK keeps back the status bits of its events, to set them one by one in any order (R112 (4), U15). -/
  hold : Bool
  /-- The status bits that LINK still has to set (U15). -/
  owed : List (Reg × Fin 32)
  /-- The draws of the pool allocator (U8). -/
  poolDraws : List Nat
  /-- How many free values have been drawn: the model's own counter. -/
  draws : Nat
  /-- How often a step has been taken again with a larger bound on the handler run inside it: the model's own (log entry
  16). -/
  patience : Nat
  /-- What the last command returned. -/
  result : Result
  /-- The trace, newest first (R178). -/
  trace : List TraceEv
  deriving DecidableEq, Repr

/-! The values of reset. -/

/-- Capabilities at reset: the parameters have no value in the spec; those of the spec's program 1. DESIGN CHOICE, log
entry 5. -/
def resetCaps : Caps :=
  { fifoDepth := 1024, nEp := 4, nCh := 8, utmi := true, ulpi := false, fsSerial := false, xw := 19, pw := 10
    capDma := .bufferAndDescriptor, dedFifo := true }

/-- Parameters of the machine at reset. DESIGN CHOICE, log entry 5. -/
def resetHw : HwParams :=
  { caps := resetCaps, ep0Xw := 19, ep0Pw := 10, resetPollLimit := 4, flushPollLimit := 4, modeWaitLimit := 4
    poolCap := 4, maxDesc := 8, errLimit := 3, debug := false, reqDepth := 8 }

/-- The platform at reset: the spec gives its answers no values (R14). Every table is empty, so there is no descriptor, no
configuration, no alternate setting and no descriptor array, and the device is not self-powered; DMA reaches all of memory. DESIGN
CHOICE, log entry 9. -/
def resetPlatform : Platform :=
  { descTable := [], configs := [], ifaces := [], selfPowered := false, descArrays := [], answers := [], holes := [] }

/-- Empty FIFOs and request queues. -/
def emptyFifo : Fifo :=
  { tx := Vector.replicate 16 [], ptx := [], rxStatus := [], rxData := [], npReq := [], pReq := [], inHand := [] }

/-- The transfer bookkeeping of a fresh endpoint or channel (R81). -/
def blankXfer : Xfer :=
  { active := none, queue := [], desc := none, chunkLen := 0, chunkDone := 0, zlpPhase := false }

/-- A fresh endpoint (R81); the fields the rule does not name are DESIGN CHOICE, log entry 6. -/
def blankEp : EpRec :=
  { type := .control, mps := 64, txFifo := 0, state := .idle, enabled := false, multiCount := 1, interval := 1
    pendingStatus := .ok, pendingAll := false, disabling := false, waits := false
    rearm := false, enabling := none, x := blankXfer }

/-- Channel parameters of a channel that was never allocated. DESIGN CHOICE, log entry 6. -/
def blankHcParams : HcParams :=
  { devAddr := 0, epNum := 0, epDir := .OUT, epType := .control, mps := 64, speed := .high, doSplit := false
    hubAddr := 0, portAddr := 0, interval := 1, multiCount := 1, pid := none }

/-- A fresh channel (R81); the fields the rule does not name are DESIGN CHOICE, log entry 6. -/
def blankCh : ChRec :=
  { allocated := false, params := blankHcParams, completeSplit := false, xactPos := 3, haltStatus := .noHalt
    haltReason := none, haltDeferred := none, errorState := false, errorCount := 0, requests := 0, dataPid := .data0
    cancelAll := false, ended := none, x := blankXfer }

/-- A request whose fields are unset: R240 sets `done` and `status` of a slot it hands out and leaves the others unset; the
model gives them 0, false and no owner (DESIGN CHOICE, log entry 6). -/
def blankReq : Req :=
  { buf := 0, length := 0, done := 0, zeroFlag := false, cb := 0, ctx := 0, status := .pending, owner := none }

/-- A SETUP packet of zeros. -/
def blankSetup : SetupPkt := ⟨0, 0, 0, 0, 0⟩

/-- The EP0 record before `core_init` (R66, R81); the buffers' places are DESIGN CHOICE, log entry 6. -/
def blankEp0 : Ep0Rec :=
  { state := .disconnected, setup := blankSetup, setupBuf := 0x20000F00, reply := 0x20000E00, replyCap := 256
    totalLength := 0, address := 0, config := 0, remoteWakeup := false, request := blankReq }

/-- Init parameters before `core_init`. DESIGN CHOICE, log entry 6. -/
def blankParams : InitParams :=
  { dmaMode := .slave, phyType := .utmi, phyWidth16 := false, fullSpeed := false, burst := 0, rxFifo := 0, nptxFifo := 0
    epTx := List.replicate 15 0, hptxFifo := 0, dedicatedFifo := false, otgCap := .none }

/-- An empty FIFO partition. -/
def blankFifoTable : FifoTable :=
  { rx := (0, 0), nptx := (0, 0), hptx := (0, 0), epTx := Vector.replicate 16 (0, 0) }

/-- The core record before `core_init` (R81); the fields the rule does not name are DESIGN CHOICE, log entry 6. -/
def blankCore : CoreRec :=
  { base := 0, caps := resetCaps, dmaMode := .slave, opState := .bPeripheral, fifo := blankFifoTable
    functional := false, cfgError := false, params := blankParams, deviceEngine := false, hostEngine := false }

/-- The register file at power-on (R80, R521): GRSTCTL.AHBIDLE is 1 and the connector is a B-plug in device mode (draws of
the environment, DESIGN CHOICE, log entry 5); every other stored word is 0, and so are GOTGCTL.SESREQSCS and HSTNEGSCS, for
which R80 and R521 give no value (DESIGN CHOICE, log entry 4). -/
def resetRegs : SMap Word := [(0x000, 0x00010000), (0x010, 0x80000000)]

/-- The machine right after reset. -/
def State.reset : State :=
  { hw := resetHw, plat := resetPlatform, regs := resetRegs, fifo := emptyFifo, engine := [], mem := [], core := blankCore
    epIn := Vector.replicate 16 blankEp, epOut := Vector.replicate 16 blankEp, ch := Vector.replicate 16 blankCh
    pool := [], ep0 := blankEp0, iso := [], htog := [], ctx := .task, inCb := false, recordsExist := false
    rrNp := none, rrP := none, inbox := [], replies := [], env := [], prompt := true, hold := false, owed := []
    poolDraws := [], draws := 0, patience := 0, result := .unit, trace := [] }

end Sys2Proof.Machine
end

