-- ==== Sys2Proof/Machine/Bits.lean ====
section
/-! DEFINITION. Bit fields of words (R15, R141), whole-number helpers (R244), sparse maps in canonical form, and the
places of the registers (R22). -/

namespace Sys2Proof.Machine

open Sys2Proof

/-- `ceil_div(a, b)` (R15). -/
def ceilDiv (a b : Nat) : Nat := (a + b - 1) / b

/-- Bit `k` of a word. -/
def bitOf (w : Word) (k : Nat) : Bool := w.getLsbD k

/-- The field of `len` bits of a word whose lowest bit is `lo`, as a number (R141). -/
def field (w : Word) (lo len : Nat) : Nat := (w.extractLsb' lo len).toNat

/-- A word whose field of `len` bits at `lo` holds `v`, truncated to the field, and whose other bits are 0 (R16, R141). -/
def fld (lo len v : Nat) : Word := (BitVec.ofNat len v).setWidth 32 <<< lo

/-- A word with bit `k` set. -/
def bit1 (k : Nat) : Word := 1#32 <<< k

/-- A word with bit `k` set where the condition holds. -/
def bitIf (c : Bool) (k : Nat) : Word := if c then bit1 k else 0

/-- A truth value as 1 or 0. -/
def natOf (c : Bool) : Nat := if c then 1 else 0

/-- `w` with the bits of `mask` taken from `v`. -/
def mergeBits (w mask v : Word) : Word := (w &&& ~~~mask) ||| (v &&& mask)

/-- `w` with bit `k` set or cleared. -/
def withBit (w : Word) (k : Nat) (b : Bool) : Word := mergeBits w (bit1 k) (bitIf b k)

/-- `w` with the field of `len` bits at `lo` replaced (R141). -/
def withField (w : Word) (lo len v : Nat) : Word := mergeBits w (fld lo len (2 ^ len - 1)) (fld lo len v)

/-- The value of a sparse map at a key; an unlisted key has the default. -/
def SMap.get {β : Type} (d : β) : SMap β → Nat → β
  | [], _ => d
  | (k, v) :: m, a => if k = a then v else SMap.get d m a

/-- Remove every entry of a key. -/
def SMap.erase {β : Type} : SMap β → Nat → SMap β
  | [], _ => []
  | (k, v) :: m, a => if k = a then SMap.erase m a else (k, v) :: SMap.erase m a

/-- Insert an entry before the first greater key. -/
def SMap.insert {β : Type} : SMap β → Nat → β → SMap β
  | [], a, v => [(a, v)]
  | (k, w) :: m, a, v => if a < k then (a, v) :: (k, w) :: m else (k, w) :: SMap.insert m a v

/-- Store a value: the default removes the entry. -/
def SMap.put {β : Type} [DecidableEq β] (d : β) (m : SMap β) (a : Nat) (v : β) : SMap β :=
  if v = d then SMap.erase m a else SMap.insert (SMap.erase m a) a v

/-- Every key of the map is greater than `lo`. -/
def SMap.above {β : Type} (lo : Nat) (m : SMap β) : Bool := m.all (fun p => decide (lo < p.1))

/-- Canonical form: keys strictly rising, no entry equal to the default. -/
def SMap.wf {β : Type} [DecidableEq β] (d : β) : SMap β → Bool
  | [] => true
  | (k, v) :: m => decide (v ≠ d) && SMap.above k m && SMap.wf d m

/-- Place of register `n` of a bank with a stride of 0x20 bytes (R22). -/
def bankOffset (base : Nat) (n : Fin 16) : Nat := base + 0x20 * n.val

/-- The byte offset of a register (R22); a FIFO window is named by its first offset. -/
def Reg.offset : Reg → Nat
  | .GOTGCTL => 0x000 | .GOTGINT => 0x004 | .GAHBCFG => 0x008 | .GUSBCFG => 0x00C | .GRSTCTL => 0x010
  | .GINTSTS => 0x014 | .GINTMSK => 0x018 | .GRXSTSR => 0x01C | .GRXSTSP => 0x020 | .GRXFSIZ => 0x024
  | .GNPTXFSIZ => 0x028 | .GNPTXSTS => 0x02C | .GHWCFG2 => 0x048 | .GHWCFG3 => 0x04C | .GHWCFG4 => 0x050
  | .HPTXFSIZ => 0x100 | .DIEPTXF n => 0x100 + 4 * n.val
  | .HCFG => 0x400 | .HFNUM => 0x408 | .HPTXSTS => 0x410 | .HAINT => 0x414 | .HAINTMSK => 0x418
  | .HCCHAR c => bankOffset 0x500 c | .HCSPLT c => bankOffset 0x504 c | .HCINT c => bankOffset 0x508 c
  | .HCINTMSK c => bankOffset 0x50C c | .HCTSIZ c => bankOffset 0x510 c | .HCDMA c => bankOffset 0x514 c
  | .DCFG => 0x800 | .DSTS => 0x808 | .DIEPMSK => 0x810 | .DOEPMSK => 0x814 | .DAINT => 0x818 | .DAINTMSK => 0x81C
  | .DIEPEMPMSK => 0x834
  | .DIEPCTL n => bankOffset 0x900 n | .DIEPINT n => bankOffset 0x908 n | .DIEPTSIZ n => bankOffset 0x910 n
  | .DIEPDMA n => bankOffset 0x914 n | .DTXFSTS n => bankOffset 0x918 n
  | .DOEPCTL n => bankOffset 0xB00 n | .DOEPINT n => bankOffset 0xB08 n | .DOEPTSIZ n => bankOffset 0xB10 n
  | .DOEPDMA n => bankOffset 0xB14 n
  | .PCGCCTL => 0xE00 | .FIFO n => 0x1000 + 0x1000 * n.val

/-- The registers outside the banks. -/
def plainRegs : List Reg :=
  [.GOTGCTL, .GOTGINT, .GAHBCFG, .GUSBCFG, .GRSTCTL, .GINTSTS, .GINTMSK, .GRXSTSR, .GRXSTSP, .GRXFSIZ, .GNPTXFSIZ,
   .GNPTXSTS, .GHWCFG2, .GHWCFG3, .GHWCFG4, .HPTXFSIZ, .HCFG, .HFNUM, .HPTXSTS, .HAINT, .HAINTMSK, .DCFG, .DSTS,
   .DIEPMSK, .DOEPMSK, .DAINT, .DAINTMSK, .DIEPEMPMSK, .PCGCCTL]

/-- The registers of a bank entry. -/
def bankRegs (n : Fin 16) : List Reg :=
  [.HCCHAR n, .HCSPLT n, .HCINT n, .HCINTMSK n, .HCTSIZ n, .HCDMA n, .DIEPCTL n, .DIEPINT n, .DIEPTSIZ n, .DIEPDMA n,
   .DTXFSTS n, .DOEPCTL n, .DOEPINT n, .DOEPTSIZ n, .DOEPDMA n]

/-- The register at an offset: an aligned offset that R22 maps, any aligned offset of a FIFO window (R55); none where
the access is misaligned or unmapped (R24, R105). -/
def Reg.ofOffset (off : Nat) : Option Reg :=
  if off % 4 ≠ 0 then none
  else if 0x1000 ≤ off then (if h : off / 0x1000 - 1 < 16 then some (.FIFO ⟨off / 0x1000 - 1, h⟩) else none)
  else if h : 0x104 ≤ off ∧ off < 0x140 then some (.DIEPTXF ⟨(off - 0x100) / 4, by omega⟩)
  else match plainRegs.find? (fun r => r.offset == off) with
    | some r => some r
    | none => (bankRegs ⟨(off / 0x20 + 8) % 16, Nat.mod_lt _ (by decide)⟩).find? (fun r => r.offset == off)

/-- Whether a register belongs to the host group, which answers only while CURMOD = 1 (R24). -/
def Reg.isHost : Reg → Bool
  | .HCFG | .HFNUM | .HPTXSTS | .HAINT | .HAINTMSK | .HCCHAR _ | .HCSPLT _ | .HCINT _ | .HCINTMSK _ | .HCTSIZ _
  | .HCDMA _ => true
  | _ => false

/-- Whether a register belongs to the device group, which answers only while CURMOD = 0 (R24). -/
def Reg.isDevice : Reg → Bool
  | .DCFG | .DSTS | .DIEPMSK | .DOEPMSK | .DAINT | .DAINTMSK | .DIEPEMPMSK | .DIEPCTL _ | .DIEPINT _ | .DIEPTSIZ _
  | .DIEPDMA _ | .DTXFSTS _ | .DOEPCTL _ | .DOEPINT _ | .DOEPTSIZ _ | .DOEPDMA _ => true
  | _ => false

/-- Whether the number of a banked register is in its range (R22). -/
def Reg.inRange (c : Caps) : Reg → Bool
  | .HCCHAR n | .HCSPLT n | .HCINT n | .HCINTMSK n | .HCTSIZ n | .HCDMA n => decide (n.val < c.nCh)
  | .DIEPCTL n | .DIEPINT n | .DIEPTSIZ n | .DIEPDMA n | .DTXFSTS n | .DOEPCTL n | .DOEPINT n | .DOEPTSIZ n
  | .DOEPDMA n => decide (n.val < c.nEp)
  | .DIEPTXF n => decide (n.val ≠ 0)
  | _ => true

end Sys2Proof.Machine
end

