-- ==== Sys2Proof/Machine/Flags.lean ====
section
/-! DEFINITION. The flags of the block (R74): which bits of each register are RW, W1C and W1S (R23, R24), the summary
and level bits, the computed status registers, and the interrupt line (R56). -/

namespace Sys2Proof.Machine

open Sys2Proof

/-- The stored word of a register. -/
def State.raw (s : State) (r : Reg) : Word := SMap.get 0 s.regs r.offset

/-- Store the word of a register. -/
def State.setRaw (s : State) (r : Reg) (v : Word) : State := { s with regs := SMap.put 0 s.regs r.offset v }

/-- CURMOD: whether the hardware is in host mode (R30). -/
def State.hostMode (s : State) : Bool := bitOf (s.raw .GINTSTS) 0

/-- Slave mode: GAHBCFG.DMAEN = 0 (R27). -/
def State.slaveHw (s : State) : Bool := !bitOf (s.raw .GAHBCFG) 5

/-- All bits of a field. -/
def ones (lo len : Nat) : Word := fld lo len (2 ^ len - 1)

/-- The implemented bits of a transfer-size register without bits 30:29 (R42, R51). -/
def sizeMask (xw pw : Nat) : Word := ones 0 (min xw 19) ||| ones 19 (min pw 10)

/-- The RW bits of a register (R25 to R55). The endpoint masks have a bit at each position of the table of R50, whichever of
its two columns names it, but for TXFEMP in DIEPMSK (R46); the channel mask has one at each position of R41. DIEPEMPMSK has all 16 bits, as R48 does not say
that those of the IN endpoints from `N_EP` on are reserved (DESIGN CHOICE, log entry 27). -/
def rwMask (hw : HwParams) : Reg → Word
  | .GOTGCTL => 0x00000E02
  | .GAHBCFG => 0x0000003F
  | .GUSBCFG => 0x00000358
  | .GRSTCTL => 0x000007C0
  | .GINTMSK => 0xFFFFFFFE
  | .GRXFSIZ => 0x0000FFFF
  | .GNPTXFSIZ | .HPTXFSIZ | .DIEPTXF _ => 0xFFFFFFFF
  | .HCFG => 0x00800004
  | .HAINTMSK => 0x0000FFFF
  | .HCCHAR _ => 0x3FFEFFFF
  | .HCSPLT _ => 0x8001FFFF
  | .HCINTMSK _ => 0x000009FF
  | .HCTSIZ _ => sizeMask hw.caps.xw hw.caps.pw ||| 0x60000000
  | .HCDMA _ | .DIEPDMA _ | .DOEPDMA _ => 0xFFFFFFFF
  | .DCFG => 0x008007F3
  | .DIEPMSK => 0x0000130F
  | .DOEPMSK => 0x0000138F
  | .DAINTMSK => 0xFFFFFFFF
  | .DIEPEMPMSK => 0x0000FFFF
  | .DIEPCTL _ => 0x03EC87FF
  | .DOEPCTL _ => 0x002C87FF
  | .DIEPTSIZ n =>
    (if n = 0 then sizeMask hw.ep0Xw hw.ep0Pw else sizeMask hw.caps.xw hw.caps.pw) ||| 0x60000000
  | .DOEPTSIZ n =>
    if n = 0 then sizeMask hw.ep0Xw hw.ep0Pw ||| 0x60000000 else sizeMask hw.caps.xw hw.caps.pw
  | .PCGCCTL => 0xFFFFFFFF
  | .GOTGINT | .GINTSTS | .GRXSTSR | .GRXSTSP | .GNPTXSTS | .GHWCFG2 | .GHWCFG3 | .GHWCFG4 | .HFNUM | .HPTXSTS
  | .HAINT | .HCINT _ | .DSTS | .DAINT | .DIEPINT _ | .DOEPINT _ | .DTXFSTS _ | .FIFO _ => 0

/-- The W1C bits of a register: every named W1C bit and every unassigned bit of the five status registers (R24). -/
def w1cMask : Reg → Word
  | .GINTSTS => 0xF9F3FFCA
  | .GOTGINT | .DOEPINT _ | .HCINT _ => 0xFFFFFFFF
  | .DIEPINT _ => 0xFFFFFF7F
  | _ => 0

/-- The W1S bits of a register that stay until LINK is done (R29, R39, R49). -/
def w1sMask : Reg → Word
  | .GRSTCTL => 0x00000031
  | .HCCHAR _ | .DIEPCTL _ | .DOEPCTL _ => 0xC0000000
  | _ => 0

/-- The word a write leaves in a register with RW, W1C and W1S bits (R23): every other bit is kept. -/
def writeWord (rw w1c w1s old v : Word) : Word :=
  (mergeBits old rw v &&& ~~~(v &&& w1c)) ||| (v &&& w1s)

/-- What CNAK, SNAK, SETD0PID and SETD1PID of a written endpoint control word do to NAKSTS and DPID (R49). SNAK and
SETD1PID prevail where both of a pair are written (DESIGN CHOICE, log entry 10). -/
def endpointActions (v w : Word) : Word :=
  let w := if bitOf v 26 then withBit w 17 false else w
  let w := if bitOf v 27 then withBit w 17 true else w
  let w := if bitOf v 28 then withBit w 16 false else w
  if bitOf v 29 then withBit w 16 true else w

/-- Words that fit in the part of a FIFO of `depth` words that `used` words leave. -/
def freeOf (depth used : Nat) : Nat := depth - used

/-- The words that the FIFO RAM holds; an Rx status entry counts as one (R71, DESIGN CHOICE, log entry 26). -/
def Fifo.words (f : Fifo) : Nat :=
  (f.tx.toList.map List.length).sum + f.ptx.length + f.rxStatus.length + f.rxData.length

/-- The words that still fit into a FIFO of `depth` words that holds `used`: no FIFO grows beyond its part of the RAM, and
all of them together not beyond `FIFO_DEPTH` (R33, R71, R100). The start addresses of the size registers say nothing here: FIFOs
that REG_WRITE lets overlap share no words (DESIGN CHOICE, log entry 26). -/
def State.roomIn (s : State) (depth used : Nat) : Nat :=
  min (freeOf depth used) (freeOf s.hw.caps.fifoDepth s.fifo.words)

/-- The words that still fit into the Rx FIFO (R33). -/
def State.rxRoom (s : State) : Nat :=
  s.roomIn (field (s.raw .GRXFSIZ) 0 16) (s.fifo.rxStatus.length + s.fifo.rxData.length)

/-- NPTXFSPCAVAIL (R34). -/
def State.npSpace (s : State) : Nat := freeOf (field (s.raw .GNPTXFSIZ) 16 16) (s.fifo.tx[0]).length

/-- NPTXQSPCAVAIL (R34). -/
def State.npQueueSpace (s : State) : Nat := freeOf s.hw.reqDepth s.fifo.npReq.length

/-- PTXFSPCAVAIL (R37). -/
def State.pSpace (s : State) : Nat := freeOf (field (s.raw .HPTXFSIZ) 16 16) s.fifo.ptx.length

/-- PTXQSPCAVAIL (R37). -/
def State.pQueueSpace (s : State) : Nat := freeOf s.hw.reqDepth s.fifo.pReq.length

/-- The Tx FIFO that device IN endpoint `n` uses: DIEPCTL[n].TXFNUM (R49, R55). -/
def State.txFifoOf (s : State) (n : Fin 16) : Fin 16 := ((s.raw (.DIEPCTL n)).extractLsb' 22 4).toFin

/-- The depth register of Tx FIFO `f` (R33). -/
def State.txDepth (s : State) (f : Fin 16) : Nat :=
  if f = 0 then field (s.raw .GNPTXFSIZ) 16 16 else field (s.raw (.DIEPTXF f)) 16 16

/-- INEPTXFSPCAVAIL of IN endpoint `n` (R53). -/
def State.inSpace (s : State) (n : Fin 16) : Nat :=
  freeOf (s.txDepth (s.txFifoOf n)) (s.fifo.tx[(s.txFifoOf n).val]).length

/-- DIEPINT[n] with its level bit TXFEMP (R50): the endpoint's Tx FIFO is empty, in slave mode. -/
def State.diepint (s : State) (n : Fin 16) : Word :=
  (s.raw (.DIEPINT n) &&& 0xFFFFFF7F) ||| bitIf (s.slaveHw && (s.fifo.tx[(s.txFifoOf n).val]).isEmpty) 7

/-- The word whose bit `lo + n` is 1 where the condition holds, for the first `count` numbers. -/
def gather (count lo : Nat) (p : Fin 16 → Bool) : Word :=
  (List.finRange 16).foldl (fun w n => if decide (n.val < count) && p n then w ||| bit1 (lo + n.val) else w) 0

/-- Whether IN endpoint `n` has an unmasked event (R47). -/
def State.inPending (s : State) (n : Fin 16) : Bool :=
  decide (s.diepint n &&& s.raw .DIEPMSK &&& 0xFFFFFF7F ≠ 0) ||
    (bitOf (s.diepint n) 7 && bitOf (s.raw .DIEPEMPMSK) n.val)

/-- DAINT (R47). -/
def State.daint (s : State) : Word :=
  gather s.hw.caps.nEp 0 s.inPending |||
    gather s.hw.caps.nEp 16 (fun n => decide (s.raw (.DOEPINT n) &&& s.raw .DOEPMSK ≠ 0))

/-- HAINT (R38). -/
def State.haint (s : State) : Word :=
  gather s.hw.caps.nCh 0 (fun c => decide (s.raw (.HCINT c) &&& s.raw (.HCINTMSK c) ≠ 0))

/-- GINTSTS with its summary and level bits (R30). -/
def State.gintsts (s : State) : Word :=
  (s.raw .GINTSTS &&& 0xF9F3FFCB) |||
  bitIf (decide (s.raw .GOTGINT ≠ 0)) 2 |||
  bitIf (s.slaveHw && !s.fifo.rxStatus.isEmpty) 4 |||
  bitIf (s.slaveHw && decide (s.npSpace ≠ 0) && decide (s.npQueueSpace ≠ 0)) 5 |||
  bitIf (decide (s.daint &&& s.raw .DAINTMSK &&& 0x0000FFFF ≠ 0)) 18 |||
  bitIf (decide (s.daint &&& s.raw .DAINTMSK &&& 0xFFFF0000 ≠ 0)) 19 |||
  bitIf (decide (s.haint &&& s.raw .HAINTMSK ≠ 0)) 25 |||
  bitIf (s.slaveHw && decide (s.pSpace ≠ 0) && decide (s.pQueueSpace ≠ 0)) 26

/-- The interrupt line (R56). While a soft reset or a flush settles, it follows the stored words, which are those from before:
R204 and R216 leave the registers open then (DESIGN CHOICE, log entry 8). -/
def State.line (s : State) : Bool :=
  bitOf (s.raw .GAHBCFG) 0 && decide (s.gintsts &&& s.raw .GINTMSK &&& 0xFFFFFFFE ≠ 0)

/-- Whether a reset or a flush is still settling: CSFTRST, RXFFLSH or TXFFLSH reads 1 (R108, R540). -/
def State.unsettled (s : State) : Bool := decide (s.raw .GRSTCTL &&& 0x00000031 ≠ 0)

/-- GHWCFG2 (R32). -/
def ghwcfg2 (c : Caps) : Word :=
  fld 3 2 (match c.capDma with | .none => 0 | .buffer => 2 | .bufferAndDescriptor => 2) |||
  fld 6 2 (natOf c.utmi + 2 * natOf c.ulpi) ||| fld 8 2 (natOf c.fsSerial) |||
  fld 10 4 (c.nEp - 1) ||| fld 14 4 (c.nCh - 1)

/-- GHWCFG3 (R32). -/
def ghwcfg3 (c : Caps) : Word := fld 0 4 (c.xw - 11) ||| fld 4 3 (c.pw - 4) ||| fld 16 16 c.fifoDepth

/-- GHWCFG4 (R32). -/
def ghwcfg4 (c : Caps) : Word :=
  bitIf c.dedFifo 25 ||| bitIf (match c.capDma with | .bufferAndDescriptor => true | .none => false | .buffer => false) 30

/-- The status code numbers of R450. -/
def Status.code : Status → Nat
  | .ok => 0 | .pending => 1 | .cancelled => 2 | .timeout => 3 | .stalled => 4 | .ahbError => 5 | .babble => 6
  | .overflow => 7 | .xactError => 8 | .descriptorError => 9 | .bufferError => 10 | .badCommand => 16 | .badParam => 17
  | .badHandle => 18 | .notFunctional => 19 | .notEnabled => 20 | .alreadyEnabled => 21 | .busy => 22
  | .noFreeChannel => 23 | .noFreeIoBlock => 24 | .noFifo => 25 | .configError => 26 | .initTimeoutAhbIdle => 27
  | .initTimeoutSoftReset => 28 | .initTimeoutFlush => 29 | .flushTimeout => 30

end Sys2Proof.Machine
end

