-- ==== Sys2Proof/Machine/Ops.lean ====
section
/-! DEFINITION. The named operations over memory, registers and FIFOs, the entry of the interrupt handler and its exit
(the block's one exception mechanism, R470 to R472), and the choice of what the sequencer does next. -/

namespace Sys2Proof.Machine

open Sys2Proof

/-! System memory (R100, R103). A byte that nothing has written reads as 0: DESIGN CHOICE, log entry 7. -/

/-- The memory is in canonical form. -/
def Memory.wf (m : List Host.Cell) : Bool := SMap.wf 0 m

/-- The byte at an address. -/
def State.byte (s : State) (a : Word) : Byte := SMap.get 0 s.mem a.toNat

/-- Store one byte. -/
def State.setByte (s : State) (a : Word) (b : Byte) : State := { s with mem := SMap.put 0 s.mem a.toNat b }

/-- `MemRead(a, n)`, addresses modulo 2^32 (R17, R244). -/
def State.bytes (s : State) (a : Word) : Nat → List Byte
  | 0 => []
  | n + 1 => s.byte a :: s.bytes (a + 1) n

/-- Store bytes at rising addresses. -/
def State.setBytes (s : State) (a : Word) : List Byte → State
  | [] => s
  | b :: bs => (s.setByte a b).setBytes (a + 1) bs

/-- The byte `k` of a word, least significant first (R103). -/
def byteOf (w : Word) (k : Nat) : Byte := w.extractLsb' (8 * k) 8

/-- The bytes of a word in memory order (R103). -/
def wordBytes (w : Word) : List Byte := [byteOf w 0, byteOf w 1, byteOf w 2, byteOf w 3]

/-- The word at an address, little-endian (R103). -/
def State.word (s : State) (a : Word) : Word := s.byte (a + 3) ++ s.byte (a + 2) ++ s.byte (a + 1) ++ s.byte a

/-- Store a word, little-endian (R103). -/
def State.setWord (s : State) (a : Word) (w : Word) : State := s.setBytes a (wordBytes w)

/-- The words that carry a packet: byte `k` in bits `8*(k mod 4)` of word `k/4`, the last word filled up with the high
bytes of `fill` (R103, R261). -/
def packWords (fill : Word) : List Byte → List Word
  | [] => []
  | [a] => [(fill.extractLsb' 8 24) ++ a]
  | [a, b] => [(fill.extractLsb' 16 16) ++ b ++ a]
  | [a, b, c] => [(fill.extractLsb' 24 8) ++ c ++ b ++ a]
  | a :: b :: c :: d :: bs => (d ++ c ++ b ++ a) :: packWords fill bs

/-- The first `n` bytes of FIFO words (R103, R265). -/
def unpackWords (ws : List Word) (n : Nat) : List Byte := (ws.flatMap wordBytes).take n

/-! Trace and free values. -/

/-- Add a line to the trace. -/
def State.note (s : State) (e : TraceEv) : State := { s with trace := e :: s.trace }

/-- Draw a free word. -/
def State.drawWord (s : State) : Word × State := (Config.freeWord s.draws, { s with draws := s.draws + 1 })

/-! Registers (R23, R104 to R107). -/

/-- Whether the register file answers an access: the number in range and the register of the current mode (R24). While a soft
reset settles, CURMOD's value is unspecified (R204), and the rules do not say which mode's group answers then: the model decides by
the CURMOD word that was stored before the reset (DESIGN CHOICE, log entry 29). -/
def State.accessible (s : State) (r : Reg) : Bool :=
  r.inRange s.hw.caps && !(r.isHost && !s.hostMode) && !(r.isDevice && s.hostMode)

/-- LINK or DMA changes the stored word of a register: a line of the trace (R120, R178). -/
def State.hwSet (s : State) (r : Reg) (v : Word) : State := (s.setRaw r v).note (.hw r.offset v)

/-- LINK sets bits of a stored register word: how it records events (R74). -/
def State.setBits (s : State) (r : Reg) (w : Word) : State := s.hwSet r (s.raw r ||| w)

/-- LINK clears bits of a stored register word: how it ends a W1S action. -/
def State.clearBits (s : State) (r : Reg) (w : Word) : State := s.hwSet r (s.raw r &&& ~~~w)

/-- The bits of a word, each with its register. -/
def bitsOf (r : Reg) (w : Word) : List (Reg × Fin 32) :=
  ((List.finRange 32).filter (fun k => bitOf w k.val)).map (fun k => (r, k))

/-- LINK records an event in a status register: at once, or, while it keeps status bits back, one bit at a time and in any
order later (R112 (4), U15). -/
def State.post (s : State) (r : Reg) (w : Word) : State :=
  if s.hold then { s with owed := s.owed ++ bitsOf r w } else s.setBits r w

/-- DMA stores bytes in memory: a line of the trace (R178). -/
def State.dmaBytes (s : State) (a : Word) (bs : List Byte) : State := (s.setBytes a bs).note (.dma a.toNat bs)

/-! DMA's accesses to a misaligned or unreachable address (R105, R109, U6): the bytes moved are free values. AHBERR, which may
come instead, is an act of the script (log entries 18, 35). -/

/-- Whether the platform lets DMA reach each of the `n` bytes from an address on (R109). -/
def State.reaches (s : State) (a : Word) (n : Nat) : Bool :=
  s.plat.holes.all fun h =>
    decide (n = 0) || decide (h.2 = 0) || (decide (n ≤ (h.1 - a).toNat) && decide (h.2 ≤ (a - h.1).toNat))

/-- Whether an access of DMA to `n` bytes at `a` is well formed: the address that it counts from is aligned (R105), and every
byte is reached (R109). -/
def State.dmaFine (s : State) (align : Nat) (base a : Word) (n : Nat) : Bool :=
  decide (base.toNat % align = 0) && s.reaches a n

/-- So many free bytes, of the draws from `d` on. -/
def freeBytes (d : Nat) : Nat → List Byte
  | 0 => []
  | n + 1 => (Config.freeWord d).extractLsb' 0 8 :: freeBytes (d + 1) n

/-- So many free values have been drawn. -/
def State.drawn (s : State) (n : Nat) : State := { s with draws := s.draws + n }

/-- DMA reads `n` bytes of a data buffer that starts at `base` (R109, U6). -/
def State.dmaRead (s : State) (base a : Word) (n : Nat) : List Byte × State :=
  if s.dmaFine 4 base a n then (s.bytes a n, s) else (freeBytes s.draws n, s.drawn n)

/-- DMA stores bytes of a data buffer (`align` 4) or of a descriptor (`align` 8) that starts at `base` (R105, R109, U6). -/
def State.dmaPut (s : State) (align : Nat) (base a : Word) (bs : List Byte) : State :=
  if s.dmaFine align base a bs.length then s.dmaBytes a bs
  else (s.drawn bs.length).dmaBytes a (freeBytes s.draws bs.length)

/-- What LINK does once an Rx status entry has been popped (R265): the completion bits that wait for the pop. -/
def State.afterPop (s : State) (w : Word) : State :=
  let n := (rxEntryOf w).num
  if s.hostMode then
    (if n.val < s.hw.caps.nCh then
      (match pktSts w with
       | 3 => s.post (.HCINT n) 0x3
       | 7 => s.post (.HCINT n) 0x2
       | _ => s)
     else s)
  else
    (if n.val < s.hw.caps.nEp then
      (match pktSts w with
       | 3 => s.post (.DOEPINT n) 0x1
       | 4 => s.post (.DOEPINT n) 0x8
       | _ => s)
     else s)

/-- The value of a register whose read has no side effect. -/
def State.peek (s : State) : Reg → Word
  | .GINTSTS => s.gintsts
  | .GNPTXSTS => fld 0 16 s.npSpace ||| fld 16 8 s.npQueueSpace
  | .HPTXSTS => fld 0 16 s.pSpace ||| fld 16 8 s.pQueueSpace
  | .GHWCFG2 => ghwcfg2 s.hw.caps
  | .GHWCFG3 => ghwcfg3 s.hw.caps
  | .GHWCFG4 => ghwcfg4 s.hw.caps
  | .HAINT => s.haint
  | .DAINT => s.daint
  | .DIEPINT n => s.diepint n
  | .DTXFSTS n => fld 0 16 (s.inSpace n)
  | r => s.raw r

/-- The Rx status entries that GRXSTSR and GRXSTSP read: those of the queue in slave mode, and none while RXFLVL is 0 because
DMAEN has been set over a queue that holds entries (R31). -/
def State.rxShown (s : State) : List Word := if s.slaveHw then s.fifo.rxStatus else []

/-- A register read: GRXSTSP and the FIFO windows pop (R31, R55); a read of GRXSTSR or GRXSTSP with RXFLVL = 0, an empty FIFO
window, and any register but GRSTCTL while a reset or a flush settles, give a free value (U5, U10, U12). Of the queue that DMAEN
hides such a read of GRXSTSP pops nothing (DESIGN CHOICE, log entry 8). -/
def State.readReg (s : State) (r : Reg) : Word × State :=
  if s.unsettled && decide (r ≠ .GRSTCTL) then s.drawWord
  else match r with
    | .GRXSTSR => match s.rxShown with
      | w :: _ => (w, s)
      | [] => s.drawWord
    | .GRXSTSP => match s.rxShown with
      | w :: ws => (w, State.afterPop { s with fifo := { s.fifo with rxStatus := ws } } w)
      | [] => s.drawWord
    | .FIFO _ => match s.fifo.rxData with
      | w :: ws => (w, { s with fifo := { s.fifo with rxData := ws } })
      | [] => s.drawWord
    | r => (s.peek r, s)

/-- Whether an EPTYPE code is periodic: isochronous or interrupt (R39). -/
def periodicCode (t : Nat) : Bool := decide (t = 1) || decide (t = 3)

/-- Add a request-queue entry for a channel; the word written to HCCHAR gives its type. Every such write adds one (R70): an
entry beyond the queue's size is kept too (DESIGN CHOICE, log entry 26). -/
def State.addRequest (s : State) (c : Fin 16) (hcchar : Word) : State :=
  if periodicCode (field hcchar 18 2) then { s with fifo := { s.fifo with pReq := s.fifo.pReq ++ [c] } }
  else { s with fifo := { s.fifo with npReq := s.fifo.npReq ++ [c] } }

/-- Add a word to the end of a FIFO of `depth` words; a FIFO without room drops it (DESIGN CHOICE, log entry 26). -/
def State.appendTo (s : State) (depth : Nat) (q : List Word) (v : Word) : List Word :=
  if 0 < s.roomIn depth q.length then q ++ [v] else q

/-- Push a word into Tx FIFO `f`; FIFO 0 is the non-periodic one. -/
def State.pushTx (s : State) (f : Fin 16) (v : Word) : State :=
  let q := s.appendTo (s.txDepth f) s.fifo.tx[f.val] v
  { s with fifo := { s.fifo with tx := s.fifo.tx.set f.val q } }

/-- Push a word into the host's periodic Tx FIFO. -/
def State.pushPtx (s : State) (v : Word) : State :=
  { s with fifo := { s.fifo with ptx := s.appendTo (field (s.raw .HPTXFSIZ) 16 16) s.fifo.ptx v } }

/-- Push a word into the Tx FIFO of a window (R55): host mode by the channel's type, device mode DIEPCTL[n].TXFNUM. Of a window
whose endpoint or channel does not exist (R22 maps all 16) R55 says nothing: its control register holds 0, so that the word goes
to FIFO 0, the non-periodic one (DESIGN CHOICE, log entry 26). -/
def State.pushFifo (s : State) (n : Fin 16) (v : Word) : State :=
  if s.hostMode then
    (if periodicCode (field (s.raw (.HCCHAR n)) 18 2) then s.pushPtx v else s.pushTx 0 v)
  else s.pushTx (s.txFifoOf n) v

/-- The word a write stores in a register (R23). -/
def State.stored (s : State) (r : Reg) (v : Word) : Word :=
  writeWord (rwMask s.hw r) (w1cMask r) (w1sMask r) (s.raw r) v

/-- A register write (R23, R107). -/
def State.writeReg (s : State) (r : Reg) (v : Word) : State :=
  match r with
  | .FIFO n => s.pushFifo n v
  | .DIEPCTL n => s.setRaw (.DIEPCTL n) (endpointActions v (s.stored (.DIEPCTL n) v))
  | .DOEPCTL n => s.setRaw (.DOEPCTL n) (endpointActions v (s.stored (.DOEPCTL n) v))
  | .HCCHAR c =>
    let t := s.setRaw (.HCCHAR c) (s.stored (.HCCHAR c) v)
    if bitOf v 31 && s.slaveHw then t.addRequest c v else t
  | r => s.setRaw r (s.stored r v)

/-! Taking the interrupt and returning from it. -/

/-- Entry of the interrupt handler: nothing is saved, no register changes, the context becomes `isr` (R471). -/
def State.enterHandler (s : State) : State := State.note { s with ctx := .isr } .isrEnter

/-- Exit of the interrupt handler: nothing is restored, the context becomes `task` (R472). -/
def State.leaveHandler (s : State) : State := State.note { s with ctx := .task } .isrExit

/-- Whether the handler starts: line high, task context, records exist, the core functional (R471, R522, R218). -/
def State.irqDue (s : State) : Bool := decide (s.ctx = .task) && s.recordsExist && s.core.functional && s.line

/-! What the sequencer does next. -/

/-- The choice of one step. -/
inductive Choice where
  /-- Run this instruction from this state. -/
  | run (i : Instr) (s : State)
  /-- A command that is not one, answered with a status; nothing else changes (R170). -/
  | answer (st : Status) (s : State)
  /-- An Rx status entry with a reserved code: it is popped and ignored (R265, U20). -/
  | skip (s : State)
  /-- Nothing to do for the sequencer: LINK and DMA act. -/
  | idle
  /-- A stimulus that the decoder refuses. -/
  | refuse
  deriving DecidableEq, Repr

/-- Decode a command of UPPER: an unknown code is BadCommand, operands outside their types BadParam (R170, R450). -/
def commandChoice (bs : List Byte) (s : State) : Choice :=
  match decode .cmd bs with
  | .ok (i, _) => .run i s
  | .error (.unknownOp _) => .answer .badCommand s
  | .error _ => .answer .badParam s

/-- Decode the bytes of an inbox entry. -/
def stimulusChoice (p : Port) (bs : List Byte) (s : State) : Choice :=
  match decode p bs with
  | .ok (i, _) => .run i s
  | .error (.reservedEntry _) => .skip s
  | .error _ => .refuse

/-- The next thing to do: a stimulus of the test bench; the handler, entered by the line or still running; then UPPER's
next command (R471). -/
def State.choose (s : State) : Choice :=
  match s.inbox with
  | (p, bs) :: rest =>
    if p ≠ .cmd then stimulusChoice p bs { s with inbox := rest }
    else if s.ctx = .isr then .run .isr s
    else if s.irqDue then .run .isr s
    else commandChoice bs { s with inbox := rest }
  | [] =>
    if s.ctx = .isr then .run .isr s
    else if s.irqDue then .run .isr s
    else .idle

/-- Close the gate so that the interrupt line is low (R56). -/
def State.closeGate (s : State) : State := s.setRaw .GAHBCFG (withBit (s.raw .GAHBCFG) 0 false)

/-- The state in which the next thing to do is the entry of a port: in the mode that the port's registers answer in;
for a command, in task context with the interrupt line low (R471). -/
def State.prepare (s : State) : Port → State
  | .hcint _ | .rxsHost => s.setRaw .GINTSTS (withBit (s.raw .GINTSTS) 0 true)
  | .diepint _ | .doepint _ | .setup | .rxsDevice => s.setRaw .GINTSTS (withBit (s.raw .GINTSTS) 0 false)
  | .cmd =>
    let t := { s with ctx := .task }
    if t.irqDue then t.closeGate else t
  | .gintsts | .gotgint => s

/-- Place bytes at the head of a port. -/
def State.place (s : State) (p : Port) (bs : List Byte) : State :=
  let t := s.prepare p
  { t with inbox := (p, bs) :: t.inbox }

end Sys2Proof.Machine
end

