-- ==== Sys2Proof/Machine/Link.lean ====
section
/-! DEFINITION. The environment agents LINK and DMA (R8, R18): what each of their acts does to the registers, the FIFOs
and memory (R204, R216, R254 to R256, R305, R361, R441), and what happens before an access of the sequencer. An act
whose condition does not hold changes nothing. Each change of a register and each store to memory is a line of the trace
(R120, R178). -/

namespace Sys2Proof.Machine

open Sys2Proof

/-- Act only where the condition holds. -/
def State.when (s : State) (c : Bool) (f : State → State) : State := if c then f s else s

/-- Registers after a completed soft reset (R80, R204): the connector, session and mode bits and AHBIDLE stay. The other words
are 0; GOTGCTL.SESREQSCS and HSTNEGSCS, for which R80 and R521 give no value, too (DESIGN CHOICE, log entry 4). -/
def State.resetRegs (s : State) : SMap Word :=
  let keep := fun (r : Reg) (m : Word) (t : SMap Word) => SMap.put 0 t r.offset (s.raw r &&& m)
  keep .GINTSTS 0x1 (keep .GRSTCTL 0x80000000 (keep .GOTGCTL 0x000D0000 []))

/-- LINK completes a soft reset (R204): what DMA and LINK had in hand is gone too. -/
def linkSoftReset (s : State) : State :=
  s.when (bitOf (s.raw .GRSTCTL) 0) fun s =>
    State.note { s with regs := s.resetRegs, fifo := emptyFifo, engine := [], owed := [] }
      (.hw Reg.GRSTCTL.offset (s.raw .GRSTCTL &&& 0x80000000))

/-- Empty the Tx FIFOs that GRSTCTL.TXFNUM selects (R29). In host mode every number 1 to 15 also empties the one periodic
Tx FIFO, for which R29 gives no number; a number from 17 to 31, to which R29 gives no FIFO, empties nothing (DESIGN CHOICE, log
entry 26). -/
def State.flushTx (s : State) (num : Nat) : State :=
  if num = 0x10 then { s with fifo := { s.fifo with tx := Vector.replicate 16 [], ptx := [] } }
  else if h : num < 16 then
    { s with fifo := { s.fifo with
        tx := s.fifo.tx.set num [] h
        ptx := if s.hostMode && decide (num ≠ 0) then [] else s.fifo.ptx } }
  else s

/-- LINK completes a Tx FIFO flush (R216): that of the number TXFNUM holds now, also where GRSTCTL was written again after an
exhausted flush. R29 and R216 do not say when LINK takes the selection (DESIGN CHOICE, log entry 26). -/
def linkTxFlush (s : State) : State :=
  s.when (bitOf (s.raw .GRSTCTL) 5) fun s =>
    (s.flushTx (field (s.raw .GRSTCTL) 6 5)).clearBits .GRSTCTL 0x20

/-- LINK completes an Rx FIFO flush (R216). -/
def linkRxFlush (s : State) : State :=
  s.when (bitOf (s.raw .GRSTCTL) 4) fun s =>
    State.clearBits { s with fifo := { s.fifo with rxStatus := [], rxData := [] } } .GRSTCTL 0x10

/-- LINK sets bits of a status register that it may set: W1C bits only (R23, R24). -/
def State.raise (s : State) (r : Reg) (k : Fin 32) : State := s.setBits r (bit1 k.val &&& w1cMask r)

/-- The control register of an endpoint. -/
def epCtl (e : EpRef) : Reg := match e.dir with | .IN => .DIEPCTL e.num | .OUT => .DOEPCTL e.num
/-- The status register of an endpoint. -/
def epInt (e : EpRef) : Reg := match e.dir with | .IN => .DIEPINT e.num | .OUT => .DOEPINT e.num
/-- The transfer-size register of an endpoint. -/
def epSiz (e : EpRef) : Reg := match e.dir with | .IN => .DIEPTSIZ e.num | .OUT => .DOEPTSIZ e.num
/-- The DMA-address register of an endpoint. -/
def epDma (e : EpRef) : Reg := match e.dir with | .IN => .DIEPDMA e.num | .OUT => .DOEPDMA e.num

/-- The control register of an endpoint or channel: its bit 31 is the enable bit, bit 30 the disable bit. -/
def ctlOf : XRef → Reg
  | .ep e => epCtl e
  | .ch c => .HCCHAR c
/-- The status register of an endpoint or channel. -/
def intOf : XRef → Reg
  | .ep e => epInt e
  | .ch c => .HCINT c
/-- The transfer-size register of an endpoint or channel. -/
def sizOf : XRef → Reg
  | .ep e => epSiz e
  | .ch c => .HCTSIZ c
/-- The DMA-address register of an endpoint or channel. -/
def dmaOf : XRef → Reg
  | .ep e => epDma e
  | .ch c => .HCDMA c

/-- Whether an endpoint or channel exists and its registers answer (R24). -/
def State.present (s : State) (x : XRef) : Bool := s.accessible (ctlOf x)

/-- The enable bit of an endpoint or channel. -/
def State.enabledHw (s : State) (x : XRef) : Bool := bitOf (s.raw (ctlOf x)) 31

/-- Whether the hardware sees a transmit: device IN or host OUT. -/
def State.transmitsHw (s : State) : XRef → Bool
  | .ep e => decide (e.dir = .IN)
  | .ch c => !bitOf (s.raw (.HCCHAR c)) 15

/-- Descriptor-DMA mode of the current role: HCFG.DESCDMA or DCFG.DESCDMA (R35, R44). -/
def State.descHw (s : State) : Bool := if s.hostMode then bitOf (s.raw .HCFG) 23 else bitOf (s.raw .DCFG) 23

/-- Whether EPTYPE says isochronous. -/
def State.isoHw (s : State) (x : XRef) : Bool := decide (field (s.raw (ctlOf x)) 18 2 = 1)

/-- The descriptor that DMA is processing for an endpoint or channel (R72). -/
def State.walkOf (s : State) (x : XRef) : Option Walk := s.engine.find? (fun w => decide (w.x = x))

/-- DMA has no descriptor of an endpoint or channel in hand any more. -/
def State.dropWalk (s : State) (x : XRef) : State :=
  { s with engine := s.engine.filter (fun w => decide (w.x ≠ x)) }

/-- Discard the request-queue entries of a channel (R70), and the request of it that LINK has in hand. -/
def State.dropRequests (s : State) (c : Fin 16) : State :=
  let others := fun (l : List (Fin 16)) => l.filter (fun k => decide (k ≠ c))
  { s with fifo := { s.fifo with
      npReq := others s.fifo.npReq, pReq := others s.fifo.pReq, inHand := others s.fifo.inHand } }

/-- A transaction of a channel consumes one request-queue entry (R70, R361): the one that LINK has in hand, else one of the
non-periodic queue, else one of the periodic queue. Which of the two queues an entry is taken from, where the channel has entries
in both (EPTYPE changed by a raw HCCHAR write), the spec leaves open: the act `takeRequest` lets the script take either one
first, and without it the non-periodic one goes (DESIGN CHOICE, log entry 18). -/
def State.takeRequest (s : State) (c : Fin 16) : State :=
  if s.fifo.inHand.contains c then { s with fifo := { s.fifo with inHand := s.fifo.inHand.erase c } }
  else if s.fifo.npReq.contains c then { s with fifo := { s.fifo with npReq := s.fifo.npReq.erase c } }
  else { s with fifo := { s.fifo with pReq := s.fifo.pReq.erase c } }

/-- The enable bit of an endpoint or channel is cleared; a channel's remaining requests are discarded (R70, R255). A disable
that was asked for stays pending, so that it can still be confirmed (DESIGN CHOICE, log entry 18). Endpoint 0 OUT answers NAK
from then on, so that armed without CNAK it takes SETUP packets and no data (R305; DESIGN CHOICE, log entry 10). -/
def State.endHw (s : State) (x : XRef) : State :=
  let s := (s.clearBits (ctlOf x) 0x80000000).dropWalk x
  match x with
  | .ep e => s.when (decide (e = ⟨0, .OUT⟩)) fun s => s.setBits (epCtl e) 0x00020000
  | .ch c => s.dropRequests c

/-- The disable that was asked for is over, whether the endpoint or channel was still enabled or not. -/
def State.disableHw (s : State) (x : XRef) : State := (s.clearBits (ctlOf x) 0x40000000).endHw x

/-- An endpoint or channel stops: the enable bit is cleared. For a channel CHHLTD comes with it (R361), which is the
confirmation of a disable that was asked for. -/
def State.stopHw (s : State) (x : XRef) : State :=
  match x with
  | .ep _ => s.endHw x
  | .ch _ => s.disableHw x

/-- Queue an Rx status entry (R31). -/
def State.queueStatus (s : State) (num : Fin 16) (bcnt : Nat) (dpid : BitVec 2) (code : Nat) : State :=
  let w := fld 0 4 num.val ||| fld 4 11 bcnt ||| fld 15 2 dpid.toNat ||| fld 17 4 code
  { s with fifo := { s.fifo with rxStatus := s.fifo.rxStatus ++ [w] } }

/-- Queue the words of a received packet; the unused bytes of the last word are free (U4). -/
def State.queueData (s : State) (bytes : List Byte) : State :=
  let d := s.drawWord
  { d.2 with fifo := { d.2.fifo with rxData := d.2.fifo.rxData ++ packWords d.1 bytes } }

/-- The chunk of an endpoint or channel has ended: the enable bit drops and XFERCOMPL is set; a channel in a DMA mode
also halts (R255, R361). -/
def State.finishHw (s : State) (x : XRef) : State :=
  let s := s.stopHw x
  match x with
  | .ep _ => s.post (intOf x) 0x1
  | .ch _ => s.post (intOf x) (if s.slaveHw then 0x1 else 0x3)

/-- A receive chunk has ended: in slave mode a status entry 3 is queued, and the completion waits for its pop (R256). -/
def State.finishRx (s : State) (x : XRef) : State :=
  if s.slaveHw then
    (match x with
     | .ep e => (s.stopHw x).queueStatus e.num 0 0 3
     | .ch c => (s.stopHw x).queueStatus c 0 0 3)
  else s.finishHw x

/-- The next data toggle of HCTSIZ.PID: DATA0 and DATA1 alternate, a SETUP is followed by DATA1, the isochronous PIDs
stay (R42, R255). -/
def nextPid (control : Bool) (p : Nat) : Nat :=
  match p with
  | 0 => 2
  | 2 => 0
  | 3 => if control then 2 else 3
  | _ => p

/-- The data toggle flips (R255): DPID of an endpoint that is not isochronous, HCTSIZ.PID of a channel. -/
def State.flipToggle (s : State) (x : XRef) : State :=
  match x with
  | .ep e =>
    if s.isoHw x then s
    else s.hwSet (epCtl e) (withBit (s.raw (epCtl e)) 16 (!bitOf (s.raw (epCtl e)) 16))
  | .ch c =>
    s.hwSet (.HCTSIZ c)
      (withField (s.raw (.HCTSIZ c)) 29 2
        (nextPid (decide (field (s.raw (.HCCHAR c)) 18 2 = 0)) (field (s.raw (.HCTSIZ c)) 29 2)))

/-- A packet of `n` bytes has moved: XFERSIZE and PKTCNT decrease (R42, R51). -/
def State.countSize (s : State) (x : XRef) (n : Nat) : State :=
  let w := s.raw (sizOf x)
  s.hwSet (sizOf x) (withField (withField w 0 19 (field w 0 19 - n)) 19 10 (field w 19 10 - 1))

/-- A packet of `n` bytes has moved: XFERSIZE and PKTCNT decrease, the toggle flips (R255, R256). -/
def State.countPacket (s : State) (x : XRef) (n : Nat) : State := (s.countSize x n).flipToggle x

/-- The DMA address advances (R43, R52). -/
def State.advanceDma (s : State) (x : XRef) (n : Nat) : State :=
  s.hwSet (dmaOf x) (s.raw (dmaOf x) + BitVec.ofNat 32 n)

/-- The Tx FIFO of an endpoint or channel. -/
def State.txQueue (s : State) : XRef → List Word
  | .ep e => s.fifo.tx[(s.txFifoOf e.num).val]
  | .ch c => if periodicCode (field (s.raw (.HCCHAR c)) 18 2) then s.fifo.ptx else s.fifo.tx[0]

/-- Drop the first `n` words of that FIFO. -/
def State.popTx (s : State) (x : XRef) (n : Nat) : State :=
  match x with
  | .ep e =>
    let f := s.txFifoOf e.num
    { s with fifo := { s.fifo with tx := s.fifo.tx.set f.val (s.fifo.tx[f.val].drop n) } }
  | .ch c =>
    if periodicCode (field (s.raw (.HCCHAR c)) 18 2) then
      { s with fifo := { s.fifo with ptx := s.fifo.ptx.drop n } }
    else { s with fifo := { s.fifo with tx := s.fifo.tx.set 0 (s.fifo.tx[0].drop n) } }

/-- Bytes of the next transmit packet (R248, R255). -/
def State.nextTx (s : State) (x : XRef) : Nat :=
  min (field (s.raw (ctlOf x)) 0 11) (field (s.raw (sizOf x)) 0 19)

/-- Whether a transmit packet can be sent: in slave mode its words are in the FIFO (R255). -/
def State.txReady (s : State) (x : XRef) : Bool :=
  !s.slaveHw || decide (ceilDiv (s.nextTx x) 4 ≤ (s.txQueue x).length)

/-- The bytes of the next transmit packet: FIFO words, or what DMA reads at the DMA address (R255). In buffer-DMA mode an access
is misaligned where the address it starts at is (U6; DEDUCED, log entry 35). -/
def State.txRead (s : State) (x : XRef) : List Byte × State :=
  if s.slaveHw then (unpackWords (s.txQueue x) (s.nextTx x), s)
  else s.dmaRead (s.raw (dmaOf x)) (s.raw (dmaOf x)) (s.nextTx x)

/-- The bytes of the next transmit packet go out on the bus (R255). -/
def State.putOut (s : State) (x : XRef) : State := (s.txRead x).2.note (.busTx x (s.txRead x).1)

/-- The data of a sent packet leaves: the FIFO words are popped, the DMA address advances (R255). -/
def State.consumeTx (s : State) (x : XRef) (n : Nat) : State :=
  if s.slaveHw then s.popTx x (ceilDiv n 4) else s.advanceDma x n

/-- The bytes of the next packet go out on the bus and leave the FIFO, or the DMA address goes past them (R255). -/
def State.sendOut (s : State) (x : XRef) : State := (s.putOut x).consumeTx x (s.nextTx x)

/-- An acknowledged transmit packet (R255). -/
def State.sent (s : State) (x : XRef) : State :=
  let s := (s.sendOut x).countPacket x (s.nextTx x)
  s.when (decide (field (s.raw (sizOf x)) 19 10 = 0)) fun s => s.finishHw x

/-- Whether the Rx FIFO has room for so many words and status entries, and for the entry that ends a chunk; the DMA modes
have no such limit (R33, R71). -/
def State.rxFits (s : State) (n : Nat) : Bool := !s.slaveHw || decide (n ≤ s.rxRoom)

/-- What a received packet of `n` bytes takes in the Rx FIFO: its entry, its words and the entry of a chunk that it ends. -/
def rxWords (n : Nat) : Nat := ceilDiv n 4 + 2

/-- The bytes of a received packet are stored: by DMA at the DMA address, or into the Rx FIFO with an entry 2 (R256). -/
def State.storeRx (s : State) (x : XRef) (num : Fin 16) (dpid : BitVec 2) (bytes : List Byte) : State :=
  let s := s.note (.busRx x bytes)
  if s.slaveHw then (s.queueStatus num bytes.length dpid 2).queueData bytes
  else (s.dmaPut 4 (s.raw (dmaOf x)) (s.raw (dmaOf x)) bytes).advanceDma x bytes.length

/-- A received packet that fits (R256): a short one, or the last of the count, ends the chunk. -/
def State.received (s : State) (x : XRef) (num : Fin 16) (dpid : BitVec 2) (bytes : List Byte) : State :=
  let mps := field (s.raw (ctlOf x)) 0 11
  let s := (s.storeRx x num dpid bytes).countPacket x bytes.length
  s.when (decide (bytes.length < mps) || decide (field (s.raw (sizOf x)) 19 10 = 0)) fun s => s.finishRx x

/-- Whether a packet is babble: longer than mps or than the bytes still expected (R256). -/
def State.babbles (s : State) (x : XRef) (n : Nat) : Bool :=
  decide (field (s.raw (ctlOf x)) 0 11 < n) || decide (field (s.raw (sizOf x)) 0 19 < n)

/-- Whether an endpoint takes data: enabled, not answering NAK or STALL, packets left, no descriptor chain. -/
def State.dataOpen (s : State) (e : EpRef) : Bool :=
  let w := s.raw (epCtl e)
  s.present (.ep e) && bitOf w 31 && !bitOf w 17 && !bitOf w 21 && decide (field (s.raw (epSiz e)) 19 10 ≠ 0) && !s.descHw

/-- An IN token to a device endpoint (R255). Where the packet is not acknowledged, LINK has taken its bytes (R255) or sends it
again from the same FIFO words or DMA address (R275): the script says which (log entry 18). An enabled endpoint with EPDIS
pending is served as usual, EP0 IN that is programmed again after an exhausted wait for EPDISBLD (R326, U28) among them (DESIGN
CHOICE, log entry 18). -/
def linkInToken (n : Fin 16) (acked taken : Bool) (s : State) : State :=
  let x : XRef := .ep ⟨n, .IN⟩
  s.when (s.dataOpen ⟨n, .IN⟩ && s.txReady x) fun s =>
    if acked then s.sent x else if taken then s.sendOut x else s.putOut x

/-- A data packet to a device OUT endpoint (R256). A packet for which the Rx FIFO has no room is lost and OUTPKTERR is set
(R50, R277). -/
def linkOutPacket (n : Fin 16) (dpid : BitVec 2) (bytes : List Byte) (s : State) : State :=
  let x : XRef := .ep ⟨n, .OUT⟩
  s.when (s.dataOpen ⟨n, .OUT⟩) fun s =>
    if s.babbles x bytes.length then s.setBits (.DOEPINT n) (bit1 12)
    else if s.rxFits (rxWords bytes.length) then s.received x n dpid bytes
    else s.setBits (.DOEPINT n) (bit1 8)

/-- The 8 bytes of a SETUP packet (R165). -/
def setupBytes (p : SetupPkt) : List Byte := encSetupPkt p

/-- Whether DMA may read a descriptor at an address: 8-byte aligned and reached (R105, R109). -/
def State.descFine (s : State) (a : Word) : Bool := s.dmaFine 8 a a 8

/-- The two words of the descriptor at an address as DMA reads them; free where it may not (U6). -/
def State.descWords (s : State) (a : Word) : Word × Word :=
  if s.descFine a then (s.word a, s.word (a + 4)) else (Config.freeWord s.draws, Config.freeWord (s.draws + 1))

/-- DMA takes the descriptor that an endpoint or channel has reached (R254): the one in hand, or the one at the DMA
address if it reads HostReady; none where it does not own it. -/
def State.fetched (s : State) (x : XRef) : Option Walk :=
  match s.walkOf x with
  | some w => some w
  | none =>
    let d := s.descWords (s.raw (dmaOf x))
    if field d.1 30 2 = 0 then some ⟨x, d.1, d.2, 0⟩ else none

/-- The state in which DMA has read the descriptor: the free words of an ill-formed address are drawn. -/
def State.afterFetch (s : State) (x : XRef) : State :=
  s.when (decide (s.walkOf x = none) && !s.descFine (s.raw (dmaOf x))) fun s => s.drawn 2

/-- DMA writes the status word of the descriptor it is processing (R254). -/
def State.putStatus (s : State) (x : XRef) (w : Word) : State :=
  s.dmaPut 8 (s.raw (dmaOf x)) (s.raw (dmaOf x)) (wordBytes w)

/-- The bytes of a SETUP packet go to `ep0.setup_buf` in the DMA modes (R66, R101), whatever endpoint 0 OUT is armed for and
whichever control endpoint the packet is for (DESIGN CHOICE, log entry 18). -/
def State.depositSetup (s : State) (p : SetupPkt) : State := s.dmaPut 4 s.ep0.setupBuf s.ep0.setupBuf (setupBytes p)

/-- A SETUP packet of 8 bytes has been taken. R51 has XFERSIZE and PKTCNT fall as packets move, and neither it nor R305 says that a
SETUP packet counts, nor does program 2 show it: the script says whether it does (`counts`). SUPCNT stays, whose field R51 gives
to SEQ (DESIGN CHOICE, log entry 18). -/
def State.countSetup (s : State) (n : Fin 16) (counts : Bool) : State :=
  s.when counts fun s => s.countSize (.ep ⟨n, .OUT⟩) 8

/-- The SETUP packet ends the transfer of endpoint 0 OUT and its STALL answers (R305). -/
def State.setupStops (s : State) (p : SetupPkt) (counts : Bool) : State :=
  ((((s.countSetup 0 counts).stopHw (.ep ⟨0, .OUT⟩)).clearBits (.DOEPCTL 0) (bit1 21)).clearBits (.DIEPCTL 0) (bit1 21)).note
    (.busRx (.ep ⟨0, .OUT⟩) (setupBytes p))

/-- In slave mode the SETUP packet goes into the Rx FIFO with the entries 6 and 4, and SETUP waits for the pop of the second
(R305, R265). -/
def State.setupToFifo (s : State) (p : SetupPkt) : State :=
  ((s.queueStatus 0 8 0 6).queueData (setupBytes p)).queueStatus 0 0 0 4

/-- A SETUP packet ends the STALL answers of one direction of a control endpoint (R49). -/
def State.unstall (s : State) (e : EpRef) : State :=
  s.when (decide (field (s.raw (epCtl e)) 18 2 = 0)) fun s => s.clearBits (epCtl e) (bit1 21)

/-- In buffer-DMA mode the SETUP packet goes to memory; the DMA address advances where it pointed there (R52). -/
def State.setupToBuffer (s : State) (p : SetupPkt) : State :=
  let t := s.depositSetup p
  (t.when (decide (t.raw (.DOEPDMA 0) = t.ep0.setupBuf)) fun t => t.advanceDma (.ep ⟨0, .OUT⟩) 8).setBits (.DOEPINT 0) 0x8

/-- In descriptor-DMA mode the SETUP packet goes to memory; the descriptor is written back where it is the one that is armed
for it (R305, R254). SETUP alone is set: XFERCOMPL, which R322 allows beside it, is the act `raiseOut` of the script (DESIGN
CHOICE, log entry 18). -/
def State.setupToChain (s : State) (p : SetupPkt) (w : Walk) : State :=
  let t := s.depositSetup p
  (t.when (decide (w.buf = t.ep0.setupBuf)) fun t =>
    t.putStatus (.ep ⟨0, .OUT⟩) (withField (withField w.word 0 16 (field w.word 0 16 - 8)) 30 2 2)).setBits
      (.DOEPINT 0) 0x8

/-- A SETUP packet for endpoint 0 (R305): taken whenever EPENA = 1 and SUPCNT > 0, whatever the NAK and STALL state;
both STALL bits and EPENA drop. With no room in the Rx FIFO it is not taken (log entry 26); a descriptor that DMA does not
own is BNA (R254). -/
def linkSetupPacket (p : SetupPkt) (counts : Bool) (s : State) : State :=
  let x : XRef := .ep ⟨0, .OUT⟩
  s.when (s.present x && s.enabledHw x && decide (field (s.raw (.DOEPTSIZ 0)) 29 2 ≠ 0) && s.rxFits 4) fun s =>
    if s.slaveHw then (s.setupStops p counts).setupToFifo p
    else if s.descHw then
      match s.fetched x with
      | some w => ((s.afterFetch x).setupStops p counts).setupToChain p w
      | none => ((s.afterFetch x).stopHw x).setBits (.DOEPINT 0) (bit1 9)
    else (s.setupStops p counts).setupToBuffer p

/-- A SETUP packet for another control endpoint. STALL drops in both directions (R49), and its 8 bytes are in the Rx FIFO, with the
entries 6 and 4 (R31), or in memory when SETUP is set (R50). No rule says where in memory: the one SETUP buffer that R101 lists is
`ep0.setup_buf`, and they go there (DESIGN CHOICE, log entry 18). -/
def linkSetupOther (n : Fin 16) (p : SetupPkt) (counts : Bool) (s : State) : State :=
  let x : XRef := .ep ⟨n, .OUT⟩
  s.when (s.present x && decide (field (s.raw (.DOEPCTL n)) 18 2 = 0) && s.rxFits 4) fun s =>
    let t := (((s.countSetup n counts).unstall ⟨n, .OUT⟩).unstall ⟨n, .IN⟩).note (.busRx x (setupBytes p))
    if s.slaveHw then ((t.queueStatus n 8 0 6).queueData (setupBytes p)).queueStatus n 0 0 4
    else (t.depositSetup p).setBits (.DOEPINT n) 0x8

/-- LINK sets a bit of DOEPINT; the SETUP of a control endpoint says that a SETUP packet has arrived, so that STALL drops (R49,
R50). -/
def State.raiseOut (s : State) (n : Fin 16) (k : Fin 32) : State :=
  ((s.when (decide (k = 3 ∧ field (s.raw (.DOEPCTL n)) 18 2 = 0)) fun s =>
    (s.unstall ⟨n, .OUT⟩).unstall ⟨n, .IN⟩)).raise (.DOEPINT n) k

/-- Whether the disable of an endpoint or channel has been asked for: EPDIS or CHDIS reads 1. -/
def State.disablePending (s : State) (x : XRef) : Bool := s.present x && bitOf (s.raw (ctlOf x)) 30

/-- The disable of an endpoint is confirmed (R284, R285). For EPDIS written while EPENA is 0, or still pending when EPENA drops,
R49 says nothing: LINK may confirm it at any time or never (DESIGN CHOICE, log entry 18). -/
def linkEndpointDisabled (e : EpRef) (s : State) : State :=
  s.when (s.disablePending (.ep e)) fun s => (s.disableHw (.ep e)).setBits (epInt e) 0x2

/-- The disable of a channel is confirmed (R353, R358); in slave mode by a status entry 7 (R31), for which the Rx FIFO must
have room. For CHDIS and CHENA the same choice is made as for EPDIS and EPENA (DESIGN CHOICE, log entry 18). -/
def linkChannelDisabled (c : Fin 16) (s : State) : State :=
  s.when (s.disablePending (.ch c) && s.rxFits 1) fun s =>
    if s.slaveHw then (s.disableHw (.ch c)).queueStatus c 0 0 7 else (s.disableHw (.ch c)).setBits (.HCINT c) 0x2

/-- Whether a periodic channel is in the frame parity it is armed for (R374); any other channel always is. -/
def State.inParity (s : State) (c : Fin 16) : Bool :=
  let w := s.raw (.HCCHAR c)
  !periodicCode (field w 18 2) || decide (bitOf (s.raw .HFNUM) 0 = bitOf w 29)

/-- Whether a channel's transaction can happen now: enabled; in slave mode a request is queued or in LINK's hand
(R361); a periodic channel in the frame parity it is armed for (R374). -/
def State.transacts (s : State) (c : Fin 16) : Bool :=
  let w := s.raw (.HCCHAR c)
  let asked := s.fifo.inHand.contains c || s.fifo.npReq.contains c || s.fifo.pReq.contains c
  s.present (.ch c) && bitOf w 31 && (!s.slaveHw || asked) && s.inParity c

/-- LINK takes a request of a channel from a queue, whose space frees at once, and has it in hand until it performs the
transaction: a host OUT waits for the words of its packet (R255, R70). No rule bounds how many it has in hand. -/
def linkTakeRequest (c : Fin 16) (periodic : Bool) (s : State) : State :=
  let q := if periodic then s.fifo.pReq else s.fifo.npReq
  s.when (s.slaveHw && s.present (.ch c) && s.enabledHw (.ch c) && q.contains c) fun s =>
    if periodic then { s with fifo := { s.fifo with pReq := q.erase c, inHand := c :: s.fifo.inHand } }
    else { s with fifo := { s.fifo with npReq := q.erase c, inHand := c :: s.fifo.inHand } }

/-- Whether a channel performs the start-split of a split transaction (R40, R372). -/
def State.startSplit (s : State) (c : Fin 16) : Bool :=
  bitOf (s.raw (.HCSPLT c)) 31 && !bitOf (s.raw (.HCSPLT c)) 16

/-- Whether ACK, NAK and NYET stop the channel in the DMA modes: split or periodic (R361). -/
def State.softStops (s : State) (c : Fin 16) : Bool :=
  bitOf (s.raw (.HCSPLT c)) 31 || periodicCode (field (s.raw (.HCCHAR c)) 18 2)

/-- LINK records the outcome of a transaction of a channel; in the DMA modes an outcome that stops the channel comes with
CHHLTD (R361). -/
def State.outcome (s : State) (c : Fin 16) (w : Word) (stops : Bool) : State :=
  if !s.slaveHw && stops then (s.stopHw (.ch c)).post (.HCINT c) (w ||| 0x2) else s.post (.HCINT c) w

/-- The data of an acknowledged host OUT transaction has moved, and ACK is recorded (R361, R255): with the last packet
XFERCOMPL comes too, in slave mode without CHHLTD, so that a disable under way is still to be confirmed. -/
def State.sentAcked (s : State) (c : Fin 16) : State :=
  let x : XRef := .ch c
  let t := (s.sendOut x).countPacket x (s.nextTx x)
  if field (t.raw (.HCTSIZ c)) 19 10 = 0 then
    (if t.slaveHw then (t.endHw x).post (.HCINT c) 0x21 else (t.stopHw x).post (.HCINT c) 0x23)
  else t.outcome c 0x20 (t.softStops c)

/-! DMA and the descriptor chains (R72, R117, R254, R441). -/

/-- Whether DMA is walking a chain of an endpoint or channel. -/
def State.walking (s : State) (x : XRef) : Bool := s.present x && s.enabledHw x && s.descHw && !s.slaveHw

/-- Whether the data of a chain may move now: an endpoint that answers neither NAK nor STALL (R305, R325); a channel of
interrupt type in the frame parity it is armed for (R374), an isochronous one in the frame of its descriptor (R441). The
start-split of a generic chain is an outcome without data of its own (R372, `State.startSplitAcked`). R40 and R372 leave the
splits of an isochronous channel open (N11): its slots are served on the start-split as on a channel without splits, IN data
included (DESIGN CHOICE, log entry 18). -/
def State.moving (s : State) (x : XRef) : Bool :=
  s.walking x && (match x with
    | .ep e => !bitOf (s.raw (epCtl e)) 17 && !bitOf (s.raw (epCtl e)) 21
    | .ch c => s.isoHw x || (s.inParity c && !s.startSplit c))

/-- DMA met a descriptor it does not own: BNA, and the chain stops (R254, R361). -/
def State.bna (s : State) (x : XRef) : State :=
  match x with
  | .ep e => (s.stopHw x).setBits (epInt e) (bit1 9)
  | .ch c => (s.stopHw x).post (.HCINT c) (bit1 11 ||| 0x2)

/-- DMA works on the descriptor that it has reached, or stops at one it does not own (R117, R254). -/
def State.onDesc (s : State) (x : XRef) (f : Walk → State → State) : State :=
  match s.fetched x with
  | some w => f w (s.afterFetch x)
  | none => (s.afterFetch x).bna x

/-- DMA keeps a descriptor in hand (R72). -/
def State.keepWalk (s : State) (w : Walk) : State := { s.dropWalk w.x with engine := w :: (s.dropWalk w.x).engine }

/-- The write-back of a descriptor and the next move of the walk (R254): `word` is its status word but for BS; IOC sets
XFERCOMPL; L, or a short receive, stops the chain and sets it too; else the walk goes on at the next 8 bytes. -/
def State.writeBack (s : State) (x : XRef) (word : Word) (ends : Bool) : State :=
  let s := (s.putStatus x (withField word 30 2 2)).dropWalk x
  if bitOf word 27 || ends then s.finishHw x
  else (s.when (bitOf word 25) fun s => s.post (intOf x) 0x1).hwSet (dmaOf x) (s.raw (dmaOf x) + 8)

/-- DMA reaches a descriptor: it marks it as DmaBusy and keeps it in hand (R117, R254). -/
def dmaBusy (x : XRef) (s : State) : State :=
  s.when (s.walking x) fun s => s.onDesc x fun w s =>
    (s.putStatus x (withField w.word 30 2 1)).keepWalk w

/-- A packet of a generic descriptor has moved (R254): the toggle flips (R42, R49); a descriptor that is done, or a
receive that ends short, is written back, any other stays in hand. -/
def State.packetMoved (s : State) (w : Walk) (n : Nat) (short : Bool) : State :=
  let bytes := field w.word 0 16
  let s := s.flipToggle w.x
  if bytes ≤ w.moved + n || short then
    s.writeBack w.x (withField (withField w.word 28 2 0) 0 16 (bytes - (w.moved + n))) short
  else s.keepWalk { w with moved := w.moved + n }

/-- The data of a descriptor met an error on the bus (R254): STS = BufferError, BYTES the bytes not moved. -/
def State.busError (s : State) (w : Walk) : State :=
  s.writeBack w.x (withField (withField w.word 28 2 3) 0 16 (field w.word 0 16 - w.moved)) false

/-- Whether a channel performs the complete-split of an OUT, which carries no data (R372). -/
def State.outCsplitHw (s : State) (x : XRef) : Bool :=
  match x with
  | .ep _ => false
  | .ch c => s.transmitsHw x && bitOf (s.raw (.HCSPLT c)) 31 && bitOf (s.raw (.HCSPLT c)) 16

/-- The outcome of a transaction that has moved a packet of a chain: where ACK is recorded and the channel still runs, a split
or periodic channel stops (R361). -/
def State.ackMoved (s : State) (x : XRef) (acked : Bool) : State :=
  match x with
  | .ep _ => s
  | .ch c => s.when acked fun s => s.outcome c 0x20 (s.enabledHw x && s.softStops c)

/-- Bytes of a descriptor's buffer, from byte `k` on, go out on the bus (R254, R109). -/
def State.descOut (s : State) (x : XRef) (buf : Word) (k n : Nat) : State :=
  let d := s.dmaRead buf (buf + BitVec.ofNat 32 k) n
  d.2.note (.busTx x d.1)

/-- Received bytes go into a descriptor's buffer, from byte `k` on (R254, R109). -/
def State.descIn (s : State) (x : XRef) (buf : Word) (k : Nat) (bytes : List Byte) : State :=
  (s.note (.busRx x bytes)).dmaPut 4 buf (buf + BitVec.ofNat 32 k) bytes

/-- A packet of a generic transmit descriptor is sent (R254, R248); the data of a split OUT has gone with the start-split, so
that its complete-split finishes the descriptor without data (R372). -/
def State.descSent (s : State) (x : XRef) (w : Walk) : State :=
  let n := min (field (s.raw (ctlOf x)) 0 11) (field w.word 0 16 - w.moved)
  if s.outCsplitHw x then (s.note (.busTx x [])).packetMoved w (field w.word 0 16) false
  else (s.descOut x w.buf w.moved n).packetMoved w n false

/-- DMA sends one packet of a generic descriptor (R254), or fails on the bus. Whether LINK records ACK of a channel with it is
left to the script (R361). -/
def dmaSend (x : XRef) (acked error : Bool) (s : State) : State :=
  s.when (s.moving x && s.transmitsHw x && !s.isoHw x) fun s => s.onDesc x fun w s =>
    if error then s.busError w else (s.descSent x w).ackMoved x acked

/-- DMA stores one packet of a generic receive descriptor (R254, R256): a packet shorter than mps ends the receive; one
that is longer than mps or than what the descriptor still takes is babble. Whether LINK records ACK of a channel with it is
left to the script (R361). -/
def dmaStore (x : XRef) (bytes : List Byte) (acked error : Bool) (s : State) : State :=
  s.when (s.moving x && !s.transmitsHw x && !s.isoHw x) fun s => s.onDesc x fun w s =>
    let mps := field (s.raw (ctlOf x)) 0 11
    if error then s.busError w
    else if mps < bytes.length || field w.word 0 16 - w.moved < bytes.length then
      (match x with
       | .ep e => s.setBits (epInt e) (bit1 12)
       | .ch c => s.outcome c 0x100 true)
    else
      ((s.descIn x w.buf w.moved bytes).packetMoved w bytes.length (decide (bytes.length < mps))).ackMoved x acked

/-- DMA sends one packet of a generic descriptor, and no ACK is recorded. -/
def dmaTx (x : XRef) (error : Bool) (s : State) : State := dmaSend x false error s

/-- DMA stores one packet of a generic receive descriptor, and no ACK is recorded. -/
def dmaRx (x : XRef) (bytes : List Byte) (error : Bool) (s : State) : State := dmaStore x bytes false error s

/-! Transactions of the host channels (R361, R372). -/

/-- The start-split of a generic OUT descriptor is acknowledged (R372, R254): its data has gone out, the descriptor stays
DmaBusy, and its completion is left to the complete-split. -/
def State.startSplitSent (s : State) (x : XRef) (w : Walk) : State :=
  let n := min (field (s.raw (ctlOf x)) 0 11) (field w.word 0 16)
  (s.descOut x w.buf 0 n).putStatus x (withField w.word 30 2 1)

/-- A start-split is acknowledged (R372, R361): the data of an OUT has gone out with it, and the channel stops. In
descriptor-DMA mode the data is that of the descriptor, and one that DMA does not own is BNA. -/
def State.startSplitAcked (s : State) (c : Fin 16) : State :=
  let x : XRef := .ch c
  if s.transmitsHw x && s.descHw && !s.isoHw x then s.onDesc x fun w s => (s.startSplitSent x w).outcome c 0x20 true
  else (s.when (s.transmitsHw x && decide (s.nextTx x ≠ 0)) fun s => s.sendOut x).outcome c 0x20 true

/-- An OUT packet of a channel outside descriptor-DMA mode that the peer does not acknowledge (R255): LINK has taken its bytes,
or keeps them to send it again; the script says which (log entry 18). -/
def State.unacked (s : State) (c : Fin 16) (taken : Bool) : State :=
  s.when (taken && s.transmitsHw (.ch c) && !s.descHw && decide (field (s.raw (.HCTSIZ c)) 19 10 ≠ 0)) fun s => s.sendOut (.ch c)

/-- The outcome of a transaction that is not acknowledged: its bit of HCINT, and whether it stops the channel in the DMA modes
(R361). -/
def State.failed (s : State) (c : Fin 16) : Handshake → State
  | .ack => s
  | .nak => s.outcome c 0x10 (s.softStops c)
  | .nyet => s.outcome c 0x40 (s.softStops c)
  | .stall => s.outcome c 0x08 true
  | .xactErr => s.outcome c 0x80 true
  | .babble => s.outcome c 0x100 true
  | .ahbErr => s.outcome c 0x04 true

/-- A transaction of a host channel that carries no IN data (R361, R255). An OUT transaction waits until the words of its
packet are in the Tx FIFO. -/
def linkHandshake (c : Fin 16) (h : Handshake) (taken : Bool) (s : State) : State :=
  let x : XRef := .ch c
  s.when (s.transacts c && (!s.transmitsHw x || s.txReady x)) fun s0 =>
    let s := s0.takeRequest c
    if h = .ack then
      (if s.startSplit c then s.startSplitAcked c
       else if s.descHw then dmaSend x true false s0
       else s0.when (s.transmitsHw x && decide (field (s.raw (.HCTSIZ c)) 19 10 ≠ 0)) fun _ => s.sentAcked c)
    else (s.unacked c taken).failed c h

/-- An IN data packet of a host channel outside descriptor-DMA mode (R361, R256), for which the Rx FIFO must have room. -/
def linkInDirect (c : Fin 16) (dpid : BitVec 2) (acked : Bool) (bytes : List Byte) (s : State) : State :=
  let x : XRef := .ch c
  s.when (s.transacts c && !s.transmitsHw x && !s.startSplit c && decide (field (s.raw (.HCTSIZ c)) 19 10 ≠ 0) &&
      s.rxFits (rxWords bytes.length)) fun s =>
    let s := s.takeRequest c
    if s.babbles x bytes.length then s.outcome c 0x100 true
    else
      let t := (s.when acked fun s => s.post (.HCINT c) 0x20).received x c dpid bytes
      if t.enabledHw x && acked && t.softStops c && !t.slaveHw then (t.stopHw x).post (.HCINT c) 0x2 else t

/-- An IN data packet of a host channel (R361). Whether LINK also records ACK as the outcome of a transaction that brings data
is left to the script: the rule gives the outcomes, program 4 shows the data without it. -/
def linkInData (c : Fin 16) (dpid : BitVec 2) (acked : Bool) (bytes : List Byte) (s : State) : State :=
  if s.descHw then dmaStore (.ch c) bytes acked false s else linkInDirect c dpid acked bytes s

/-! Isochronous chains (R441). -/

/-- The frame number LINK is in (R36, R45). -/
def State.frameHw (s : State) : Nat :=
  if s.hostMode then field (s.raw .HFNUM) 0 14 else field (s.raw .DSTS) 8 14

/-- Per descriptor written back, LINK counts DOEPTSIZ[n].PKTCNT of an isochronous OUT endpoint down (R441). -/
def State.countSlot (s : State) (x : XRef) : State :=
  match x with
  | .ep ⟨n, .OUT⟩ =>
    s.hwSet (.DOEPTSIZ n)
      (withField (s.raw (.DOEPTSIZ n)) 19 10 (field (s.raw (.DOEPTSIZ n)) 19 10 - 1))
  | .ep ⟨_, .IN⟩ | .ch _ => s

/-- An isochronous slot is lost (R441): PacketDropped with BYTES unchanged; or its data met a bus error (R162). -/
def State.slotLost (s : State) (x : XRef) (w : Walk) (error : Bool) : State :=
  (s.countSlot x).writeBack x (withField w.word 28 2 (if error then 3 else 1)) false

/-- Whether the frame of an isochronous descriptor is the current one or has passed. FRNUM has 11 bits, so that half of the
numbers count as passed and half as still to come (DESIGN CHOICE, log entry 18). -/
def State.slotDue (s : State) (w : Walk) : Bool := decide ((s.frameHw + 2048 - field w.word 12 11) % 2048 < 1024)

/-- An isochronous slot is served in its frame (R441): a transmit slot is sent whole, a receive slot takes the bytes that
arrived and their PID; one in which no data has moved is lost. -/
def isoServed (x : XRef) (pid : BitVec 2) (bytes : List Byte) (s : State) : State :=
  s.when (s.moving x && s.isoHw x) fun s => s.onDesc x fun w s =>
    let room := field w.word 0 12
    s.when (decide (field w.word 12 11 = s.frameHw % 2048) && (s.transmitsHw x || decide (bytes.length ≤ room))) fun s =>
      if s.transmitsHw x then
        ((s.descOut x w.buf 0 room).countSlot x).writeBack x (withField (withField w.word 28 2 0) 0 12 0) false
      else if bytes = [] then s.slotLost x w false
      else
        ((s.descIn x w.buf 0 bytes).countSlot x).writeBack x
          (withField (withField (withField w.word 28 2 0) 0 12 (room - bytes.length)) 23 2 pid.toNat) false

/-- An isochronous slot whose frame is here or has passed is lost (R441). -/
def isoMissed (x : XRef) (error : Bool) (s : State) : State :=
  s.when (s.walking x && s.isoHw x) fun s => s.onDesc x fun w s => s.when (s.slotDue w) fun s => s.slotLost x w error

/-! The ownership of descriptors (R117, U7). -/

/-- Whether a descriptor array has a slot that covers an address and that DMA owns: HostReady or DmaBusy. -/
def State.ownedSlot (s : State) (base a : Word) : Bool :=
  let k := (a - base).toNat / 8
  decide (k < s.hw.maxDesc) && decide (field (s.word (base + BitVec.ofNat 32 (8 * k))) 30 2 < 2)

/-- Whether an address lies in a descriptor that is HostReady or DmaBusy while DMA walks the chain of its owner: nobody but
DMA may write it (R117, R118, U7). -/
def State.owned (s : State) (a : Word) : Bool :=
  s.plat.descArrays.any fun p => s.walking p.1.1 && s.ownedSlot p.2 a

/-- LINK stops the chain of an isochronous OUT endpoint at a lost packet and sets ISOOUTDROP (R441, U16): the descriptor at
which it stops stays HostReady, so DMA has none in hand, and its frame is here or has passed. -/
def isoDropStop (n : Fin 16) (s : State) : State :=
  let x : XRef := .ep ⟨n, .OUT⟩
  s.when (s.walking x && s.isoHw x && decide (s.walkOf x = none)) fun s =>
    match s.fetched x with
    | some w => (s.afterFetch x).when (s.slotDue w) fun s => (s.stopHw x).setBits .GINTSTS (bit1 14)
    | none => s.afterFetch x

/-- The host resets the bus (R481): endpoint 0 is not armed from then on, until ENUMDONE arms it (DEDUCED, log entry 40). -/
def linkBusReset (s : State) : State :=
  s.when (!s.hostMode) fun s =>
    (s.when (s.enabledHw (.ep ⟨0, .OUT⟩)) fun s => s.stopHw (.ep ⟨0, .OUT⟩)).setBits .GINTSTS (bit1 12)

/-- The frame counter of the current mode advances, modulo 2^14 (R36, R45, R491). -/
def linkFrame (s : State) : State :=
  if s.hostMode then s.hwSet .HFNUM (withField (s.raw .HFNUM) 0 16 ((field (s.raw .HFNUM) 0 14 + 1) % 16384))
  else s.hwSet .DSTS (withField (s.raw .DSTS) 8 14 (field (s.raw .DSTS) 8 14 + 1))

/-- Whether R31 gives a code of PKTSTS a meaning in the current mode. -/
def State.entryCode (s : State) (code : Nat) : Bool :=
  if s.hostMode then decide (code = 2 ∨ code = 3 ∨ code = 7) else decide (code = 2 ∨ code = 3 ∨ code = 4 ∨ code = 6)

/-- LINK queues an Rx status entry of a reserved code, which R31 and U20 provide for: it takes its word of the Rx FIFO and brings
no data. -/
def linkReserved (num : Fin 16) (bcnt : BitVec 11) (dpid : BitVec 2) (code : BitVec 4) (s : State) : State :=
  s.when (s.slaveHw && !s.entryCode code.toNat && s.rxFits 1) fun s => s.queueStatus num bcnt.toNat dpid code.toNat

/-- One act of the environment. UPPER's write of a byte that lies in a descriptor DMA owns is none: U7 makes it a precondition
of the write (log entry 40). -/
def envAct : EnvAct → State → State
  | .softResetDone, s => linkSoftReset s
  | .txFlushDone, s => linkTxFlush s
  | .rxFlushDone, s => linkRxFlush s
  | .ahbIdle b, s => s.hwSet .GRSTCTL (withBit (s.raw .GRSTCTL) 31 b)
  | .curmod h, s => s.hwSet .GINTSTS (withBit (s.raw .GINTSTS) 0 h)
  | .conid b, s => s.hwSet .GOTGCTL (withBit (s.raw .GOTGCTL) 16 b)
  | .sessions a b, s => s.hwSet .GOTGCTL (withBit (withBit (s.raw .GOTGCTL) 18 a) 19 b)
  | .hnpOutcome b, s => s.hwSet .GOTGCTL (withBit (s.raw .GOTGCTL) 8 b)
  | .srpOutcome b, s => s.hwSet .GOTGCTL (withBit (s.raw .GOTGCTL) 0 b)
  | .raiseTop k, s => s.raise .GINTSTS k
  | .raiseOtg k, s => s.raise .GOTGINT k
  | .raiseIn n k, s => s.when (decide (n.val < s.hw.caps.nEp)) fun s => s.raise (.DIEPINT n) k
  | .raiseOut n k, s => s.when (decide (n.val < s.hw.caps.nEp)) fun s => s.raiseOut n k
  | .raiseCh c k, s => s.when (decide (c.val < s.hw.caps.nCh)) fun s => s.raise (.HCINT c) k
  | .frameTick, s => linkFrame s
  | .frameRemaining r, s => s.hwSet .HFNUM (withField (s.raw .HFNUM) 16 16 r.toNat)
  | .enumSpeed v, s => s.hwSet .DSTS (withField (s.raw .DSTS) 1 2 v.toNat)
  | .suspended b, s => s.hwSet .DSTS (withBit (s.raw .DSTS) 0 b)
  | .endpointDisabled e, s => linkEndpointDisabled e s
  | .channelDisabled c, s => linkChannelDisabled c s
  | .inToken n acked taken, s => linkInToken n acked taken s
  | .outPacket n d bs, s => linkOutPacket n d bs s
  | .setupPacket n p counts, s => if n = 0 then linkSetupPacket p counts s else linkSetupOther n p counts s
  | .takeRequest c periodic, s => linkTakeRequest c periodic s
  | .chHandshake c h taken, s => linkHandshake c h taken s
  | .chInData c d a bs, s => linkInData c d a bs s
  | .dmaBusy x, s => dmaBusy x s
  | .dmaTx x e, s => dmaTx x e s
  | .dmaRx x bs e, s => dmaRx x bs e s
  | .isoServed x p bs, s => isoServed x p bs s
  | .isoMissed x e, s => isoMissed x e s
  | .isoDropStop n, s => isoDropStop n s
  | .rxReserved n k d code, s => linkReserved n k d code s
  | .memWrite a b, s => s.when (!s.owned a) fun s => s.setByte a b
  | .hold b, s => { s with hold := b }
  | .deliver r k, s => s.when (s.owed.contains (r, k)) fun s =>
      State.raise { s with owed := s.owed.erase (r, k) } r k
  | .busReset, s => linkBusReset s

/-- The acts of one slot, in order. -/
def envActs : List EnvAct → State → State
  | [], s => s
  | a :: as, s => envActs as (envAct a s)

/-- The next slot of the environment's script. -/
def State.takeSlot (s : State) : State :=
  match s.env with
  | [] => s
  | slot :: rest => envActs slot { s with env := rest }

/-- A prompt LINK finishes a reset, the flushes and the disable of EP0 IN (R204, R216, R326). -/
def promptActs (s : State) : State :=
  linkEndpointDisabled ⟨0, .IN⟩ (linkRxFlush (linkTxFlush (linkSoftReset s)))

/-- LINK and DMA between two atomic steps of the sequencer (R474). -/
def State.tick (s : State) : State := s.takeSlot.when s.prompt promptActs

end Sys2Proof.Machine
end

