-- ==== Sys2Proof/Machine/Operands.lean ====
section
/-! DEFINITION. The sequencer's steps: one register or memory access at a time, with LINK, DMA and the interrupt handler
between any two (R104, R112, R471); bounded polls, assertions, callbacks, the critical section; and the operand forms:
endpoints, channels, requests and their records. -/

namespace Sys2Proof.Machine

open Sys2Proof

/-- What a sequencer step may call from outside its own rule: UPPER's commands inside a callback, the interrupt handler,
and the retry of a deferred halt. Machine/Nest.lean gives them their meaning, level by level. -/
structure Hooks where
  upper : State → Except Stop State
  irq : State → Except Stop State
  retry : Fin 16 → State → Except Stop State

/-- A sequencer procedure: it reads and changes the state and may stop. -/
abbrev M (α : Type) := ReaderT Hooks (StateT State (Except Stop)) α

/-- Read the state through `f`. -/
def ask {α : Type} (f : State → α) : M α := fun _ s => .ok (f s, s)

/-- Change the state by `f`. -/
def act (f : State → State) : M Unit := fun _ s => .ok ((), f s)

/-- Stop. -/
def stopWith {α : Type} (e : Stop) : M α := fun _ _ => .error e

/-- Call a hook. -/
def callHook (f : Hooks → State → Except Stop State) : M Unit := fun h s =>
  match f h s with
  | .ok t => .ok ((), t)
  | .error e => .error e

/-- Run a procedure only where the condition holds. -/
def doIf (c : Bool) (p : M Unit) : M Unit := if c then p else pure ()

/-- Run a procedure for each element, in order. -/
def forEach {α : Type} : List α → (α → M Unit) → M Unit
  | [], _ => pure ()
  | a :: as, p => do
    p a
    forEach as p

/-- `poll(cond, limit)`: at most `limit` evaluations, true at the first that holds (R17). -/
def poll (cond : M Bool) : Nat → M Bool
  | 0 => pure false
  | n + 1 => do
    let b ← cond
    if b then pure true else poll cond n

/-- `assert c` (R17, R458). -/
def assertThat (c : Bool) (a : Assertion) : M Unit := do
  let debug ← ask fun s => s.hw.debug
  if !c && debug then stopWith (.fault (.assertion a)) else pure ()

/-- A log output (R494). -/
def logMsg (m : LogMsg) : M Unit := act fun s => s.note (.log m)

/-- A callback: recorded with its arguments, then UPPER may issue commands from inside it (R176, R471). -/
def callback (c : Callback) : M Unit := do
  act fun s => s.note (.cb c)
  callHook Hooks.upper

/-! Accesses. -/

/-- What may happen before an access: LINK and DMA act (R474), and in task context the handler runs if the line is high
(R471, R545). -/
def between : M Unit := do
  act State.tick
  let due ← ask State.irqDue
  if due then callHook Hooks.irq else pure ()

/-- The read itself, of a register that answers; what LINK does after a pop comes after it. -/
def readNow (r : Reg) : M Word := do
  let v ← ask fun s => (s.readReg r).1
  act fun s => ((s.note (.rd r.offset v)).readReg r).2
  pure v

/-- The write itself, of a register that answers. -/
def writeNow (r : Reg) (v : Word) : M Unit := act fun s => (s.writeReg r v).note (.wr r.offset v)

/-- `REG[X]`: one read on the register port (R16, R104). A register that does not answer faults (R24, R459). -/
def regRead (r : Reg) : M Word := do
  between
  let ok ← ask fun s => s.accessible r
  if ok then readNow r else stopWith (.fault (.accessFault r.offset))

/-- `REG[X] <- v`: one write on the register port (R16, R104). -/
def regWrite (r : Reg) (v : Word) : M Unit := do
  between
  let ok ← ask fun s => s.accessible r
  if ok then writeNow r v else stopWith (.fault (.accessFault r.offset))

/-- A read-modify-write: two accesses (R16, R106). -/
def regUpdate (r : Reg) (f : Word → Word) : M Unit := do
  let t ← regRead r
  regWrite r (f t)

/-- A read-modify-write whose new word depends on the state right after the read. -/
def regUpdateAt (r : Reg) (f : State → Word → Word) : M Unit := do
  let t ← regRead r
  let s ← ask id
  regWrite r (f s t)

/-- `MemRead32(a)` (R253, R273). -/
def memRead32 (a : Word) : M Word := do
  between
  let w ← ask fun s => s.word a
  act fun s => s.note (.mr a.toNat w)
  pure w

/-- `MemWrite32(a, v)` (R253): a descriptor that DMA owns has no successor state (R117, U7). -/
def memWrite32 (a : Word) (v : Word) : M Unit := do
  between
  let theirs ← ask fun s => s.owned a
  if theirs then stopWith (.fault .stuckOwnedDescriptor)
  else act fun s => (s.setWord a v).note (.mw a.toNat v)

/-- A control word of an endpoint as a read-modify-write writes it back: the W1S bits CNAK, SNAK, SETD0PID, SETD1PID, EPDIS and
EPENA are 0 unless the rule sets them (R106). -/
def keepControl (w : Word) : Word := w &&& 0x03FFFFFF

/-- The control word that asks for the disable of an endpoint: SNAK and EPDIS are set, EPENA is written back as read (R284,
R287). -/
def haltWord (w : Word) : Word := keepControl w ||| (w &&& bit1 31) ||| 0x48000000

/-- `core.dma_mode = slave`. -/
def State.isSlave (s : State) : Bool := decide (s.core.dmaMode = .slave)
/-- `core.dma_mode = desc_dma`. -/
def State.isDesc (s : State) : Bool := decide (s.core.dmaMode = .descDma)

/-- A word that a read-modify-write gives back: where the read told nothing, since a reset or a flush settles (R540), its DMA
bit is the one `core_init` has fixed (R552; DEDUCED, log entry 38). -/
def State.keepDma (s : State) (k : Nat) (b : Bool) (w : Word) : Word := if s.unsettled then withBit w k b else w

/-- `REG[GAHBCFG].GLBLINTRMSK <- b` (R214, R215); DMAEN stays as it was programmed (R552), also where a handler that runs before
the read has left a flush unsettled. -/
def setGate (b : Bool) : M Unit := regUpdateAt .GAHBCFG fun s t => s.keepDma 5 (!s.isSlave) (withBit t 0 b)

/-- `critical { body }` (R245): in task context the gate is closed if it was open, and restored. -/
def critical {α : Type} (body : M α) : M α := do
  let c ← ask State.ctx
  match c with
  | .isr => body
  | .task => do
    let g ← regRead .GAHBCFG
    doIf (bitOf g 0) (setGate false)
    let r ← body
    doIf (bitOf g 0) (setGate true)
    pure r

/-! Endpoints, channels and requests. -/

/-- The record of an endpoint. -/
def State.ep (s : State) (e : EpRef) : EpRec :=
  match e.dir with
  | .IN => s.epIn[e.num.val]
  | .OUT => s.epOut[e.num.val]

/-- Change the record of an endpoint. -/
def State.modEp (s : State) (e : EpRef) (f : EpRec → EpRec) : State :=
  match e.dir with
  | .IN => { s with epIn := s.epIn.set e.num.val (f s.epIn[e.num.val]) }
  | .OUT => { s with epOut := s.epOut.set e.num.val (f s.epOut[e.num.val]) }

/-- The record of a channel. -/
def State.chan (s : State) (c : Fin 16) : ChRec := s.ch[c.val]

/-- Change the record of a channel. -/
def State.modCh (s : State) (c : Fin 16) (f : ChRec → ChRec) : State :=
  { s with ch := s.ch.set c.val (f s.ch[c.val]) }

/-- The transfer bookkeeping of an endpoint or channel. -/
def State.xfer (s : State) : XRef → Xfer
  | .ep e => (s.ep e).x
  | .ch c => (s.chan c).x

/-- Change the transfer bookkeeping of an endpoint or channel. -/
def State.modX (s : State) (x : XRef) (f : Xfer → Xfer) : State :=
  match x with
  | .ep e => s.modEp e fun r => { r with x := f r.x }
  | .ch c => s.modCh c fun r => { r with x := f r.x }

def modEp (e : EpRef) (f : EpRec → EpRec) : M Unit := act fun s => s.modEp e f
def modCh (c : Fin 16) (f : ChRec → ChRec) : M Unit := act fun s => s.modCh c f
def modX (x : XRef) (f : Xfer → Xfer) : M Unit := act fun s => s.modX x f
def modCore (f : CoreRec → CoreRec) : M Unit := act fun s => { s with core := f s.core }
def modEp0 (f : Ep0Rec → Ep0Rec) : M Unit := act fun s => { s with ep0 := f s.ep0 }

/-- `x.mps`. -/
def State.mpsOf (s : State) : XRef → Nat
  | .ep e => (s.ep e).mps
  | .ch c => (s.chan c).params.mps.toNat

/-- The transfer type of an endpoint or channel. -/
def State.typeOf (s : State) : XRef → XferType
  | .ep e => (s.ep e).type
  | .ch c => (s.chan c).params.epType

/-- `x.multi_count`. -/
def State.multiOf (s : State) : XRef → Nat
  | .ep e => (s.ep e).multiCount
  | .ch c => (s.chan c).params.multiCount.toNat

/-- `x.interval`. -/
def State.intervalOf (s : State) : XRef → Nat
  | .ep e => (s.ep e).interval
  | .ch c => (s.chan c).params.interval.toNat

/-- Periodic: interrupt or isochronous. -/
def typePeriodic : XferType → Bool
  | .interrupt | .isochronous => true
  | .control | .bulk => false

/-- Transmit: device IN or host OUT. -/
def State.transmits (s : State) : XRef → Bool
  | .ep e => decide (e.dir = .IN)
  | .ch c => decide ((s.chan c).params.epDir = .OUT)

/-- A request by its identity; a free slot reads as the blank request, which only a caller error can name (DESIGN CHOICE, log
entry 6). -/
def State.reqAt (s : State) : ReqId → Req
  | .pool h => ((s.pool[h]?).getD none).getD blankReq
  | .ep0 => s.ep0.request

/-- Change a request. -/
def State.modReqAt (s : State) (i : ReqId) (f : Req → Req) : State :=
  match i with
  | .pool h => { s with pool := s.pool.modify h fun o => o.map f }
  | .ep0 => { s with ep0 := { s.ep0 with request := f s.ep0.request } }

/-- `req`, the active request of an endpoint or channel. Where there is none, R358 still has a HALT to try again (Nak, Ack, XactErr)
program the channel, which R247 does from `req`: it is the blank request then, of length 0 at address 0 (DESIGN CHOICE, log entry
6). -/
def State.reqOf (s : State) (x : XRef) : Req :=
  match (s.xfer x).active with
  | some i => s.reqAt i
  | none => blankReq

/-- Change the active request of an endpoint or channel. -/
def modReq (x : XRef) (f : Req → Req) : M Unit := act fun s =>
  match (s.xfer x).active with
  | some i => s.modReqAt i f
  | none => s

/-- Whether a pool slot is used. -/
def State.slotUsed (s : State) (h : Nat) : Bool := ((s.pool[h]?).getD none).isSome

/-- The isochronous record of an endpoint or channel; the newer one of two (DESIGN CHOICE, log entry 47, `addIso`). -/
def State.isoOf (s : State) (x : XRef) : Option IsoRec := s.iso.find? (fun r => decide (r.owner = x))

/-- Change the isochronous record of an endpoint or channel, both of two (DESIGN CHOICE, log entry 47). -/
def modIso (x : XRef) (f : IsoRec → IsoRec) : M Unit := act fun s =>
  { s with iso := s.iso.map fun r => if r.owner = x then f r else r }

/-- Drop the isochronous record of an endpoint or channel, both of two (DESIGN CHOICE, log entry 47). -/
def dropIso (x : XRef) : M Unit := act fun s =>
  { s with iso := s.iso.filter fun r => decide (r.owner ≠ x) }

/-- Whether the block is in a peripheral role (R400). -/
def State.peripheral (s : State) : Bool :=
  match s.core.opState with
  | .aPeripheral | .bPeripheral => true
  | .aHost | .bHost | .aSuspend => false

/-- `desc_array(x, which)` (R14). -/
def State.descArray (s : State) (x : XRef) (which : Bool) : Option Word :=
  (s.plat.descArrays.find? (fun p => decide (p.1 = (x, which)))).map Prod.snd

/-- The endpoints 1 to N_EP-1, IN before OUT for each number. -/
def State.dataEndpoints (s : State) : List EpRef :=
  ((List.finRange 16).filter (fun n => decide (n.val ≠ 0) && decide (n.val < s.core.caps.nEp))).flatMap
    fun n => [⟨n, .IN⟩, ⟨n, .OUT⟩]

/-- The channels 0 to N_CH-1 in ascending order. -/
def State.channels (s : State) : List (Fin 16) :=
  (List.finRange 16).filter (fun c => decide (c.val < s.core.caps.nCh))

/-- The result of a meaning: what it returns is recorded, in the state and as the return line of the trace (R178). -/
def State.returned (s : State) (r : Result) : State := State.note { s with result := r } (.ret r)

end Sys2Proof.Machine
end

