-- ==== Sys2Proof/Machine/CoreInit.lean ====
section
/-! DEFINITION. Register interface and core initialisation (R200 to R217): register accessors, soft reset,
capabilities, parameters, FIFO partition, flushes, interrupt masks and the gate. `core_init` itself stands in
Machine/OtgRole.lean, after the engine starts it calls. -/

namespace Sys2Proof.Machine

open Sys2Proof

/-- Commands other than CORE_INIT, CORE_DEINIT and the register accessors answer NotFunctional and change nothing while
the core is not functional (R218). -/
def needFunctional (p : M Result) : M Result := do
  let f ← ask fun s => s.core.functional
  if f then p else pure (.status .notFunctional)

/-- A command that its row allows in task context only, and no callback may issue (R143, R544, R547): asserted, and without
`DEBUG` it runs as written. -/
def taskOnly : M Unit := do
  let ok ← ask fun s => decide (s.ctx = .task) && !s.inCb
  assertThat ok .context

/-- The register an accessor names, if it is mapped and answers now (R200). -/
def State.accessorReg (s : State) (off : Word) : Option Reg :=
  (Reg.ofOffset off.toNat).filter s.accessible

/-- One access of an accessor (R200, U3): an offset that is refused when the access would be made is BadParam, without the
access. -/
def accessorDo (off : Word) (p : Reg → M Result) : M Result := do
  between
  let o ← ask fun s => s.accessorReg off
  match o with
  | some r => p r
  | none => pure (.status .badParam)

/-- REG_READ(off) (R200). -/
def regReadCmd (off : Word) : M Result := accessorDo off fun r => do
  let v ← readNow r
  pure (.value v)

/-- REG_WRITE(off, v) (R200). -/
def regWriteCmd (off v : Word) : M Result := accessorDo off fun r => do
  writeNow r v
  pure .unit

/-- REG_MODIFY(off, clear, set) (R200): two accesses. -/
def regModifyCmd (off clear set : Word) : M Result := accessorDo off fun r => do
  let t ← readNow r
  accessorDo off fun r => do
    writeNow r ((t &&& ~~~clear) ||| set)
    pure .unit

/-- Poll bit `k` of GRSTCTL for a value. -/
def pollGrstctl (k : Nat) (v : Bool) (limit : Nat) : M Bool :=
  poll (do
    let w ← regRead .GRSTCTL
    pure (bitOf w k == v)) limit

/-- `core_reset_seq()` (R203). -/
def coreResetSeq : M Status := do
  let limit ← ask fun s => s.hw.resetPollLimit
  let idle ← pollGrstctl 31 true limit
  if idle then do
    regWrite .GRSTCTL (bit1 0)
    let done ← pollGrstctl 0 false limit
    pure (if done then .ok else .initTimeoutSoftReset)
  else pure .initTimeoutAhbIdle

/-- CORE_RESET (R203). -/
def coreResetCmd : M Result := needFunctional do
  taskOnly
  let st ← coreResetSeq
  pure (.status st)

/-- `flush_tx_fifo(num)` (R212). -/
def flushTxFifo (num : Nat) : M Status := do
  let limit ← ask fun s => s.hw.flushPollLimit
  regWrite .GRSTCTL (bit1 5 ||| fld 6 5 num)
  let done ← pollGrstctl 5 false limit
  pure (if done then .ok else .flushTimeout)

/-- `flush_rx_fifo()` (R213). -/
def flushRxFifo : M Status := do
  let limit ← ask fun s => s.hw.flushPollLimit
  regWrite .GRSTCTL (bit1 4)
  let done ← pollGrstctl 4 false limit
  pure (if done then .ok else .flushTimeout)

/-- FLUSH_TX_FIFO (R212): a number above 16 is refused. -/
def flushTxCmd (num : BitVec 8) : M Result := needFunctional do
  if num.toNat ≤ 16 then do
    let st ← flushTxFifo num.toNat
    pure (.status st)
  else pure (.status .badParam)

/-- FLUSH_RX_FIFO (R213). -/
def flushRxCmd : M Result := needFunctional do
  let st ← flushRxFifo
  pure (.status st)

/-- ENABLE_GINT (R214). -/
def enableGintCmd : M Result := needFunctional do
  taskOnly
  setGate true
  pure .unit

/-- DISABLE_GINT (R215). -/
def disableGintCmd : M Result := needFunctional do
  taskOnly
  setGate false
  pure .unit

/-- The capabilities that the three capability registers tell (R202, R32). -/
def capsOf (w2 w3 w4 : Word) : Caps :=
  { fifoDepth := field w3 16 16, nEp := field w2 10 4 + 1, nCh := field w2 14 4 + 1, utmi := bitOf w2 6
    ulpi := bitOf w2 7, fsSerial := decide (field w2 8 2 = 1), xw := field w3 0 4 + 11, pw := field w3 4 3 + 4
    capDma := if field w2 3 2 = 0 then .none else if bitOf w4 30 then .bufferAndDescriptor else .buffer
    dedFifo := bitOf w4 25 }

/-- `read_capabilities()` (R202). -/
def readCapabilities : M Unit := do
  let w2 ← regRead .GHWCFG2
  let w3 ← regRead .GHWCFG3
  let w4 ← regRead .GHWCFG4
  modCore fun c => { c with caps := capsOf w2 w3 w4 }

/-- Whether a PHY type is among `PHY_TYPES`. -/
def Caps.hasPhy (c : Caps) : PhyType → Bool
  | .utmi => c.utmi
  | .ulpi => c.ulpi
  | .fsSerial => c.fsSerial

/-- The PHY type in use (R205): the requested one, or the first present of UTMI, ULPI, FS_SERIAL. -/
def resolvedPhy (c : Caps) (p : InitParams) : PhyType :=
  if c.hasPhy p.phyType then p.phyType else if c.utmi then .utmi else if c.ulpi then .ulpi else .fsSerial

/-- The DMA mode in use (R205). -/
def resolvedDma (c : Caps) (m : DmaMode) : DmaMode :=
  let m := if m = .descDma ∧ c.capDma ≠ .bufferAndDescriptor then .bufferDma else m
  if m = .bufferDma ∧ c.capDma = .none then .slave else m

/-- `resolve_params()` (R205). -/
def resolveParams : M Unit :=
  modCore fun c =>
    { c with
      dmaMode := resolvedDma c.caps c.params.dmaMode
      cfgError := c.cfgError || decide (resolvedDma c.caps c.params.dmaMode ≠ c.params.dmaMode) ||
        !c.caps.hasPhy c.params.phyType }

/-- `core.cfg_error <- true`. -/
def setCfgError : M Unit := modCore fun c => { c with cfgError := true }

/-- The grant of R206: what is asked for, but not more than is free; a smaller grant is flagged. -/
def grant (free req : Nat) : M Nat := do
  doIf (decide (min req free < req)) setCfgError
  pure (min req free)

/-- The request for Tx FIFO `i` (R10). -/
def txRequest (p : InitParams) (i : Fin 16) : Nat := ((p.epTx[i.val - 1]?).getD 0).toNat

/-- A FIFO size register: start address and depth (R33). -/
def fifoSizeWord (addr depth : Nat) : Word := fld 0 16 addr ||| fld 16 16 depth

/-- The device part of `fifo_partition` (R206): the Tx FIFOs 1 to 15 in order. -/
def partitionTx (p : InitParams) : List (Fin 16) → Nat → Nat → M Unit
  | [], _, _ => pure ()
  | i :: is, free, addr => do
    let nEp ← ask fun s => s.core.caps.nEp
    if nEp ≤ i.val then do
      doIf (decide (0 < txRequest p i)) setCfgError
      partitionTx p is free addr
    else do
      let d ← grant free (txRequest p i)
      regWrite (.DIEPTXF i) (fifoSizeWord addr d)
      modCore fun c => { c with fifo := { c.fifo with epTx := c.fifo.epTx.set i.val (addr, d) } }
      partitionTx p is (free - d) (addr + d)

/-- The numbers 1 to 15. -/
def txNumbers : List (Fin 16) := (List.finRange 16).filter (fun i => decide (i.val ≠ 0))

/-- `fifo_partition(p)` (R206). -/
def fifoPartition (p : InitParams) : M Unit := do
  let depth ← ask fun s => s.core.caps.fifoDepth
  let rx ← grant depth p.rxFifo.toNat
  regWrite .GRXFSIZ (fld 0 16 rx)
  modCore fun c => { c with fifo := { c.fifo with rx := (0, rx) } }
  let np ← grant (depth - rx) p.nptxFifo.toNat
  regWrite .GNPTXFSIZ (fifoSizeWord rx np)
  modCore fun c => { c with fifo := { c.fifo with nptx := (rx, np) } }
  let m ← regRead .GINTSTS
  if bitOf m 0 then do
    let h ← grant (depth - rx - np) p.hptxFifo.toNat
    regWrite .HPTXFSIZ (fifoSizeWord (rx + np) h)
    modCore fun c => { c with fifo := { c.fifo with hptx := (rx + np, h) } }
  else partitionTx p txNumbers (depth - rx - np) (rx + np)

/-- `speed_code` (R201, R44). -/
def speedCode (c : CoreRec) : Nat :=
  match resolvedPhy c.caps c.params with
  | .fsSerial => 3
  | .utmi | .ulpi => natOf c.params.fullSpeed

/-- The configuration register of the current mode (R211). -/
def programMode : M Unit := do
  let m ← regRead .GINTSTS
  let c ← ask State.core
  let desc := decide (c.dmaMode = .descDma)
  if bitOf m 0 then regWrite .HCFG (bitIf c.params.fullSpeed 2 ||| bitIf desc 23)
  else regWrite .DCFG (fld 0 2 (speedCode c) ||| bitIf desc 23)

/-- `role_program()` (R211, R207). -/
def roleProgram : M Status := do
  let p ← ask fun s => s.core.params
  fifoPartition p
  let t ← flushTxFifo 0x10
  if t = .ok then do
    let r ← flushRxFifo
    if r = .ok then do
      programMode
      pure .ok
    else pure .initTimeoutFlush
  else pure .initTimeoutFlush

/-- The records of `core_init` (R81): every record fresh, the context `task`, which lasts until the core is functional
(`coreInitProgram`, log entry 13); the EP0 fields that the rule does not name are kept. -/
def State.freshRecords (s : State) (base : Word) (p : InitParams) : State :=
  { s with
    core := { s.core with
      base := base, params := p, functional := false, cfgError := false, deviceEngine := false, hostEngine := false }
    epIn := Vector.replicate 16 blankEp
    epOut := Vector.replicate 16 blankEp
    ch := Vector.replicate 16 blankCh
    pool := List.replicate s.hw.poolCap none
    ep0 := { s.ep0 with state := .disconnected, address := 0, config := 0, remoteWakeup := false }
    iso := []
    htog := []
    ctx := .task
    recordsExist := true
    rrNp := none
    rrP := none }

/-- Step 6 of `core_init` (R201): bus, PHY and OTG configuration. -/
def programCore : M Unit := do
  let c ← ask State.core
  let phy := resolvedPhy c.caps c.params
  regWrite .GAHBCFG (fld 1 4 c.params.burst.toNat ||| bitIf (decide (c.dmaMode ≠ .slave)) 5)
  regWrite .GUSBCFG (bitIf c.params.phyWidth16 3 ||| bitIf (decide (phy = .ulpi)) 4 |||
    bitIf (decide (phy = .fsSerial)) 6 ||| bitIf (decide (c.params.otgCap ≠ .none)) 8 |||
    bitIf (decide (c.params.otgCap = .hnpSrp)) 9)
  regWrite .GOTGCTL 0

/-- `set_op_state_from_hardware()` (R208). -/
def setOpStateFromHardware : M Unit := do
  let w ← regRead .GOTGCTL
  modCore fun c => { c with opState := if bitOf w 16 then .bPeripheral else .aHost }

/-- `init_interrupts()` (R209). -/
def initInterrupts : M Unit := do
  regWrite .GINTMSK 0
  regWrite .GOTGINT 0xFFFFFFFF
  regWrite .GINTSTS 0xFFFFFFFF
  regWrite .GINTMSK 0xB0000004

end Sys2Proof.Machine
end

