-- ==== Sys2Proof/Machine/Channel.lean ====
section
/-! DEFINITION. The host channel's register words (R250, R360, R374) and its queue space (R260), which the transfer
engine and the halt engine share. -/

namespace Sys2Proof.Machine

open Sys2Proof

/-- EPTYPE codes (R39, R49). -/
def typeCode : XferType → Nat
  | .control => 0 | .isochronous => 1 | .bulk => 2 | .interrupt => 3

/-- `pid_code` (R250, R42). -/
def pidCode : Pid → Nat
  | .data0 => 0 | .data2 => 1 | .data1 => 2 | .mdata => 3 | .setup => 3

/-- The PID of a code of HCTSIZ.PID (R42); 3 means SETUP on a control channel. -/
def pidOfCode (control : Bool) (p : Nat) : Pid :=
  match p with
  | 0 => .data0
  | 1 => .data2
  | 2 => .data1
  | _ => if control then .setup else .mdata

/-- `odd_frame()` (R374): the parity of the next frame. -/
def oddFrame : M Bool := do
  let w ← regRead .HFNUM
  pure (decide ((field w 0 16 + 1) % 2 = 1))

/-- HCCHAR without its W1S bits (R250). -/
def hccharWord (t : HcParams) (odd : Bool) : Word :=
  fld 0 11 t.mps.toNat ||| fld 11 4 t.epNum.val ||| bitIf (decide (t.epDir = .IN)) 15 |||
  bitIf (decide (t.speed = .low)) 17 ||| fld 18 2 (typeCode t.epType) ||| fld 20 2 t.multiCount.toNat |||
  fld 22 7 t.devAddr.toNat ||| bitIf odd 29

/-- `hcchar_value(ch)` (R250): a periodic channel takes the parity anew. -/
def hccharValue (c : Fin 16) : M Word := do
  let t ← ask fun s => (s.chan c).params
  if typePeriodic t.epType then do
    let odd ← oddFrame
    pure (hccharWord t odd)
  else pure (hccharWord t false)

/-- HCSPLT of a channel (R250). -/
def hcspltWord (r : ChRec) : Word :=
  if r.params.doSplit then
    bit1 31 ||| bitIf r.completeSplit 16 ||| fld 14 2 r.xactPos.toNat ||| fld 7 7 r.params.hubAddr.toNat |||
      fld 0 7 r.params.portAddr.toNat
  else 0

/-- `channel_mask(ch)` (R360). -/
def channelMask (dma : DmaMode) (r : ChRec) : Word :=
  0x18F ||| bitIf (decide (dma = .descDma)) 11 |||
  (if r.params.doSplit then (if r.completeSplit then 0x70 else 0x30)
   else bitIf (decide (r.params.epType = .interrupt)) 4) |||
  bitIf r.errorState 5

/-- `queue_space(ch)` (R260). -/
def queueSpace (c : Fin 16) : M Nat := do
  let t ← ask fun s => (s.chan c).params
  if typePeriodic t.epType then do
    let w ← regRead .HPTXSTS
    pure (field w 16 8)
  else do
    let w ← regRead .GNPTXSTS
    pure (field w 16 8)

/-- `fifo_space(ch)` (R260). -/
def fifoSpace (c : Fin 16) : M Nat := do
  let t ← ask fun s => (s.chan c).params
  if typePeriodic t.epType then do
    let w ← regRead .HPTXSTS
    pure (field w 0 16)
  else do
    let w ← regRead .GNPTXSTS
    pure (field w 0 16)

/-- The GINTMSK bit of a channel's FIFO-empty event: NPTXFEMP or PTXFEMP (R250). -/
def fifoEmptyBit (periodic : Bool) : Nat := if periodic then 26 else 5

/-- `unmask_fifo_empty(ch)` (R250). -/
def unmaskFifoEmpty (c : Fin 16) : M Unit := do
  let t ← ask fun s => (s.chan c).params
  regUpdate .GINTMSK fun m => withBit m (fifoEmptyBit (typePeriodic t.epType)) true

end Sys2Proof.Machine
end

