-- ==== Sys2Proof/Machine/Transfer.lean ====
section
/-! DEFINITION. The Transfer Object Pool and the transfer engine (R240 to R288): chunk sizes, the descriptor chain
builder, programming of endpoints and channels, the slave-mode data path, chunk completion, endpoint enable, disable,
abort and stall. -/

namespace Sys2Proof.Machine

open Sys2Proof

/-! The pool (R240, R241). -/

/-- The free slots of the pool, ascending. -/
def State.freeSlots (s : State) : List Nat := (List.range s.pool.length).filter (fun h => !s.slotUsed h)

/-- The slot the allocator hands out: a draw among the free slots, the lowest when no draw is scripted (R64, U8). -/
def State.drawSlot (s : State) : Option Nat :=
  match s.freeSlots with
  | [] => none
  | h :: hs => match s.poolDraws with
    | [] => some h
    | d :: _ => some (((h :: hs)[d % (h :: hs).length]?).getD h)

/-- `pool_alloc()` (R240): a fresh request in a free slot, or none. -/
def poolAlloc : M (Option Nat) := do
  let o ← ask State.drawSlot
  match o with
  | none => pure none
  | some h => do
    act fun s => { s with pool := s.pool.set h (some blankReq), poolDraws := s.poolDraws.tail }
    pure (some h)

/-- Mark a slot free (R241). -/
def freeSlot (h : Nat) : M Unit := act fun s => { s with pool := s.pool.set h none }

/-- Whether a handle is the active or a queued request of some endpoint or channel. -/
def State.inUse (s : State) (h : Nat) : Bool :=
  let busy := fun (x : Xfer) => decide (x.active = some (.pool h)) || x.queue.contains h
  s.epIn.toList.any (fun r => busy r.x) || s.epOut.toList.any (fun r => busy r.x) || s.ch.toList.any (fun r => busy r.x)

/-- POOL_ALLOC (R240), in the critical section of R113 (R143). -/
def poolAllocCmd : M Result := needFunctional <| critical do
  let o ← poolAlloc
  pure (match o with
    | some h => .handle h
    | none => .status .noFreeIoBlock)

/-- POOL_FREE(h) (R241), in the critical section of R113 (R143): a handle outside the pool is a typed error; a free, active
or queued slot is asserted against. -/
def poolFreeCmd (h : BitVec 16) : M Result := needFunctional <| critical do
  let s ← ask id
  if h.toNat < s.pool.length then do
    assertThat (s.slotUsed h.toNat && !s.inUse h.toNat) .poolFree
    freeSlot h.toNat
    pure .unit
  else pure (.status .badParam)

/-! Chunk sizes (R13, R247). -/

/-- `max_per_desc(mps)` (R13). -/
def maxPerDesc (mps : Nat) : Nat := 65535 / mps * mps

/-- `max(1, ceil_div(len, mps))`: the packet count of a chunk (R247). -/
def pktCount (len mps : Nat) : Nat := max 1 (ceilDiv len mps)

/-- MAX_XFER and MAX_PKT of an endpoint or channel (R13): EP0 has its own widths. -/
def State.xferLimits (s : State) : XRef → Nat × Nat
  | .ep e =>
    if e.num = 0 then (2 ^ s.hw.ep0Xw - 1, 2 ^ s.hw.ep0Pw - 1)
    else (2 ^ s.core.caps.xw - 1, 2 ^ s.core.caps.pw - 1)
  | .ch _ => (2 ^ s.core.caps.xw - 1, 2 ^ s.core.caps.pw - 1)

/-- Whether an endpoint or channel is a channel that performs splits. -/
def State.splits (s : State) : XRef → Bool
  | .ep _ => false
  | .ch c => (s.chan c).params.doSplit

/-- Whether the descriptors of an endpoint or channel have the isochronous form (R161, R171). -/
def State.isoForm (s : State) (x : XRef) : Bool := s.isDesc && decide (s.typeOf x = .isochronous)

/-- The packets of a periodic chunk: `multi_count` (R247). A descriptor of the isochronous form names at most 3 (R161), which
binds where `multi_count` is 4, outside R61's range (DESIGN CHOICE, log entry 41). -/
def State.packetsPer (s : State) (x : XRef) : Nat := if s.isoForm x then min (s.multiOf x) 3 else s.multiOf x

/-- The clamp of a chunk (R247). -/
def State.chunkLimit (s : State) (x : XRef) : Nat :=
  let mps := s.mpsOf x
  let l := if s.isDesc then s.hw.maxDesc * maxPerDesc mps
    else min (s.xferLimits x).1 ((s.xferLimits x).2 * mps) / mps * mps
  let l := if typePeriodic (s.typeOf x) then min l (s.packetsPer x * mps) else l
  if s.splits x then min l mps else l

/-- The bytes of the next chunk (R247). -/
def State.nextChunk (s : State) (x : XRef) : Nat :=
  min (if (s.xfer x).zlpPhase then 0 else (s.reqOf x).length - (s.reqOf x).done) (s.chunkLimit x)

/-- The address where the next chunk starts, modulo 2^32 (R244). -/
def State.chunkAddr (s : State) (x : XRef) : Word := (s.reqOf x).buf + BitVec.ofNat 32 (s.reqOf x).done

/-! The descriptor chain (R160, R253). -/

/-- Descriptors of a chain for `len` bytes (R253). -/
def descCount (mps len : Nat) : Nat := max 1 (ceilDiv len (maxPerDesc mps))

/-- Bytes of the request that descriptor `i` covers. -/
def descChunk (mps len i : Nat) : Nat := min (maxPerDesc mps) (len - i * maxPerDesc mps)

/-- BYTES of descriptor `i` as programmed: whole packets on a receive (R253). -/
def descBytes (receive : Bool) (mps len i : Nat) : Nat :=
  if receive then pktCount (descChunk mps len i) mps * mps else descChunk mps len i

/-- Whether descriptor `i` is the last of its chain. -/
def descLast (mps len i : Nat) : Bool := decide (i + 1 = descCount mps len)

/-- Whether descriptor `i` has the short-packet flag (R253). -/
def descShort (mps len i : Nat) : Bool := descLast mps len i && decide (descChunk mps len i % mps ≠ 0)

/-- The status word of a generic descriptor that is handed to DMA (R160, R253): BS is HostReady. -/
def descStatusWord (receive : Bool) (mps len i : Nat) : Word :=
  fld 0 16 (descBytes receive mps len i) ||| bitIf (descLast mps len i) 25 ||| bitIf (descShort mps len i) 26 |||
    bitIf (descLast mps len i) 27

/-- The status word of an isochronous descriptor handed to DMA (R161, R434). -/
def isoStatusWord (pktLen frame pid : Nat) (last : Bool) : Word :=
  fld 0 12 pktLen ||| fld 12 11 frame ||| fld 23 2 pid ||| bitIf last 25 ||| bitIf last 27

/-- PID of a slot (R161, R434): the packets of a transmit slot, 0 on a receive. -/
def slotPid (tx : Bool) (pktLen mps : Nat) : Nat := if tx then pktCount pktLen mps else 0

/-- The status word that the chain builder gives descriptor `i`, in the form of its target's type (R160, R161, R171). For FRNUM of
the isochronous form R253 names no value: it is that of the free word `frame` (DESIGN CHOICE, log entry 43). -/
def descWord (iso : Bool) (frame : Word) (receive : Bool) (mps len i : Nat) : Word :=
  let n := descBytes receive mps len i
  if iso then
    isoStatusWord n (field frame 0 11) (slotPid (!receive) n mps) (descLast mps len i) ||| bitIf (descShort mps len i) 26
  else descStatusWord receive mps len i

/-- The free word that gives an isochronous chain its FRNUM; a generic chain draws none. -/
def drawFrame (iso : Bool) : M Word :=
  if iso then do
    let d ← ask State.drawWord
    act fun s => s.drawn 1
    pure d.1
  else pure 0

/-- BS = HostBusy, the rest 0 (R162). -/
def hostBusyWord : Word := 0xC0000000

/-- One descriptor: taken from DMA, its buffer, then handed over by the status word (R253, R117). -/
def writeDesc (a : Word) (buf : Word) (status : Word) : M Unit := do
  memWrite32 a hostBusyWord
  memWrite32 (a + 4) buf
  memWrite32 a status

/-- `build_chain(x, base, buf, len)` (R253). -/
def buildChain (iso receive : Bool) (mps : Nat) (base buf : Word) (len : Nat) : M Unit := do
  let frame ← drawFrame iso
  forEach (List.range (descCount mps len)) fun i =>
    writeDesc (base + BitVec.ofNat 32 (8 * i)) (buf + BitVec.ofNat 32 (i * maxPerDesc mps))
      (descWord iso frame receive mps len i)

/-- `x.desc`: the descriptor array of an endpoint or channel; endpoint 0 has its platform array (R14, R305). -/
def descBase (x : XRef) : M Word := do
  let o ← ask fun s => match (s.xfer x).desc with
    | some d => some d
    | none => s.descArray x false
  match o with
  | some d => pure d
  | none => stopWith (.fault .noDescriptorArray)

/-! Programming (R249, R250, R252). -/

/-- CNAK = 1, EPENA = 1. -/
def cnakEpena : Word := 0x84000000

/-- The parity bit of an isochronous endpoint: SETD0PID for an even next frame, SETD1PID for an odd one (R249). -/
def isoParity (e : EpRef) : M Word := do
  let t ← ask fun s => (s.ep e).type
  if t = .isochronous then do
    let w ← regRead .DSTS
    pure (if (field w 8 14 + 1) % 2 = 0 then bit1 28 else bit1 29)
  else pure 0

/-- Silence or enable the FIFO-empty event of IN endpoint `n` (R249, R262). -/
def setEmptyMask (n : Fin 16) (b : Bool) : M Unit := regUpdate .DIEPEMPMSK fun w => withBit w n.val b

/-- The transfer-size word of an endpoint chunk (R249): a receive takes whole packets. -/
def epSizeWord (e : EpRef) (periodic : Bool) (mps len pkts : Nat) : Word :=
  match e.dir with
  | .IN => fld 0 19 len ||| fld 19 10 pkts ||| fld 29 2 (if periodic then pkts else 1)
  | .OUT => fld 0 19 (pkts * mps) ||| fld 19 10 pkts ||| fld 29 2 (if e.num = 0 then 1 else 0)

/-- `program_ep` in slave and buffer-DMA mode (R249). -/
def programEpDirect (e : EpRef) (len pkts : Nat) : M Unit := do
  let s ← ask id
  regWrite (epSiz e) (epSizeWord e (typePeriodic (s.ep e).type) (s.ep e).mps len pkts)
  doIf (decide (s.core.dmaMode = .bufferDma)) (regWrite (epDma e) (s.chunkAddr (.ep e)))
  let par ← isoParity e
  regUpdate (epCtl e) fun w => keepControl w ||| cnakEpena ||| par
  doIf (s.isSlave && decide (e.dir = .IN) && decide (0 < len)) (setEmptyMask e.num true)

/-- `program_ep` in descriptor-DMA mode (R252). -/
def programEpDesc (e : EpRef) (len : Nat) : M Unit := do
  let s ← ask id
  let d ← descBase (.ep e)
  buildChain (s.isoForm (.ep e)) (decide (e.dir = .OUT)) (s.ep e).mps d (s.chunkAddr (.ep e)) len
  regWrite (epDma e) d
  regUpdate (epCtl e) fun w => keepControl w ||| cnakEpena

/-- `write_packet(x, plen)` (R261): the words of the next packet go to the FIFO window of `x`. -/
def writePacket (x : XRef) (plen : Nat) : M Unit := do
  let s ← ask id
  let n := match x with | .ep e => e.num | .ch c => c
  let a := s.chunkAddr x + BitVec.ofNat 32 (s.xfer x).chunkDone
  forEach (packWords 0 (s.bytes a plen)) fun w => regWrite (.FIFO n) w
  modX x fun t => { t with chunkDone := t.chunkDone + plen }

/-- The next packet of a chunk. -/
def nextPacket (mps : Nat) (t : Xfer) : Nat := min mps (t.chunkLen - t.chunkDone)

/-- `continue_transfer(x)` of a device IN endpoint (R260). -/
def continueIn (n : Fin 16) : M Bool := do
  let s ← ask id
  let x : XRef := .ep ⟨n, .IN⟩
  let t := s.xfer x
  if t.active = none ∨ t.chunkLen ≤ t.chunkDone then pure false
  else do
    let w ← regRead (.DTXFSTS n)
    if field w 0 16 < ceilDiv (nextPacket (s.mpsOf x) t) 4 then pure true
    else do
      writePacket x (nextPacket (s.mpsOf x) t)
      ask fun s => decide ((s.xfer x).chunkDone < (s.xfer x).chunkLen)

/-- Write HCCHAR with CHENA = 1 and count one more request (R260). -/
def requestAgain (c : Fin 16) : M Unit := do
  let w ← hccharValue c
  regWrite (.HCCHAR c) (w ||| bit1 31)
  modCh c fun r => { r with requests := r.requests + 1 }

/-- `continue_transfer(ch)` of a host IN channel: always re-arms while the request queue has room (R260). -/
def continueChIn (c : Fin 16) : M Bool := do
  let r ← ask fun s => s.chan c
  if r.params.doSplit then pure false
  else do
    let q ← queueSpace c
    if q = 0 then pure true
    else do
      requestAgain c
      pure true

/-- Whether a host OUT channel has no room for a packet of `plen` bytes, or no request-queue entry (R260). -/
def channelFull (c : Fin 16) (plen : Nat) : M Bool := do
  let f ← fifoSpace c
  if f < ceilDiv plen 4 then pure true
  else do
    let q ← queueSpace c
    pure (decide (q = 0))

/-- `continue_transfer(ch)` of a host OUT channel (R260): SETUP packets and splits never re-arm. -/
def continueChOut (c : Fin 16) : M Bool := do
  let r ← ask fun s => s.chan c
  if r.x.chunkLen ≤ r.x.chunkDone then pure false
  else do
    let plen := nextPacket r.params.mps.toNat r.x
    let full ← channelFull c plen
    if full then pure true
    else if 0 < r.x.chunkDone ∧ (r.params.doSplit = true ∨ r.dataPid = .setup) then pure false
    else do
      doIf (decide (0 < r.x.chunkDone)) (requestAgain c)
      writePacket (.ch c) plen
      let t ← ask fun s => s.chan c
      pure (decide (t.x.chunkDone < t.x.chunkLen) && !t.params.doSplit && decide (t.dataPid ≠ .setup))

/-- `continue_transfer(x)` (R260): slave mode only. -/
def continueTransfer (x : XRef) : M Bool := do
  let s ← ask id
  if s.isSlave then
    match x with
    | .ep ⟨n, .IN⟩ => continueIn n
    | .ep ⟨_, .OUT⟩ => pure false
    | .ch c =>
      if (s.chan c).x.active = none ∨ (s.chan c).haltStatus ≠ .noHalt then pure false
      else if (s.chan c).haltDeferred ≠ none then do
        callHook fun h => h.retry c
        pure false
      else if (s.chan c).params.epDir = .IN then continueChIn c
      else continueChOut c
  else pure false

/-- The mask, summary mask and split registers of a channel about to be programmed (R250). -/
def programChannelHead (c : Fin 16) : M Unit := do
  regWrite (.HCINT c) 0xFFFFFFFF
  let s ← ask id
  regWrite (.HCINTMSK c) (channelMask s.core.dmaMode (s.chan c))
  regUpdate .HAINTMSK fun w => withBit w c.val true
  regWrite (.HCSPLT c) (hcspltWord (s.chan c))

/-- Whether a channel is in the complete-split of an OUT, which carries no data (R250, R372). -/
def ChRec.outCsplit (r : ChRec) : Bool := r.params.doSplit && r.completeSplit && decide (r.params.epDir = .OUT)

/-- `program_channel` in slave and buffer-DMA mode (R250). -/
def programChannelDirect (c : Fin 16) (len0 pkts : Nat) : M Unit := do
  programChannelHead c
  let s ← ask id
  let r := s.chan c
  let len := if r.outCsplit then 0 else len0
  let size := if r.outCsplit then 0 else if r.params.epDir = .IN then pkts * r.params.mps.toNat else len
  regWrite (.HCTSIZ c) (fld 0 19 size ||| fld 19 10 pkts ||| fld 29 2 (pidCode r.dataPid))
  doIf (decide (s.core.dmaMode = .bufferDma)) (regWrite (.HCDMA c) (s.chunkAddr (.ch c)))
  let w ← hccharValue c
  regWrite (.HCCHAR c) (w ||| bit1 31)
  modCh c fun r => { r with requests := 1 }
  doIf (s.isSlave && decide (r.params.epDir = .OUT) && decide (0 < len)) (do
    let more ← continueTransfer (.ch c)
    doIf more (unmaskFifoEmpty c))
  doIf (s.isSlave && decide (r.params.epDir = .IN) && !r.params.doSplit) (unmaskFifoEmpty c)

/-- The address, PID and enable of a channel that walks a chain (R252). -/
def startChannelChain (c : Fin 16) (chain : Word) : M Unit := do
  let r ← ask fun s => s.chan c
  regWrite (.HCTSIZ c) (fld 29 2 (pidCode r.dataPid))
  regWrite (.HCDMA c) chain
  let w ← hccharValue c
  regWrite (.HCCHAR c) (w ||| bit1 31)

/-- `program_channel` in descriptor-DMA mode (R252). -/
def programChannelDesc (c : Fin 16) (len : Nat) : M Unit := do
  let s ← ask id
  let d ← descBase (.ch c)
  buildChain (s.isoForm (.ch c)) (decide ((s.chan c).params.epDir = .IN)) (s.mpsOf (.ch c)) d (s.chunkAddr (.ch c)) len
  programChannelHead c
  startChannelChain c d

/-- `program_chunk(x)` (R247). -/
def programChunk (x : XRef) : M Unit := do
  let s ← ask id
  let len := s.nextChunk x
  let pkts := pktCount len (s.mpsOf x)
  modX x fun t => { t with chunkLen := len, chunkDone := 0 }
  match x with
  | .ep e => if s.isDesc then programEpDesc e len else programEpDirect e len pkts
  | .ch c => if s.isDesc then programChannelDesc c len else programChannelDirect c len pkts

/-- Whether `x` may take a transfer: a channel, or an idle endpoint (R246, R278). -/
def State.xIdle (s : State) : XRef → Bool
  | .ep e => decide ((s.ep e).state = .idle)
  | .ch _ => true

/-- An endpoint with a transfer is Active (R246), and what it has to do is done now. -/
def markActive : XRef → M Unit
  | .ep e => modEp e fun r => { r with state := .active, waits := false }
  | .ch _ => pure ()

/-- Whether EPDIS of an endpoint has been written and EPDISBLD has not come yet, or CHDIS of a channel and not CHHLTD: until
then it is not programmed (R550, log entry 39). -/
def State.disabling (s : State) : XRef → Bool
  | .ep e => (s.ep e).disabling
  | .ch c => decide ((s.chan c).haltStatus = .haltPending)

/-- A request becomes the active one, and its first chunk is programmed (R246). -/
def beginTransfer (x : XRef) (h : Nat) : M Unit := do
  modX x fun t => { t with active := some (.pool h), zlpPhase := false }
  markActive x
  programChunk x

/-- Whether the halt of a channel is pending: a request that would start then waits at the head of the queue (R550, log entry
39). -/
def State.haltPends (s : State) : XRef → Bool
  | .ep _ => false
  | .ch c => decide ((s.chan c).haltStatus = .haltPending)

/-- Whether a transfer is active already (R246): a request is active, or the start of a channel's first queued one waits for
CHHLTD, without which it would be (R550, log entry 39). -/
def State.started (s : State) (x : XRef) : Bool :=
  decide ((s.xfer x).active ≠ none) || (s.haltPends x && !(s.xfer x).queue.isEmpty)

/-- An endpoint whose request has become the active one, while its first chunk waits for EPDISBLD (R246, R550, log entry 39). -/
def EpRec.waiting (r : EpRec) (h : Nat) : EpRec :=
  { r with state := .active, waits := true, x := { r.x with active := some (.pool h), zlpPhase := false } }

/-- A transfer is started where nothing may be programmed yet (R550, log entry 39): the request of an endpoint is active at once,
and its first chunk waits for EPDISBLD; that of a channel is queued first, and only there (R68), until CHHLTD starts it. -/
def waitTransfer (h : Nat) : XRef → M Unit
  | .ep e => modEp e fun r => r.waiting h
  | .ch c => modX (.ch c) fun t => { t with queue := h :: t.queue.erase h }

/-- `start_transfer(x, h)` (R246); with a transfer already active it has no successor state (U1). Between EPDIS and EPDISBLD,
or CHDIS and CHHLTD, nothing is programmed, and the confirmation does it (`waitTransfer`; R550, log entry 39). Without
`DEBUG` a handle that names no request of `x` runs what its slot holds, a free slot the blank request (DESIGN CHOICE, log entry
6). -/
def startTransfer (x : XRef) (h : Nat) : M Unit := do
  let s ← ask id
  assertThat (!s.started x) .transferActive
  if s.started x = false then do
    assertThat (s.xIdle x) .transferActive
    assertThat (s.slotUsed h && decide ((s.reqAt (.pool h)).owner = some x) &&
      decide ((s.reqAt (.pool h)).status = .pending)) .badRequest
    if s.disabling x then waitTransfer h x else beginTransfer x h
  else stopWith (.fault .stuckTransferActive)

/-- `next_request(x)` (R278). Between CHDIS and CHHLTD the request of a channel stays at the head of the queue until the
confirmation starts it (R550, log entry 39). -/
def nextRequest (x : XRef) : M Unit := do
  let s ← ask id
  if (s.xfer x).active = none ∧ s.xIdle x = true ∧ s.haltPends x = false then
    match (s.xfer x).queue with
    | [] => pure ()
    | h :: hs => do
      modX x fun t => { t with queue := hs }
      startTransfer x h
  else pure ()

/-- `channel_release(ch)` (R359). -/
def channelRelease (c : Fin 16) : M Unit := do
  regWrite (.HCINTMSK c) 0
  regUpdate .HAINTMSK fun w => withBit w c.val false
  regWrite (.HCINT c) 0xFFFFFFFF
  modCh c fun r => { r with allocated := false }

/-- A confirmed halt ended the request and the channel is used again (R359, C7). -/
def ChRec.unhalted (r : ChRec) : ChRec :=
  { r with haltStatus := .noHalt, haltReason := none, haltDeferred := none }

/-- `channel_complete(ch)` (R359). -/
def channelComplete (c : Fin 16) : M Unit := do
  let r ← ask fun s => s.chan c
  if r.x.queue = [] then channelRelease c
  else do
    doIf (decide (r.haltStatus ≠ .noHalt)) (modCh c fun r => { r.unhalted with completeSplit := false })
    nextRequest (.ch c)

/-- The callback a finished request gets: EP0's own record has none (R272). -/
def doneCallback (i : ReqId) (q : Req) (st : Status) : M Unit :=
  match i with
  | .pool _ => callback (.transferComplete q.cb q.ctx st q.done)
  | .ep0 => pure ()

/-- The slot of a finished request is free; EP0's own record is in no slot (R272). -/
def freeRequest : ReqId → M Unit
  | .pool h => freeSlot h
  | .ep0 => pure ()

/-- An Active endpoint becomes Idle (R272), and no chunk of it waits any more. -/
def markIdle : XRef → M Unit
  | .ep e => modEp e fun r => { r with state := if r.state = .active then .idle else r.state, waits := false }
  | .ch _ => pure ()

/-- The first part of `complete_request` (R272): the target has no transfer, the slot is free. -/
def detachRequest (x : XRef) (i : ReqId) (st : Status) : M Unit := do
  modReq x fun q => { q with status := st }
  modX x fun t => { t with active := none, zlpPhase := false, chunkLen := 0, chunkDone := 0 }
  markIdle x
  freeRequest i

/-- What follows a completion: an endpoint starts its next request, a channel starts it or is released (R272). -/
def afterRequest : XRef → M Unit
  | .ep e => nextRequest (.ep e)
  | .ch c => channelComplete c

/-- `complete_request(x, status)` (R272). -/
def completeRequest (x : XRef) (st : Status) : M Unit := do
  let s ← ask id
  match (s.xfer x).active with
  | none => assertThat false .noActive
  | some i => do
    detachRequest x i st
    afterRequest x
    doneCallback i (s.reqAt i) st

/-- `complete_request` without the next request (R287, R411, R412). -/
def completeKeep (x : XRef) (st : Status) : M Unit := do
  let s ← ask id
  match (s.xfer x).active with
  | none => pure ()
  | some i => do
    detachRequest x i st
    doneCallback i (s.reqAt i) st

/-- A queued request ends with Cancelled: the slot is free, then the callback (R284, R358). -/
def cancelQueued (h : Nat) : M Unit := do
  let s ← ask id
  freeSlot h
  doneCallback (.pool h) (s.reqAt (.pool h)) .cancelled

/-! Chunk completion (R273). -/

/-- What a finished chunk tells: bytes moved, whether it ended short, whether a descriptor failed. -/
structure ChunkResult where
  moved : Nat
  short : Bool
  err : Bool
  deriving DecidableEq, Repr

/-- The bits of BYTES: 12 in the isochronous form, 16 in the generic one (R160, R161). -/
def bytesBits (iso : Bool) : Nat := if iso then 12 else 16

/-- The descriptors of a finished chain, up to the first that DMA did not finish (R273); BYTES has `bits` bits. -/
def chainResult (base : Word) (bits : Nat) (bytes : Nat → Nat) : List Nat → ChunkResult → M ChunkResult
  | [], r => pure r
  | i :: is, r => do
    let w ← memRead32 (base + BitVec.ofNat 32 (8 * i))
    if field w 30 2 = 2 then
      chainResult base bits bytes is
        { moved := r.moved + (bytes i - field w 0 bits), short := r.short || decide (field w 0 bits ≠ 0)
          err := r.err || decide (field w 28 2 ≠ 0) }
    else pure { r with short := true }

/-- `chunk_result(x)` (R273). -/
def chunkResult (x : XRef) : M ChunkResult := do
  let s ← ask id
  let t := s.xfer x
  let mps := s.mpsOf x
  let tx := s.transmits x
  if s.isDesc then do
    let d ← descBase x
    let r ← chainResult d (bytesBits (s.isoForm x)) (descBytes (!tx) mps t.chunkLen)
      (List.range (descCount mps t.chunkLen)) ⟨0, false, false⟩
    pure (if tx then { r with short := false } else r)
  else do
    let w ← regRead (sizOf x)
    let rem := field w 0 19
    pure (if tx then ⟨t.chunkLen - rem, false, false⟩ else ⟨pktCount t.chunkLen mps * mps - rem, decide (0 < rem), false⟩)

/-- What `advance` decides (R273): the next data chunk, the trailing zero-length packet, or the end. -/
inductive Advance where
  | chunk | zlp | finish
  deriving DecidableEq, Repr

/-- The decision of `advance(x, short)` (R273). -/
def advanceChoice (zlpPhase short : Bool) (done length mps : Nat) (zeroFlag : Bool) : Advance :=
  if zlpPhase then .finish
  else if done < length ∧ short = false then .chunk
  else if zeroFlag = true ∧ 0 < length ∧ length % mps = 0 ∧ short = false then .zlp
  else .finish

/-- `advance(x, short)` with the end of the request as a parameter (R273, R321). -/
def advanceWith (x : XRef) (short : Bool) (finish : M Unit) : M Unit := do
  let s ← ask id
  let q := s.reqOf x
  match advanceChoice (s.xfer x).zlpPhase short q.done q.length (s.mpsOf x) q.zeroFlag with
  | .chunk => programChunk x
  | .zlp => do
    modX x fun t => { t with zlpPhase := true }
    programChunk x
  | .finish => finish

/-- `advance(x, short)` (R273). -/
def advance (x : XRef) (short : Bool) : M Unit := advanceWith x short (completeRequest x .ok)

/-- The bytes of a finished chunk are counted (R270, R271). -/
def countMoved (x : XRef) (c : Bool) (n : Nat) : M Unit := doIf c (modReq x fun q => { q with done := q.done + n })

/-- Whether the first chunk of the active request waits for EPDISBLD (log entry 39). -/
def State.waits (s : State) : XRef → Bool
  | .ep e => (s.ep e).waits
  | .ch _ => false

/-- A data chunk of an endpoint other than 0 has completed (R270, R271): in slave mode a receive was counted by R265. While the
first chunk of the active request waits for EPDISBLD the event is that of an earlier one, and stale as well (log entry 39). -/
def epChunkDone (e : EpRef) : M Unit := do
  let s ← ask id
  if (s.ep e).x.active = none ∨ (s.ep e).state ≠ .active ∨ (s.ep e).waits = true then pure ()
  else do
    let r ← chunkResult (.ep e)
    if r.err then completeRequest (.ep e) .bufferError
    else do
      countMoved (.ep e) (!(s.ep e).x.zlpPhase && !(s.isSlave && decide (e.dir = .OUT))) r.moved
      advance (.ep e) r.short

/-! Endpoint enable, disable, abort, stall (R280 to R288). -/

/-- The summary-mask bit of an endpoint (R47). -/
def daintBit (e : EpRef) : Nat := match e.dir with | .IN => e.num.val | .OUT => 16 + e.num.val

/-- `deactivate(ep)` (R282). -/
def deactivate (e : EpRef) : M Unit := do
  let slave ← ask State.isSlave
  regWrite (epCtl e) (bit1 27)
  regUpdate .DAINTMSK fun w => withBit w (daintBit e) false
  doIf (slave && decide (e.dir = .IN)) (setEmptyMask e.num false)
  modEp e fun r => { r with state := .idle }

/-- `finish_abort(ep)` (R284). -/
def finishAbort (e : EpRef) : M Unit := do
  let r ← ask fun s => s.ep e
  doIf (decide (r.state = .haltedPendingDisable))
    (modEp e fun r => { r with state := if r.x.active = none then .idle else .active })
  doIf r.pendingAll (modX (.ep e) fun t => { t with queue := [] })
  doIf (decide (r.x.active ≠ none)) (completeRequest (.ep e) r.pendingStatus)
  doIf r.pendingAll (forEach r.x.queue cancelQueued)
  let t ← ask fun s => s.ep e
  doIf (!t.enabled) (deactivate e)

/-- The common mask register of an endpoint's direction (R46). -/
def epMsk (e : EpRef) : Reg := match e.dir with | .IN => .DIEPMSK | .OUT => .DOEPMSK

/-- An endpoint whose abort waits for EPDISBLD (R284); an isochronous chain that waited to be armed is aborted too. -/
def EpRec.aborting (r : EpRec) : EpRec := { r with state := .haltedPendingDisable, disabling := true, rearm := false }

/-- `abort_endpoint(ep, status, all)` (R284). Where EPENA still reads 1 after EPDIS has been written, for a stall, the abort waits
for the same EPDISBLD and writes no register again (R550, log entry 39). -/
def abortEndpoint (e : EpRef) (st : Status) (all : Bool) : M Unit := do
  let r ← ask fun s => s.ep e
  if r.state = .haltedPendingDisable then modEp e fun r => { r with pendingAll := r.pendingAll || all }
  else do
    modEp e fun r => { r with pendingStatus := st, pendingAll := all, rearm := false }
    let w ← regRead (epCtl e)
    let asked ← ask fun s => (s.ep e).disabling
    if bitOf w 31 then do
      modEp e EpRec.aborting
      doIf (!asked) (do
        regUpdate (epCtl e) haltWord
        regUpdate (epMsk e) fun w => withBit w 1 true)
    else finishAbort e

/-- The endpoint descriptor's reference: number and direction (R168). -/
def epdRef (d : Epd) : EpRef :=
  ⟨(d.bEndpointAddress.extractLsb' 0 4).toFin, if d.bEndpointAddress.getLsbD 7 then .IN else .OUT⟩

/-- The descriptor's transfer type (R168). -/
def epdType (d : Epd) : XferType :=
  match (d.bmAttributes.extractLsb' 0 2).toNat with
  | 0 => .control
  | 1 => .isochronous
  | 2 => .bulk
  | _ => .interrupt

/-- The descriptor's max-packet-size (R168). -/
def epdMps (d : Epd) : Nat := (d.wMaxPacketSize.extractLsb' 0 11).toNat

/-- Whether `enable_endpoint` refuses the descriptor as BadParam (R280, R170). -/
def epdBad (nEp : Nat) (d : Epd) : Bool :=
  decide (d.bLength ≠ 7) || decide (d.bDescriptorType ≠ 5) || decide ((epdRef d).num = 0) ||
    decide (nEp ≤ (epdRef d).num.val) || decide (epdMps d = 0) || decide (1024 < epdMps d)

/-- The record of an endpoint that is enabled (R280). A descriptor with wMaxPacketSize bits 12:11 = 3 or bInterval = 0 is
outside R61's ranges, and R170 does not refuse it: `multi_count` is then 4 and `interval` 0 (DESIGN CHOICE, log entry 41). -/
def enabledRecord (d : Epd) (desc : Option Word) : EpRec :=
  { blankEp with
    type := epdType d
    mps := epdMps d
    txFifo := match (epdRef d).dir with | .IN => (epdRef d).num | .OUT => 0
    enabled := true
    multiCount := (d.wMaxPacketSize.extractLsb' 11 2).toNat + 1
    interval := d.bInterval.toNat
    x := { blankXfer with desc := desc } }

/-- The control word of an endpoint that is enabled (R280). -/
def enableWord (d : Epd) : Word :=
  fld 0 11 (epdMps d) ||| bit1 15 ||| fld 18 2 (typeCode (epdType d)) |||
    (match (epdRef d).dir with | .IN => fld 22 4 (epdRef d).num.val | .OUT => 0) ||| bit1 27 ||| bit1 28

/-- The status of `enable_endpoint(d)` in a state, before anything is written (R280). -/
def State.enableCheck (s : State) (d : Epd) : Status :=
  if epdBad s.core.caps.nEp d then .badParam
  else if (s.ep (epdRef d)).enabled then .alreadyEnabled
  else if (epdRef d).dir = .IN ∧ s.core.fifo.epTx[(epdRef d).num.val].2 * 4 < epdMps d then .noFifo
  else if s.isDesc = true ∧ s.descArray (.ep (epdRef d)) false = none then .noFreeIoBlock
  else .ok

/-- The record of an endpoint that is enabled where EPDISBLD of an earlier use has not come yet: that stays known, and the
control word waits (R550, log entry 39). -/
def EpRec.reenabled (r : EpRec) (d : Epd) (desc : Option Word) : EpRec :=
  { enabledRecord d desc with
    disabling := r.disabling
    enabling := if r.disabling then some (enableWord d) else none }

/-- The critical section of `enable_endpoint` (R280): the record, the control register, the summary mask. Between EPDIS and
EPDISBLD the control register is left alone until EPDISBLD (R550, log entry 39). -/
def enableAccepted (d : Epd) : M Unit := critical do
  let s ← ask id
  modEp (epdRef d) fun r => r.reenabled d (s.descArray (.ep (epdRef d)) false)
  doIf (!s.disabling (.ep (epdRef d))) (regWrite (epCtl (epdRef d)) (enableWord d))
  regUpdate .DAINTMSK fun w => withBit w (daintBit (epdRef d)) true

/-- `enable_endpoint(d)` (R280). -/
def enableEndpoint (d : Epd) : M Status := do
  let s ← ask id
  if s.enableCheck d = .ok then do
    enableAccepted d
    pure .ok
  else pure (s.enableCheck d)

/-- `disable_endpoint(e)` (R282). An endpoint without a request is deactivated at once, also between EPDIS and EPDISBLD. -/
def disableEndpoint (e : EpRef) : M Status := do
  let r ← ask fun s => s.ep e
  if e.num = 0 ∨ r.enabled = false then pure .notEnabled
  else critical do
    modEp e fun r => { r with enabled := false }
    let r ← ask fun s => s.ep e
    doIf (decide (r.x.active ≠ none) || !r.x.queue.isEmpty) (abortEndpoint e .cancelled true)
    let t ← ask fun s => s.ep e
    doIf (decide (t.state ≠ .haltedPendingDisable)) (deactivate e)
    pure .ok

/-- Whether a stall also disables the endpoint: IN with a transfer in progress (R287). -/
def stallDisables (e : EpRef) (t : Word) : Bool := decide (e.dir = .IN) && bitOf t 31

/-- The control word that stalls an endpoint (R287): with the disable, EPENA is written back as read (1). -/
def stallWord (e : EpRef) (t : Word) : Word :=
  (if stallDisables e t then haltWord t else keepControl t) ||| bit1 21

/-- `ep_set_stall(ep)` (R287). -/
def epSetStall (e : EpRef) : M Unit := do
  let t ← regRead (epCtl e)
  regWrite (epCtl e) (stallWord e t)
  doIf (stallDisables e t) (modEp e fun r => { r with disabling := true })
  completeKeep (.ep e) .stalled
  modEp e fun r => { r with state := .stalled }

/-- `ep_clear_stall(ep)` (R288): an isochronous endpoint keeps its parity. Where the stall has asked for the disable, the next
request is active at once, and its first chunk waits for EPDISBLD (`waitTransfer`). What has waited for the end of the stall goes
on afterwards (`epUnstall`). -/
def epClearStall (e : EpRef) : M Unit := do
  let r ← ask fun s => s.ep e
  if r.state = .stalled then do
    regUpdate (epCtl e) fun w => keepControl (withBit w 21 false) ||| bitIf (decide (r.type ≠ .isochronous)) 28
    modEp e fun r => { r with state := .idle }
    nextRequest (.ep e)
  else pure ()

/-- Store received bytes at the end of what a request has (R265). -/
def storeReceived (x : XRef) (bs : List Byte) : M Unit := do
  act fun s => s.setBytes (s.chunkAddr x) bs
  modReq x fun q => { q with done := q.done + bs.length }

/-- Read `n` words from FIFO window 0 (R265). -/
def popWords : Nat → M (List Word)
  | 0 => pure []
  | n + 1 => do
    let w ← regRead (.FIFO 0)
    let ws ← popWords n
    pure (w :: ws)

/-- Whether an endpoint or channel exists in the current role: endpoints in the peripheral roles, channels in the host
roles, numbers in range (R142, R490). -/
def State.validX (s : State) : XRef → Bool
  | .ep e => s.peripheral && decide (e.num.val < s.core.caps.nEp)
  | .ch c => !s.peripheral && decide (c.val < s.core.caps.nCh)

/-- START_TRANSFER(x, h) (R246), in the critical section of R113 (R245); operands out of range are BadParam (R450). -/
def startTransferCmd (x : XRef) (h : BitVec 16) : M Result := needFunctional <| critical do
  let s ← ask id
  if s.validX x && decide (h.toNat < s.pool.length) then do
    startTransfer x h.toNat
    pure (.status .ok)
  else pure (.status .badParam)

/-- CONTINUE_TRANSFER(x) (R260): from the handler only (R143), a callback's commands among them (R471). -/
def continueTransferCmd (x : XRef) : M Result := needFunctional do
  let ok ← ask fun s => decide (s.ctx = .isr) || s.inCb
  assertThat ok .context
  let s ← ask id
  if s.validX x then do
    let b ← continueTransfer x
    pure (.flag b)
  else pure (.status .badParam)

/-- ENABLE_ENDPOINT(d) (R280). -/
def enableEndpointCmd (d : Epd) : M Result := needFunctional do
  let st ← enableEndpoint d
  pure (.status st)

/-- DISABLE_ENDPOINT(e) (R282). -/
def disableEndpointCmd (e : EpRef) : M Result := needFunctional do
  let st ← disableEndpoint e
  pure (.status st)

end Sys2Proof.Machine
end

