-- ==== Sys2Proof/Machine/HostChannel.lean ====
section
/-! DEFINITION. Host channels: allocation (R351), the two-phase halt (R353 to R358), and the commands SUBMIT (R243),
CANCEL (R283) and HALT, which need both the endpoint and the channel engine. -/

namespace Sys2Proof.Machine

open Sys2Proof

/-- Whether two targets have the same pipe key: device address, endpoint number, direction (R350). -/
def samePipe (a b : HcParams) : Bool :=
  decide (a.devAddr = b.devAddr) && decide (a.epNum = b.epNum) && decide (a.epDir = b.epDir)

/-- The pipe key as the key of the data-toggle table (R75). -/
def pipeKey (t : HcParams) : Nat := t.devAddr.toNat * 32 + t.epNum.val * 2 + natOf (decide (t.epDir = .IN))

/-- The PID of the first packet (R351): the one asked for, or the pipe's toggle. -/
def State.firstPid (s : State) (t : HcParams) : Pid :=
  match t.pid with
  | some p => p
  | none => if SMap.get false s.htog (pipeKey t) then .data1 else .data0

/-- The record of a channel that is allocated (R351). -/
def State.allocRecord (s : State) (c : Fin 16) (t : HcParams) : ChRec :=
  { blankCh with
    allocated := true
    params := t
    dataPid := s.firstPid t
    x := { blankXfer with desc := s.descArray (.ch c) false } }

/-- The allocated channel of a pipe. -/
def State.pipeChannel (s : State) (t : HcParams) : Option (Fin 16) :=
  s.channels.find? (fun c => (s.chan c).allocated && samePipe (s.chan c).params t)

/-- The lowest free channel. One whose halt is not confirmed yet, that of an engine stop (R411), is not handed out (R550, log entry
39). -/
def State.freeChannel (s : State) : Option (Fin 16) :=
  s.channels.find? (fun c => !(s.chan c).allocated && decide ((s.chan c).haltStatus ≠ .haltPending))

/-- What `channel_for` answers (R351). -/
inductive ChanFor where
  | inUse (c : Fin 16)
  | fresh (c : Fin 16)
  | busy
  | none
  deriving DecidableEq, Repr

/-- `channel_for(t)` (R351), before the allocation is made. -/
def State.channelFor (s : State) (t : HcParams) : ChanFor :=
  match s.pipeChannel t with
  | some c => if t.pid = none then .inUse c else .busy
  | none => match s.freeChannel with
    | some c => .fresh c
    | none => .none

/-! The two-phase halt. -/

/-- The request of a channel ends, or a channel without one is released (R358), unless a request waits for the halt (R246,
R550). -/
def endChannel (c : Fin 16) (st : Status) : M Unit := do
  let r ← ask fun s => s.chan c
  if r.x.active = none then channelComplete c else completeRequest (.ch c) st

/-- `finish(ch, st)` (R358). -/
def finishChannel (c : Fin 16) (st : Status) : M Unit := do
  let r ← ask fun s => s.chan c
  doIf r.cancelAll (modX (.ch c) fun t => { t with queue := [] })
  endChannel c st
  forEach (if r.cancelAll then r.x.queue else []) cancelQueued

/-- `channel_rearm(ch)` (R358). -/
def channelRearm (c : Fin 16) : M Unit := do
  modCh c fun r => { r.unhalted with x := { r.x with chunkDone := 0 } }
  programChunk (.ch c)

/-- `channel_halted(ch)` (R358). -/
def channelHalted (c : Fin 16) (reason : HaltReason) : M Unit := do
  match reason with
  | .nak => channelRearm c
  | .ack => do
    modCh c fun r => { r with completeSplit := true }
    channelRearm c
  | .xactErr => do
    let s ← ask id
    if s.hw.errLimit ≤ (s.chan c).errorCount then finishChannel c .xactError
    else do
      modCh c fun r => { r with completeSplit := false }
      channelRearm c
  | .stall => finishChannel c .stalled
  | .ahbErr => finishChannel c .ahbError
  | .babble => finishChannel c .babble
  | .descErr => finishChannel c .descriptorError
  | .cancelled => finishChannel c .cancelled

/-- `halt(ch, reason)` (R353). -/
def halt (c : Fin 16) (reason : HaltReason) : M Unit := do
  let r ← ask fun s => s.chan c
  if r.haltStatus ≠ .noHalt then pure ()
  else do
    let t ← regRead (.HCCHAR c)
    if bitOf t 31 = false then do
      modCh c fun r => { r with haltStatus := .halted reason, haltReason := some reason }
      channelHalted c reason
    else do
      let q ← queueSpace c
      if q = 0 then do
        modCh c fun r => { r with haltDeferred := some reason }
        unmaskFifoEmpty c
      else do
        modCh c fun r => { r with haltDeferred := none }
        regUpdate (.HCINTMSK c) fun m => m ||| 0x2
        let w ← hccharValue c
        regWrite (.HCCHAR c) (w ||| 0xC0000000)
        modCh c fun r => { r with haltStatus := .haltPending, haltReason := some reason }

/-- `retry_deferred_halt(ch)` (R355). -/
def retryDeferredHalt (c : Fin 16) : M Unit := do
  let r ← ask fun s => s.chan c
  match r.haltDeferred with
  | none => pure ()
  | some reason => do
    modCh c fun r => { r with haltDeferred := none }
    halt c reason

/-- The request of a channel has ended while its halt was pending, and the halt is confirmed: the channel is used again or
released (R359, R550), and what a CANCEL named besides ends with Cancelled (R358). -/
def channelSettled (c : Fin 16) : M Unit := do
  let r ← ask fun s => s.chan c
  doIf r.cancelAll (modX (.ch c) fun t => { t with queue := [] })
  channelComplete c
  forEach (if r.cancelAll then r.x.queue else []) cancelQueued

/-- The body of HALT inside the critical section (R353); a channel that does not exist in the current role is BadParam
(R450). -/
def haltIn (c : Fin 16) (r : HaltReason) : M Result := do
  let s ← ask id
  if s.validX (.ch c) then do
    halt c r
    pure .unit
  else pure (.status .badParam)

/-- HALT(c, r) (R353). A halt that is pending already is told before any access at all (program 5); any other halt of task
context runs inside the critical section (R545; DEDUCED, log entry 11). -/
def haltCmd (c : Fin 16) (r : HaltReason) : M Result := needFunctional do
  let pending ← ask fun s => s.validX (.ch c) && decide ((s.chan c).haltStatus ≠ .noHalt)
  if pending then pure .unit else critical (haltIn c r)

/-! SUBMIT and CANCEL. -/

/-- The request that `submit` stores (R243). -/
def submitted (x : XRef) (buf : Word) (len : Nat) (z : Bool) (cb : CbId) : Req :=
  { buf := buf, length := len, done := 0, zeroFlag := z, cb := cb.id, ctx := cb.ctx, status := .pending, owner := some x }

/-- Start a submitted request, or queue it behind those before it (R243). -/
def startOrQueue (x : XRef) (h : Nat) : M Unit := do
  let t ← ask fun s => s.xfer x
  if t.active = none ∧ t.queue = [] then startTransfer x h
  else modX x fun t => { t with queue := t.queue ++ [h] }

/-- The part of `submit` after its target is known (R243): `undo` gives back what the call has allocated. -/
def submitOn (x : XRef) (buf : Word) (len : Nat) (z : Bool) (cb : CbId) (undo : M Unit) : M Result := do
  let o ← poolAlloc
  match o with
  | none => do
    undo
    pure (.status .noFreeIoBlock)
  | some h => do
    act fun s => s.modReqAt (.pool h) fun _ => submitted x buf len z cb
    startOrQueue x h
    pure (.handle h)

/-- Whether an endpoint or channel is run by the isochronous scheduler (R430). -/
def State.scheduled (s : State) (x : XRef) : Bool := (s.isoOf x).isSome

/-- The checks of `submit` on an endpoint (R243, R430). -/
def State.submitCheck (s : State) (e : EpRef) : Status :=
  if e.num = 0 ∨ s.core.caps.nEp ≤ e.num.val ∨ (s.ep e).enabled = false then .notEnabled
  else if (s.ep e).state = .stalled ∨ (s.ep e).state = .haltedPendingDisable ∨ s.scheduled (.ep e) = true then .busy
  else .ok

/-- `submit` in a peripheral role (R243). -/
def submitEp (e : EpRef) (buf : Word) (len : Nat) (z : Bool) (cb : CbId) : M Result := do
  let s ← ask id
  if s.submitCheck e = .ok then submitOn (.ep e) buf len z cb (pure ())
  else pure (.status (s.submitCheck e))

/-- `submit` in a host role (R243, R351): what a failing call has allocated is given back without a register write. -/
def submitPipe (t : HcParams) (buf : Word) (len : Nat) (z : Bool) (cb : CbId) : M Result := do
  let s ← ask id
  match s.channelFor t with
  | .busy => pure (.status .busy)
  | .none => pure (.status .noFreeChannel)
  | .inUse c =>
    if (s.chan c).haltStatus ≠ .noHalt ∨ s.scheduled (.ch c) = true then pure (.status .busy)
    else submitOn (.ch c) buf len z cb (pure ())
  | .fresh c => do
    modCh c fun _ => s.allocRecord c t
    submitOn (.ch c) buf len z cb (modCh c fun _ => s.chan c)

/-- The body of SUBMIT inside the critical section, where the role is read (R243); a target of the other role's kind is
BadParam (R142). -/
def submitTo (t : Target) (buf : Word) (len : Nat) (z : Bool) (cb : CbId) : M Result := do
  let device ← ask State.peripheral
  match t with
  | .ep e => if device then submitEp e buf len z cb else pure (.status .badParam)
  | .pipe p => if device then pure (.status .badParam) else submitPipe p buf len z cb

/-- SUBMIT(t, buf, len, zero_flag, cb) (R243). -/
def submitCmd (t : Target) (buf len : Word) (z : Bool) (cb : CbId) : M Result := needFunctional do
  let s ← ask id
  if !s.isSlave && decide (buf.toNat % 4 ≠ 0) then pure (.status .badParam)
  else critical (submitTo t buf len.toNat z cb)

/-- A channel is halted as cancelled; a halt that is pending already becomes one that cancels (R283). -/
def cancelChannel (c : Fin 16) : M Unit := do
  let r ← ask fun s => s.chan c
  if r.haltStatus = .haltPending then modCh c fun r => { r with haltReason := some .cancelled }
  else halt c .cancelled

/-- What `cancel` does to its target (R283). -/
def cancelTarget : XRef → M Unit
  | .ep e => abortEndpoint e .cancelled true
  | .ch c => do
    modCh c fun r => { r with cancelAll := true }
    cancelChannel c

/-- CANCEL(h) (R283): task context only; a handle that names no submitted request is BadHandle. -/
def cancelCmd (h : BitVec 16) : M Result := needFunctional do
  taskOnly
  let s ← ask id
  match if s.slotUsed h.toNat then (s.reqAt (.pool h.toNat)).owner else none with
  | none => pure (.status .badHandle)
  | some x => critical do
    cancelTarget x
    pure (.status .ok)

end Sys2Proof.Machine
end

