-- ==== Sys2Proof/Machine/Iso.lean ====
section
/-! DEFINITION. The isochronous double-buffer scheduler (R430 to R442). -/

namespace Sys2Proof.Machine

open Sys2Proof

/-- Buffer `b` of a record. -/
def IsoRec.buf (r : IsoRec) (b : Bool) : Word := if b then r.buf1 else r.buf0
/-- The descriptor array of buffer `b`. -/
def IsoRec.chain (r : IsoRec) (b : Bool) : Word := if b then r.chain1 else r.chain0
/-- The packet records of buffer `b`. -/
def IsoRec.info (r : IsoRec) (b : Bool) : List IsoInfo := if b then r.info1 else r.info0
/-- Replace the packet records of buffer `b`. -/
def IsoRec.setInfo (r : IsoRec) (b : Bool) (l : List IsoInfo) : IsoRec :=
  if b then { r with info1 := l } else { r with info0 := l }

/-- `current_frame()` (R433). -/
def currentFrame : M (BitVec 14) := do
  let p ← ask State.peripheral
  if p then do
    let w ← regRead .DSTS
    pure (BitVec.ofNat 14 (field w 8 14))
  else do
    let w ← regRead .HFNUM
    pure (BitVec.ofNat 14 (field w 0 14))

/-- One descriptor of `iso_build_chain` (R434): it takes the record's next frame number, which then advances. -/
def isoBuildSlot (x : XRef) (b : Bool) (j : Nat) : M Unit := do
  let s ← ask id
  match s.isoOf x with
  | none => pure ()
  | some r => do
    writeDesc (r.chain b + BitVec.ofNat 32 (8 * j)) (r.buf b + BitVec.ofNat 32 (j * r.pktLen))
      (isoStatusWord r.pktLen r.nextFrame.toNat (slotPid (s.transmits x) r.pktLen (s.mpsOf x))
        (decide (j + 1 = r.pktPerBuf)))
    modIso x fun r => { r with nextFrame := r.nextFrame + BitVec.ofNat 14 (s.intervalOf x) }

/-- `iso_build_chain(iso, b)` (R434). -/
def isoBuildChain (x : XRef) (b : Bool) (pktPerBuf : Nat) : M Unit :=
  forEach (List.range pktPerBuf) (isoBuildSlot x b)

/-- `iso_arm(iso, b)` (R436). -/
def isoArm (x : XRef) (b : Bool) : M Unit := do
  let s ← ask id
  match s.isoOf x with
  | none => pure ()
  | some r => match x with
    | .ep e => do
      doIf (decide (e.dir = .OUT)) (regWrite (epSiz e) (fld 19 10 r.pktPerBuf))
      regWrite (epDma e) (r.chain b)
      regUpdate (epCtl e) fun w => keepControl w ||| cnakEpena
    | .ch c => do
      programChannelHead c
      startChannelChain c (r.chain b)

/-- The record of one packet slot (R435 (a)). -/
def slotInfo (tx : Bool) (pktLen n rem j : Nat) (w : Word) : IsoInfo :=
  if n ≤ j + rem ∨ field w 30 2 ≠ 2 then ⟨.packetDropped, 0, j * pktLen⟩
  else match field w 28 2 with
    | 0 => ⟨.ok, if tx then pktLen else pktLen - field w 0 12, j * pktLen⟩
    | 1 => ⟨.packetDropped, 0, j * pktLen⟩
    | _ => ⟨.bufferError, 0, j * pktLen⟩

/-- Read the status words of a finished chain and record the slots (R435 (a)). -/
def readSlots (tx : Bool) (chain : Word) (pktLen n rem : Nat) : List Nat → M (List IsoInfo)
  | [] => pure []
  | j :: js => do
    let w ← memRead32 (chain + BitVec.ofNat 32 (8 * j))
    let rest ← readSlots tx chain pktLen n rem js
    pure (slotInfo tx pktLen n rem j w :: rest)

/-- `iso_arm` of the chain that comes next, which programs its owner: between EPDIS and EPDISBLD, or while a halt is pending, it
waits for the confirmation (R550, log entry 39). A halt that is deferred only does not hold it back (R355; DESIGN CHOICE, log entry
46). -/
def isoArmNext (x : XRef) (b : Bool) : M Unit := do
  let s ← ask id
  match x with
  | .ep e => if (s.ep e).disabling then modEp e fun r => { r with rearm := true } else isoArm x b
  | .ch c => if (s.chan c).haltStatus = .haltPending then modCh c fun r => { r with ended := some .chain } else isoArm x b

/-- The chain in process is armed, where the owner still has a record. -/
def isoArmCurrent (x : XRef) : M Unit := do
  let o ← ask fun s => s.isoOf x
  match o with
  | none => pure ()
  | some r => isoArm x r.procBuf

/-- The chain that waited for EPDISBLD is armed (R550), unless the endpoint has been disabled meanwhile. A Stalled endpoint stays
Stalled (R285, R287), and its chain waits on, for `ep_clear_stall` (R288, log entry 39). -/
def isoResume (e : EpRef) : M Unit := do
  let s ← ask id
  if (s.ep e).state = .stalled then modEp e fun r => { r with rearm := true }
  else doIf ((s.ep e).enabled && s.scheduled (.ep e)) (do
    markActive (.ep e)
    isoArmCurrent (.ep e))

/-- The first chunk of a start that has waited for EPDISBLD is programmed (R246, R550), unless the endpoint has been disabled
meanwhile. On a Stalled endpoint it waits on, for `ep_clear_stall` (R285, R288, log entry 39). -/
def startResume (e : EpRef) : M Unit := do
  let r ← ask fun s => s.ep e
  doIf (r.waits && r.enabled && !r.disabling && decide (r.state ≠ .stalled)) (do
    markActive (.ep e)
    programChunk (.ep e))

/-- `ep_clear_stall(ep)` (R288), after which what has waited for it, and for no other confirmation, goes on: the first chunk of a
request (R246), or an isochronous chain (R436, log entry 39). -/
def epUnstall (e : EpRef) : M Unit := do
  let r ← ask fun s => s.ep e
  epClearStall e
  doIf (decide (r.state = .stalled)) (startResume e)
  doIf (decide (r.state = .stalled) && r.rearm && !r.disabling) (do
    modEp e fun r => { r with rearm := false }
    isoResume e)

/-- `iso_chain_complete(x, rem)` (R435). -/
def isoChainComplete (x : XRef) (rem : Nat) : M Unit := do
  let s ← ask id
  match s.isoOf x with
  | none => pure ()
  | some r => do
    let b := r.procBuf
    let l ← readSlots (s.transmits x) (r.chain b) r.pktLen r.pktPerBuf rem (List.range r.pktPerBuf)
    modIso x fun r => r.setInfo b l
    modIso x fun r => { r with procBuf := !b }
    isoBuildChain x b r.pktPerBuf
    isoArmNext x (!b)
    callback (.isoBufferReady r.cb b)

/-- The record that ISO_START makes (R432). The packet records of R67 hold nothing until their chain has completed for the
first time: the rule gives them no initial value (DESIGN CHOICE, log entry 6). -/
def isoRecord (x : XRef) (buf0 buf1 chain0 chain1 : Word) (pktLen perBuf : Nat) (cb : CbId) (next : BitVec 14) : IsoRec :=
  { owner := x, buf0 := buf0, buf1 := buf1, chain0 := chain0, chain1 := chain1, procBuf := false, pktPerBuf := perBuf
    pktLen := pktLen, nextFrame := next, info0 := [], info1 := [], cb := cb }

/-- A new isochronous record. A scheduled channel that UPPER's HALT has released keeps its record (R430), and a later ISO_START may
take that channel again: of its two records the newer one is then read, and both are changed and dropped (DESIGN CHOICE, log entry
47). -/
def addIso (r : IsoRec) : M Unit := act fun s => { s with iso := r :: s.iso }

/-- The part of ISO_START after the owner is known (R432): `undo` gives back what the call has allocated. -/
def isoBegin (x : XRef) (buf0 buf1 : Word) (pktLen perBuf : Nat) (cb : CbId) (undo : M Unit) (done : Result) :
    M Result := do
  let f ← currentFrame
  let s ← ask id
  match s.descArray x false, s.descArray x true with
  | some c0, some c1 => do
    addIso (isoRecord x buf0 buf1 c0 c1 pktLen perBuf cb (f + BitVec.ofNat 14 (s.intervalOf x)))
    isoBuildChain x false perBuf
    isoBuildChain x true perBuf
    markActive x
    isoArmNext x false
    pure done
  | _, _ => do
    undo
    pure (.status .noFreeIoBlock)

/-- Whether a slot length is out of range (R432). -/
def badSlot (pktLen multi mps : Nat) : Bool :=
  decide (pktLen < 1) || decide (multi * mps < pktLen) || decide (4095 < pktLen)

/-- The checks of ISO_START on an endpoint (R432). -/
def State.isoCheckEp (s : State) (e : EpRef) (pktLen : Nat) : Status :=
  let r := s.ep e
  if e.num = 0 ∨ r.enabled = false ∨ r.type ≠ .isochronous then .notEnabled
  else if badSlot pktLen r.multiCount r.mps = true then .badParam
  else if r.x.active ≠ none ∨ r.x.queue ≠ [] ∨ r.state ≠ .idle ∨ s.scheduled (.ep e) = true then .busy
  else .ok

/-- The checks of ISO_START on a pipe (R432). -/
def State.isoCheckPipe (s : State) (t : HcParams) (pktLen : Nat) : Status :=
  if t.epType ≠ .isochronous then .badParam
  else if badSlot pktLen t.multiCount.toNat t.mps.toNat = true then .badParam
  else if s.pipeChannel t ≠ none then .busy
  else if s.freeChannel = none then .noFreeChannel
  else .ok

/-- ISO_START on an endpoint (R432). -/
def isoStartEp (e : EpRef) (buf0 buf1 : Word) (pktLen perBuf : Nat) (cb : CbId) : M Result := do
  let s ← ask id
  if s.isoCheckEp e pktLen = .ok then isoBegin (.ep e) buf0 buf1 pktLen perBuf cb (pure ()) (.status .ok)
  else pure (.status (s.isoCheckEp e pktLen))

/-- ISO_START on a pipe (R432): the lowest free channel, set up as in R351; the answer is its number. -/
def isoStartPipe (t : HcParams) (buf0 buf1 : Word) (pktLen perBuf : Nat) (cb : CbId) : M Result := do
  let s ← ask id
  if s.isoCheckPipe t pktLen = .ok then
    match s.freeChannel with
    | none => pure (.status .noFreeChannel)
    | some c => do
      modCh c fun _ => s.allocRecord c t
      isoBegin (.ch c) buf0 buf1 pktLen perBuf cb (modCh c fun _ => s.chan c) (.channel c.val)
  else pure (.status (s.isoCheckPipe t pktLen))

/-- The body of ISO_START inside the critical section, where the role is read (R432); a target of the other role's kind is
BadParam (R142). -/
def isoStartOn (t : Target) (buf0 buf1 : Word) (pktLen perBuf : Nat) (cb : CbId) : M Result := do
  let device ← ask State.peripheral
  match t with
  | .ep e => if device then isoStartEp e buf0 buf1 pktLen perBuf cb else pure (.status .badParam)
  | .pipe p => if device then pure (.status .badParam) else isoStartPipe p buf0 buf1 pktLen perBuf cb

/-- ISO_START(t, buf0, buf1, pkt_len, pkt_per_buf, cb) (R432): descriptor-DMA mode only. -/
def isoStartCmd (t : Target) (buf0 buf1 : Word) (pktLen perBuf : BitVec 16) (cb : CbId) : M Result := needFunctional do
  taskOnly
  let s ← ask id
  if !s.isDesc || decide (buf0.toNat % 4 ≠ 0) || decide (buf1.toNat % 4 ≠ 0) || decide (perBuf.toNat < 1) ||
      decide (min s.hw.maxDesc (2 ^ s.core.caps.pw - 1) < perBuf.toNat) then pure (.status .badParam)
  else critical (isoStartOn t buf0 buf1 pktLen.toNat perBuf.toNat cb)

/-- The stop path of an isochronous owner (R442). Where UPPER's HALT of the channel is pending already, `halt` does nothing (R353),
and the pending halt becomes one that cancels, as R283 has it for `cancel`: the channel is released at CHHLTD, as R442 says, also
where a halt to try again was pending (DEDUCED, log entry 39). -/
def isoStopTarget : XRef → M Unit
  | .ep e => abortEndpoint e .cancelled true
  | .ch c => cancelChannel c

/-- ISO_STOP(x) (R442). -/
def isoStopCmd (x : XRef) : M Result := needFunctional do
  taskOnly
  let s ← ask id
  if s.scheduled x then critical do
    dropIso x
    isoStopTarget x
    pure (.status .ok)
  else pure (.status .badHandle)

/-- An OUT endpoint that ISOOUTDROP may concern (R440): one that is scheduled and reads EPENA = 0, whichever endpoint the drop was
of. An endpoint whose arming waits for EPDISBLD (`rearm`) reads EPENA = 0 too, so that a drop of another endpoint completes its
chain, which was never armed: the rule is taken at its word (DEDUCED, log entry 39). -/
def isoDropOne (n : Fin 16) : M Unit := do
  let s ← ask id
  match s.isoOf (.ep ⟨n, .OUT⟩) with
  | none => pure ()
  | some r => do
    let w ← regRead (.DOEPCTL n)
    if bitOf w 31 then pure ()
    else do
      let z ← regRead (.DOEPTSIZ n)
      regWrite (.DOEPINT n) 0x201
      isoChainComplete (.ep ⟨n, .OUT⟩) (min (field z 19 10) r.pktPerBuf)

/-- Event GINTSTS.ISOOUTDROP (R440). -/
def evtIsooutdrop : M Unit := do
  regWrite .GINTSTS (bit1 14)
  let n ← ask fun s => s.core.caps.nEp
  forEach ((List.finRange 16).filter fun k => decide (k.val ≠ 0) && decide (k.val < n)) isoDropOne

end Sys2Proof.Machine
end

