-- ==== Sys2Proof/Machine/Ep0.lean ====
section
/-! DEFINITION. The EP0 control-transfer state machine and the standard requests (R300 to R327), and the bus events of
the device role (R480 to R483). -/

namespace Sys2Proof.Machine

open Sys2Proof

/-- EP0 IN. -/
def ep0In : XRef := .ep ⟨0, .IN⟩
/-- EP0 OUT. -/
def ep0Out : XRef := .ep ⟨0, .OUT⟩

/-- `ep0.state <- v`. -/
def setEp0State (v : Ep0State) : M Unit := modEp0 fun e => { e with state := v }

/-- An endpoint or channel has no active request. -/
def clearActive (x : XRef) : M Unit := modX x fun t => { t with active := none }

/-- The status word of the SETUP-reception descriptor (R305): BYTES = 64, IOC = 1, L = 1, BS = HostReady. -/
def setupDescWord : Word := 0x0A000040

/-- `ep0_arm_setup()` (R305). -/
def ep0ArmSetup : M Unit := do
  regWrite (.DOEPTSIZ 0) 0x20080008
  let s ← ask id
  doIf (decide (s.core.dmaMode = .bufferDma)) (regWrite (.DOEPDMA 0) s.ep0.setupBuf)
  doIf s.isDesc (do
    let d ← descBase ep0Out
    writeDesc d s.ep0.setupBuf setupDescWord
    regWrite (.DOEPDMA 0) d)
  regUpdate (.DOEPCTL 0) fun w => keepControl w ||| bit1 31

/-- The part of `ep0_abandon()` for an EP0 IN transfer in progress (R326): disable, wait, consume the confirmation,
flush. A flush that times out is logged, and the rule goes on (DESIGN CHOICE, log entry 18). -/
def ep0DisableIn : M Unit := do
  regUpdate (.DIEPCTL 0) haltWord
  let limit ← ask fun s => s.hw.flushPollLimit
  let ok ← poll (do
    let w ← regRead (.DIEPINT 0)
    pure (bitOf w 1)) limit
  doIf (!ok) (logMsg .ep0DisableTimeout)
  regWrite (.DIEPINT 0) 0x2
  let st ← flushTxFifo 0
  doIf (decide (st ≠ .ok)) (logMsg .flushTimeout)

/-- `ep0_abandon()` (R326). -/
def ep0Abandon : M Unit := do
  let w ← regRead (.DIEPCTL 0)
  doIf (bitOf w 31) ep0DisableIn
  let slave ← ask State.isSlave
  doIf slave (setEmptyMask 0 false)
  modX ep0In fun t => { t with active := none, zlpPhase := false }
  clearActive ep0Out

/-- `ep0_stall()` (R325). -/
def ep0Stall : M Unit := do
  ep0Abandon
  regUpdate (.DIEPCTL 0) fun w => keepControl w ||| bit1 21
  regUpdate (.DOEPCTL 0) fun w => keepControl w ||| bit1 21
  setEp0State .stall
  ep0ArmSetup

/-- Endpoint 0 stalls for a refused request or a fatal error, in any state but Disconnected (R301). -/
def ep0Refuse : M Unit := do
  let st ← ask fun s => s.ep0.state
  doIf (decide (st ≠ .disconnected)) ep0Stall

/-- EP0's request record for a phase of `n` bytes (R320). -/
def setEp0Request (n : Nat) (z : Bool) : M Unit :=
  modEp0 fun e => { e with request := { blankReq with buf := e.reply, length := n, zeroFlag := z } }

/-- `ep0_send(n, zero_flag)` (R320). -/
def ep0Send (n : Nat) (z : Bool) : M Unit := do
  setEp0Request n z
  modX ep0In fun t => { t with active := some .ep0, zlpPhase := false }
  programChunk ep0In

/-- `ep0_receive(n)` (R320). -/
def ep0Receive (n : Nat) : M Unit := do
  let cap ← ask fun s => s.ep0.replyCap
  if cap < n then ep0Stall
  else do
    setEp0Request n false
    modX ep0Out fun t => { t with active := some .ep0 }
    programChunk ep0Out

/-- The result of a request handler (R306). -/
inductive ReqResult where
  | ack
  | reply (bytes : List Byte)
  | stall
  deriving DecidableEq, Repr

/-! The requests (R310 to R319). -/

/-- The endpoint that `wIndex` names (R167). -/
def indexEp (w : BitVec 16) : EpRef := ⟨(w.extractLsb' 0 4).toFin, if w.getLsbD 7 then .IN else .OUT⟩

/-- Whether `wIndex` names an enabled endpoint other than 0 (R310 to R312). -/
def State.epListed (s : State) (w : BitVec 16) : Bool :=
  decide ((indexEp w).num.val < s.core.caps.nEp) && (s.ep (indexEp w)).enabled

/-- A status reply of two bytes (R310). -/
def statusReply (b : Bool) : ReqResult := .reply [BitVec.ofNat 8 (natOf b), 0]

/-- GET_STATUS (R310). -/
def getStatusReq (f : SetupFields) : M ReqResult := do
  let s ← ask id
  pure (if f.dir = .OUT then .stall
    else match f.recip.toNat with
    | 0 => .reply [BitVec.ofNat 8 (natOf s.plat.selfPowered + 2 * natOf s.ep0.remoteWakeup), 0]
    | 1 => .reply [0, 0]
    | 2 =>
      if (indexEp f.wIndex).num = 0 then statusReply (decide (s.ep0.state = .stall))
      else if s.epListed f.wIndex then statusReply (decide ((s.ep (indexEp f.wIndex)).state = .stalled))
      else .stall
    | _ => .stall)

/-- Whether a feature request is DEVICE_REMOTE_WAKEUP (R167). -/
def isRemoteWakeup (f : SetupFields) : Bool := decide (f.recip = 0) && decide (f.wValue = 1)

/-- Whether a feature request is ENDPOINT_HALT (R167). -/
def isEndpointHalt (f : SetupFields) : Bool := decide (f.recip = 2) && decide (f.wValue = 0)

/-- CLEAR_FEATURE (R311). -/
def clearFeatureReq (f : SetupFields) : M ReqResult := do
  let s ← ask id
  if f.dir = .IN ∨ f.wLength ≠ 0 then pure .stall
  else if isRemoteWakeup f then do
    modEp0 fun e => { e with remoteWakeup := false }
    pure .ack
  else if isEndpointHalt f then
    (if (indexEp f.wIndex).num = 0 then pure .ack
     else if s.epListed f.wIndex then do
      epUnstall (indexEp f.wIndex)
      pure .ack
     else pure .stall)
  else pure .stall

/-- SET_FEATURE (R312). -/
def setFeatureReq (f : SetupFields) : M ReqResult := do
  let s ← ask id
  if f.dir = .IN ∨ f.wLength ≠ 0 then pure .stall
  else if isRemoteWakeup f then do
    modEp0 fun e => { e with remoteWakeup := true }
    pure .ack
  else if isEndpointHalt f then
    (if (indexEp f.wIndex).num = 0 then pure .stall
     else if s.epListed f.wIndex then do
      epSetStall (indexEp f.wIndex)
      pure .ack
     else pure .stall)
  else pure .stall

/-- `REG[DCFG].DEVADDR <- a` (R313, R412, R481); DESCDMA stays as it was programmed (R552). -/
def setDevAddr (a : Nat) : M Unit := regUpdateAt .DCFG fun s w => s.keepDma 23 s.isDesc (withField w 4 7 a)

/-- SET_ADDRESS (R313). -/
def setAddressReq (f : SetupFields) : M ReqResult := do
  if f.dir = .IN ∨ f.recip ≠ 0 ∨ f.wLength ≠ 0 ∨ 127 < f.wValue.toNat then pure .stall
  else do
    modEp0 fun e => { e with address := f.wValue.setWidth 7 }
    setDevAddr f.wValue.toNat
    pure .ack

/-- UPPER's answer to `class_request`: the next of the platform's script, else free (R14). -/
def classAnswer : M (Option (List Byte)) := do
  let s ← ask id
  match s.plat.answers with
  | .stall :: rest => do
    act fun s => { s with plat := { s.plat with answers := rest } }
    pure none
  | .value bs :: rest => do
    act fun s => { s with plat := { s.plat with answers := rest } }
    pure (some bs)
  | [] => do
    act fun s => { s with draws := s.draws + 1 }
    pure (Config.freeAnswer s.draws)

/-- `delegate(s)` (R317): UPPER puts the bytes of its answer into the reply buffer. -/
def delegate (p : SetupPkt) : M ReqResult := do
  let reply ← ask fun s => s.ep0.reply
  callback (.classRequest p reply)
  let a ← classAnswer
  match a with
  | none => pure .stall
  | some bs => do
    let s ← ask id
    assertThat (decide (bs.length ≤ s.ep0.replyCap)) .replyCapacity
    act fun s => s.setBytes s.ep0.reply bs
    ask fun s => if s.ep0.state = .inData then .reply (s.bytes s.ep0.reply bs.length) else .ack

/-- `desc_lookup(type, index, langid)` (R14). -/
def State.descLookup (s : State) (v w : BitVec 16) : Option (List Byte) :=
  (s.plat.descTable.find? (fun e => decide (e.1 = (v.extractLsb' 8 8, v.extractLsb' 0 8, w)))).map Prod.snd

/-- GET_DESCRIPTOR (R314). -/
def getDescriptorReq (f : SetupFields) : M ReqResult := do
  let s ← ask id
  if f.dir = .OUT then pure .stall
  else if f.recip ≠ 0 ∨ ¬ [1, 2, 3, 6, 7].contains (f.wValue.extractLsb' 8 8).toNat = true then
    delegate (f.packet 0x06)
  else pure (match s.descLookup f.wValue f.wIndex with
    | none => .stall
    | some d => .reply d)

/-- `disable_endpoint(e)` without its answer. -/
def disableQuietly (e : EpRef) : M Unit := do
  let _ ← disableEndpoint e
  pure ()

/-- Disable an endpoint if it is enabled (R319). -/
def disableIfEnabled (e : EpRef) : M Unit := do
  let r ← ask fun s => s.ep e
  doIf r.enabled (disableQuietly e)

/-- `deactivate_all()` (R319). -/
def deactivateAll : M Unit := do
  let l ← ask State.dataEndpoints
  forEach l disableIfEnabled

/-- `activate_configuration(L)` (R318): `enable_endpoint` of each descriptor; a refused one rolls back `done`, the
endpoints enabled before it, the last first. -/
def activateConfiguration : List Epd → List EpRef → M Bool
  | [], _ => pure true
  | d :: ds, done => do
    let s ← ask id
    if s.enableCheck d = .ok then do
      enableAccepted d
      activateConfiguration ds (epdRef d :: done)
    else do
      forEach done disableQuietly
      pure false

/-- `config_endpoints(v)` (R14). -/
def State.configEndpoints (s : State) (v : Byte) : Option (List Epd) :=
  (s.plat.configs.find? (fun e => decide (e.1 = v))).map Prod.snd

/-- `iface_endpoints(iface, alt)` (R14). -/
def State.ifaceEndpoints (s : State) (i a : BitVec 16) : Option (List Epd) :=
  (s.plat.ifaces.find? (fun e => decide (e.1 = (i, a)))).map Prod.snd

/-- `deactivate_all(); ep0.config <- 0` (R315). -/
def dropConfiguration : M Unit := do
  deactivateAll
  modEp0 fun e => { e with config := 0 }

/-- SET_CONFIGURATION (R315). -/
def setConfigurationReq (f : SetupFields) : M ReqResult := do
  let s ← ask id
  if f.dir = .IN ∨ f.recip ≠ 0 ∨ f.wLength ≠ 0 then pure .stall
  else
    let v : Byte := f.wValue.extractLsb' 0 8
    if v = 0 then do
      dropConfiguration
      pure .ack
    else match s.configEndpoints v with
      | none => pure .stall
      | some l => do
        doIf (decide (s.ep0.config ≠ 0)) dropConfiguration
        let ok ← activateConfiguration l []
        if ok then do
          modEp0 fun e => { e with config := v }
          pure .ack
        else pure .stall

/-- SET_INTERFACE (R316). -/
def setInterfaceReq (f : SetupFields) : M ReqResult := do
  let s ← ask id
  if f.dir = .IN ∨ f.recip ≠ 1 ∨ f.wLength ≠ 0 ∨ s.ep0.config = 0 then pure .stall
  else match s.ifaceEndpoints f.wIndex f.wValue with
    | none => pure .stall
    | some l => do
      forEach l fun d => disableIfEnabled (epdRef d)
      let ok ← activateConfiguration l []
      pure (if ok then .ack else .stall)

/-- `dispatch(s)` (R306). -/
def dispatchSetup (p : SetupPkt) : M ReqResult :=
  match decodeSetup p with
  | .getStatus f => getStatusReq f
  | .clearFeature f => clearFeatureReq f
  | .setFeature f => setFeatureReq f
  | .setAddress f => setAddressReq f
  | .getDescriptor f => getDescriptorReq f
  | .setConfiguration f => setConfigurationReq f
  | .setInterface f => setInterfaceReq f
  | _ => delegate p

/-! Phases. -/

/-- `ep0_apply(r)` (R307) for a request with this wLength. -/
def ep0Apply (wLength : Nat) (r : ReqResult) : M Unit := do
  let st ← ask fun s => s.ep0.state
  match r with
  | .stall => ep0Refuse
  | .ack => match st with
    | .inStatus => ep0Send 0 false
    | .inData => ep0Stall
    | _ => pure ()
  | .reply bs => match st with
    | .inStatus => ep0Send 0 false
    | .inData => do
      let n := min wLength bs.length
      act fun s => s.setBytes s.ep0.reply (bs.take n)
      modEp0 fun e => { e with totalLength := n }
      ep0Send n (decide (n < wLength))
    | _ => pure ()

/-- The handler of a request with an OUT data phase has run (R322). -/
def ep0AfterData (r : ReqResult) : M Unit := do
  match r with
  | .stall => ep0Stall
  | .ack | .reply _ => do
    setEp0State .inStatus
    ep0Send 0 false

/-- What follows a handler's result (R307): the next phase; in OutData the data has arrived before the handler ran
(R322). -/
def ep0Conclude (wLength : Nat) (r : ReqResult) : M Unit := do
  let st ← ask fun s => s.ep0.state
  if st = .outData then ep0AfterData r else ep0Apply wLength r

/-- The data or status phase that a SETUP selects (R303). -/
def setupPhase (p : SetupPkt) : Ep0State :=
  if p.wLength = 0 then .inStatus else if p.bmRequestType.getLsbD 7 then .inData else .outData

/-- A SETUP packet from 8 bytes of memory (R165). -/
def setupOfBytes (bs : List Byte) : SetupPkt :=
  match pSetup bs with
  | .ok (p, _) => p
  | .error _ => blankSetup

/-- `ep0.setup` from the 8 bytes of its buffer, in two accesses (R303). -/
def readSetup (a : Word) : M Unit := do
  let w0 ← memRead32 a
  let w1 ← memRead32 (a + 4)
  modEp0 fun e => { e with setup := setupOfBytes (wordBytes w0 ++ wordBytes w1) }

/-- Event DOEPINT[0].SETUP (R303). -/
def evtSetup0 : M Unit := do
  regWrite (.DOEPINT 0) 0x8
  let s ← ask id
  if s.ep0.state = .disconnected then pure ()
  else do
    doIf (!s.isSlave) (readSetup s.ep0.setupBuf)
    let p ← ask fun s => s.ep0.setup
    ep0Abandon
    modEp0 fun e => { e with totalLength := p.wLength.toNat }
    setEp0State (setupPhase p)
    if setupPhase p = .outData then ep0Receive p.wLength.toNat
    else do
      let r ← dispatchSetup p
      ep0Apply p.wLength.toNat r

/-- `ep0_in_complete()` (R321). -/
def ep0InComplete : M Unit := do
  let s ← ask id
  if (s.xfer ep0In).active = none then pure ()
  else match s.ep0.state with
    | .inData => do
      let r ← chunkResult ep0In
      if r.err then ep0Stall
      else do
        countMoved ep0In (!(s.xfer ep0In).zlpPhase) r.moved
        advanceWith ep0In false do
          clearActive ep0In
          setEp0State .outStatus
          ep0Receive 0
    | .inStatus => do
      clearActive ep0In
      setEp0State .idle
      ep0ArmSetup
    | .disconnected | .idle | .outData | .outStatus | .stall => clearActive ep0In

/-- The OUT data phase has ended (R322): its length is checked, then the handler runs. -/
def ep0OutEnd : M Unit := do
  clearActive ep0Out
  let s ← ask id
  if s.ep0.request.done ≠ s.ep0.totalLength then ep0Stall
  else do
    let r ← dispatchSetup s.ep0.setup
    ep0AfterData r

/-- `ep0_out_complete()` (R322). -/
def ep0OutComplete : M Unit := do
  let s ← ask id
  if (s.xfer ep0Out).active = none then pure ()
  else match s.ep0.state with
    | .outData => do
      let r ← chunkResult ep0Out
      if r.err then ep0Stall
      else do
        countMoved ep0Out (!s.isSlave) r.moved
        let t ← ask id
        if t.ep0.request.done < t.ep0.totalLength ∧ r.short = false then programChunk ep0Out
        else ep0OutEnd
    | .outStatus => do
      clearActive ep0Out
      setEp0State .idle
      ep0ArmSetup
    | .disconnected | .idle | .inData | .inStatus | .stall => clearActive ep0Out

/-! Bus events of the device role. -/

/-- Event GINTSTS.USBSUSP (R480). -/
def evtUsbsusp : M Unit := do
  regWrite .GINTSTS (bit1 11)
  callback .suspend

/-- Event GINTSTS.WKUPINT (R483). -/
def evtWkupint : M Unit := do
  regWrite .GINTSTS (bit1 31)
  callback .resume

/-- Event GINTSTS.USBRST (R481). -/
def evtUsbrst : M Unit := do
  regWrite .GINTSTS (bit1 12)
  ep0Abandon
  setEp0State .disconnected
  deactivateAll
  setDevAddr 0
  modEp0 fun e => { e with address := 0, config := 0, remoteWakeup := false }
  callback .busReset

/-- Endpoint 0 in use (R482). -/
def useEp0 (r : EpRec) : EpRec :=
  { r with type := .control, mps := 64, enabled := true, state := .idle, txFifo := 0 }

/-- Event GINTSTS.ENUMDONE (R482). It sets Idle from every state: R304 and R482 name no condition, while R301 lists the event
for Disconnected only (DEDUCED, log entry 42). -/
def evtEnumdone : M Unit := do
  regWrite .GINTSTS (bit1 13)
  regWrite (.DIEPCTL 0) 0x08008040
  regWrite (.DOEPCTL 0) 0x08008040
  modEp ⟨0, .IN⟩ useEp0
  modEp ⟨0, .OUT⟩ useEp0
  setEp0State .idle
  ep0ArmSetup

end Sys2Proof.Machine
end

