-- ==== Sys2Proof/Machine/OtgRole.lean ====
section
/-! DEFINITION. OTG session and role negotiation (R400 to R412), and CORE_INIT and CORE_DEINIT (R201, R217), which start
and stop the engines. -/

namespace Sys2Proof.Machine

open Sys2Proof

/-- `fatal_assert` on the mode wait (R17, R402, R410). -/
def fatalUnless (ok : Bool) : M Unit := if ok then pure () else stopWith (.fault .modeWait)

/-- Wait, bounded, for the hardware mode bit (R402, R410). -/
def waitMode (host : Bool) : M Unit := do
  let limit ← ask fun s => s.hw.modeWaitLimit
  let ok ← poll (do
    let w ← regRead .GINTSTS
    pure (bitOf w 0 == host)) limit
  fatalUnless ok

/-- DIEPMSK of a device engine start (R410). -/
def diepmskValue (desc : Bool) : Word := if desc then 0x20F else 0x00F
/-- DOEPMSK of a device engine start (R410). -/
def doepmskValue (desc : Bool) : Word := if desc then 0x130F else 0x110F

/-- No engine is started (R410). -/
def State.enginesStopped (s : State) : Bool := !s.core.deviceEngine && !s.core.hostEngine

/-- A failed `role_program` leaves the core non-functional (R410). -/
def setNonFunctional : M Unit := modCore fun c => { c with functional := false }

/-- The record of an endpoint at a device engine start (R410, R81). A disable that an earlier stop has asked for and EPDISBLD has
not confirmed stays known (R550, log entry 39). -/
def EpRec.fresh (r : EpRec) : EpRec := { blankEp with disabling := r.disabling }

/-- The endpoint and EP0 records of a device engine start (R410). -/
def State.freshEndpoints (s : State) : State :=
  { s with
    epIn := s.epIn.map EpRec.fresh
    epOut := s.epOut.map EpRec.fresh
    ep0 := { s.ep0 with state := .disconnected, address := 0, config := 0 } }

/-- The registers and records of a device engine start after `role_program` (R410). -/
def deviceEngineSetup : M Unit := do
  act State.freshEndpoints
  let s ← ask id
  regWrite .DIEPMSK (diepmskValue s.isDesc)
  regWrite .DOEPMSK (doepmskValue s.isDesc)
  regWrite (.DIEPCTL 0) (bit1 27)
  regWrite (.DOEPCTL 0) (bit1 27)
  regWrite .DAINTMSK 0x00010001
  regWrite .DIEPEMPMSK 0
  regUpdate .GINTMSK fun w => w ||| 0x000C7800 ||| bitIf s.isSlave 4
  modCore fun c => { c with deviceEngine := true }
  callback .deviceRoleStart

/-- `device_engine_start()` (R410). -/
def deviceEngineStart : M Status := do
  let stopped ← ask State.enginesStopped
  assertThat stopped .engineStart
  waitMode false
  let st ← roleProgram
  if st = .ok then do
    deviceEngineSetup
    pure .ok
  else do
    setNonFunctional
    pure st

/-- The registers and records of a host engine start after `role_program` (R410). -/
def hostEngineSetup : M Unit := do
  act fun s => { s with ch := Vector.replicate 16 blankCh, htog := [] }
  let slave ← ask State.isSlave
  regWrite .HAINTMSK 0
  regUpdate .GINTMSK fun w => w ||| bit1 25 ||| bitIf slave 4
  modCore fun c => { c with hostEngine := true }
  callback .hostRoleStart

/-- `host_engine_start()` (R410). -/
def hostEngineStart : M Status := do
  let stopped ← ask State.enginesStopped
  assertThat stopped .engineStart
  waitMode true
  let st ← roleProgram
  if st = .ok then do
    hostEngineSetup
    pure .ok
  else do
    setNonFunctional
    pure st

/-- The active request, then the queued ones in order, end with Cancelled (R411, R412). A SUBMIT from a Cancelled callback, which
R547 allows, is not spoken of there: the queue is read after the active request's callback, so that a request which that callback
has queued is cancelled too, while one that a later callback queues or starts stays, and so does one that the active request's callback
starts (EPENA or CHENA 0, nothing queued); a re-init then drops it uncalled (DESIGN CHOICE, log entry 45). -/
def cancelAll (x : XRef) : M Unit := do
  completeKeep x .cancelled
  let q ← ask fun s => (s.xfer x).queue
  modX x fun t => { t with queue := [] }
  forEach q cancelQueued

/-- The disable of a channel is asked for by an engine stop, and its confirmation is not waited for (R411): until CHHLTD the channel
is not programmed again (R550, log entry 39). -/
def ChRec.stopping (r : ChRec) : ChRec := { r with haltStatus := .haltPending, haltReason := some .cancelled }

/-- Stop one allocated channel (R411): the disable is not waited for. -/
def stopChannel (c : Fin 16) : M Unit := do
  let r ← ask fun s => s.chan c
  doIf r.allocated (do
    let w ← regRead (.HCCHAR c)
    doIf (bitOf w 31) (do
      let v ← hccharValue c
      regWrite (.HCCHAR c) (v ||| 0xC0000000)
      modCh c ChRec.stopping)
    cancelAll (.ch c)
    channelRelease c)

/-- Drop every isochronous record, without callbacks (R411, R412). -/
def dropAllIso : M Unit := act fun s => { s with iso := [] }

/-- `host_engine_stop()` (R411). -/
def hostEngineStop : M Unit := do
  let l ← ask State.channels
  forEach l stopChannel
  dropAllIso
  regUpdate .GINTMSK fun w => w &&& ~~~0x06000030#32
  regWrite .HAINTMSK 0
  modCore fun c => { c with hostEngine := false }
  callback .hostRoleStop

/-- Stop one endpoint that is enabled or has a request (R412): the disable is not waited for, and until EPDISBLD the endpoint is not
programmed again (R550, log entry 39). A request that is only queued counts too, since a re-init completes first what is active or
queued (R81; DEDUCED, log entry 45). -/
def stopEndpoint (e : EpRef) : M Unit := do
  let r ← ask fun s => s.ep e
  doIf (r.enabled || decide (r.x.active ≠ none) || !r.x.queue.isEmpty) (do
    let w ← regRead (epCtl e)
    doIf (bitOf w 31) (do
      regUpdate (epCtl e) haltWord
      modEp e fun r => { r with disabling := true })
    cancelAll (.ep e)
    deactivate e
    modEp e fun r => { r with enabled := false })

/-- `device_engine_stop()` (R412). -/
def deviceEngineStop : M Unit := do
  ep0Abandon
  setEp0State .disconnected
  let l ← ask State.dataEndpoints
  forEach l stopEndpoint
  dropAllIso
  regWrite .DAINTMSK 0
  regWrite .DIEPEMPMSK 0
  regUpdate .GINTMSK fun w => w &&& ~~~0x000C7810#32
  setDevAddr 0
  modEp0 fun e => { e with address := 0, config := 0 }
  modCore fun c => { c with deviceEngine := false }
  callback .deviceRoleStop

/-- `start_engine_for(state)` (R210). -/
def startEngineFor (st : OpState) : M Status :=
  match st with
  | .aHost | .bHost | .aSuspend => hostEngineStart
  | .aPeripheral | .bPeripheral => deviceEngineStart

/-- The core is functional (R201 step 9). From then on the interrupt line can be high and callbacks run, so the context is again
the one in which `core_init` was called: a handler that re-initialises the core is not entered a second time (R8, R470, log
entry 13). -/
def becomeFunctional (x : Ctx) : M Unit := do
  modCore fun c => { c with functional := true }
  act fun s => { s with ctx := x }

/-- A failed `core_init` leaves the core non-functional (R201), in the context in which it was called. -/
def initFailed (x : Ctx) (st : Status) : M Status := do
  setNonFunctional
  act fun s => { s with ctx := x }
  pure st

/-- Steps 4 to 11 of `core_init` (R201), called in context `x`. -/
def coreInitProgram (x : Ctx) : M Status := do
  readCapabilities
  resolveParams
  programCore
  setOpStateFromHardware
  initInterrupts
  becomeFunctional x
  let c ← ask State.core
  let st ← startEngineFor c.opState
  if st = .ok then ask fun s => if s.core.cfgError then .configError else .ok
  else initFailed x st

/-- Steps 1 to 11 of `core_init` (R201). -/
def coreInitFrom (base : Word) (p : InitParams) : M Status := do
  let x ← ask State.ctx
  act fun s => s.freshRecords base p
  regWrite .GAHBCFG 0
  let st ← coreResetSeq
  if st = .ok then coreInitProgram x else initFailed x st

/-- `core_init(base, params)` (R201): the shared-FIFO mode, asked for or forced by the hardware, is refused before
anything is written. -/
def coreInit (base : Word) (p : InitParams) : M Status := do
  if p.dedicatedFifo then do
    let w ← regRead .GHWCFG4
    if bitOf w 25 then coreInitFrom base p else pure .badParam
  else pure .badParam

/-- CORE_INIT (R201). -/
def coreInitCmd (base : Word) (p : InitParams) : M Result := do
  taskOnly
  let st ← coreInit base p
  pure (.status st)

/-- The records are discarded (R217, R81). -/
def State.discardRecords (s : State) : State :=
  { s with
    core := { s.core with functional := false }
    epIn := Vector.replicate 16 blankEp
    epOut := Vector.replicate 16 blankEp
    ch := Vector.replicate 16 blankCh
    pool := []
    iso := []
    htog := []
    recordsExist := false }

/-- CORE_DEINIT of a core that has records (R217). -/
def coreDeinit : M Result := do
  taskOnly
  regWrite .GAHBCFG 0
  regWrite .GINTMSK 0
  let s ← ask id
  doIf s.core.hostEngine hostEngineStop
  doIf s.core.deviceEngine deviceEngineStop
  act State.discardRecords
  pure (.status .ok)

/-- CORE_DEINIT (R217); where no record exists it is NotFunctional (R522, log entry 33). -/
def coreDeinitCmd : M Result := do
  let made ← ask State.recordsExist
  if made then coreDeinit else pure (.status .notFunctional)

/-- `core_reinit()` (R403). -/
def coreReinit : M Unit := do
  let c ← ask State.core
  let st ← coreInit c.base c.params
  doIf (decide (st = .ok ∨ st = .configError)) (setGate true)

/-- Event GINTSTS.CONIDSTSCHNG (R402). -/
def evtConidstschng : M Unit := do
  regWrite .GINTSTS (bit1 28)
  let w ← regRead .GOTGCTL
  let c ← ask State.core
  doIf c.hostEngine hostEngineStop
  doIf c.deviceEngine deviceEngineStop
  waitMode (!bitOf w 16)
  coreReinit

/-- A role switch whose engine start has failed leaves the core non-functional (R410), and a non-functional core has its
gate closed (R218). Where a flush of that start has not settled, the read of the read-modify-write is free (R540), so that HBSTLEN
is written back with a free value, and DMAEN with the one it has (R552; DEDUCED, log entry 38). -/
def closeOnFailure (st : Status) : M Unit := doIf (decide (st ≠ .ok)) (setGate false)

/-- B_HOST falls back to B_PERIPHERAL (R404, R407). -/
def fallBack : M Unit := do
  hostEngineStop
  modCore fun c => { c with opState := .bPeripheral }
  let st ← deviceEngineStart
  closeOnFailure st

/-- The peripheral branch of a session end (R404). -/
def sessionEnd : M Unit := do
  let on ← ask fun s => s.core.deviceEngine
  doIf on deviceEngineStop
  callback .disconnect

/-- Event GOTGINT.SESENDDET (R404). -/
def evtSesenddet : M Unit := do
  regWrite .GOTGINT (bit1 2)
  let c ← ask State.core
  match c.opState with
  | .bHost => fallBack
  | .bPeripheral | .aPeripheral => sessionEnd
  | .aHost | .aSuspend => pure ()

/-- HNP succeeded (R405): B_PERIPHERAL becomes B_HOST. -/
def becomeHost : M Unit := do
  deviceEngineStop
  modCore fun c => { c with opState := .bHost }
  let st ← hostEngineStart
  closeOnFailure st

/-- `hnp_failed()` (R406). -/
def hnpFailed : M Unit := do
  regUpdate .GOTGCTL fun w => w ||| 0x00000A00
  logMsg .hnpPeerUnresponsive

/-- Event GOTGINT.HSTNEGSUCSTSCHNG (R405, R406). -/
def evtHstnegsucstschng : M Unit := do
  regWrite .GOTGINT (bit1 9)
  let w ← regRead .GOTGCTL
  if bitOf w 8 then do
    let m ← regRead .GINTSTS
    let c ← ask State.core
    doIf (!bitOf m 0 && decide (c.opState = .bPeripheral)) becomeHost
  else hnpFailed

/-- Event GINTSTS.DISCONNINT (R407). -/
def evtDisconnint : M Unit := do
  regWrite .GINTSTS (bit1 29)
  let c ← ask State.core
  match c.opState with
  | .bHost => fallBack
  | .aHost => callback .disconnect
  | .aPeripheral | .aSuspend | .bPeripheral => pure ()

end Sys2Proof.Machine
end

