-- ==== Sys2Proof/Machine/EndpointEvents.lean ====
section
/-! DEFINITION. The event handlers of the device endpoints (R262, R270 to R277, R285, R439), the receive queue (R265) and
the unhandled bits (R487). -/

namespace Sys2Proof.Machine

open Sys2Proof

/-! Unhandled bits. -/

/-- The mask register of a status register, if it has one (R487). -/
def maskOf : Reg → Option Reg
  | .GINTSTS => some .GINTMSK
  | .DIEPINT _ => some .DIEPMSK
  | .DOEPINT _ => some .DOEPMSK
  | .HCINT c => some (.HCINTMSK c)
  | _ => none

/-- An unhandled bit of a status register (R487): cleared once, masked where it does not clear. -/
def unhandledBit (r : Reg) (k : Fin 32) : M Unit := do
  assertThat false .unhandledBit
  regWrite r (bit1 k.val)
  match maskOf r with
  | none => pure ()
  | some m => do
    let w ← regRead r
    doIf (bitOf w k.val) (regUpdate m fun t => withBit t k.val false)

/-! Device IN and OUT endpoints. -/

/-- The bits of a status register are cleared: the first write of each handler (R452). -/
def clearEvent (r : Reg) (k : Nat) : M Unit := regWrite r (bit1 k)

/-- A fatal error of an endpoint (R274, R276, R277): EP0 stalls, any other endpoint aborts its active request. -/
def endpointError (e : EpRef) (st : Status) : M Unit :=
  if e.num = 0 then ep0Refuse else abortEndpoint e st false

/-- Event XFERCOMPL of a data endpoint (R270, R271): the isochronous scheduler's endpoints go on with the other buffer. -/
def dataComplete (e : EpRef) : M Unit := do
  let iso ← ask fun s => s.scheduled (.ep e)
  if iso then isoChainComplete (.ep e) 0 else epChunkDone e

/-- Event DIEPINT[n].XFERCOMPL (R270). -/
def evtInXfercompl (n : Fin 16) : M Unit := do
  clearEvent (.DIEPINT n) 0
  if n = 0 then ep0InComplete else dataComplete ⟨n, .IN⟩

/-- Event DOEPINT[n].XFERCOMPL (R271). -/
def evtOutXfercompl (n : Fin 16) : M Unit := do
  clearEvent (.DOEPINT n) 0
  if n = 0 then ep0OutComplete else dataComplete ⟨n, .OUT⟩

/-- The control word of an ENABLE_ENDPOINT that had to wait for EPDISBLD (R280, R550, log entry 39), unless the endpoint has been
disabled again; one that has been stalled meanwhile keeps STALL (R287). -/
def enableNow (e : EpRef) (r : EpRec) : M Unit :=
  match r.enabling with
  | none => pure ()
  | some w => doIf r.enabled (regWrite (epCtl e) (w ||| bitIf (decide (r.state = .stalled)) 21))

/-- A disable that the engine asked for is confirmed (R285). What had to wait for it happens now (R550, log entry 39): the
control word of an endpoint that was enabled again (R280), the first chunk of a request that was started meanwhile (R246), and the
arming of an isochronous chain (R436). -/
def disableConfirmed (e : EpRef) : M Unit := do
  let r ← ask fun s => s.ep e
  modEp e fun r => { r with disabling := false, rearm := false, enabling := none }
  enableNow e r
  doIf (decide (r.state = .haltedPendingDisable)) (finishAbort e)
  startResume e
  doIf r.rearm (isoResume e)

/-- Event DIEPINT[n].EPDISBLD (R285): the endpoint's Tx FIFO is flushed; an exhausted flush is logged. -/
def evtInEpdisbld (n : Fin 16) : M Unit := do
  clearEvent (.DIEPINT n) 1
  let r ← ask fun s => s.ep ⟨n, .IN⟩
  let st ← flushTxFifo r.txFifo.val
  doIf (decide (st ≠ .ok)) (logMsg .flushTimeout)
  disableConfirmed ⟨n, .IN⟩

/-- Event DOEPINT[n].EPDISBLD (R285). -/
def evtOutEpdisbld (n : Fin 16) : M Unit := do
  clearEvent (.DOEPINT n) 1
  disableConfirmed ⟨n, .OUT⟩

/-- Event DIEPINT[n].AHBERR (R274). -/
def evtInAhberr (n : Fin 16) : M Unit := do
  clearEvent (.DIEPINT n) 2
  endpointError ⟨n, .IN⟩ .ahbError

/-- Event DOEPINT[n].AHBERR (R274). -/
def evtOutAhberr (n : Fin 16) : M Unit := do
  clearEvent (.DOEPINT n) 2
  endpointError ⟨n, .OUT⟩ .ahbError

/-- Event DIEPINT[n].TIMEOUT (R275). -/
def evtInTimeout (n : Fin 16) : M Unit := clearEvent (.DIEPINT n) 3

/-- Event DIEPINT[n].TXFEMP (R262): a level bit, silenced by its mask. -/
def evtInTxfemp (n : Fin 16) : M Unit := do
  let more ← continueTransfer (.ep ⟨n, .IN⟩)
  doIf (!more) (setEmptyMask n false)

/-- BNA of an endpoint, its bit cleared (R276, R439); one that finds neither a record nor an active request is only
cleared (R442). -/
def bnaOf (e : EpRef) : M Unit := do
  let s ← ask id
  if s.scheduled (.ep e) then isoChainComplete (.ep e) 0
  else doIf (decide (e.num = 0) || decide ((s.ep e).x.active ≠ none)) (endpointError e .descriptorError)

/-- Event DIEPINT[n].BNA (R276, R439). -/
def evtInBna (n : Fin 16) : M Unit := do
  clearEvent (.DIEPINT n) 9
  bnaOf ⟨n, .IN⟩

/-- Event DOEPINT[n].BNA (R276, R439). -/
def evtOutBna (n : Fin 16) : M Unit := do
  clearEvent (.DOEPINT n) 9
  bnaOf ⟨n, .OUT⟩

/-- Event DOEPINT[n].SETUP (R303); an endpoint other than 0 has no such handler (R487, DEDUCED, log entry 14). -/
def evtOutSetup (n : Fin 16) : M Unit := if n = 0 then evtSetup0 else unhandledBit (.DOEPINT n) 3

/-- Event DOEPINT[n].OUTPKTERR (R277). -/
def evtOutOutpkterr (n : Fin 16) : M Unit := do
  clearEvent (.DOEPINT n) 8
  endpointError ⟨n, .OUT⟩ .overflow

/-- Event DOEPINT[n].BBLEERR (R277). -/
def evtOutBbleerr (n : Fin 16) : M Unit := do
  clearEvent (.DOEPINT n) 12
  endpointError ⟨n, .OUT⟩ .babble

/-! The receive queue (R265). -/

/-- The bytes of a received packet are read from the FIFO, whether they are kept or not (R265). -/
def readPacket (n : Nat) : M (List Byte) := do
  let ws ← popWords (ceilDiv n 4)
  pure (unpackWords ws n)

/-- Whether received data of an endpoint or channel is kept (R265); none is kept for a chunk that waits to be programmed (log entry
39). -/
def State.takesData (s : State) (x : XRef) : Bool :=
  decide ((s.xfer x).active ≠ none) && !(s.xfer x).zlpPhase && !s.waits x

/-- Rx status entry 2 in device mode: data of OUT endpoint NUM (R265). -/
def rxOutData (e : RxEntry) : M Unit := do
  let bs ← readPacket e.bcnt.toNat
  let keep ← ask fun s => s.takesData (.ep ⟨e.num, .OUT⟩)
  doIf keep (storeReceived (.ep ⟨e.num, .OUT⟩) bs)

/-- Rx status entry 6 in device mode: the 8 bytes of a SETUP packet (R265). -/
def rxSetupData : M Unit := do
  let bs ← readPacket 8
  modEp0 fun r => { r with setup := setupOfBytes bs }

/-- Rx status entry 2 in host mode: data of channel NUM (R265). -/
def rxInData (e : RxEntry) : M Unit := do
  let bs ← readPacket e.bcnt.toNat
  let keep ← ask fun s => s.takesData (.ch e.num)
  doIf keep (do
    storeReceived (.ch e.num) bs
    modX (.ch e.num) fun t => { t with chunkDone := t.chunkDone + bs.length })

/-- What the sequencer does with a popped Rx status entry (R265). The completion entries need nothing: LINK sets the
completion bit at the pop (`State.afterPop`); an entry with another code is ignored. -/
def rxEntry (host : Bool) (w : Word) : M Unit :=
  match if host then decodeRxHost w else decodeRxDevice w with
  | some (.rxsOutData e) => rxOutData e
  | some (.rxsSetupData _) => rxSetupData
  | some (.rxsInData e) => rxInData e
  | _ => pure ()

/-- Event GINTSTS.RXFLVL (R265); slave mode only. -/
def evtRxflvl : M Unit := do
  let slave ← ask State.isSlave
  if slave then do
    let w ← regRead .GRXSTSP
    let host ← ask State.hostMode
    rxEntry host w
  else unhandledBit .GINTSTS 4

/-- LINK's completion bit after the pop of an entry (R265). -/
def linkCompletes (r : Reg) (w : Word) : M Unit := act fun s => s.when (r.inRange s.hw.caps) fun s => s.post r w

/-- Rx status entry 3 in device mode, popped: DOEPINT[NUM].XFERCOMPL (R265). -/
def rxOutComplete (e : RxEntry) : M Unit := linkCompletes (.DOEPINT e.num) 0x1

/-- Rx status entry 4 in device mode, popped: DOEPINT[NUM].SETUP (R265). -/
def rxSetupComplete (e : RxEntry) : M Unit := linkCompletes (.DOEPINT e.num) 0x8

/-- Rx status entry 3 in host mode, popped: HCINT[NUM].XFERCOMPL and CHHLTD (R265). -/
def rxInComplete (e : RxEntry) : M Unit := linkCompletes (.HCINT e.num) 0x3

/-- Rx status entry 7 in host mode, popped: HCINT[NUM].CHHLTD (R265). -/
def rxChannelHalted (e : RxEntry) : M Unit := linkCompletes (.HCINT e.num) 0x2

end Sys2Proof.Machine
end

