-- ==== Sys2Proof/Machine/ChannelEvents.lean ====
section
/-! DEFINITION. The event handlers of the host channels (R358, R361 to R370, R439) and the FIFO-empty events of the host
(R264). -/

namespace Sys2Proof.Machine

open Sys2Proof

/-- A channel event (R361): the bit is cleared; a channel that is not allocated or has no active request is left
alone. -/
def channelEvent (c : Fin 16) (k : Nat) (p : M Unit) : M Unit := do
  clearEvent (.HCINT c) k
  let r ← ask fun s => s.chan c
  doIf (r.allocated && decide (r.x.active ≠ none)) p

/-- The PID of HCTSIZ is taken over, and a DATA0 or DATA1 is remembered for the pipe (R362, R75). -/
def takePid (c : Fin 16) : M Unit := do
  let w ← regRead (.HCTSIZ c)
  let r ← ask fun s => s.chan c
  let pid := pidOfCode (decide (r.params.epType = .control)) (field w 29 2)
  modCh c fun r => { r with dataPid := pid, errorState := false, errorCount := 0 }
  doIf (decide (pid = .data0) || decide (pid = .data1))
    (act fun s => { s with htog := SMap.put false s.htog (pipeKey r.params) (decide (pid = .data1)) })

/-- What follows a chunk whose bytes are counted (R362): a failed descriptor ends the request, any other chunk goes on. -/
def channelGoesOn (c : Fin 16) (short err : Bool) : M Unit :=
  if err then completeRequest (.ch c) .bufferError else advance (.ch c) short

/-- Whether the request of a channel ends with the chunk just counted (R362, R273). -/
def State.lastChunk (s : State) (x : XRef) (short err : Bool) : Bool :=
  let q := s.reqOf x
  err || decide (advanceChoice (s.xfer x).zlpPhase short q.done q.length (s.mpsOf x) q.zeroFlag = .finish)

/-- A chunk has ended while a halt is pending: a request that ends with it is completed; what would program or release the
channel waits for the confirmed halt (R550, R362, log entry 39). -/
def channelWaits (c : Fin 16) (short err : Bool) : M Unit := do
  let last ← ask fun s => s.lastChunk (.ch c) short err
  modCh c fun r => { r with ended := some (if last then .request else .chunk short) }
  doIf last (completeKeep (.ch c) (if err then .bufferError else .ok))

/-- A chunk of a channel has ended (R362). Where a halt is deferred only (R355), its status is still NoHalt, and the next chunk is
programmed as R362 has it, while R355 makes no re-arm (DESIGN CHOICE, log entry 46). -/
def channelEnded (c : Fin 16) (short err : Bool) : M Unit := do
  let r ← ask fun s => s.chan c
  if r.haltStatus = .haltPending then channelWaits c short err else channelGoesOn c short err

/-- A finished chunk of a channel (R362). -/
def channelChunkDone (c : Fin 16) : M Unit := do
  let s ← ask id
  let r := s.chan c
  let res ← chunkResult (.ch c)
  let moved := if r.params.doSplit = true ∧ r.params.epDir = .OUT then r.x.chunkLen else res.moved
  doIf r.params.doSplit (modCh c fun r => { r with completeSplit := false })
  countMoved (.ch c) (!res.err && !r.x.zlpPhase && !(s.isSlave && decide (r.params.epDir = .IN))) moved
  channelEnded c res.short res.err

/-- Event HCINT[c].XFERCOMPL (R362); it concerns the isochronous scheduler's channels too, which have no request. -/
def evtChXfercompl (c : Fin 16) : M Unit := do
  clearEvent (.HCINT c) 0
  let s ← ask id
  if s.scheduled (.ch c) then do
    takePid c
    isoChainComplete (.ch c) 0
  else doIf ((s.chan c).allocated && decide ((s.chan c).x.active ≠ none)) (do
    takePid c
    channelChunkDone c)

/-- Whether a confirmed halt of this reason programs the channel again (R352). -/
def haltRetries : HaltReason → Bool
  | .nak | .ack | .xactErr => true
  | .stall | .ahbErr | .babble | .descErr | .cancelled => false

/-- A channel whose chunk or chain has ended is used again with the next one, where its halt would have tried it again; a halt
that ends the request does so (R358, R550, log entry 39). -/
def resumeOr (c : Fin 16) (reason : HaltReason) (next : M Unit) : M Unit :=
  if haltRetries reason then do
    modCh c ChRec.unhalted
    next
  else channelHalted c reason

/-- A confirmed halt (R358), and what a completion under it has left to do (R550, log entry 39): where a chain has ended, the other
chain is armed if the halt would have tried again; a halt that cancels, that of an ISO_STOP among them (`isoStopTarget`), releases the
channel (R442). -/
def confirmHalt (c : Fin 16) (reason : HaltReason) : M Unit := do
  let r ← ask fun s => s.chan c
  modCh c fun r => { r with haltStatus := .halted reason, ended := none }
  match r.ended with
  | none => channelHalted c reason
  | some .request => channelSettled c
  | some (.chunk short) => resumeOr c reason (advance (.ch c) short)
  | some .chain => resumeOr c reason (isoArmCurrent (.ch c))

/-- Event HCINT[c].CHHLTD (R358). A channel without a request may have a halt pending too: an isochronous one that was
stopped (R442). A channel that an engine stop has released (R411) is free for the next target from then on, and nothing else happens
(R361, R550, log entry 39). -/
def evtChChhltd (c : Fin 16) : M Unit := do
  clearEvent (.HCINT c) 1
  let r ← ask fun s => s.chan c
  match r.haltReason with
  | none => pure ()
  | some reason =>
    doIf (decide (r.haltStatus = .haltPending))
      (if r.allocated then confirmHalt c reason else modCh c fun r => { r with haltStatus := .halted reason })

/-- Event HCINT[c].AHBERR (R369). -/
def evtChAhberr (c : Fin 16) : M Unit := channelEvent c 2 (halt c .ahbErr)

/-- Event HCINT[c].STALL (R368). -/
def evtChStall (c : Fin 16) : M Unit := channelEvent c 3 (halt c .stall)

/-- Event HCINT[c].NAK (R364). -/
def evtChNak (c : Fin 16) : M Unit := channelEvent c 4 do
  let r ← ask fun s => s.chan c
  if r.params.doSplit then do
    modCh c fun r => { r with completeSplit := false }
    halt c .nak
  else doIf (decide (r.params.epType = .interrupt)) (halt c .nak)

/-- The recovery of a channel in error state (R365). -/
def recoverChannel (c : Fin 16) : M Unit := do
  modCh c fun r => { r with errorState := false, errorCount := 0 }
  let s ← ask id
  regUpdate (.HCINTMSK c) fun m => channelMask s.core.dmaMode (s.chan c) ||| (m &&& 0x2)

/-- Event HCINT[c].ACK (R365). -/
def evtChAck (c : Fin 16) : M Unit := channelEvent c 5 do
  let r ← ask fun s => s.chan c
  doIf r.errorState (recoverChannel c)
  doIf (r.params.doSplit && !r.completeSplit) (halt c .ack)

/-- Event HCINT[c].NYET (R366); a channel with a halt pending is not written (R550). One whose halt is deferred only is written as
R366 has it, while R355 makes no re-arm (DESIGN CHOICE, log entry 46). -/
def evtChNyet (c : Fin 16) : M Unit := channelEvent c 6 do
  let r ← ask fun s => s.chan c
  doIf (r.params.doSplit && r.completeSplit && decide (r.haltStatus = .noHalt)) (requestAgain c)

/-- Event HCINT[c].XACTERR (R367). -/
def evtChXacterr (c : Fin 16) : M Unit := channelEvent c 7 do
  let limit ← ask fun s => s.hw.errLimit
  modCh c fun r => { r with errorState := true, errorCount := min (r.errorCount + 1) limit }
  halt c .xactErr

/-- Event HCINT[c].BBLERR (R369). -/
def evtChBblerr (c : Fin 16) : M Unit := channelEvent c 8 (halt c .babble)

/-- Event HCINT[c].BNA (R370, R439). -/
def evtChBna (c : Fin 16) : M Unit := do
  clearEvent (.HCINT c) 11
  let s ← ask id
  if s.scheduled (.ch c) then isoChainComplete (.ch c) 0
  else doIf ((s.chan c).allocated && decide ((s.chan c).x.active ≠ none)) (halt c .descErr)

/-! NPTXFEMP and PTXFEMP (R264). -/

/-- `needs_service(ch)` (R264). -/
def ChRec.needsService (r : ChRec) : Bool :=
  (r.allocated && decide (r.x.active ≠ none) && decide (r.haltStatus = .noHalt) && !r.params.doSplit &&
    decide (r.dataPid ≠ .setup) && (decide (r.params.epDir = .IN) || decide (r.x.chunkDone < r.x.chunkLen))) ||
  decide (r.haltDeferred ≠ none)

/-- The allocated channels of a kind that need service, ascending (R264). -/
def State.serviceList (s : State) (periodic : Bool) : List (Fin 16) :=
  s.channels.filter fun c =>
    (s.chan c).allocated && (typePeriodic (s.chan c).params.epType == periodic) && (s.chan c).needsService

/-- The channel served last by the event of a kind. -/
def State.lastServed (s : State) (periodic : Bool) : Option (Fin 16) := if periodic then s.rrP else s.rrNp

/-- The round robin (R264): the first channel after the last one served, else the first. -/
def nextServed (last : Option (Fin 16)) (l : List (Fin 16)) : Option (Fin 16) :=
  match last with
  | none => l.head?
  | some p => (l.find? fun c => decide (p < c)).orElse fun _ => l.head?

/-- Record the channel that the event serves. -/
def setServed (periodic : Bool) (c : Fin 16) : M Unit :=
  act fun s => if periodic then { s with rrP := some c } else { s with rrNp := some c }

/-- Mask the FIFO-empty event of a kind (R264). -/
def maskFifoEmpty (periodic : Bool) : M Unit := regUpdate .GINTMSK fun w => withBit w (fifoEmptyBit periodic) false

/-- Events GINTSTS.NPTXFEMP and GINTSTS.PTXFEMP (R264). -/
def serveFifoEmpty (periodic : Bool) : M Unit := do
  let s ← ask id
  match nextServed (s.lastServed periodic) (s.serviceList periodic) with
  | none => maskFifoEmpty periodic
  | some c => do
    setServed periodic c
    let _ ← continueTransfer (.ch c)
    let t ← ask id
    doIf (decide (t.serviceList periodic = [])) (maskFifoEmpty periodic)

/-- Whether the FIFO-empty events have their handler: host mode and slave mode (R151). -/
def State.hostSlave (s : State) : Bool := s.hostMode && s.isSlave

/-- Event GINTSTS.NPTXFEMP (R264); outside host slave mode it is unhandled (R487). -/
def evtNptxfemp : M Unit := do
  let ok ← ask State.hostSlave
  if ok then serveFifoEmpty false else unhandledBit .GINTSTS 5

/-- Event GINTSTS.PTXFEMP (R264); outside host slave mode it is unhandled (R487). -/
def evtPtxfemp : M Unit := do
  let ok ← ask State.hostSlave
  if ok then serveFifoEmpty true else unhandledBit .GINTSTS 26

end Sys2Proof.Machine
end

