-- ==== Sys2Proof/Machine/Dispatcher.lean ====
section
/-! DEFINITION. The interrupt dispatcher (R472 to R478): the routes from the top level to the leaf events, and the handler
loop. -/

namespace Sys2Proof.Machine

open Sys2Proof

/-- The leaf handler of a GOTGINT bit (R152). SESREQSUCSTSCHNG has no handler rule. -/
def leafOtg (k : Fin 32) : M Unit :=
  match k.val with
  | 2 => evtSesenddet
  | 9 => evtHstnegsucstschng
  | _ => unhandledBit .GOTGINT k

/-- The leaf handler of a DIEPINT[n] bit (R153). -/
def leafIn (n : Fin 16) (k : Fin 32) : M Unit :=
  match k.val with
  | 0 => evtInXfercompl n
  | 1 => evtInEpdisbld n
  | 2 => evtInAhberr n
  | 3 => evtInTimeout n
  | 7 => evtInTxfemp n
  | 9 => evtInBna n
  | _ => unhandledBit (.DIEPINT n) k

/-- The leaf handler of a DOEPINT[n] bit (R153). -/
def leafOut (n : Fin 16) (k : Fin 32) : M Unit :=
  match k.val with
  | 0 => evtOutXfercompl n
  | 1 => evtOutEpdisbld n
  | 2 => evtOutAhberr n
  | 3 => evtOutSetup n
  | 8 => evtOutOutpkterr n
  | 9 => evtOutBna n
  | 12 => evtOutBbleerr n
  | _ => unhandledBit (.DOEPINT n) k

/-- The leaf handler of an HCINT[c] bit (R154). -/
def leafCh (c : Fin 16) (k : Fin 32) : M Unit :=
  match k.val with
  | 0 => evtChXfercompl c
  | 1 => evtChChhltd c
  | 2 => evtChAhberr c
  | 3 => evtChStall c
  | 4 => evtChNak c
  | 5 => evtChAck c
  | 6 => evtChNyet c
  | 7 => evtChXacterr c
  | 8 => evtChBblerr c
  | 11 => evtChBna c
  | _ => unhandledBit (.HCINT c) k

/-- Handle the first bit of an order that is 1 in a word, if there is one (R473). -/
def handleFirst (order : List Nat) (w : Word) (leaf : Fin 32 → M Unit) : M Unit :=
  match firstEvent order w with
  | none => pure ()
  | some k => leaf k

/-- The lowest set bit of the low half of a summary word: an endpoint or channel number (R476 to R478). -/
def lowestNum (w : Word) : Option (Fin 16) := (List.finRange 16).find? fun n => bitOf w n.val

/-- Route of GINTSTS.OTGINT (R475). -/
def evtOtgint : M Unit := do
  let g ← regRead .GOTGINT
  handleFirst otgOrder g leafOtg

/-- Route of GINTSTS.IEPINT (R476). -/
def evtIepint : M Unit := do
  let d ← regRead .DAINT
  let m ← regRead .DAINTMSK
  match lowestNum (d &&& m &&& 0x0000FFFF) with
  | none => pure ()
  | some n => do
    let e ← regRead (.DIEPINT n)
    let k ← regRead .DIEPMSK
    let f ← regRead .DIEPEMPMSK
    handleFirst inOrder (e &&& (k ||| bitIf (bitOf f n.val) 7)) (leafIn n)

/-- Route of GINTSTS.OEPINT (R477). -/
def evtOepint : M Unit := do
  let d ← regRead .DAINT
  let m ← regRead .DAINTMSK
  match lowestNum ((d &&& m) >>> 16) with
  | none => pure ()
  | some n => do
    let e ← regRead (.DOEPINT n)
    let k ← regRead .DOEPMSK
    handleFirst outOrder (e &&& k) (leafOut n)

/-- Route of GINTSTS.HCHINT (R478). -/
def evtHchint : M Unit := do
  let a ← regRead .HAINT
  let m ← regRead .HAINTMSK
  match lowestNum (a &&& m) with
  | none => pure ()
  | some c => do
    let e ← regRead (.HCINT c)
    let k ← regRead (.HCINTMSK c)
    handleFirst chOrder (e &&& k) (leafCh c)

/-- A top-level event that belongs to one mode; in the other mode it is unhandled (R151, R487). -/
def inMode (host : Bool) (k : Fin 32) (p : M Unit) : M Unit := do
  let m ← ask State.hostMode
  if m = host then p else unhandledBit .GINTSTS k

/-- The handler of a GINTSTS bit (R151). -/
def leafTop (k : Fin 32) : M Unit :=
  match k.val with
  | 2 => evtOtgint
  | 4 => evtRxflvl
  | 5 => evtNptxfemp
  | 11 => inMode false k evtUsbsusp
  | 12 => inMode false k evtUsbrst
  | 13 => inMode false k evtEnumdone
  | 14 => inMode false k evtIsooutdrop
  | 18 => inMode false k evtIepint
  | 19 => inMode false k evtOepint
  | 25 => inMode true k evtHchint
  | 26 => evtPtxfemp
  | 28 => evtConidstschng
  | 29 => evtDisconnint
  | 31 => evtWkupint
  | _ => unhandledBit .GINTSTS k

/-- The next event to handle (R472): none when nothing unmasked is pending, or when the core is not functional, which an
event handled before may have caused: no event is dispatched then (R218). -/
def nextEvent : M (Option (Fin 32)) := do
  let f ← ask fun s => s.core.functional
  if f then do
    let a ← regRead .GINTSTS
    let m ← regRead .GINTMSK
    pure (firstEvent topOrder (a &&& m &&& 0xFFFFFFFE))
  else pure none

/-- The handler loop (R472), for at most so many events; true when there is no event left to handle. -/
def isrLoop : Nat → M Bool
  | 0 => pure false
  | fuel + 1 => do
    let o ← nextEvent
    match o with
    | none => pure true
    | some k => do
      leafTop k
      isrLoop fuel

/-- Events that one step of the handler may handle: the model's bound (log entry 16). -/
def isrFuel : Nat := 4096

/-- The handler as one step of the machine (R472): entered, or still running where the last step reached its bound. -/
def isrStep : M Unit := do
  let c ← ask State.ctx
  doIf (decide (c = .task)) (act State.enterHandler)
  let done ← isrLoop isrFuel
  doIf done (act State.leaveHandler)

/-- Events that a handler run inside another step may handle before the step is taken again (log entry 16). -/
def State.isrBound (s : State) : Nat := isrFuel * (s.patience + 1)

/-- The handler run that preempts a command between two accesses (R471). -/
def isrPreempt : M Unit := do
  act State.enterHandler
  let n ← ask State.isrBound
  let done ← isrLoop n
  if done then act State.leaveHandler else stopWith .unfinished

/-- The handler given as an operation, of a core that is functional (R143): it is entered by the interrupt line only, so with
the line low it is a command from a context its row does not allow (R544). -/
def isrFunctional : M Unit := do
  let s ← ask id
  assertThat (decide (s.ctx = .isr) || s.irqDue) .context
  isrStep

/-- ISR (R472). In task context a core that is not functional, or has no record, answers NotFunctional (R218, R522). -/
def isrCmd : M Unit := do
  let s ← ask id
  if decide (s.ctx = .isr) || (s.recordsExist && s.core.functional) then isrFunctional
  else act fun s => s.returned (.status .notFunctional)

end Sys2Proof.Machine
end

