-- ==== Sys2Proof/Machine/Nest.lean ====
section
/-! DEFINITION. What runs inside another step: the commands UPPER issues from a callback, the handler that preempts a
command, the retry of a deferred halt (R471, R176, R355); and the runners that turn a procedure into a meaning. -/

namespace Sys2Proof.Machine

open Sys2Proof

/-- ISR from a callback: asserted against, and without `DEBUG` not taken (R143, R544, U2, log entry 34). -/
def isrFromCallback : M Result := do
  assertThat false .context
  pure .unit

/-- A command by its instruction; no event, request or entry is one: none. -/
def cmdOf : Instr → Option (M Result)
  | .coreInit base p => some (coreInitCmd base p)
  | .coreDeinit => some coreDeinitCmd
  | .coreReset => some coreResetCmd
  | .flushTxFifo num => some (flushTxCmd num)
  | .flushRxFifo => some flushRxCmd
  | .enableGint => some enableGintCmd
  | .disableGint => some disableGintCmd
  | .regRead off => some (regReadCmd off)
  | .regWrite off v => some (regWriteCmd off v)
  | .regModify off c t => some (regModifyCmd off c t)
  | .poolAlloc => some poolAllocCmd
  | .poolFree h => some (poolFreeCmd h)
  | .submit t buf len z cb => some (submitCmd t buf len z cb)
  | .cancel h => some (cancelCmd h)
  | .startTransfer x h => some (startTransferCmd x h)
  | .continueTransfer x => some (continueTransferCmd x)
  | .enableEndpoint d => some (enableEndpointCmd d)
  | .disableEndpoint e => some (disableEndpointCmd e)
  | .halt c r => some (haltCmd c r)
  | .isoStart t b0 b1 len per cb => some (isoStartCmd t b0 b1 len per cb)
  | .isoStop x => some (isoStopCmd x)
  | .isr => some isrFromCallback
  | _ => none

/-- The result of a procedure run from a state. -/
def runM {α : Type} (p : M α) (h : Hooks) (s : State) : Except Stop (α × State) := p h s

/-- The status of a command that the decoder refuses (R170, R450). -/
def refusedStatus : DecodeError → Status
  | .unknownOp _ => .badCommand
  | .badOperand | .short | .noEvent | .reservedEntry _ => .badParam

/-- One command that UPPER issues from inside a callback. -/
def nestedCmd (bs : List Byte) (h : Hooks) (s : State) : Except Stop State :=
  match decode .cmd bs with
  | .error e => .ok (s.returned (.status (refusedStatus e)))
  | .ok (i, _) =>
    match cmdOf i with
    | none => .ok s
    | some p =>
      match runM p h s with
      | .ok (r, t) => .ok (t.returned r)
      | .error e => .error e

/-- The commands of one callback, in order. -/
def nestedCmds : List (List Byte) → Hooks → State → Except Stop State
  | [], _, s => .ok s
  | bs :: rest, h, s =>
    match nestedCmd bs h s with
    | .ok t => nestedCmds rest h t
    | .error e => .error e

/-- What UPPER does in the next callback (R471, R547). -/
def upperNext (h : Hooks) (s : State) : Except Stop State :=
  match s.replies with
  | [] => .ok s
  | r :: rest =>
    match nestedCmds r h { s with replies := rest, inCb := true } with
    | .ok t => .ok { t with inCb := s.inCb }
    | .error e => .error e

/-- The final state of a procedure without a value. -/
def runUnit (p : M Unit) (h : Hooks) (s : State) : Except Stop State :=
  match p h s with
  | .ok (_, t) => .ok t
  | .error e => .error e

/-- The hooks of a nesting level. Level 0 does nothing: UPPER issues no command, the handler does not run, the halt stays
deferred. `State.level` keeps every run above it (log entry 15). -/
def hooksAt : Nat → Hooks
  | 0 => { upper := .ok, irq := .ok, retry := fun _ => .ok }
  | n + 1 =>
    { upper := upperNext (hooksAt n)
      irq := runUnit isrPreempt (hooksAt n)
      retry := fun c => runUnit (retryDeferredHalt c) (hooksAt n) }

/-- The nesting that a state can need. Before a callback takes the next entry of `replies`, and after the last, at most a
retry, a handler run and a retry inside it nest (log entry 15). -/
def State.level (s : State) : Nat := 4 * (s.replies.length + 1) + 4

/-- The state in which a step is taken again, with a larger bound on the handler run inside it: its instruction is put back at
the head of its port (log entry 16). The handler needs no such place: the line, or the context, calls it. -/
def State.again (s : State) (i : Instr) : State :=
  { s with inbox := if i = .isr then s.inbox else (portOf i, encode i) :: s.inbox, patience := s.patience + 1 }

/-- A stop as an outcome of a step that ran an instruction from a state. -/
def stopOutcome (i : Instr) (s : State) : Stop → Host.Outcome State Fault Refusal
  | .fault f => .fault f
  | .refusal r => .refused r
  | .unfinished => .next (s.again i)

/-- A command as one step: what it returns is recorded (R143, R178). -/
def runCmd (i : Instr) (p : M Result) (s : State) : Host.Outcome State Fault Refusal :=
  match p (hooksAt s.level) s with
  | .ok (r, t) => .next (t.returned r)
  | .error e => stopOutcome i s e

/-- A procedure as one step. -/
def runProc (i : Instr) (p : M Unit) (s : State) : Host.Outcome State Fault Refusal :=
  match p (hooksAt s.level) s with
  | .ok (_, t) => .next t
  | .error e => stopOutcome i s e

/-- A procedure in handler context, which is left as it was entered (R470). -/
def asHandler (p : M Unit) : M Unit := do
  let c ← ask State.ctx
  act fun s => { s with ctx := .isr }
  p
  act fun s => { s with ctx := c }

/-- An event, a request or a receive entry by itself as one step. -/
def runEvt (i : Instr) (p : M Unit) (s : State) : Host.Outcome State Fault Refusal := runProc i (asHandler p) s

/-- A SETUP request as one step (R306, R307): its handler, then the phase its result selects. -/
def runReq (i : Instr) (wLength : BitVec 16) (p : M ReqResult) (s : State) : Host.Outcome State Fault Refusal :=
  runEvt i (do
    let r ← p
    ep0Conclude wLength.toNat r) s

end Sys2Proof.Machine
end

