-- ==== Sys2Proof/Machine/Commands.lean ====
section
/-! DEFINITION. The meanings of the commands (R143), one definition each. -/

namespace Sys2Proof.Machine

open Sys2Proof

/-- CORE_INIT (R201). -/
def execCoreInit (base : Word) (p : InitParams) (s : State) : Host.Outcome State Fault Refusal :=
  runCmd (.coreInit base p) (coreInitCmd base p) s

/-- CORE_DEINIT (R217). -/
def execCoreDeinit (s : State) : Host.Outcome State Fault Refusal := runCmd .coreDeinit coreDeinitCmd s

/-- CORE_RESET (R203). -/
def execCoreReset (s : State) : Host.Outcome State Fault Refusal := runCmd .coreReset coreResetCmd s

/-- FLUSH_TX_FIFO (R212). -/
def execFlushTxFifo (num : BitVec 8) (s : State) : Host.Outcome State Fault Refusal :=
  runCmd (.flushTxFifo num) (flushTxCmd num) s

/-- FLUSH_RX_FIFO (R213). -/
def execFlushRxFifo (s : State) : Host.Outcome State Fault Refusal := runCmd .flushRxFifo flushRxCmd s

/-- ENABLE_GINT (R214). -/
def execEnableGint (s : State) : Host.Outcome State Fault Refusal := runCmd .enableGint enableGintCmd s

/-- DISABLE_GINT (R215). -/
def execDisableGint (s : State) : Host.Outcome State Fault Refusal := runCmd .disableGint disableGintCmd s

/-- REG_READ (R200). -/
def execRegRead (off : Word) (s : State) : Host.Outcome State Fault Refusal :=
  runCmd (.regRead off) (regReadCmd off) s

/-- REG_WRITE (R200). -/
def execRegWrite (off v : Word) (s : State) : Host.Outcome State Fault Refusal :=
  runCmd (.regWrite off v) (regWriteCmd off v) s

/-- REG_MODIFY (R200). -/
def execRegModify (off clear set : Word) (s : State) : Host.Outcome State Fault Refusal :=
  runCmd (.regModify off clear set) (regModifyCmd off clear set) s

/-- POOL_ALLOC (R240). -/
def execPoolAlloc (s : State) : Host.Outcome State Fault Refusal := runCmd .poolAlloc poolAllocCmd s

/-- POOL_FREE (R241). -/
def execPoolFree (h : BitVec 16) (s : State) : Host.Outcome State Fault Refusal :=
  runCmd (.poolFree h) (poolFreeCmd h) s

/-- SUBMIT (R243). -/
def execSubmit (t : Target) (buf len : Word) (z : Bool) (cb : CbId) (s : State) : Host.Outcome State Fault Refusal :=
  runCmd (.submit t buf len z cb) (submitCmd t buf len z cb) s

/-- CANCEL (R283). -/
def execCancel (h : BitVec 16) (s : State) : Host.Outcome State Fault Refusal := runCmd (.cancel h) (cancelCmd h) s

/-- START_TRANSFER (R246). -/
def execStartTransfer (x : XRef) (h : BitVec 16) (s : State) : Host.Outcome State Fault Refusal :=
  runCmd (.startTransfer x h) (startTransferCmd x h) s

/-- CONTINUE_TRANSFER (R260). -/
def execContinueTransfer (x : XRef) (s : State) : Host.Outcome State Fault Refusal :=
  runCmd (.continueTransfer x) (continueTransferCmd x) s

/-- ENABLE_ENDPOINT (R280). -/
def execEnableEndpoint (d : Epd) (s : State) : Host.Outcome State Fault Refusal :=
  runCmd (.enableEndpoint d) (enableEndpointCmd d) s

/-- DISABLE_ENDPOINT (R282). -/
def execDisableEndpoint (e : EpRef) (s : State) : Host.Outcome State Fault Refusal :=
  runCmd (.disableEndpoint e) (disableEndpointCmd e) s

/-- HALT (R353). -/
def execHalt (c : Fin 16) (r : HaltReason) (s : State) : Host.Outcome State Fault Refusal :=
  runCmd (.halt c r) (haltCmd c r) s

/-- ISO_START (R432). -/
def execIsoStart (t : Target) (buf0 buf1 : Word) (pktLen perBuf : BitVec 16) (cb : CbId) (s : State) : Host.Outcome State Fault Refusal :=
  runCmd (.isoStart t buf0 buf1 pktLen perBuf cb) (isoStartCmd t buf0 buf1 pktLen perBuf cb) s

/-- ISO_STOP (R442). -/
def execIsoStop (x : XRef) (s : State) : Host.Outcome State Fault Refusal := runCmd (.isoStop x) (isoStopCmd x) s

/-- ISR (R472). -/
def execIsr (s : State) : Host.Outcome State Fault Refusal := runProc .isr isrCmd s

end Sys2Proof.Machine
end

