-- ==== Sys2Proof/Machine/Events.lean ====
section
/-! DEFINITION. The meanings of the interrupt events (R151 to R154), one definition each. -/

namespace Sys2Proof.Machine

open Sys2Proof

/-- Event GINTSTS.OTGINT (R475). -/
def execTopOtgint (s : State) : Host.Outcome State Fault Refusal := runEvt .topOtgint evtOtgint s

/-- Event GINTSTS.RXFLVL (R265). -/
def execTopRxflvl (s : State) : Host.Outcome State Fault Refusal := runEvt .topRxflvl evtRxflvl s

/-- Event GINTSTS.NPTXFEMP (R264). -/
def execTopNptxfemp (s : State) : Host.Outcome State Fault Refusal := runEvt .topNptxfemp evtNptxfemp s

/-- Event GINTSTS.USBSUSP (R480). -/
def execTopUsbsusp (s : State) : Host.Outcome State Fault Refusal := runEvt .topUsbsusp (inMode false 11 evtUsbsusp) s

/-- Event GINTSTS.USBRST (R481). -/
def execTopUsbrst (s : State) : Host.Outcome State Fault Refusal := runEvt .topUsbrst (inMode false 12 evtUsbrst) s

/-- Event GINTSTS.ENUMDONE (R482). -/
def execTopEnumdone (s : State) : Host.Outcome State Fault Refusal :=
  runEvt .topEnumdone (inMode false 13 evtEnumdone) s

/-- Event GINTSTS.ISOOUTDROP (R440). -/
def execTopIsooutdrop (s : State) : Host.Outcome State Fault Refusal :=
  runEvt .topIsooutdrop (inMode false 14 evtIsooutdrop) s

/-- Event GINTSTS.IEPINT (R476). -/
def execTopIepint (s : State) : Host.Outcome State Fault Refusal := runEvt .topIepint (inMode false 18 evtIepint) s

/-- Event GINTSTS.OEPINT (R477). -/
def execTopOepint (s : State) : Host.Outcome State Fault Refusal := runEvt .topOepint (inMode false 19 evtOepint) s

/-- Event GINTSTS.HCHINT (R478). -/
def execTopHchint (s : State) : Host.Outcome State Fault Refusal := runEvt .topHchint (inMode true 25 evtHchint) s

/-- Event GINTSTS.PTXFEMP (R264). -/
def execTopPtxfemp (s : State) : Host.Outcome State Fault Refusal := runEvt .topPtxfemp evtPtxfemp s

/-- Event GINTSTS.CONIDSTSCHNG (R402). -/
def execTopConidstschng (s : State) : Host.Outcome State Fault Refusal := runEvt .topConidstschng evtConidstschng s

/-- Event GINTSTS.DISCONNINT (R407). -/
def execTopDisconnint (s : State) : Host.Outcome State Fault Refusal := runEvt .topDisconnint evtDisconnint s

/-- Event GINTSTS.WKUPINT (R483). -/
def execTopWkupint (s : State) : Host.Outcome State Fault Refusal := runEvt .topWkupint evtWkupint s

/-- An unassigned bit of GINTSTS (R487). -/
def execTopUnassigned (k : Fin 32) (s : State) : Host.Outcome State Fault Refusal :=
  runEvt (.topUnassigned k) (unhandledBit .GINTSTS k) s

/-- Event GOTGINT.SESENDDET (R404). -/
def execOtgSesenddet (s : State) : Host.Outcome State Fault Refusal := runEvt .otgSesenddet evtSesenddet s

/-- Event GOTGINT.SESREQSUCSTSCHNG (R152, R487). -/
def execOtgSesreqsucstschng (s : State) : Host.Outcome State Fault Refusal :=
  runEvt .otgSesreqsucstschng (unhandledBit .GOTGINT 8) s

/-- Event GOTGINT.HSTNEGSUCSTSCHNG (R405, R406). -/
def execOtgHstnegsucstschng (s : State) : Host.Outcome State Fault Refusal :=
  runEvt .otgHstnegsucstschng evtHstnegsucstschng s

/-- An unassigned bit of GOTGINT (R487). -/
def execOtgUnassigned (k : Fin 32) (s : State) : Host.Outcome State Fault Refusal :=
  runEvt (.otgUnassigned k) (unhandledBit .GOTGINT k) s

/-- Event DIEPINT[n].XFERCOMPL (R270). -/
def execInXfercompl (n : Fin 16) (s : State) : Host.Outcome State Fault Refusal :=
  runEvt (.inXfercompl n) (evtInXfercompl n) s

/-- Event DIEPINT[n].EPDISBLD (R285). -/
def execInEpdisbld (n : Fin 16) (s : State) : Host.Outcome State Fault Refusal :=
  runEvt (.inEpdisbld n) (evtInEpdisbld n) s

/-- Event DIEPINT[n].AHBERR (R274). -/
def execInAhberr (n : Fin 16) (s : State) : Host.Outcome State Fault Refusal := runEvt (.inAhberr n) (evtInAhberr n) s

/-- Event DIEPINT[n].TIMEOUT (R275). -/
def execInTimeout (n : Fin 16) (s : State) : Host.Outcome State Fault Refusal :=
  runEvt (.inTimeout n) (evtInTimeout n) s

/-- Event DIEPINT[n].TXFEMP (R262). -/
def execInTxfemp (n : Fin 16) (s : State) : Host.Outcome State Fault Refusal := runEvt (.inTxfemp n) (evtInTxfemp n) s

/-- Event DIEPINT[n].BNA (R276, R439). -/
def execInBna (n : Fin 16) (s : State) : Host.Outcome State Fault Refusal := runEvt (.inBna n) (evtInBna n) s

/-- An unassigned bit of DIEPINT[n] (R487). -/
def execInUnassigned (n : Fin 16) (k : Fin 32) (s : State) : Host.Outcome State Fault Refusal :=
  runEvt (.inUnassigned n k) (unhandledBit (.DIEPINT n) k) s

/-- Event DOEPINT[n].XFERCOMPL (R271). -/
def execOutXfercompl (n : Fin 16) (s : State) : Host.Outcome State Fault Refusal :=
  runEvt (.outXfercompl n) (evtOutXfercompl n) s

/-- Event DOEPINT[n].EPDISBLD (R285). -/
def execOutEpdisbld (n : Fin 16) (s : State) : Host.Outcome State Fault Refusal :=
  runEvt (.outEpdisbld n) (evtOutEpdisbld n) s

/-- Event DOEPINT[n].AHBERR (R274). -/
def execOutAhberr (n : Fin 16) (s : State) : Host.Outcome State Fault Refusal :=
  runEvt (.outAhberr n) (evtOutAhberr n) s

/-- Event DOEPINT[n].SETUP (R303). -/
def execOutSetup (n : Fin 16) (s : State) : Host.Outcome State Fault Refusal := runEvt (.outSetup n) (evtOutSetup n) s

/-- Event DOEPINT[n].OUTPKTERR (R277). -/
def execOutOutpkterr (n : Fin 16) (s : State) : Host.Outcome State Fault Refusal :=
  runEvt (.outOutpkterr n) (evtOutOutpkterr n) s

/-- Event DOEPINT[n].BNA (R276, R439). -/
def execOutBna (n : Fin 16) (s : State) : Host.Outcome State Fault Refusal := runEvt (.outBna n) (evtOutBna n) s

/-- Event DOEPINT[n].BBLEERR (R277). -/
def execOutBbleerr (n : Fin 16) (s : State) : Host.Outcome State Fault Refusal :=
  runEvt (.outBbleerr n) (evtOutBbleerr n) s

/-- An unassigned bit of DOEPINT[n] (R487). -/
def execOutUnassigned (n : Fin 16) (k : Fin 32) (s : State) : Host.Outcome State Fault Refusal :=
  runEvt (.outUnassigned n k) (unhandledBit (.DOEPINT n) k) s

/-- Event HCINT[c].XFERCOMPL (R362). -/
def execChXfercompl (c : Fin 16) (s : State) : Host.Outcome State Fault Refusal :=
  runEvt (.chXfercompl c) (evtChXfercompl c) s

/-- Event HCINT[c].CHHLTD (R358). -/
def execChChhltd (c : Fin 16) (s : State) : Host.Outcome State Fault Refusal := runEvt (.chChhltd c) (evtChChhltd c) s

/-- Event HCINT[c].AHBERR (R369). -/
def execChAhberr (c : Fin 16) (s : State) : Host.Outcome State Fault Refusal := runEvt (.chAhberr c) (evtChAhberr c) s

/-- Event HCINT[c].STALL (R368). -/
def execChStall (c : Fin 16) (s : State) : Host.Outcome State Fault Refusal := runEvt (.chStall c) (evtChStall c) s

/-- Event HCINT[c].NAK (R364). -/
def execChNak (c : Fin 16) (s : State) : Host.Outcome State Fault Refusal := runEvt (.chNak c) (evtChNak c) s

/-- Event HCINT[c].ACK (R365). -/
def execChAck (c : Fin 16) (s : State) : Host.Outcome State Fault Refusal := runEvt (.chAck c) (evtChAck c) s

/-- Event HCINT[c].NYET (R366). -/
def execChNyet (c : Fin 16) (s : State) : Host.Outcome State Fault Refusal := runEvt (.chNyet c) (evtChNyet c) s

/-- Event HCINT[c].XACTERR (R367). -/
def execChXacterr (c : Fin 16) (s : State) : Host.Outcome State Fault Refusal :=
  runEvt (.chXacterr c) (evtChXacterr c) s

/-- Event HCINT[c].BBLERR (R369). -/
def execChBblerr (c : Fin 16) (s : State) : Host.Outcome State Fault Refusal := runEvt (.chBblerr c) (evtChBblerr c) s

/-- Event HCINT[c].BNA (R370, R439). -/
def execChBna (c : Fin 16) (s : State) : Host.Outcome State Fault Refusal := runEvt (.chBna c) (evtChBna c) s

/-- An unassigned bit of HCINT[c] (R487). -/
def execChUnassigned (c : Fin 16) (k : Fin 32) (s : State) : Host.Outcome State Fault Refusal :=
  runEvt (.chUnassigned c k) (unhandledBit (.HCINT c) k) s

end Sys2Proof.Machine
end

