-- ==== Sys2Proof/Machine/RxStatus.lean ====
section
/-! DEFINITION. The meanings of the Rx status entries (R31, R265), one definition each: what the sequencer and LINK do once the entry
has been popped. -/

namespace Sys2Proof.Machine

open Sys2Proof

/-- A popped Rx status entry, PKTSTS 2, device (R265). -/
def execRxsOutData (e : RxEntry) (s : State) : Host.Outcome State Fault Refusal :=
  runEvt (.rxsOutData e) (rxOutData e) s

/-- A popped Rx status entry, PKTSTS 3, device (R265). -/
def execRxsOutComplete (e : RxEntry) (s : State) : Host.Outcome State Fault Refusal :=
  runEvt (.rxsOutComplete e) (rxOutComplete e) s

/-- A popped Rx status entry, PKTSTS 4, device (R265). -/
def execRxsSetupComplete (e : RxEntry) (s : State) : Host.Outcome State Fault Refusal :=
  runEvt (.rxsSetupComplete e) (rxSetupComplete e) s

/-- A popped Rx status entry, PKTSTS 6, device (R265). -/
def execRxsSetupData (e : RxEntry) (s : State) : Host.Outcome State Fault Refusal :=
  runEvt (.rxsSetupData e) rxSetupData s

/-- A popped Rx status entry, PKTSTS 2, host (R265). -/
def execRxsInData (e : RxEntry) (s : State) : Host.Outcome State Fault Refusal := runEvt (.rxsInData e) (rxInData e) s

/-- A popped Rx status entry, PKTSTS 3, host (R265). -/
def execRxsInComplete (e : RxEntry) (s : State) : Host.Outcome State Fault Refusal :=
  runEvt (.rxsInComplete e) (rxInComplete e) s

/-- A popped Rx status entry, PKTSTS 7, host (R265). -/
def execRxsChannelHalted (e : RxEntry) (s : State) : Host.Outcome State Fault Refusal :=
  runEvt (.rxsChannelHalted e) (rxChannelHalted e) s

end Sys2Proof.Machine
end

