-- ==== Sys2Proof/Machine/Setup.lean ====
section
/-! DEFINITION. The meanings of the SETUP requests (R166, R306), one definition each: the handler, then the phase its result
selects (R307, R322). -/

namespace Sys2Proof.Machine

open Sys2Proof

/-- GET_STATUS (R310). -/
def execGetStatus (f : SetupFields) (s : State) : Host.Outcome State Fault Refusal :=
  runReq (.getStatus f) f.wLength (getStatusReq f) s

/-- CLEAR_FEATURE (R311). -/
def execClearFeature (f : SetupFields) (s : State) : Host.Outcome State Fault Refusal :=
  runReq (.clearFeature f) f.wLength (clearFeatureReq f) s

/-- SET_FEATURE (R312). -/
def execSetFeature (f : SetupFields) (s : State) : Host.Outcome State Fault Refusal :=
  runReq (.setFeature f) f.wLength (setFeatureReq f) s

/-- SET_ADDRESS (R313). -/
def execSetAddress (f : SetupFields) (s : State) : Host.Outcome State Fault Refusal :=
  runReq (.setAddress f) f.wLength (setAddressReq f) s

/-- GET_DESCRIPTOR (R314). -/
def execGetDescriptor (f : SetupFields) (s : State) : Host.Outcome State Fault Refusal :=
  runReq (.getDescriptor f) f.wLength (getDescriptorReq f) s

/-- SET_CONFIGURATION (R315). -/
def execSetConfiguration (f : SetupFields) (s : State) : Host.Outcome State Fault Refusal :=
  runReq (.setConfiguration f) f.wLength (setConfigurationReq f) s

/-- SET_INTERFACE (R316). -/
def execSetInterface (f : SetupFields) (s : State) : Host.Outcome State Fault Refusal :=
  runReq (.setInterface f) f.wLength (setInterfaceReq f) s

/-- A delegated request (R317). -/
def execDelegatedRequest (p : SetupPkt) (s : State) : Host.Outcome State Fault Refusal :=
  runReq (.delegatedRequest p) p.wLength (delegate p) s

end Sys2Proof.Machine
end

