-- ==== Sys2Proof/Machine/Dispatch.lean ====
section
/-! DEFINITION. The meaning of every instruction: one arm per constructor. -/

namespace Sys2Proof.Machine

open Sys2Proof

/-- The meaning of an instruction. -/
def exec (i : Instr) (s : State) : Host.Outcome State Fault Refusal :=
  match i with
  | .coreInit base p => Sys2Proof.Machine.execCoreInit base p s
  | .coreDeinit => Sys2Proof.Machine.execCoreDeinit s
  | .coreReset => Sys2Proof.Machine.execCoreReset s
  | .flushTxFifo num => Sys2Proof.Machine.execFlushTxFifo num s
  | .flushRxFifo => Sys2Proof.Machine.execFlushRxFifo s
  | .enableGint => Sys2Proof.Machine.execEnableGint s
  | .disableGint => Sys2Proof.Machine.execDisableGint s
  | .regRead off => Sys2Proof.Machine.execRegRead off s
  | .regWrite off v => Sys2Proof.Machine.execRegWrite off v s
  | .regModify off clear set => Sys2Proof.Machine.execRegModify off clear set s
  | .poolAlloc => Sys2Proof.Machine.execPoolAlloc s
  | .poolFree h => Sys2Proof.Machine.execPoolFree h s
  | .submit t buf len z cb => Sys2Proof.Machine.execSubmit t buf len z cb s
  | .cancel h => Sys2Proof.Machine.execCancel h s
  | .startTransfer x h => Sys2Proof.Machine.execStartTransfer x h s
  | .continueTransfer x => Sys2Proof.Machine.execContinueTransfer x s
  | .enableEndpoint d => Sys2Proof.Machine.execEnableEndpoint d s
  | .disableEndpoint e => Sys2Proof.Machine.execDisableEndpoint e s
  | .halt c r => Sys2Proof.Machine.execHalt c r s
  | .isoStart t buf0 buf1 pktLen perBuf cb => Sys2Proof.Machine.execIsoStart t buf0 buf1 pktLen perBuf cb s
  | .isoStop x => Sys2Proof.Machine.execIsoStop x s
  | .isr => Sys2Proof.Machine.execIsr s
  | .topOtgint => Sys2Proof.Machine.execTopOtgint s
  | .topRxflvl => Sys2Proof.Machine.execTopRxflvl s
  | .topNptxfemp => Sys2Proof.Machine.execTopNptxfemp s
  | .topUsbsusp => Sys2Proof.Machine.execTopUsbsusp s
  | .topUsbrst => Sys2Proof.Machine.execTopUsbrst s
  | .topEnumdone => Sys2Proof.Machine.execTopEnumdone s
  | .topIsooutdrop => Sys2Proof.Machine.execTopIsooutdrop s
  | .topIepint => Sys2Proof.Machine.execTopIepint s
  | .topOepint => Sys2Proof.Machine.execTopOepint s
  | .topHchint => Sys2Proof.Machine.execTopHchint s
  | .topPtxfemp => Sys2Proof.Machine.execTopPtxfemp s
  | .topConidstschng => Sys2Proof.Machine.execTopConidstschng s
  | .topDisconnint => Sys2Proof.Machine.execTopDisconnint s
  | .topWkupint => Sys2Proof.Machine.execTopWkupint s
  | .topUnassigned k => Sys2Proof.Machine.execTopUnassigned k s
  | .otgSesenddet => Sys2Proof.Machine.execOtgSesenddet s
  | .otgSesreqsucstschng => Sys2Proof.Machine.execOtgSesreqsucstschng s
  | .otgHstnegsucstschng => Sys2Proof.Machine.execOtgHstnegsucstschng s
  | .otgUnassigned k => Sys2Proof.Machine.execOtgUnassigned k s
  | .inXfercompl n => Sys2Proof.Machine.execInXfercompl n s
  | .inEpdisbld n => Sys2Proof.Machine.execInEpdisbld n s
  | .inAhberr n => Sys2Proof.Machine.execInAhberr n s
  | .inTimeout n => Sys2Proof.Machine.execInTimeout n s
  | .inTxfemp n => Sys2Proof.Machine.execInTxfemp n s
  | .inBna n => Sys2Proof.Machine.execInBna n s
  | .inUnassigned n k => Sys2Proof.Machine.execInUnassigned n k s
  | .outXfercompl n => Sys2Proof.Machine.execOutXfercompl n s
  | .outEpdisbld n => Sys2Proof.Machine.execOutEpdisbld n s
  | .outAhberr n => Sys2Proof.Machine.execOutAhberr n s
  | .outSetup n => Sys2Proof.Machine.execOutSetup n s
  | .outOutpkterr n => Sys2Proof.Machine.execOutOutpkterr n s
  | .outBna n => Sys2Proof.Machine.execOutBna n s
  | .outBbleerr n => Sys2Proof.Machine.execOutBbleerr n s
  | .outUnassigned n k => Sys2Proof.Machine.execOutUnassigned n k s
  | .chXfercompl c => Sys2Proof.Machine.execChXfercompl c s
  | .chChhltd c => Sys2Proof.Machine.execChChhltd c s
  | .chAhberr c => Sys2Proof.Machine.execChAhberr c s
  | .chStall c => Sys2Proof.Machine.execChStall c s
  | .chNak c => Sys2Proof.Machine.execChNak c s
  | .chAck c => Sys2Proof.Machine.execChAck c s
  | .chNyet c => Sys2Proof.Machine.execChNyet c s
  | .chXacterr c => Sys2Proof.Machine.execChXacterr c s
  | .chBblerr c => Sys2Proof.Machine.execChBblerr c s
  | .chBna c => Sys2Proof.Machine.execChBna c s
  | .chUnassigned c k => Sys2Proof.Machine.execChUnassigned c k s
  | .getStatus f => Sys2Proof.Machine.execGetStatus f s
  | .clearFeature f => Sys2Proof.Machine.execClearFeature f s
  | .setFeature f => Sys2Proof.Machine.execSetFeature f s
  | .setAddress f => Sys2Proof.Machine.execSetAddress f s
  | .getDescriptor f => Sys2Proof.Machine.execGetDescriptor f s
  | .setConfiguration f => Sys2Proof.Machine.execSetConfiguration f s
  | .setInterface f => Sys2Proof.Machine.execSetInterface f s
  | .delegatedRequest p => Sys2Proof.Machine.execDelegatedRequest p s
  | .rxsOutData e => Sys2Proof.Machine.execRxsOutData e s
  | .rxsOutComplete e => Sys2Proof.Machine.execRxsOutComplete e s
  | .rxsSetupComplete e => Sys2Proof.Machine.execRxsSetupComplete e s
  | .rxsSetupData e => Sys2Proof.Machine.execRxsSetupData e s
  | .rxsInData e => Sys2Proof.Machine.execRxsInData e s
  | .rxsInComplete e => Sys2Proof.Machine.execRxsInComplete e s
  | .rxsChannelHalted e => Sys2Proof.Machine.execRxsChannelHalted e s

end Sys2Proof.Machine
end

