-- ==== Sys2Proof/Machine/Step.lean ====
section
/-! DEFINITION. One step of the machine: what `State.choose` finds to do is done. -/

namespace Sys2Proof.Machine

open Sys2Proof

/-- Nothing to do for the sequencer: LINK and DMA act (R474). -/
def stepIdle (s : State) : Host.Outcome State Fault Refusal := .next s.tick

/-- One step: the instruction at the head of the inbox, the handler, or LINK and DMA (R471, R474). -/
def step (s : State) : Host.Outcome State Fault Refusal :=
  match s.choose with
  | .run i t => exec i t
  | .answer st t => .next (t.returned (.status st))
  | .skip t => .next t
  | .idle => stepIdle s
  | .refuse => .refused .badStimulus

/-- The state in which the next step runs the instruction whose table bits are `w`: its bytes at the head of its port. -/
def State.withFetchWord (s : State) (nbits w : Nat) : State := s.place (tablePort nbits w) (tableBytes nbits w)

end Sys2Proof.Machine
end

