-- ==== Sys2Proof/Safety.lean ====
section
/-! DEFINITION. The terms of the claims: when a step answers a next state, the invariant of the machine's data, states in
which nothing but the sequencer acts, and what a step leaves unchanged. -/

namespace Sys2Proof.Machine

open Sys2Proof

/-- A step that does not stop. -/
def Completes (o : Host.Outcome State Fault Refusal) : Prop := ∃ t, o = .next t

/-- The data of the machine is in canonical form (R20): memory, the register file and the data-toggle table list no
default and no key twice. -/
def State.canonical (s : State) : Prop :=
  Memory.wf s.mem = true ∧ SMap.wf (0 : Word) s.regs = true ∧ SMap.wf false s.htog = true

/-- Nothing but the sequencer acts during the next instruction: LINK and DMA have no act scripted (R474), UPPER issues no
command from a callback (R471), assertions are not compiled in (R458), no reset or flush is settling (R540), LINK keeps no
status bit back (U15). -/
structure State.Alone (s : State) : Prop where
  env : s.env = []
  prompt : s.prompt = false
  replies : s.replies = []
  release : s.hw.debug = false
  settled : s.unsettled = false
  direct : s.hold = false

/-- The handler cannot preempt an instruction: it is running already, or the gate is closed (R471, R56). -/
def State.Shut (s : State) : Prop := s.ctx = .isr ∨ bitOf (s.raw .GAHBCFG) 0 = false

/-- A command whose row allows task context only is not asserted against: it comes from task context and from no callback, or
assertions are not compiled in (R143, R544, R458). -/
def State.FromTask (s : State) : Prop := (s.ctx = .task ∧ s.inCb = false) ∨ s.hw.debug = false

/-- An address is in no descriptor array of an endpoint or channel whose chain DMA is walking, so that SEQ may write there
(R117, U7). -/
def State.Spared (s : State) (a : Word) : Prop :=
  ∀ p ∈ s.plat.descArrays, s.walking p.1.1 = true → s.hw.maxDesc ≤ (a - p.2).toNat / 8

/-- An instruction with outcome `o` leaves the rest to another, with outcome `p`: where that one runs to its end, `o` is the
same. A run that is to be taken again (log entry 16) has no end yet; it is told by `patience`, which has the value `n` in a
run that has ended. -/
def CarriesOn (o p : Host.Outcome State Fault Refusal) (n : Nat) : Prop :=
  (∀ t, p = .next t → t.patience = n → o = .next t) ∧ (∀ f, p = .fault f → o = .fault f)

/-- A device role that runs: device mode, a peripheral role, the core functional, the capabilities read (R202, R400). -/
structure State.InDeviceRole (s : State) : Prop where
  mode : s.hostMode = false
  role : s.peripheral = true
  functional : s.core.functional = true
  caps : s.core.caps = s.hw.caps

/-- A host role that runs: host mode, a host role, the core functional, the capabilities read (R202, R400). -/
structure State.InHostRole (s : State) : Prop where
  mode : s.hostMode = true
  role : s.peripheral = false
  functional : s.core.functional = true
  caps : s.core.caps = s.hw.caps

/-- What the field NPTXQSPCAVAIL or PTXQSPCAVAIL of a channel's kind reads (R34, R37): eight bits. -/
def State.queueRoom (s : State) (c : Fin 16) : Nat :=
  (if typePeriodic (s.chan c).params.epType then s.pQueueSpace else s.npQueueSpace) % 256

/-- Registers whose read pops nothing and needs no queue (R31, R55). -/
def Reg.steady : Reg → Bool
  | .GRXSTSR | .GRXSTSP | .FIFO _ => false
  | _ => true

/-- The capability parameters are in the ranges of their register fields (R9, R32). -/
def Caps.fits (c : Caps) : Prop :=
  1 ≤ c.nEp ∧ c.nEp ≤ 16 ∧ 1 ≤ c.nCh ∧ c.nCh ≤ 16 ∧ 11 ≤ c.xw ∧ c.xw ≤ 19 ∧ 4 ≤ c.pw ∧ c.pw ≤ 10 ∧ c.fifoDepth < 65536

/-- The fatal error events of an endpoint, each with its bit and the status it gives (R274, R276, R277). -/
def fatalEvents (e : EpRef) : List (Instr × Nat × Status) :=
  match e.dir with
  | .IN => [(.inAhberr e.num, 2, .ahbError), (.inBna e.num, 9, .descriptorError)]
  | .OUT => [(.outAhberr e.num, 2, .ahbError), (.outOutpkterr e.num, 8, .overflow), (.outBna e.num, 9, .descriptorError),
      (.outBbleerr e.num, 12, .babble)]

/-- The parts of the machine outside the register file that an instruction may change; `records` stands for every record of
the sequencer. -/
inductive Part where
  | mem | fifo | core | ep (e : EpRef) | ch (c : Fin 16) | pool | ep0 | iso | htog | plat | served | context | records
  deriving DecidableEq, Repr

/-- What is left unchanged between two states: every register but the listed ones, every byte of memory and every other
part but the listed ones, the machine's parameters and its scripts, and what LINK and DMA have in hand. The trace, the result of the last command and the
model's draw counters are not compared. -/
structure Frame (s t : State) (regs : List Reg) (parts : List Part) : Prop where
  regs : ∀ a, a ∉ regs.map Reg.offset → SMap.get 0 t.regs a = SMap.get 0 s.regs a
  mem : .mem ∉ parts → ∀ a, t.byte a = s.byte a
  fifo : .fifo ∉ parts → t.fifo = s.fifo
  core : .core ∉ parts → .records ∉ parts → t.core = s.core
  ep : ∀ e, .ep e ∉ parts → .records ∉ parts → t.ep e = s.ep e
  ch : ∀ c, .ch c ∉ parts → .records ∉ parts → t.chan c = s.chan c
  pool : .pool ∉ parts → .records ∉ parts → t.pool = s.pool
  ep0 : .ep0 ∉ parts → .records ∉ parts → t.ep0 = s.ep0
  iso : .iso ∉ parts → .records ∉ parts → t.iso = s.iso
  htog : .htog ∉ parts → .records ∉ parts → t.htog = s.htog
  plat : .plat ∉ parts → t.plat = s.plat
  served : .served ∉ parts → .records ∉ parts → t.rrNp = s.rrNp ∧ t.rrP = s.rrP
  context : .context ∉ parts → t.ctx = s.ctx
  hw : t.hw = s.hw
  exist : .core ∉ parts → .records ∉ parts → t.recordsExist = s.recordsExist
  inputs : t.inbox = s.inbox ∧ t.env = s.env ∧ t.replies = s.replies ∧ t.prompt = s.prompt
  hidden : t.engine = s.engine ∧ t.hold = s.hold ∧ t.owed = s.owed ∧ t.inCb = s.inCb

/-- Bits that no run sets: the action bits CNAK, SNAK, SETD0PID and SETD1PID of the endpoint control registers read 0
(R49), and so do the bits of XFERSIZE and PKTCNT that the hardware does not have (R9, R42, R51) and the bits of the endpoint
and channel masks and of HCSPLT that no field table names (R24, R40, R41, R46). -/
def State.reservedLow (s : State) : Prop :=
  ∀ n : Fin 16, s.raw (.DIEPCTL n) &&& 0x3C000000 = 0 ∧ s.raw (.DOEPCTL n) &&& 0x3C000000 = 0 ∧
    (∀ r ∈ [Reg.DIEPTSIZ n, .DOEPTSIZ n, .HCTSIZ n], s.raw r &&& 0x1FFFFFFF &&& ~~~(rwMask s.hw r) = 0) ∧
    (∀ r ∈ [Reg.DIEPMSK, .DOEPMSK, .HCINTMSK n, .HCSPLT n], s.raw r &&& ~~~(rwMask s.hw r) = 0)

/-- From `s` to `t` the registers of channel `c` have been programmed for a chunk of `len` bytes of request `q`, in
buffer-DMA mode, with the channel's record `r` (R250, R360, R374). -/
structure State.Programmed (s t : State) (c : Fin 16) (r : ChRec) (q : Req) (len : Nat) : Prop where
  events : t.raw (.HCINT c) = 0
  mask : t.raw (.HCINTMSK c) =
    (0x18F ||| (if r.params.doSplit then (if r.completeSplit then 0x70 else 0x30)
      else bitIf (decide (r.params.epType = .interrupt)) 4) ||| bitIf r.errorState 5)
  summary : t.raw .HAINTMSK = s.raw .HAINTMSK ||| bit1 c.val
  split : t.raw (.HCSPLT c) =
    (if r.params.doSplit then bit1 31 ||| bitIf r.completeSplit 16 ||| fld 14 2 r.xactPos.toNat |||
      fld 7 7 r.params.hubAddr.toNat ||| fld 0 7 r.params.portAddr.toNat else 0)
  size : field (t.raw (.HCTSIZ c)) 0 19 =
    (if r.params.doSplit = true ∧ r.completeSplit = true ∧ r.params.epDir = .OUT then 0
     else if r.params.epDir = .IN then max 1 ((len + r.params.mps.toNat - 1) / r.params.mps.toNat) * r.params.mps.toNat
     else len)
  count : field (t.raw (.HCTSIZ c)) 19 10 = max 1 ((len + r.params.mps.toNat - 1) / r.params.mps.toNat)
  pid : field (t.raw (.HCTSIZ c)) 29 2 =
    (match r.dataPid with | .data0 => 0 | .data2 => 1 | .data1 => 2 | .mdata => 3 | .setup => 3)
  addr : t.raw (.HCDMA c) = q.buf + BitVec.ofNat 32 q.done
  enabled : bitOf (t.raw (.HCCHAR c)) 31 = true
  packet : field (t.raw (.HCCHAR c)) 0 11 = r.params.mps.toNat ∧ field (t.raw (.HCCHAR c)) 11 4 = r.params.epNum.val ∧
    bitOf (t.raw (.HCCHAR c)) 15 = decide (r.params.epDir = .IN) ∧
    bitOf (t.raw (.HCCHAR c)) 17 = decide (r.params.speed = .low)
  kind : field (t.raw (.HCCHAR c)) 18 2 =
    (match r.params.epType with | .control => 0 | .isochronous => 1 | .bulk => 2 | .interrupt => 3)
  target : field (t.raw (.HCCHAR c)) 20 2 = r.params.multiCount.toNat ∧
    field (t.raw (.HCCHAR c)) 22 7 = r.params.devAddr.toNat
  parity : bitOf (t.raw (.HCCHAR c)) 29 =
    (typePeriodic r.params.epType && decide ((field (s.raw .HFNUM) 0 16 + 1) % 2 = 1))

/-- The bytes of the next chunk of request `q` on a channel with record `r` outside descriptor-DMA mode (R13, R247). -/
def State.channelChunk (s : State) (r : ChRec) (q : Req) : Nat :=
  let mps := r.params.mps.toNat
  let top := min (2 ^ s.hw.caps.xw - 1) ((2 ^ s.hw.caps.pw - 1) * mps) / mps * mps
  let top := if typePeriodic r.params.epType then min top (r.params.multiCount.toNat * mps) else top
  min (if r.x.zlpPhase then 0 else q.length - q.done) (if r.params.doSplit then min top mps else top)

/-- The chain of one buffer of an isochronous record holds, slot by slot, the descriptors for the frames from `frame` on
(R434, R161): buffer address, BYTES, the frame number modulo 2048, the packets of a transmit slot, L and IOC on the last,
STS = 0 and BS = HostReady. -/
def State.IsoChain (t : State) (tx : Bool) (mps interval frame : Nat) (chain buf : Word) (pktLen perBuf : Nat) : Prop :=
  ∀ j < perBuf,
    let d := chain + BitVec.ofNat 32 (8 * j)
    t.word (d + 4) = buf + BitVec.ofNat 32 (j * pktLen) ∧ field (t.word d) 0 12 = pktLen % 4096 ∧
    field (t.word d) 12 11 = (frame + j * interval) % 16384 % 2048 ∧
    field (t.word d) 23 2 = (if tx then max 1 ((pktLen + mps - 1) / mps) % 4 else 0) ∧
    bitOf (t.word d) 25 = decide (j + 1 = perBuf) ∧ bitOf (t.word d) 27 = decide (j + 1 = perBuf) ∧
    bitOf (t.word d) 26 = false ∧ field (t.word d) 28 4 = 0

/-- Endpoint 0 of a running device in slave or buffer-DMA mode: 64-byte packets (R482) and size fields that hold at least
one of them (R13, R51). -/
structure State.ControlReady (s : State) : Prop where
  mode : s.hostMode = false
  caps : s.core.caps = s.hw.caps
  exist : 1 ≤ s.hw.caps.nEp ∧ s.hw.caps.nEp ≤ 16
  size : 7 ≤ s.hw.ep0Xw ∧ s.hw.ep0Xw ≤ 19
  count : 1 ≤ s.hw.ep0Pw ∧ s.hw.ep0Pw ≤ 10
  direct : s.isDesc = false
  packet : (s.ep ⟨0, .IN⟩).mps = 64
  kind : (s.ep ⟨0, .IN⟩).type = .control

/-- The bytes that one chunk of endpoint 0 moves at most (R13, R247). -/
def State.ep0Room (s : State) : Nat := min (2 ^ s.hw.ep0Xw - 1) ((2 ^ s.hw.ep0Pw - 1) * 64) / 64 * 64

/-- From `s` to `t` the EP0 engine has begun to send these bytes, cut to `wLength`, as the data phase of a request (R307,
R320, R249). -/
structure State.Replied (s t : State) (wLength : Nat) (bytes : List Byte) : Prop where
  stored : t.bytes s.ep0.reply (min wLength bytes.length) = bytes.take wLength
  request : t.ep0.request = { blankReq with
    buf := s.ep0.reply
    length := min wLength bytes.length
    zeroFlag := decide (min wLength bytes.length < wLength) }
  phase : t.ep0.state = .inData ∧ t.ep0.totalLength = min wLength bytes.length
  active : (t.ep ⟨0, .IN⟩).x.active = some .ep0 ∧ (t.ep ⟨0, .IN⟩).x.chunkLen = min wLength bytes.length
  size : field (t.raw (.DIEPTSIZ 0)) 0 19 = min wLength bytes.length ∧
    field (t.raw (.DIEPTSIZ 0)) 19 10 = max 1 ((min wLength bytes.length + 63) / 64)
  addr : s.isSlave = false → t.raw (.DIEPDMA 0) = s.ep0.reply
  started : bitOf (t.raw (.DIEPCTL 0)) 31 = true
  memory : ∀ a, (∀ k < bytes.length, a ≠ s.ep0.reply + BitVec.ofNat 32 k) → t.byte a = s.byte a
  frame : Frame s t [.DIEPTSIZ 0, .DIEPDMA 0, .DIEPCTL 0, .DIEPEMPMSK] [.ep0, .ep ⟨0, .IN⟩, .mem, .plat]

/-- From `s` to `t` the EP0 engine has begun the status phase of an accepted request without data (R307, R320): a
zero-length packet on EP0 IN. The registers and parts are those the request itself changed. -/
structure State.Acknowledged (s t : State) (regs : List Reg) (parts : List Part) : Prop where
  request : t.ep0.request = { blankReq with buf := s.ep0.reply }
  phase : t.ep0.state = .inStatus
  active : (t.ep ⟨0, .IN⟩).x.active = some .ep0 ∧ (t.ep ⟨0, .IN⟩).x.chunkLen = 0
  size : field (t.raw (.DIEPTSIZ 0)) 0 19 = 0 ∧ field (t.raw (.DIEPTSIZ 0)) 19 10 = 1
  started : bitOf (t.raw (.DIEPCTL 0)) 31 = true
  frame : Frame s t (regs ++ [.DIEPTSIZ 0, .DIEPDMA 0, .DIEPCTL 0]) (parts ++ [.ep0, .ep ⟨0, .IN⟩])

end Sys2Proof.Machine
end

