-- ==== Sys2Proof/Certificates/Slice0/Obligations.lean ====
section
/-! DEFINITION. The statements for the provers. -/

open Sys2Proof Sys2Proof.Machine

/-! The machine. -/

/-- When the bytes at the head of an event port, or in task context with the interrupt line low those at the head of the
command port, decode to an instruction, one step is its meaning, the entry taken off the port (R170, R471; the ports are the
model's own, log entry 1). -/
def Obligations.StepRunsTheDecodedInstruction : Prop :=
  ∀ (s : State) (p : Port) (bs : List Byte) (rest : List (Port × List Byte)) (i : Instr) (tail : List Byte),
    s.inbox = (p, bs) :: rest → decode p bs = .ok (i, tail) → (p ≠ .cmd ∨ (s.ctx = .task ∧ s.irqDue = false)) →
    step s = exec i { s with inbox := rest }

/-- With no event to place, one step in task context is the handler while the interrupt line is high (R471); with nothing to do
at all LINK and DMA act (R474; the idle step is the model's choice, log entry 1). -/
def Obligations.StepTakesTheInterrupt : Prop :=
  (∀ s : State, (∀ p bs rest, s.inbox = (p, bs) :: rest → p = .cmd) → s.irqDue = true → step s = exec .isr s) ∧
  (∀ s : State, s.inbox = [] → s.ctx = .task → s.irqDue = false → step s = .next s.tick)

/-- The decoder reads back every well-formed instruction from its encoding, and leaves the bytes that follow it (R140 to
R168). -/
def Obligations.DecodeReadsEveryEncoding : Prop :=
  ∀ (i : Instr) (rest : List Byte), i.wf = true → decode (portOf i) (encode i ++ rest) = .ok (i, rest)

/-- Words written out from the spec's encodings decode to the instructions they stand for (R143, R151, R153, R165, R31, and
R352 for the reasons of a halt). The bytes of a command after its code, here those of REG_MODIFY and HALT, are the model's own
layout (log entry 2). -/
def Obligations.SpecWordsDecode : Prop :=
  decode .cmd [0x0A, 0x08, 0, 0, 0, 1, 0, 0, 0, 0, 0, 0, 0] = .ok (.regModify 0x8 0x1 0x0, []) ∧
  decode .cmd [0x20, 2, 1] = .ok (.halt 2 .nak, []) ∧ decode .cmd [0x20, 2, 8] = .ok (.halt 2 .cancelled, []) ∧
  decode .cmd [0x38] = .ok (.isr, []) ∧
  decode .gintsts [0x00, 0x10, 0x00, 0x00] = .ok (.topUsbrst, []) ∧
  decode (.diepint 3) [0x08, 0x00, 0x00, 0x00] = .ok (.inTimeout 3, []) ∧
  decode .setup [0x00, 0x09, 0x01, 0x00, 0, 0, 0, 0] = .ok (.setConfiguration ⟨.OUT, 0, 1, 0, 0⟩, []) ∧
  decode .rxsDevice [0x01, 0x04, 0x04, 0x00] = .ok (.rxsOutData ⟨1, 64, 0⟩, [])

/-- After reset (R80, R81, R521, R522): no reset and no flush is settling, every status register is 0, the context is task
and no sequencer record exists; the values the spec leaves open are those of log entries 4 to 6. -/
def Obligations.ResetState : Prop :=
  State.reset.ctx = .task ∧ State.reset.recordsExist = false ∧ State.reset.core.functional = false ∧
  State.reset.unsettled = false ∧ State.reset.raw .GINTSTS &&& w1cMask .GINTSTS = 0 ∧ State.reset.raw .GOTGINT = 0 ∧
  (∀ n : Fin 16, State.reset.raw (.DIEPINT n) = 0 ∧ State.reset.raw (.DOEPINT n) = 0 ∧ State.reset.raw (.HCINT n) = 0) ∧
  State.reset.iso = [] ∧ State.reset.htog = [] ∧ State.reset.canonical ∧ State.reset.reservedLow

/-- Every step keeps memory, the register file and the data-toggle table in canonical form, and the bits that no run sets
low: the action bits of the endpoint control registers (R49), the bits of XFERSIZE and PKTCNT that the hardware does not have
(R9, R42, R51), and the bits of the endpoint and channel masks and of HCSPLT that no field table names (R24, R40, R41, R46).
The canonical form is the model's own: an unlisted byte of memory reads 0 (log entry 7), an unlisted register 0 (log entry
4). -/
def Obligations.StepKeepsTheInvariants : Prop :=
  ∀ s t : State, step s = .next t → (s.canonical → t.canonical) ∧ (s.reservedLow → t.reservedLow)

/-- No step changes the parameters of the hardware (R9, R11); and GINTSTS.CURMOD is LINK's: a step before which the
environment has nothing scripted leaves the mode as it is, whatever the sequencer writes (R30, R23). -/
def Obligations.StepKeepsTheParametersAndTheMode : Prop :=
  ∀ s t : State, step s = .next t → t.hw = s.hw ∧ (s.env = [] → t.env = [] ∧ t.hostMode = s.hostMode)

/-! The register accessors. -/

/-- REG_READ of a mapped register that answers and whose read pops nothing returns its word and changes nothing (R200). -/
def Obligations.RegReadReturnsTheWord : Prop :=
  ∀ (s : State) (off : Word) (r : Reg), s.env = [] → s.prompt = false → s.irqDue = false → s.unsettled = false →
    Reg.ofOffset off.toNat = some r → s.accessible r = true → r.steady = true →
    ∃ t, exec (.regRead off) s = .next t ∧ t.result = .value (s.peek r) ∧ Frame s t [] []

/-- REG_READ of GRXSTSR returns the head of the receive queue, of GRXSTSP returns and pops it, of a FIFO window returns and
pops the head of the receive data; an empty queue, and a receive queue that DMAEN hides, so that RXFLVL is 0, gives a free value and the
command still completes (R31, R55, R200, U5; that the hidden queue then keeps its entries is the model's choice, log entry 8).
The pop of a completion entry lets LINK set its bits (R265), at once where it keeps none back: XFERCOMPL or SETUP of an OUT
endpoint, XFERCOMPL with CHHLTD, or CHHLTD, of a channel. -/
def Obligations.RegReadPopsTheQueues : Prop :=
  ∀ (s : State) (off : Word) (r : Reg), s.env = [] → s.prompt = false → s.irqDue = false → s.unsettled = false →
    Reg.ofOffset off.toNat = some r → r.steady = false →
    ∃ t w, exec (.regRead off) s = .next t ∧ t.result = .value w ∧
      (r = .GRXSTSR → t.fifo = s.fifo ∧ (∀ v l, s.slaveHw = true → s.fifo.rxStatus = v :: l → w = v) ∧ Frame s t [] []) ∧
      (r = .GRXSTSP →
        ((s.slaveHw = false ∨ s.fifo.rxStatus = []) → t.fifo = s.fifo ∧ Frame s t [] []) ∧
        (∀ v l, s.slaveHw = true → s.fifo.rxStatus = v :: l → t.fifo = { s.fifo with rxStatus := l } ∧ w = v ∧ (s.hold = false →
          let n := (rxEntryOf v).num
          let code := field v 17 4
          t.raw (.DOEPINT n) = s.raw (.DOEPINT n) |||
            (if s.hostMode = true ∨ s.hw.caps.nEp ≤ n.val then 0 else if code = 3 then 0x1 else if code = 4 then 0x8 else 0) ∧
          t.raw (.HCINT n) = s.raw (.HCINT n) |||
            (if s.hostMode = false ∨ s.hw.caps.nCh ≤ n.val then 0 else if code = 3 then 0x3 else if code = 7 then 0x2 else 0) ∧
          Frame s t [.DOEPINT n, .HCINT n] [.fifo]))) ∧
      (∀ n, r = .FIFO n → t.fifo = { s.fifo with rxData := s.fifo.rxData.tail } ∧
        (∀ v l, s.fifo.rxData = v :: l → w = v) ∧ Frame s t [] [.fifo]) ∧
      (∀ a, t.byte a = s.byte a)

/-- REG_WRITE follows the access type of each bit (R23): an RW bit takes the written value, a W1C bit that is written 1 is
cleared, a W1S bit that is written 1 is set, every other bit is kept. In a control register of an endpoint bits 16 and 17
follow CNAK, SNAK, SETD0PID and SETD1PID instead (R49; where both of a pair are written, log entry 10). That the command answers
nothing is the model's choice, log entry 44. -/
def Obligations.RegWriteFollowsTheAccessTypes : Prop :=
  ∀ (s : State) (off v : Word) (r : Reg), s.env = [] → s.prompt = false → s.irqDue = false →
    Reg.ofOffset off.toNat = some r → s.accessible r = true → (∀ n, r ≠ .FIFO n) →
    ∃ t, exec (.regWrite off v) s = .next t ∧ t.result = .unit ∧
      (∀ k : Fin 32, (∀ n, (r = .DIEPCTL n ∨ r = .DOEPCTL n) → k.val ≠ 16 ∧ k.val ≠ 17) →
        (bitOf (t.raw r) k = true ↔
          (if bitOf (rwMask s.hw r) k then bitOf v k = true
           else bitOf (s.raw r) k = true ∧ ¬ (bitOf (w1cMask r) k = true ∧ bitOf v k = true)) ∨
          (bitOf (w1sMask r) k = true ∧ bitOf v k = true))) ∧
      (∀ n, (r = .DIEPCTL n ∨ r = .DOEPCTL n) →
        bitOf (t.raw r) 17 = (bitOf v 27 || (bitOf (s.raw r) 17 && !bitOf v 26)) ∧
        bitOf (t.raw r) 16 = (bitOf v 29 || (bitOf (s.raw r) 16 && !bitOf v 28))) ∧
      Frame s t [r] [.fifo] ∧ ((∀ c, r ≠ .HCCHAR c) → t.fifo = s.fifo)

/-- REG_WRITE to a FIFO window pushes the word: in device mode into the Tx FIFO that DIEPCTL[n].TXFNUM names, in host mode
into the non-periodic or the periodic Tx FIFO by the channel's type (R55); a FIFO that has no room in its part or in the FIFO
RAM drops it (the model's choice, log entry 26). A write of HCCHAR[c] with CHENA = 1 in slave mode adds one entry for the
channel to the request queue of its type, full or not (log entry 26); any other write of HCCHAR adds none (R70). That the command
answers nothing is the model's choice, log entry 44. -/
def Obligations.RegWriteFeedsTheQueues : Prop :=
  (∀ (s : State) (off v : Word) (n : Fin 16), s.env = [] → s.prompt = false → s.irqDue = false →
     Reg.ofOffset off.toNat = some (.FIFO n) →
     ∃ t, exec (.regWrite off v) s = .next t ∧ t.result = .unit ∧ Frame s t [] [.fifo] ∧
       (s.hostMode = false → t.fifo.ptx = s.fifo.ptx ∧
         (∀ k : Fin 16, k ≠ s.txFifoOf n → t.fifo.tx[k.val] = s.fifo.tx[k.val]) ∧
         t.fifo.tx[(s.txFifoOf n).val] =
           (if 0 < s.roomIn (s.txDepth (s.txFifoOf n)) (s.fifo.tx[(s.txFifoOf n).val]).length then
             s.fifo.tx[(s.txFifoOf n).val] ++ [v] else s.fifo.tx[(s.txFifoOf n).val])) ∧
       (s.hostMode = true → periodicCode (field (s.raw (.HCCHAR n)) 18 2) = true → t.fifo.tx = s.fifo.tx ∧
         t.fifo.ptx = (if 0 < s.roomIn (field (s.raw .HPTXFSIZ) 16 16) s.fifo.ptx.length then s.fifo.ptx ++ [v]
           else s.fifo.ptx)) ∧
       (s.hostMode = true → periodicCode (field (s.raw (.HCCHAR n)) 18 2) = false → t.fifo.ptx = s.fifo.ptx ∧
         (∀ k : Fin 16, k ≠ 0 → t.fifo.tx[k.val] = s.fifo.tx[k.val]) ∧
         t.fifo.tx[0] = (if 0 < s.roomIn (field (s.raw .GNPTXFSIZ) 16 16) (s.fifo.tx[0]).length then s.fifo.tx[0] ++ [v]
           else s.fifo.tx[0]))) ∧
  (∀ (s : State) (off v : Word) (c : Fin 16), s.env = [] → s.prompt = false → s.irqDue = false →
     Reg.ofOffset off.toNat = some (.HCCHAR c) → s.accessible (.HCCHAR c) = true →
     ∃ t, exec (.regWrite off v) s = .next t ∧
       (bitOf v 31 = true → s.slaveHw = true →
         t.fifo.npReq = s.fifo.npReq ++ (if periodicCode (field v 18 2) then [] else [c]) ∧
         t.fifo.pReq = s.fifo.pReq ++ (if periodicCode (field v 18 2) then [c] else [])) ∧
       (bitOf v 31 = false ∨ s.slaveHw = false → t.fifo = s.fifo) ∧ Frame s t [.HCCHAR c] [.fifo])

/-- REG_MODIFY is a read and a write of the word read, with the bits of `clear` taken out and those of `set` put in (R200),
which follows the access type of each bit (R23): a RW bit becomes 1 where `set` has it, else 0 where `clear` has it, else it
keeps its value; a W1C bit that is 1 is written back as 1, and so cleared, unless `clear` has it and `set` has not; a W1S bit
is set where `set` has it and else keeps its value. In a control register of an endpoint bits 16 and 17 follow the written
action bits (R49; where both of a pair are written, log entry 10). Nothing but the register changes, the request queue of a
channel control register apart. That the command answers nothing is the model's choice, log entry 44. -/
def Obligations.RegModifyClearsAndSets : Prop :=
  ∀ (s : State) (off clear set : Word) (r : Reg), s.env = [] → s.prompt = false → s.irqDue = false →
    s.unsettled = false → Reg.ofOffset off.toNat = some r → s.accessible r = true → r.steady = true →
    ∃ t, exec (.regModify off clear set) s = .next t ∧ t.result = .unit ∧
      (∀ k : Fin 32, bitOf (rwMask s.hw r) k = true → bitOf (w1sMask r) k = false →
        bitOf (t.raw r) k = (bitOf set k || (bitOf (s.raw r) k && !bitOf clear k))) ∧
      (∀ k : Fin 32, bitOf (w1cMask r) k = true →
        bitOf (t.raw r) k = (bitOf (s.raw r) k && bitOf clear k && !bitOf set k)) ∧
      (∀ k : Fin 32, bitOf (w1sMask r) k = true → bitOf (t.raw r) k = (bitOf (s.raw r) k || bitOf set k)) ∧
      (∀ n, (r = .DIEPCTL n ∨ r = .DOEPCTL n) →
        let v := fun k => bitOf set k || (bitOf (s.raw r) k && !bitOf clear k)
        bitOf (t.raw r) 17 = (v 27 || (bitOf (s.raw r) 17 && !v 26)) ∧
        bitOf (t.raw r) 16 = (v 29 || (bitOf (s.raw r) 16 && !v 28))) ∧
      (∀ k : Fin 32, bitOf (rwMask s.hw r) k = false → bitOf (w1cMask r) k = false → bitOf (w1sMask r) k = false →
        (∀ n, r ≠ .DIEPCTL n ∧ r ≠ .DOEPCTL n) → bitOf (t.raw r) k = bitOf (s.raw r) k) ∧
      Frame s t [r] [.fifo] ∧ ((∀ c, r ≠ .HCCHAR c) → t.fifo = s.fifo)

/-- Commands that are refused outright change nothing: an accessor of an offset that is unmapped, misaligned or of the other
mode's group when the access would be made answers BadParam (R200, R24), an operation code outside the command table BadCommand
(R143, R450), CORE_INIT that asks for the shared-FIFO mode, or on hardware that has no other, BadParam (R201 step 0). -/
def Obligations.RefusedCommandsChangeNothing : Prop :=
  (∀ (s : State) (off v clear set : Word), s.env = [] → s.prompt = false → s.irqDue = false →
     (∀ r, Reg.ofOffset off.toNat = some r → s.accessible r = false) →
     ∀ i ∈ [Instr.regRead off, .regWrite off v, .regModify off clear set],
       ∃ t, exec i s = .next t ∧ t.result = .status .badParam ∧ Frame s t [] []) ∧
  (∀ (s : State) (op : Byte) (bs : List Byte) (rest : List (Port × List Byte)),
     s.inbox = (.cmd, bs) :: rest → s.ctx = .task → s.irqDue = false → decode .cmd bs = .error (.unknownOp op) →
     ∃ t, step s = .next t ∧ t.result = .status .badCommand ∧ Frame { s with inbox := rest } t [] []) ∧
  (∀ (s : State) (base : Word) (p : InitParams), s.env = [] → s.prompt = false → s.irqDue = false →
     s.unsettled = false → s.FromTask → (p.dedicatedFifo = false ∨ s.hw.caps.dedFifo = false) →
     ∃ t, exec (.coreInit base p) s = .next t ∧ t.result = .status .badParam ∧ Frame s t [] [])

/-! Register interface and core initialisation. -/

/-- ENABLE_GINT sets and DISABLE_GINT clears the gate bit of GAHBCFG, and change nothing else (R214, R215): after the first
the line is high where an unmasked event is pending, and the handler is due in task context; after the second the line is
low and what is pending stays pending. That they answer nothing is the model's choice, log entry 44: R142 and R450 let every command
return a status, and R143 leaves their cells blank. -/
def Obligations.GateCommandsToggleOneBit : Prop :=
  ∀ s : State, s.env = [] → s.prompt = false → s.irqDue = false → s.unsettled = false → s.core.functional = true →
    s.FromTask →
    (∃ t, exec .enableGint s = .next t ∧ t.result = .unit ∧ t.raw .GAHBCFG = s.raw .GAHBCFG ||| 0x1 ∧
      t.line = decide (s.gintsts &&& s.raw .GINTMSK &&& 0xFFFFFFFE ≠ 0) ∧
      (s.ctx = .task → s.recordsExist = true → t.irqDue = t.line) ∧ Frame s t [.GAHBCFG] []) ∧
    (∃ t, exec .disableGint s = .next t ∧ t.result = .unit ∧ t.raw .GAHBCFG = s.raw .GAHBCFG &&& ~~~0x1#32 ∧
      t.line = false ∧ t.gintsts = s.gintsts ∧ Frame s t [.GAHBCFG] [])

/-- While the core is not functional every command except CORE_INIT, CORE_DEINIT and the register accessors answers
NotFunctional and changes nothing (R218); while no record exists CORE_DEINIT does so too: before the first CORE_INIT (R522),
and after a CORE_DEINIT, of which R522 does not speak (DEDUCED, log entry 33). So does ISR in task context,
which is no command of UPPER (R143): no event is dispatched (R218; the answer is the model's, log entry 38). -/
def Obligations.NonFunctionalCoreRefusesCommands : Prop :=
  (∀ (s : State) (i : Instr), s.core.functional = false → portOf i = .cmd →
     (match i with
       | .coreInit _ _ | .coreDeinit | .regRead _ | .regWrite _ _ | .regModify _ _ _ | .isr => False
       | _ => True) →
     ∃ t, exec i s = .next t ∧ t.result = .status .notFunctional ∧ Frame s t [] []) ∧
  (∀ s : State, s.recordsExist = false →
     ∃ t, exec .coreDeinit s = .next t ∧ t.result = .status .notFunctional ∧ Frame s t [] []) ∧
  (∀ s : State, s.ctx = .task → (s.core.functional = false ∨ s.recordsExist = false) →
     ∃ t, exec .isr s = .next t ∧ t.result = .status .notFunctional ∧ Frame s t [] [])

/-- CORE_RESET answers Ok where LINK completes the reset: every register reads as after reset, with the connector, session and
mode bits and AHBIDLE kept (log entry 4), and the FIFOs are empty (log entry 26: R82 leaves their contents open); it answers
InitTimeout(AhbIdle) without a write where AHBIDLE never reads 1, and InitTimeout(SoftReset) where CSFTRST never reads 0 (R203,
R204, R80). That an RW register then reads 0 is the model's choice, log entry 4. -/
def Obligations.CoreResetOutcomes : Prop :=
  ∀ s : State, s.env = [] → s.Shut → s.unsettled = false → s.core.functional = true →
    s.FromTask →
    (s.prompt = true → s.tick = s → bitOf (s.raw .GRSTCTL) 31 = true → 1 ≤ s.hw.resetPollLimit →
      ∃ t, exec .coreReset s = .next t ∧ t.result = .status .ok ∧ t.raw .GINTSTS = s.raw .GINTSTS &&& 0x1 ∧
        t.raw .GOTGCTL = s.raw .GOTGCTL &&& 0x000D0000 ∧ t.raw .GRSTCTL = 0x80000000 ∧
        (∀ a, a ∉ [Reg.GINTSTS, .GOTGCTL, .GRSTCTL].map Reg.offset → SMap.get 0 t.regs a = 0) ∧ t.fifo = emptyFifo ∧
        t.core = s.core ∧ t.epIn = s.epIn ∧ t.epOut = s.epOut ∧ t.ch = s.ch ∧ t.pool = s.pool ∧ t.ep0 = s.ep0 ∧
        t.iso = s.iso ∧ t.mem = s.mem ∧ t.ctx = s.ctx) ∧
    (s.prompt = false → (bitOf (s.raw .GRSTCTL) 31 = false ∨ s.hw.resetPollLimit = 0) →
      ∃ t, exec .coreReset s = .next t ∧ t.result = .status .initTimeoutAhbIdle ∧ Frame s t [] []) ∧
    (s.prompt = false → bitOf (s.raw .GRSTCTL) 31 = true → 1 ≤ s.hw.resetPollLimit →
      ∃ t, exec .coreReset s = .next t ∧ t.result = .status .initTimeoutSoftReset ∧ Frame s t [.GRSTCTL] [])

/-- FLUSH_TX_FIFO and FLUSH_RX_FIFO: where LINK finishes at once they answer Ok and the selected FIFO is empty, the others
are as before (the host's periodic Tx FIFO goes with every number but 0, the model's choice, log entry 26); where LINK never
does they answer FlushTimeout; a number above 16 is BadParam (R212, R213, R216). -/
def Obligations.FlushCommands : Prop :=
  ∀ (s : State) (num : BitVec 8), s.env = [] → s.Shut → s.unsettled = false → s.core.functional = true →
    (s.prompt = true → s.tick = s → 1 ≤ s.hw.flushPollLimit → num.toNat ≤ 16 →
      ∃ t, exec (.flushTxFifo num) s = .next t ∧ t.result = .status .ok ∧
        (∀ k : Fin 16, t.fifo.tx[k.val] = if num.toNat = 16 ∨ num.toNat = k.val then [] else s.fifo.tx[k.val]) ∧
        t.fifo.ptx = (if num.toNat = 16 ∨ (s.hostMode = true ∧ num.toNat ≠ 0) then [] else s.fifo.ptx) ∧
        t.fifo.rxStatus = s.fifo.rxStatus ∧ t.fifo.rxData = s.fifo.rxData ∧ t.fifo.npReq = s.fifo.npReq ∧
        t.fifo.pReq = s.fifo.pReq ∧ t.fifo.inHand = s.fifo.inHand ∧ t.unsettled = false ∧ Frame s t [.GRSTCTL] [.fifo]) ∧
    (s.prompt = true → s.tick = s → 1 ≤ s.hw.flushPollLimit →
      ∃ t, exec .flushRxFifo s = .next t ∧ t.result = .status .ok ∧
        t.fifo = { s.fifo with rxStatus := [], rxData := [] } ∧ t.unsettled = false ∧ Frame s t [.GRSTCTL] [.fifo]) ∧
    (s.prompt = false → num.toNat ≤ 16 →
      ∃ t, exec (.flushTxFifo num) s = .next t ∧ t.result = .status .flushTimeout ∧ Frame s t [.GRSTCTL] []) ∧
    (s.prompt = false →
      ∃ t, exec .flushRxFifo s = .next t ∧ t.result = .status .flushTimeout ∧ Frame s t [.GRSTCTL] []) ∧
    (16 < num.toNat → ∃ t, exec (.flushTxFifo num) s = .next t ∧ t.result = .status .badParam ∧ Frame s t [] [])

/-- CORE_INIT on hardware whose LINK finishes resets and flushes, with the mode bit as the connector has it and a B-plug: every
register ends as the init sequence writes it, the others as after reset, the records are fresh, the core is functional in
B_PERIPHERAL with the device engine started, the context is that in which the command was given (task, where assertions are
compiled in; log entry 13) and the gate is closed (R201, R202, R205, R206, R208, R209, R211, R410, R521). That a register the
sequence does not write reads 0, and that the connector, session and AHBIDLE bits stay, is the model's choice, log entry 4;
that the FIFOs are empty, log entry 26; what NAKSTS of endpoint 0 shows after SNAK, log entry 10; the fields of a fresh
endpoint or channel that R81 does not name, log entry 6. -/
def Obligations.CoreInitStartsTheDevice : Prop :=
  ∀ (s : State) (base : Word) (p : InitParams), s.env = [] → s.replies = [] → s.prompt = true → s.tick = s → s.Shut →
    s.unsettled = false → s.FromTask → s.hw.caps.fits → s.hw.caps.dedFifo = true →
    p.dedicatedFifo = true → bitOf (s.raw .GRSTCTL) 31 = true → 1 ≤ s.hw.resetPollLimit → 1 ≤ s.hw.flushPollLimit →
    1 ≤ s.hw.modeWaitLimit → bitOf (s.raw .GOTGCTL) 16 = true → s.hostMode = false →
    ∃ t, exec (.coreInit base p) s = .next t ∧
      t.result = .status (if t.core.cfgError then .configError else .ok) ∧
      t.core.functional = true ∧ t.core.opState = .bPeripheral ∧ t.core.deviceEngine = true ∧
      t.core.hostEngine = false ∧ t.core.base = base ∧ t.core.params = p ∧ t.core.caps = s.hw.caps ∧
      t.core.dmaMode = resolvedDma s.hw.caps p.dmaMode ∧ t.pool = List.replicate s.hw.poolCap none ∧ t.iso = [] ∧
      t.htog = [] ∧ t.ep0.state = .disconnected ∧ (∀ e, t.ep e = blankEp) ∧ (∀ c, t.chan c = blankCh) ∧
      t.recordsExist = true ∧ t.ctx = s.ctx ∧ (∀ a, t.byte a = s.byte a) ∧ t.fifo = emptyFifo ∧
      t.raw .GOTGCTL = s.raw .GOTGCTL &&& 0x000D0000 ∧ t.raw .GRSTCTL = 0x80000000 ∧ t.raw .GINTSTS = 0 ∧
      t.raw .GAHBCFG = (fld 1 4 p.burst.toNat ||| bitIf (decide (t.core.dmaMode ≠ .slave)) 5) ∧
      t.raw .GUSBCFG = (bitIf p.phyWidth16 3 ||| bitIf (decide (resolvedPhy s.hw.caps p = .ulpi)) 4 |||
        bitIf (decide (resolvedPhy s.hw.caps p = .fsSerial)) 6 ||| bitIf (decide (p.otgCap ≠ .none)) 8 |||
        bitIf (decide (p.otgCap = .hnpSrp)) 9) ∧
      t.raw .GRXFSIZ = fld 0 16 t.core.fifo.rx.2 ∧
      t.raw .GNPTXFSIZ = (fld 0 16 t.core.fifo.nptx.1 ||| fld 16 16 t.core.fifo.nptx.2) ∧
      (∀ i : Fin 16, 1 ≤ i.val → i.val < s.hw.caps.nEp →
        t.raw (.DIEPTXF i) = (fld 0 16 t.core.fifo.epTx[i.val].1 ||| fld 16 16 t.core.fifo.epTx[i.val].2)) ∧
      t.raw .DCFG = (fld 0 2 (if resolvedPhy s.hw.caps p = .fsSerial then 3 else natOf p.fullSpeed) |||
        bitIf (decide (t.core.dmaMode = .descDma)) 23) ∧
      t.raw .DIEPMSK = (if t.core.dmaMode = .descDma then 0x20F else 0x00F) ∧
      t.raw .DOEPMSK = (if t.core.dmaMode = .descDma then 0x130F else 0x110F) ∧
      t.raw .DAINTMSK = 0x00010001 ∧ t.raw (.DIEPCTL 0) = 0x00020000 ∧ t.raw (.DOEPCTL 0) = 0x00020000 ∧
      t.raw .GINTMSK = (if t.core.dmaMode = .slave then 0xB00C7814 else 0xB00C7804) ∧
      (∀ a, a ∉ ([Reg.GAHBCFG, .GUSBCFG, .GOTGCTL, .GRSTCTL, .GINTSTS, .GRXFSIZ, .GNPTXFSIZ, .DCFG, .DIEPMSK, .DOEPMSK,
        .DAINTMSK, .GINTMSK, .DIEPCTL 0, .DOEPCTL 0] ++
        ((List.finRange 16).filter fun i => decide (1 ≤ i.val) && decide (i.val < s.hw.caps.nEp)).map
          Reg.DIEPTXF).map Reg.offset → SMap.get 0 t.regs a = 0)

/-- CORE_INIT with an A-plug in host mode: the core is functional in A_HOST with the host engine started, every channel
free, the context is that in which the command was given (log entry 13), and the registers are as the init sequence writes them
(R201, R205, R206, R208, R209, R211, R410); the others read 0, and the connector, session, mode and AHBIDLE bits stay, the
model's choice of log entry 4; that the FIFOs are empty is that of log entry 26, and the fields of a fresh channel that R81 does
not name are those of log entry 6. Each FIFO starts where the one before it ends, and a request that is not granted whole is
flagged (R206, P3). -/
def Obligations.CoreInitStartsTheHost : Prop :=
  ∀ (s : State) (base : Word) (p : InitParams), s.env = [] → s.replies = [] → s.prompt = true → s.tick = s → s.Shut →
    s.unsettled = false → s.FromTask → s.hw.caps.fits → s.hw.caps.dedFifo = true →
    p.dedicatedFifo = true → bitOf (s.raw .GRSTCTL) 31 = true → 1 ≤ s.hw.resetPollLimit → 1 ≤ s.hw.flushPollLimit →
    1 ≤ s.hw.modeWaitLimit → bitOf (s.raw .GOTGCTL) 16 = false → s.hostMode = true →
    ∃ t, exec (.coreInit base p) s = .next t ∧
      t.result = .status (if t.core.cfgError then .configError else .ok) ∧
      t.core.functional = true ∧ t.core.opState = .aHost ∧ t.core.hostEngine = true ∧ t.core.deviceEngine = false ∧
      t.core.base = base ∧ t.core.params = p ∧ t.core.caps = s.hw.caps ∧
      t.core.dmaMode = resolvedDma s.hw.caps p.dmaMode ∧
      (∀ c, t.chan c = blankCh) ∧ t.pool = List.replicate s.hw.poolCap none ∧ t.htog = [] ∧ t.iso = [] ∧
      t.recordsExist = true ∧ t.ctx = s.ctx ∧ (∀ a, t.byte a = s.byte a) ∧ t.fifo = emptyFifo ∧
      t.raw .GOTGCTL = s.raw .GOTGCTL &&& 0x000D0000 ∧ t.raw .GRSTCTL = 0x80000000 ∧ t.raw .GINTSTS = 0x1 ∧
      t.raw .GAHBCFG = (fld 1 4 p.burst.toNat ||| bitIf (decide (t.core.dmaMode ≠ .slave)) 5) ∧
      t.raw .GUSBCFG = (bitIf p.phyWidth16 3 ||| bitIf (decide (resolvedPhy s.hw.caps p = .ulpi)) 4 |||
        bitIf (decide (resolvedPhy s.hw.caps p = .fsSerial)) 6 ||| bitIf (decide (p.otgCap ≠ .none)) 8 |||
        bitIf (decide (p.otgCap = .hnpSrp)) 9) ∧
      t.raw .GRXFSIZ = fld 0 16 t.core.fifo.rx.2 ∧
      t.raw .GNPTXFSIZ = (fld 0 16 t.core.fifo.nptx.1 ||| fld 16 16 t.core.fifo.nptx.2) ∧
      t.raw .HCFG = (bitIf p.fullSpeed 2 ||| bitIf (decide (t.core.dmaMode = .descDma)) 23) ∧
      t.raw .HPTXFSIZ = (fld 0 16 t.core.fifo.hptx.1 ||| fld 16 16 t.core.fifo.hptx.2) ∧
      t.raw .GINTMSK = (if t.core.dmaMode = .slave then 0xB2000014 else 0xB2000004) ∧
      t.core.fifo.rx.2 + t.core.fifo.nptx.2 + t.core.fifo.hptx.2 ≤ s.hw.caps.fifoDepth ∧
      t.core.fifo.rx.1 = 0 ∧ t.core.fifo.nptx.1 = t.core.fifo.rx.2 ∧
      t.core.fifo.hptx.1 = t.core.fifo.rx.2 + t.core.fifo.nptx.2 ∧ t.core.fifo.rx.2 ≤ p.rxFifo.toNat ∧
      t.core.fifo.nptx.2 ≤ p.nptxFifo.toNat ∧ t.core.fifo.hptx.2 ≤ p.hptxFifo.toNat ∧
      (t.core.cfgError = false → t.core.fifo.rx.2 = p.rxFifo.toNat ∧ t.core.fifo.nptx.2 = p.nptxFifo.toNat ∧
        t.core.fifo.hptx.2 = p.hptxFifo.toNat) ∧
      (∀ a, a ∉ [Reg.GAHBCFG, .GUSBCFG, .GOTGCTL, .GRSTCTL, .GINTSTS, .GRXFSIZ, .GNPTXFSIZ, .HPTXFSIZ, .HCFG,
        .GINTMSK].map Reg.offset → SMap.get 0 t.regs a = 0)

/-- The FIFO budget of a device (P3, R206): after CORE_INIT the granted FIFOs, those of the endpoints among them, fit the FIFO
RAM, each starts where the one before it ends, no grant exceeds its request, and a request that was not granted whole, or that
names a Tx FIFO the hardware does not have, is flagged. -/
def Obligations.FifoPartitionFits : Prop :=
  ∀ (s t : State) (base : Word) (p : InitParams), s.env = [] → s.replies = [] → s.prompt = true → s.tick = s → s.Shut →
    s.unsettled = false → s.hw.caps.fits → p.dedicatedFifo = true → s.hostMode = false →
    bitOf (s.raw .GOTGCTL) 16 = true → exec (.coreInit base p) s = .next t →
    (t.result = .status .ok ∨ t.result = .status .configError) →
      let request := fun i : Fin 16 => ((p.epTx[i.val - 1]?).getD 0).toNat
      t.core.fifo.rx.2 + t.core.fifo.nptx.2 +
        (((List.finRange 16).filter fun i => decide (1 ≤ i.val) && decide (i.val < s.hw.caps.nEp)).map
          fun i => t.core.fifo.epTx[i.val].2).sum ≤ s.hw.caps.fifoDepth ∧
      t.core.fifo.rx.1 = 0 ∧ t.core.fifo.nptx.1 = t.core.fifo.rx.2 ∧
      t.core.fifo.rx.2 ≤ p.rxFifo.toNat ∧ t.core.fifo.nptx.2 ≤ p.nptxFifo.toNat ∧
      (∀ i : Fin 16, 1 ≤ i.val → i.val < s.hw.caps.nEp →
        t.core.fifo.epTx[i.val].1 = t.core.fifo.rx.2 + t.core.fifo.nptx.2 +
          (((List.finRange 16).filter fun j => decide (1 ≤ j.val) && decide (j.val < i.val)).map
            fun j => t.core.fifo.epTx[j.val].2).sum ∧
        t.core.fifo.epTx[i.val].2 ≤ request i ∧
        t.raw (.DIEPTXF i) = (fld 0 16 t.core.fifo.epTx[i.val].1 ||| fld 16 16 t.core.fifo.epTx[i.val].2)) ∧
      (t.result = .status .ok → t.core.fifo.rx.2 = p.rxFifo.toNat ∧ t.core.fifo.nptx.2 = p.nptxFifo.toNat ∧
        (∀ i : Fin 16, 1 ≤ i.val → i.val < s.hw.caps.nEp → t.core.fifo.epTx[i.val].2 = request i) ∧
        (∀ i : Fin 16, 1 ≤ i.val → s.hw.caps.nEp ≤ i.val → request i = 0))

/-- CORE_DEINIT with no engine started, with a device engine that has nothing to end, and with a host engine that has at most
one channel in use: the gate and the mask are 0, the role's group is silenced, the core is not functional and no record is
left (R217, R412). The host engine's channel is told to stop where it runs, its request ends with Cancelled, and its mask and
its summary bit are cleared (R411, R359). -/
def Obligations.CoreDeinitTearsDown : Prop :=
  ∀ s : State, s.Alone → s.Shut → s.ctx = .task → s.recordsExist = true → s.reservedLow →
    (s.core.deviceEngine = false → s.core.hostEngine = false →
      ∃ t, exec .coreDeinit s = .next t ∧ t.result = .status .ok ∧ t.core.functional = false ∧ t.recordsExist = false ∧
        t.pool = [] ∧ t.iso = [] ∧ t.raw .GAHBCFG = s.raw .GAHBCFG &&& ~~~0x3F#32 ∧
        t.raw .GINTMSK = s.raw .GINTMSK &&& 0x1 ∧ Frame s t [.GAHBCFG, .GINTMSK] [.records]) ∧
    (s.core.deviceEngine = true → s.core.hostEngine = false → s.hostMode = false → 1 ≤ s.hw.caps.nEp →
      bitOf (s.raw (.DIEPCTL 0)) 31 = false →
      (∀ e : EpRef, e.num ≠ 0 → (s.ep e).enabled = false ∧ (s.ep e).x.active = none ∧ (s.ep e).x.queue = []) →
      ∃ t, exec .coreDeinit s = .next t ∧ t.result = .status .ok ∧ t.core.functional = false ∧
        t.core.deviceEngine = false ∧ t.recordsExist = false ∧ t.pool = [] ∧
        t.raw .GAHBCFG = s.raw .GAHBCFG &&& ~~~0x3F#32 ∧ t.raw .GINTMSK = s.raw .GINTMSK &&& 0x1 ∧
        t.raw .DAINTMSK = 0 ∧ field (t.raw .DCFG) 4 7 = 0 ∧ t.ep0.address = 0 ∧ t.ep0.config = 0 ∧
        Frame s t [.GAHBCFG, .GINTMSK, .DAINTMSK, .DIEPEMPMSK, .DCFG] [.records]) ∧
    (∀ (c : Fin 16) (h : Nat) (q : Req), s.core.deviceEngine = false → s.core.hostEngine = true → s.hostMode = true →
      s.core.caps = s.hw.caps → c.val < s.hw.caps.nCh → (∀ k, k ≠ c → (s.chan k).allocated = false) →
      ((s.chan c).allocated = false →
        ∃ t l, exec .coreDeinit s = .next t ∧ t.result = .status .ok ∧ t.core.functional = false ∧
          t.core.hostEngine = false ∧ t.recordsExist = false ∧ t.pool = [] ∧ t.trace = l ++ s.trace ∧
          .cb .hostRoleStop ∈ l ∧ t.raw .GAHBCFG = s.raw .GAHBCFG &&& ~~~0x3F#32 ∧
          t.raw .GINTMSK = s.raw .GINTMSK &&& 0x1 ∧ t.raw .HAINTMSK &&& 0xFFFF = 0 ∧
          Frame s t [.GAHBCFG, .GINTMSK, .HAINTMSK] [.records]) ∧
      ((s.chan c).allocated = true → (s.chan c).x.active = some (.pool h) → (s.chan c).x.queue = [] →
        s.pool[h]? = some (some q) →
        ∃ t l, exec .coreDeinit s = .next t ∧ t.result = .status .ok ∧ t.core.functional = false ∧
          t.core.hostEngine = false ∧ t.recordsExist = false ∧ t.pool = [] ∧ t.trace = l ++ s.trace ∧
          .cb (.transferComplete q.cb q.ctx .cancelled q.done) ∈ l ∧ .cb .hostRoleStop ∈ l ∧
          (bitOf (s.raw (.HCCHAR c)) 31 = true →
            bitOf (t.raw (.HCCHAR c)) 31 = true ∧ bitOf (t.raw (.HCCHAR c)) 30 = true) ∧
          (bitOf (s.raw (.HCCHAR c)) 31 = false → t.raw (.HCCHAR c) = s.raw (.HCCHAR c)) ∧
          t.raw (.HCINTMSK c) = 0 ∧ t.raw (.HCINT c) = 0 ∧ t.raw .GAHBCFG = s.raw .GAHBCFG &&& ~~~0x3F#32 ∧
          t.raw .GINTMSK = s.raw .GINTMSK &&& 0x1 ∧
          t.raw .HAINTMSK &&& 0xFFFF = 0 ∧
          Frame s t [.GAHBCFG, .GINTMSK, .HAINTMSK, .HCCHAR c, .HCINT c, .HCINTMSK c] [.records, .fifo]))

/-! The Transfer Object Pool. -/

/-- POOL_ALLOC hands out a free slot with a fresh pending request, or answers NoFreeIoBlock where there is none (R240);
POOL_FREE frees a used slot that no endpoint or channel has active or queued, and answers a typed error to a handle outside the
pool (R241; which one is the model's choice, log entry 19); nothing else changes, not even the gate, which the critical section
restores (R113, R245). That POOL_FREE answers nothing where it succeeds is the model's choice, log entry 44. -/
def Obligations.PoolSlotsAreHandedOutAndFreed : Prop :=
  (∀ s : State, s.env = [] → s.prompt = false → s.irqDue = false → s.unsettled = false → s.core.functional = true →
     (s.freeSlots = [] → ∃ t, exec .poolAlloc s = .next t ∧ t.result = .status .noFreeIoBlock ∧ Frame s t [] []) ∧
     (s.freeSlots ≠ [] → ∃ t h, exec .poolAlloc s = .next t ∧ t.result = .handle h ∧ h < s.pool.length ∧
       s.slotUsed h = false ∧ t.slotUsed h = true ∧ (t.reqAt (.pool h)).status = .pending ∧
       (t.reqAt (.pool h)).done = 0 ∧ (∀ k, k ≠ h → t.pool[k]? = s.pool[k]?) ∧ Frame s t [] [.pool])) ∧
  (∀ (s : State) (h : BitVec 16), s.env = [] → s.prompt = false → s.irqDue = false → s.unsettled = false →
     s.core.functional = true →
     (h.toNat < s.pool.length → s.slotUsed h.toNat = true → s.inUse h.toNat = false →
       ∃ t, exec (.poolFree h) s = .next t ∧ t.result = .unit ∧ t.slotUsed h.toNat = false ∧
         t.pool.length = s.pool.length ∧ (∀ k, k ≠ h.toNat → t.pool[k]? = s.pool[k]?) ∧ Frame s t [] [.pool]) ∧
     (s.pool.length ≤ h.toNat → ∃ t, exec (.poolFree h) s = .next t ∧ t.result = .status .badParam ∧ Frame s t [] []))

/-! The transfer engine. -/

/-- SUBMIT to an endpoint that is busy with another request takes a free slot and queues it at the end: no register changes,
not even the gate, which the critical section restores (R243, R245). SUBMIT that fails answers the status of the first check
that fails and changes nothing (R243, R351, R454; the answers to a target of the other role and to an owner of the
scheduler are the model's choice, log entry 19). -/
def Obligations.SubmitQueuesOrFails : Prop :=
  (∀ (s : State) (e : EpRef) (buf len : Word) (z : Bool) (cb : CbId), s.Alone → s.irqDue = false → s.InDeviceRole →
     (s.isSlave = true ∨ buf.toNat % 4 = 0) → s.submitCheck e = .ok → ((s.ep e).x.active ≠ none ∨ (s.ep e).x.queue ≠ []) →
     s.freeSlots ≠ [] →
     ∃ t h, exec (.submit (.ep e) buf len z cb) s = .next t ∧ t.result = .handle h ∧ s.slotUsed h = false ∧
       h < s.pool.length ∧
       t.pool = s.pool.set h (some (submitted (.ep e) buf len.toNat z cb)) ∧
       t.ep e = { s.ep e with x := { (s.ep e).x with queue := (s.ep e).x.queue ++ [h] } } ∧
       Frame s t [] [.ep e, .pool]) ∧
  (∀ (s : State) (buf len : Word) (z : Bool) (cb : CbId), s.Alone → s.Shut → s.core.functional = true →
     (s.isSlave = false → buf.toNat % 4 ≠ 0 → ∀ x, ∃ t, exec (.submit x buf len z cb) s = .next t ∧
       t.result = .status .badParam ∧ Frame s t [] []) ∧
     ((s.isSlave = true ∨ buf.toNat % 4 = 0) → s.peripheral = true →
       (∀ p, ∃ t, exec (.submit (.pipe p) buf len z cb) s = .next t ∧ t.result = .status .badParam ∧ Frame s t [] []) ∧
       (∀ e : EpRef, (s.submitCheck e ≠ .ok ∨ s.freeSlots = []) →
         ∃ t, exec (.submit (.ep e) buf len z cb) s = .next t ∧
           t.result = .status (if e.num = 0 ∨ s.core.caps.nEp ≤ e.num.val ∨ (s.ep e).enabled = false then .notEnabled
             else if (s.ep e).state = .stalled ∨ (s.ep e).state = .haltedPendingDisable ∨ s.scheduled (.ep e) = true then .busy
             else .noFreeIoBlock) ∧ Frame s t [] [])) ∧
     ((s.isSlave = true ∨ buf.toNat % 4 = 0) → s.peripheral = false →
       (∀ e, ∃ t, exec (.submit (.ep e) buf len z cb) s = .next t ∧ t.result = .status .badParam ∧ Frame s t [] []) ∧
       (∀ p : HcParams, (s.pipeChannel p = none → s.freeChannel = none ∨ s.freeSlots = []) →
         (∀ c, s.pipeChannel p = some c → p.pid ≠ none ∨ (s.chan c).haltStatus ≠ .noHalt) →
         ∃ t, exec (.submit (.pipe p) buf len z cb) s = .next t ∧
           t.result = .status (if s.pipeChannel p ≠ none then .busy else if s.freeChannel = none then .noFreeChannel
             else .noFreeIoBlock) ∧ Frame s t [] [])))

/-- SUBMIT to a new pipe in a host role allocates the lowest free channel and starts the request on it: its registers are
programmed for the first chunk and CHENA is set (R243, R247, R250, R351, R360, R374). -/
def Obligations.SubmitStartsAChannel : Prop :=
  ∀ (s : State) (p : HcParams) (c : Fin 16) (buf len : Word) (z : Bool) (cb : CbId), s.Alone → s.Shut → s.InHostRole →
    s.reservedLow → s.hw.caps.fits → s.core.dmaMode = .bufferDma → buf.toNat % 4 = 0 → p.wf = true → s.pipeChannel p = none → s.freeChannel = some c →
    s.freeSlots ≠ [] →
    ∃ t h, exec (.submit (.pipe p) buf len z cb) s = .next t ∧ t.result = .handle h ∧ s.slotUsed h = false ∧
      (t.reqAt (.pool h)).buf = buf ∧ (t.reqAt (.pool h)).length = len.toNat ∧
      (t.reqAt (.pool h)).owner = some (.ch c) ∧ (∀ k, k ≠ h → t.pool[k]? = s.pool[k]?) ∧
      (t.chan c).allocated = true ∧ (t.chan c).params = p ∧ (t.chan c).x.active = some (.pool h) ∧
      (t.chan c).dataPid = s.firstPid p ∧ (t.chan c).haltStatus = .noHalt ∧ (t.chan c).requests = 1 ∧
      (t.chan c).completeSplit = false ∧ (t.chan c).errorState = false ∧
      (t.chan c).x.chunkLen = s.channelChunk (t.chan c) { blankReq with length := len.toNat } ∧
      s.Programmed t c (t.chan c) { blankReq with buf := buf } (t.chan c).x.chunkLen ∧
      Frame s t [.HCINT c, .HCINTMSK c, .HAINTMSK, .HCSPLT c, .HCTSIZ c, .HCDMA c, .HCCHAR c] [.ch c, .pool, .fifo]

/-- START_TRANSFER on an endpoint in slave and buffer-DMA mode (R246, R247, R249): the chunk is the request's length within
the clamps, XFERSIZE and PKTCNT take it (whole packets on a receive), the buffer address goes to the DMA register, and
EPENA is set with NAK cleared (that NAKSTS then reads 0 is the model's choice, log entry 10). Between EPDIS and EPDISBLD the
endpoint is not programmed (R550): the request is the active one at once, and its first chunk waits (the model's reading, log entry
39). With a request active there is no next state (R246, U1). -/
def Obligations.StartTransferProgramsTheEndpoint : Prop :=
  ∀ (s : State) (e : EpRef) (h : BitVec 16), s.Alone → s.Shut → s.reservedLow → s.InDeviceRole → s.hw.caps.fits →
    e.num ≠ 0 → e.num.val < s.hw.caps.nEp → (s.ep e).state = .idle → s.slotUsed h.toNat = true →
    (s.reqAt (.pool h.toNat)).owner = some (.ep e) → (s.reqAt (.pool h.toNat)).status = .pending →
    ((s.ep e).x.active ≠ none → exec (.startTransfer (.ep e) h) s = .fault .stuckTransferActive) ∧
    ((s.ep e).x.active = none → (s.ep e).disabling = true →
      ∃ t, exec (.startTransfer (.ep e) h) s = .next t ∧ t.result = .status .ok ∧
        t.ep e = { s.ep e with
          state := .active
          waits := true
          x := { (s.ep e).x with active := some (.pool h.toNat), zlpPhase := false } } ∧ Frame s t [] [.ep e]) ∧
    ((s.ep e).x.active = none → (s.ep e).disabling = false → s.isDesc = false → 1 ≤ (s.ep e).mps → (s.ep e).mps ≤ 1024 → 1 ≤ (s.ep e).multiCount →
    (s.ep e).type ≠ .isochronous → (s.reqAt (.pool h.toNat)).done = 0 →
    let q := s.reqAt (.pool h.toNat)
    let mps := (s.ep e).mps
    let top := min (2 ^ s.hw.caps.xw - 1) ((2 ^ s.hw.caps.pw - 1) * mps) / mps * mps
    let len := min q.length (if (s.ep e).type = .interrupt then min top ((s.ep e).multiCount * mps) else top)
    let pkts := max 1 ((len + mps - 1) / mps)
    ∃ t, exec (.startTransfer (.ep e) h) s = .next t ∧ t.result = .status .ok ∧
      field (t.raw (epSiz e)) 0 19 = (if e.dir = .IN then len else pkts * mps) ∧
      field (t.raw (epSiz e)) 19 10 = pkts ∧
      t.raw (epDma e) = (if s.isSlave then s.raw (epDma e) else q.buf) ∧
      bitOf (t.raw (epCtl e)) 31 = true ∧ bitOf (t.raw (epCtl e)) 17 = false ∧
      (s.isSlave = true → e.dir = .IN → bitOf (t.raw .DIEPEMPMSK) e.num.val =
        (decide (0 < len) || bitOf (s.raw .DIEPEMPMSK) e.num.val)) ∧
      (t.ep e).state = .active ∧ (t.ep e).waits = false ∧ (t.ep e).x.active = some (.pool h.toNat) ∧
      (t.ep e).x.chunkLen = len ∧ (t.ep e).x.chunkDone = 0 ∧ (t.ep e).x.queue = (s.ep e).x.queue ∧
      Frame s t [epSiz e, epDma e, epCtl e, .DIEPEMPMSK] [.ep e])

/-- START_TRANSFER on an endpoint in descriptor-DMA mode builds the chain (R247, R252, R253): for each descriptor its buffer
address and its status word with BYTES, IOC and L on the last, SP on a short last packet and BS = HostReady; then the chain's
address goes to the DMA register and EPENA is set. BYTES has 16 bits in the generic form (R160); on an isochronous endpoint the word
has the other form (R161, R171), with BYTES of 12 bits and in PID the packets of an IN slot; its FRNUM, for which R253 names no value,
is free (the model's choice, log entry 43), and of a `multi_count` of 4 it takes 3 packets (the model's choice, log entry 41). No byte
outside the chain changes. The chain lies outside the arrays that DMA is walking; where DMA owns its first descriptor there is no next
state (R117, U7, log entry 40). -/
def Obligations.StartTransferBuildsTheChain : Prop :=
  ∀ (s : State) (e : EpRef) (h : BitVec 16) (d : Word), s.Alone → s.Shut → s.InDeviceRole → s.isDesc = true →
    e.num.val < s.hw.caps.nEp → (s.ep e).state = .idle → (s.ep e).x.active = none → (s.ep e).x.desc = some d →
    (s.ep e).disabling = false → 1 ≤ (s.ep e).mps → (s.ep e).mps ≤ 1024 → 1 ≤ s.hw.maxDesc → s.hw.maxDesc < 2 ^ 20 → s.slotUsed h.toNat = true →
    (s.reqAt (.pool h.toNat)).owner = some (.ep e) → (s.reqAt (.pool h.toNat)).status = .pending →
    let q := s.reqAt (.pool h.toNat)
    let mps := (s.ep e).mps
    let mpd := 65535 / mps * mps
    let iso := (s.ep e).type = .isochronous
    let packets := if iso then min (s.ep e).multiCount 3 else (s.ep e).multiCount
    let top := if typePeriodic (s.ep e).type then min (s.hw.maxDesc * mpd) (packets * mps) else s.hw.maxDesc * mpd
    let len := min (q.length - q.done) top
    let n := max 1 ((len + mpd - 1) / mpd)
    (s.owned d = true → exec (.startTransfer (.ep e) h) s = .fault .stuckOwnedDescriptor) ∧
    ((∀ k < 8 * s.hw.maxDesc, s.Spared (d + BitVec.ofNat 32 k)) →
    ∃ t, exec (.startTransfer (.ep e) h) s = .next t ∧ t.result = .status .ok ∧ t.raw (epDma e) = d ∧
      bitOf (t.raw (epCtl e)) 31 = true ∧ (t.ep e).x.chunkLen = len ∧ n ≤ s.hw.maxDesc ∧
      (∀ i < n,
        let a := d + BitVec.ofNat 32 (8 * i)
        let chunk := min mpd (len - i * mpd)
        let bytes := if e.dir = .OUT then max 1 ((chunk + mps - 1) / mps) * mps else chunk
        t.word (a + 4) = q.buf + BitVec.ofNat 32 q.done + BitVec.ofNat 32 (i * mpd) ∧
        (¬iso → field (t.word a) 0 16 = bytes) ∧
        (iso → field (t.word a) 0 12 = bytes ∧
          field (t.word a) 23 2 = (if e.dir = .IN then max 1 ((bytes + mps - 1) / mps) else 0)) ∧
        bitOf (t.word a) 27 = decide (i + 1 = n) ∧ bitOf (t.word a) 25 = decide (i + 1 = n) ∧
        bitOf (t.word a) 26 = (decide (i + 1 = n) && decide (chunk % mps ≠ 0)) ∧ field (t.word a) 28 4 = 0) ∧
      (∀ a, (∀ k < 8 * n, a ≠ d + BitVec.ofNat 32 k) → t.byte a = s.byte a) ∧
      Frame s t [epDma e, epCtl e] [.ep e, .mem])

/-- CONTINUE_TRANSFER of a device IN endpoint in slave mode pushes the next packet where the Tx FIFO, in its part and in the
FIFO RAM, has room for its words, and says whether more remains; where DTXFSTS shows no room for them, it changes nothing and
asks for another call. On a host channel in slave mode (R260): a split IN does nothing; any other IN is requested again while
the request queue has room, and asks for another call; an OUT waits for FIFO space and a queue entry, then its next packet is
pushed into the Tx FIFO of its type, requested again first where it is not the chunk's first packet, which a split and a SETUP
never are. In the DMA modes, on a device OUT endpoint, on a target without a transfer and on a channel with a halt pending it
does nothing and answers false (R260, R261); a deferred halt is tried again (R355). -/
def Obligations.ContinueTransferPushesOrDoesNothing : Prop :=
  (∀ (s : State) (n : Fin 16), s.Alone → s.Shut → s.InDeviceRole → s.isSlave = true → n.val < s.hw.caps.nEp →
     (s.ep ⟨n, .IN⟩).x.active ≠ none → (s.ep ⟨n, .IN⟩).x.chunkDone < (s.ep ⟨n, .IN⟩).x.chunkLen →
     s.inSpace n < 65536 →
     let x := (s.ep ⟨n, .IN⟩).x
     let plen := min (s.ep ⟨n, .IN⟩).mps (x.chunkLen - x.chunkDone)
     let a := s.chunkAddr (.ep ⟨n, .IN⟩) + BitVec.ofNat 32 x.chunkDone
     (s.inSpace n < (plen + 3) / 4 → ∃ t, exec (.continueTransfer (.ep ⟨n, .IN⟩)) s = .next t ∧ t.result = .flag true ∧
       Frame s t [] []) ∧
     ((plen + 3) / 4 ≤ s.roomIn (s.txDepth (s.txFifoOf n)) (s.fifo.tx[(s.txFifoOf n).val]).length →
       ∃ t, exec (.continueTransfer (.ep ⟨n, .IN⟩)) s = .next t ∧
       t.result = .flag (decide (x.chunkDone + plen < x.chunkLen)) ∧
       t.fifo.tx[(s.txFifoOf n).val] = s.fifo.tx[(s.txFifoOf n).val] ++ packWords 0 (s.bytes a plen) ∧
       (∀ k : Fin 16, k ≠ s.txFifoOf n → t.fifo.tx[k.val] = s.fifo.tx[k.val]) ∧ t.fifo.ptx = s.fifo.ptx ∧
       t.fifo.rxStatus = s.fifo.rxStatus ∧ t.fifo.rxData = s.fifo.rxData ∧
       t.ep ⟨n, .IN⟩ = { s.ep ⟨n, .IN⟩ with x := { x with chunkDone := x.chunkDone + plen } } ∧
       Frame s t [] [.ep ⟨n, .IN⟩, .fifo])) ∧
  (∀ (s : State) (c : Fin 16), s.Alone → s.Shut → s.InHostRole → s.isSlave = true → c.val < s.hw.caps.nCh →
     (s.chan c).x.active ≠ none → (s.chan c).haltStatus = .noHalt →
     let r := s.chan c
     let plen := min r.params.mps.toNat (r.x.chunkLen - r.x.chunkDone)
     let words := (plen + 3) / 4
     let periodic := typePeriodic r.params.epType
     let space := (if periodic then s.pSpace else s.npSpace) % 65536
     let room := if periodic then s.roomIn (field (s.raw .HPTXFSIZ) 16 16) s.fifo.ptx.length
       else s.roomIn (field (s.raw .GNPTXFSIZ) 16 16) (s.fifo.tx[0]).length
     let data := packWords 0 (s.bytes (s.chunkAddr (.ch c) + BitVec.ofNat 32 r.x.chunkDone) plen)
     let nothing := fun b : Bool =>
       ∃ t, exec (.continueTransfer (.ch c)) s = .next t ∧ t.result = .flag b ∧ Frame s t [] []
     (r.haltDeferred = none → r.params.epDir = .IN →
       (r.params.doSplit = true → nothing false) ∧ (r.params.doSplit = false → s.queueRoom c = 0 → nothing true) ∧
       (r.params.doSplit = false → s.queueRoom c ≠ 0 →
         ∃ t, exec (.continueTransfer (.ch c)) s = .next t ∧ t.result = .flag true ∧
           t.chan c = { r with requests := r.requests + 1 } ∧ bitOf (t.raw (.HCCHAR c)) 31 = true ∧
           t.fifo.tx = s.fifo.tx ∧ t.fifo.ptx = s.fifo.ptx ∧ Frame s t [.HCCHAR c] [.ch c, .fifo])) ∧
     (r.haltDeferred = none → r.params.epDir = .OUT →
       (r.x.chunkLen ≤ r.x.chunkDone → nothing false) ∧
       (r.x.chunkDone < r.x.chunkLen → (space < words ∨ s.queueRoom c = 0) → nothing true) ∧
       (r.x.chunkDone < r.x.chunkLen → words ≤ space → s.queueRoom c ≠ 0 → 0 < r.x.chunkDone →
         (r.params.doSplit = true ∨ r.dataPid = .setup) → nothing false) ∧
       (r.x.chunkDone < r.x.chunkLen → words ≤ space → words ≤ room → s.queueRoom c ≠ 0 →
         periodicCode (field (s.raw (.HCCHAR c)) 18 2) = periodic →
         (r.x.chunkDone = 0 ∨ (r.params.doSplit = false ∧ r.dataPid ≠ .setup)) →
         ∃ t, exec (.continueTransfer (.ch c)) s = .next t ∧
           t.result = .flag (decide (r.x.chunkDone + plen < r.x.chunkLen) && !r.params.doSplit && decide (r.dataPid ≠ .setup)) ∧
           t.chan c = { r with
             requests := r.requests + (if r.x.chunkDone = 0 then 0 else 1)
             x := { r.x with chunkDone := r.x.chunkDone + plen } } ∧
           (r.x.chunkDone = 0 → t.raw (.HCCHAR c) = s.raw (.HCCHAR c)) ∧
           (0 < r.x.chunkDone → bitOf (t.raw (.HCCHAR c)) 31 = true) ∧
           t.fifo.ptx = (if periodic then s.fifo.ptx ++ data else s.fifo.ptx) ∧
           t.fifo.tx = (if periodic then s.fifo.tx else s.fifo.tx.set 0 (s.fifo.tx[0] ++ data)) ∧
           t.fifo.rxStatus = s.fifo.rxStatus ∧ t.fifo.rxData = s.fifo.rxData ∧ Frame s t [.HCCHAR c] [.ch c, .fifo])) ∧
     (∀ reason, r.haltDeferred = some reason → bitOf (s.raw (.HCCHAR c)) 31 = true → s.queueRoom c ≠ 0 →
       ∃ t, exec (.continueTransfer (.ch c)) s = .next t ∧ t.result = .flag false ∧
         t.chan c = { r with haltDeferred := none, haltStatus := .haltPending, haltReason := some reason } ∧
         bitOf (t.raw (.HCCHAR c)) 30 = true ∧ Frame s t [.HCCHAR c, .HCINTMSK c] [.ch c, .fifo])) ∧
  (∀ (s : State) (x : XRef), s.hw.debug = false → s.core.functional = true → s.validX x = true →
     (s.isSlave = false ∨ (∃ n, x = .ep ⟨n, .OUT⟩) ∨ (s.xfer x).active = none ∨
       (∃ c, x = .ch c ∧ (s.chan c).haltStatus ≠ .noHalt)) →
     ∃ t, exec (.continueTransfer x) s = .next t ∧ t.result = .flag false ∧ Frame s t [] [])

/-- CANCEL of a request whose endpoint the hardware is running (EPENA = 1) asks for the disable and ends nothing yet, and where a
stall has asked for it already it waits for the same confirmation without a write (R550, log entry 39); with EPENA = 0 the active
request ends at once, whether EPDISBLD is awaited or not; CANCEL of a request on a channel
that runs asks for the halt, where the request queue has room, and on one with a halt under way replaces its reason; CANCEL of
a free slot is BadHandle (R283, R284, R353). That NAKSTS follows SNAK at once is the model's choice, log entry 10. -/
def Obligations.CancelEntersTheHaltPath : Prop :=
  ∀ (s : State) (h : BitVec 16), s.Alone → s.Shut → s.ctx = .task → s.core.functional = true →
    (∀ e : EpRef, s.slotUsed h.toNat = true → (s.reqAt (.pool h.toNat)).owner = some (.ep e) → s.hostMode = false →
      e.num.val < s.hw.caps.nEp → (s.ep e).state ≠ .haltedPendingDisable → bitOf (s.raw (epCtl e)) 31 = true →
      ∃ t, exec (.cancel h) s = .next t ∧ t.result = .status .ok ∧
        t.ep e = { s.ep e with
          state := .haltedPendingDisable
          pendingStatus := .cancelled
          pendingAll := true
          disabling := true
          rearm := false } ∧
        ((s.ep e).disabling = true → Frame s t [] [.ep e]) ∧
        ((s.ep e).disabling = false →
          bitOf (t.raw (epCtl e)) 30 = true ∧ bitOf (t.raw (epCtl e)) 31 = true ∧ bitOf (t.raw (epCtl e)) 17 = true ∧
          bitOf (t.raw (epMsk e)) 1 = true ∧ Frame s t [epCtl e, epMsk e] [.ep e])) ∧
    (∀ (e : EpRef) (k : Nat) (q : Req), s.slotUsed h.toNat = true → (s.reqAt (.pool h.toNat)).owner = some (.ep e) →
      s.hostMode = false → e.num.val < s.hw.caps.nEp → (s.ep e).state ≠ .haltedPendingDisable → (s.ep e).enabled = true →
      bitOf (s.raw (epCtl e)) 31 = false → (s.ep e).x.active = some (.pool k) → (s.ep e).x.queue = [] →
      s.pool[k]? = some (some q) →
      ∃ t l, exec (.cancel h) s = .next t ∧ t.result = .status .ok ∧ t.pool = s.pool.set k none ∧
        (t.ep e).x.active = none ∧ (t.ep e).x.queue = [] ∧ (t.ep e).disabling = (s.ep e).disabling ∧
        (t.ep e).state = (if (s.ep e).state = .active then .idle else (s.ep e).state) ∧ t.trace = l ++ s.trace ∧
        .cb (.transferComplete q.cb q.ctx .cancelled q.done) ∈ l ∧ Frame s t [] [.ep e, .pool]) ∧
    (∀ c : Fin 16, s.slotUsed h.toNat = true → (s.reqAt (.pool h.toNat)).owner = some (.ch c) → s.hostMode = true →
      c.val < s.hw.caps.nCh → (s.chan c).haltStatus = .noHalt → bitOf (s.raw (.HCCHAR c)) 31 = true → s.queueRoom c ≠ 0 →
      ∃ t, exec (.cancel h) s = .next t ∧ t.result = .status .ok ∧
        t.chan c = { s.chan c with
          cancelAll := true
          haltDeferred := none
          haltStatus := .haltPending
          haltReason := some .cancelled } ∧
        bitOf (t.raw (.HCCHAR c)) 31 = true ∧ bitOf (t.raw (.HCCHAR c)) 30 = true ∧
        bitOf (t.raw (.HCINTMSK c)) 1 = true ∧ Frame s t [.HCCHAR c, .HCINTMSK c] [.ch c, .fifo]) ∧
    (∀ c : Fin 16, s.slotUsed h.toNat = true → (s.reqAt (.pool h.toNat)).owner = some (.ch c) →
      (s.chan c).haltStatus = .haltPending →
      ∃ t, exec (.cancel h) s = .next t ∧ t.result = .status .ok ∧
        t.chan c = { s.chan c with cancelAll := true, haltReason := some .cancelled } ∧ Frame s t [] [.ch c]) ∧
    (s.slotUsed h.toNat = false → ∃ t, exec (.cancel h) s = .next t ∧ t.result = .status .badHandle ∧ Frame s t [] [])

/-- ENABLE_ENDPOINT (R280): a descriptor that a check refuses is answered with that check's status and changes nothing; else
the endpoint's record is written, its control register, and its summary-mask bit. That NAKSTS then reads 1 and DPID 0 is the
model's choice, log entry 10. Where EPDISBLD of an earlier use has not come yet, that stays known and the word of the control
register waits for it (R550; the model's reading, log entry 39). A `multi_count` of 4 and an `interval` of 0 are accepted (log
entry 41). -/
def Obligations.EnableEndpointActivatesIt : Prop :=
  ∀ (s : State) (d : Epd), s.Alone → s.Shut → s.InDeviceRole →
    let e := epdRef d
    let desc := s.descArray (.ep e) false
    let status := if d.bLength ≠ 7 ∨ d.bDescriptorType ≠ 5 ∨ e.num = 0 ∨ s.hw.caps.nEp ≤ e.num.val ∨ epdMps d = 0 ∨
        1024 < epdMps d then Status.badParam
      else if (s.ep e).enabled = true then .alreadyEnabled
      else if e.dir = .IN ∧ s.core.fifo.epTx[e.num.val].2 * 4 < epdMps d then .noFifo
      else if s.core.dmaMode = .descDma ∧ desc = none then .noFreeIoBlock
      else .ok
    (status = .ok →
      ∃ t, exec (.enableEndpoint d) s = .next t ∧ t.result = .status .ok ∧
        (t.ep e).type = epdType d ∧ (t.ep e).mps = epdMps d ∧ (t.ep e).txFifo = (if e.dir = .IN then e.num else 0) ∧
        (t.ep e).multiCount = (d.wMaxPacketSize.extractLsb' 11 2).toNat + 1 ∧ (t.ep e).interval = d.bInterval.toNat ∧
        (t.ep e).state = .idle ∧ (t.ep e).enabled = true ∧ (t.ep e).x = { blankXfer with desc := desc } ∧
        (t.ep e).disabling = (s.ep e).disabling ∧
        ((s.ep e).disabling = false → (t.ep e).enabling = none ∧
          field (t.raw (epCtl e)) 0 11 = epdMps d ∧ bitOf (t.raw (epCtl e)) 15 = true ∧
          field (t.raw (epCtl e)) 18 2 = (d.bmAttributes &&& 3).toNat ∧
          bitOf (t.raw (epCtl e)) 17 = true ∧ bitOf (t.raw (epCtl e)) 16 = false ∧
          (e.dir = .IN → field (t.raw (epCtl e)) 22 4 = e.num.val)) ∧
        ((s.ep e).disabling = true → (t.ep e).enabling = some (enableWord d) ∧ t.raw (epCtl e) = s.raw (epCtl e)) ∧
        t.raw .DAINTMSK = s.raw .DAINTMSK ||| bit1 (if e.dir = .IN then e.num.val else 16 + e.num.val) ∧
        Frame s t [epCtl e, .DAINTMSK] [.ep e]) ∧
    (status ≠ .ok →
      ∃ t, exec (.enableEndpoint d) s = .next t ∧ t.result = .status status ∧ Frame s t [] [])

/-- DISABLE_ENDPOINT deactivates an endpoint without requests, whether EPDISBLD is awaited or not, starts the disable of one that has
a request and EPENA = 1, waits for the confirmation where a stall has asked for the disable already (R550, log entry 39), and answers
NotEnabled for endpoint 0 and for one that is not enabled (R282, R284). That NAKSTS then reads 1 is the model's choice, log entry 10. -/
def Obligations.DisableEndpointOutcomes : Prop :=
  ∀ (s : State) (e : EpRef), s.Alone → s.Shut → s.InDeviceRole → e.num.val < s.hw.caps.nEp →
    ((e.num = 0 ∨ (s.ep e).enabled = false) →
      ∃ t, exec (.disableEndpoint e) s = .next t ∧ t.result = .status .notEnabled ∧ Frame s t [] []) ∧
    (e.num ≠ 0 → (s.ep e).enabled = true → (s.ep e).state ≠ .haltedPendingDisable → (s.ep e).x.active = none →
      (s.ep e).x.queue = [] →
      ∃ t, exec (.disableEndpoint e) s = .next t ∧ t.result = .status .ok ∧
        t.ep e = { s.ep e with enabled := false, state := .idle } ∧
        field (t.raw (epCtl e)) 0 11 = 0 ∧ bitOf (t.raw (epCtl e)) 15 = false ∧ bitOf (t.raw (epCtl e)) 17 = true ∧
        t.raw .DAINTMSK = s.raw .DAINTMSK &&& ~~~(bit1 (daintBit e)) ∧
        (s.isSlave = true → e.dir = .IN → bitOf (t.raw .DIEPEMPMSK) e.num.val = false) ∧
        Frame s t [epCtl e, .DAINTMSK, .DIEPEMPMSK] [.ep e]) ∧
    (e.num ≠ 0 → (s.ep e).enabled = true → (s.ep e).state ≠ .haltedPendingDisable →
      ((s.ep e).x.active ≠ none ∨ (s.ep e).x.queue ≠ []) → bitOf (s.raw (epCtl e)) 31 = true →
      ∃ t, exec (.disableEndpoint e) s = .next t ∧ t.result = .status .ok ∧
        t.ep e = { s.ep e with
          enabled := false
          state := .haltedPendingDisable
          pendingStatus := .cancelled
          pendingAll := true
          disabling := true
          rearm := false } ∧
        ((s.ep e).disabling = true → Frame s t [] [.ep e]) ∧
        ((s.ep e).disabling = false → bitOf (t.raw (epCtl e)) 30 = true ∧ bitOf (t.raw (epMsk e)) 1 = true ∧
          Frame s t [epCtl e, epMsk e] [.ep e]))

/-- HALT is two-phase and idempotent (R353, R550, P5): with CHENA = 1 and room in the request queue it writes HCCHAR once
with CHENA and CHDIS and waits for the confirmation; without room it is deferred; on a channel already halting it touches
nothing, without a register access (program 5; any other halt of task context runs in the critical section, log entry
11). With CHENA = 0 the halt is confirmed at once, and what R358 says of its reason follows: a reason that ends the transfer
ends the request and releases the channel, and a NAK programs the channel again. That HALT answers nothing is the model's choice,
log entry 44. -/
def Obligations.HaltIsTwoPhaseAndIdempotent : Prop :=
  ∀ (s : State) (c : Fin 16) (r : HaltReason), s.Alone → s.Shut → s.InHostRole → c.val < s.hw.caps.nCh →
    ((s.chan c).haltStatus ≠ .noHalt →
      ∃ t, exec (.halt c r) s = .next t ∧ t.result = .unit ∧ t.trace = .ret .unit :: s.trace ∧ Frame s t [] []) ∧
    ((s.chan c).haltStatus = .noHalt → bitOf (s.raw (.HCCHAR c)) 31 = true → s.queueRoom c ≠ 0 →
      ∃ t l, exec (.halt c r) s = .next t ∧ t.result = .unit ∧
        t.chan c = { s.chan c with haltDeferred := none, haltStatus := .haltPending, haltReason := some r } ∧
        t.trace = l ++ s.trace ∧ (l.filter fun v => match v with
          | .wr a _ => decide (a = Reg.offset (.HCCHAR c))
          | _ => false).length = 1 ∧
        bitOf (t.raw (.HCCHAR c)) 31 = true ∧ bitOf (t.raw (.HCCHAR c)) 30 = true ∧
        bitOf (t.raw (.HCINTMSK c)) 1 = true ∧ Frame s t [.HCCHAR c, .HCINTMSK c] [.ch c, .fifo]) ∧
    ((s.chan c).haltStatus = .noHalt → bitOf (s.raw (.HCCHAR c)) 31 = true → s.queueRoom c = 0 →
      ∃ t, exec (.halt c r) s = .next t ∧ t.result = .unit ∧ t.chan c = { s.chan c with haltDeferred := some r } ∧
        bitOf (t.raw .GINTMSK) (if typePeriodic (s.chan c).params.epType then 26 else 5) = true ∧
        Frame s t [.GINTMSK] [.ch c]) ∧
    (∀ (h : Nat) (q : Req), (s.chan c).haltStatus = .noHalt → bitOf (s.raw (.HCCHAR c)) 31 = false →
      (s.chan c).x.active = some (.pool h) → (s.chan c).x.queue = [] → s.pool[h]? = some (some q) →
      (∀ st, (r, st) ∈ [(HaltReason.stall, Status.stalled), (.ahbErr, .ahbError), (.babble, .babble),
          (.descErr, .descriptorError), (.cancelled, .cancelled)] → s.reservedLow →
        ∃ t l, exec (.halt c r) s = .next t ∧ t.result = .unit ∧ t.pool = s.pool.set h none ∧
          (t.chan c).allocated = false ∧ (t.chan c).haltStatus = .halted r ∧ (t.chan c).haltReason = some r ∧
          (t.chan c).x.active = none ∧ t.trace = l ++ s.trace ∧ .cb (.transferComplete q.cb q.ctx st q.done) ∈ l ∧
          t.raw (.HCINT c) = 0 ∧ t.raw (.HCINTMSK c) = 0 ∧ t.raw .HAINTMSK = s.raw .HAINTMSK &&& ~~~(bit1 c.val) ∧
          Frame s t [.HCINT c, .HCINTMSK c, .HAINTMSK] [.ch c, .pool]) ∧
      (r = .nak → s.reservedLow → s.hw.caps.fits → s.core.dmaMode = .bufferDma → (s.chan c).params.wf = true →
        let k := { s.chan c with haltStatus := .noHalt, haltReason := none, haltDeferred := none }
        let len := s.channelChunk k q
        ∃ t, exec (.halt c r) s = .next t ∧ t.result = .unit ∧ s.Programmed t c k q len ∧
          t.chan c = { k with requests := 1, x := { k.x with chunkLen := len, chunkDone := 0 } } ∧
          Frame s t [.HCINT c, .HCINTMSK c, .HAINTMSK, .HCSPLT c, .HCTSIZ c, .HCDMA c, .HCCHAR c] [.ch c, .fifo]))

/-! The isochronous scheduler. -/

/-- ISO_START on an endpoint (R432, R434, R436): the descriptors of both buffers are written, slot by slot with the frame
numbers that follow the current frame, the first chain is armed, and the record runs; its packet records hold nothing yet
(the model's choice, log entry 6). Between EPDIS and EPDISBLD the arming waits (R550, log entry 39). The arrays lie outside those
that DMA is walking (R117). -/
def Obligations.IsoStartBuildsBothChains : Prop :=
  ∀ (s : State) (e : EpRef) (b0 b1 : Word) (len per : BitVec 16) (cb : CbId) (d0 d1 : Word), s.Alone → s.Shut →
    s.reservedLow → s.InDeviceRole → s.hw.caps.fits → s.isDesc = true → b0.toNat % 4 = 0 → b1.toNat % 4 = 0 → 1 ≤ per.toNat →
    per.toNat ≤ s.hw.maxDesc → per.toNat < 2 ^ s.hw.caps.pw → e.num.val < s.hw.caps.nEp →
    s.isoCheckEp e len.toNat = .ok → s.descArray (.ep e) false = some d0 → s.descArray (.ep e) true = some d1 →
    (∀ i < 8 * per.toNat, ∀ j < 8 * per.toNat, d0 + BitVec.ofNat 32 i ≠ d1 + BitVec.ofNat 32 j) →
    (∀ k < 8 * per.toNat, s.Spared (d0 + BitVec.ofNat 32 k) ∧ s.Spared (d1 + BitVec.ofNat 32 k)) →
    let iv := (s.ep e).interval
    let frame := field (s.raw .DSTS) 8 14
    ∃ t, exec (.isoStart (.ep e) b0 b1 len per cb) s = .next t ∧ t.result = .status .ok ∧
      t.iso = isoRecord (.ep e) b0 b1 d0 d1 len.toNat per.toNat cb
        (BitVec.ofNat 14 (frame + (2 * per.toNat + 1) * iv)) :: s.iso ∧
      (t.ep e).state = .active ∧
      ((s.ep e).disabling = false → t.raw (epDma e) = d0 ∧ bitOf (t.raw (epCtl e)) 31 = true ∧
        (e.dir = .OUT → field (t.raw (epSiz e)) 19 10 = per.toNat)) ∧
      ((s.ep e).disabling = true → (t.ep e).rearm = true ∧ ∀ r ∈ [epSiz e, epDma e, epCtl e], t.raw r = s.raw r) ∧
      (∀ b : Bool, t.IsoChain (decide (e.dir = .IN)) (s.ep e).mps iv (frame + ((if b then per.toNat else 0) + 1) * iv)
        (if b then d1 else d0) (if b then b1 else b0) len.toNat per.toNat) ∧
      (∀ a, (∀ k < 8 * per.toNat, a ≠ d0 + BitVec.ofNat 32 k ∧ a ≠ d1 + BitVec.ofNat 32 k) → t.byte a = s.byte a) ∧
      Frame s t [epSiz e, epDma e, epCtl e] [.ep e, .iso, .mem]

/-- ISO_STOP (R442): the record is dropped without a callback and the owner goes the way of a cancelled one: an endpoint
the hardware runs is disabled, or waits for the disable that was asked for already (R550, log entry 39), a channel is halted;
an owner that has no record is BadHandle. That NAKSTS follows SNAK at once is the model's choice, log entry 10. -/
def Obligations.IsoStopDropsTheRecord : Prop :=
  ∀ (s : State) (x : XRef), s.Alone → s.Shut → s.ctx = .task → s.core.functional = true →
    (s.scheduled x = false → ∃ t, exec (.isoStop x) s = .next t ∧ t.result = .status .badHandle ∧ Frame s t [] []) ∧
    (s.scheduled x = true →
      (∀ e : EpRef, x = .ep e → s.hostMode = false → e.num.val < s.hw.caps.nEp →
        (s.ep e).state ≠ .haltedPendingDisable → bitOf (s.raw (epCtl e)) 31 = true →
        ∃ t, exec (.isoStop x) s = .next t ∧ t.result = .status .ok ∧
          t.iso = s.iso.filter (fun r => decide (r.owner ≠ x)) ∧
          t.ep e = { s.ep e with
            state := .haltedPendingDisable
            pendingStatus := .cancelled
            pendingAll := true
            disabling := true
            rearm := false } ∧
          ((s.ep e).disabling = true → Frame s t [] [.ep e, .iso]) ∧
          ((s.ep e).disabling = false →
            bitOf (t.raw (epCtl e)) 30 = true ∧ bitOf (t.raw (epCtl e)) 17 = true ∧ bitOf (t.raw (epMsk e)) 1 = true ∧
            Frame s t [epCtl e, epMsk e] [.ep e, .iso])) ∧
      (∀ c : Fin 16, x = .ch c → s.hostMode = true → c.val < s.hw.caps.nCh → (s.chan c).haltStatus = .noHalt →
        bitOf (s.raw (.HCCHAR c)) 31 = true → s.queueRoom c ≠ 0 →
        ∃ t, exec (.isoStop x) s = .next t ∧ t.result = .status .ok ∧
          t.iso = s.iso.filter (fun r => decide (r.owner ≠ x)) ∧ (t.chan c).haltStatus = .haltPending ∧
          (t.chan c).haltReason = some .cancelled ∧ bitOf (t.raw (.HCCHAR c)) 30 = true ∧
          Frame s t [.HCCHAR c, .HCINTMSK c] [.ch c, .iso, .fifo]))

/-- ISOOUTDROP (R440, R435): an isochronous OUT endpoint whose chain LINK has stopped goes on with the other buffer; the
slots that PKTCNT still counts are recorded as dropped, the finished chain is filled again with the frames that follow, and
UPPER gets the finished buffer. Where every endpoint still runs only the event is cleared. Between EPDIS and EPDISBLD the arming
waits (R550, log entry 39). The chain lies outside the arrays that DMA is walking (R117). -/
def Obligations.IsoOutDropGoesOnWithTheOtherBuffer : Prop :=
  ∀ s : State, s.Alone → s.reservedLow → s.InDeviceRole → s.hw.caps.fits →
    ((∀ n : Fin 16, n ≠ 0 → n.val < s.hw.caps.nEp → s.scheduled (.ep ⟨n, .OUT⟩) = true →
        bitOf (s.raw (.DOEPCTL n)) 31 = true) →
      ∃ t, exec .topIsooutdrop s = .next t ∧ t.raw .GINTSTS = s.raw .GINTSTS &&& ~~~(bit1 14) ∧
        Frame s t [.GINTSTS] []) ∧
    (∀ (n : Fin 16) (r : IsoRec), n ≠ 0 → n.val < s.hw.caps.nEp → s.isoOf (.ep ⟨n, .OUT⟩) = some r →
      bitOf (s.raw (.DOEPCTL n)) 31 = false → r.pktPerBuf < 2 ^ s.hw.caps.pw →
      (∀ m : Fin 16, m ≠ n → s.scheduled (.ep ⟨m, .OUT⟩) = false) →
      (∀ k < 8 * r.pktPerBuf, s.Spared (r.chain r.procBuf + BitVec.ofNat 32 k)) →
      let rem := min (field (s.raw (.DOEPTSIZ n)) 19 10) r.pktPerBuf
      ∃ t r', exec .topIsooutdrop s = .next t ∧ t.isoOf (.ep ⟨n, .OUT⟩) = some r' ∧ r'.procBuf = !r.procBuf ∧
        (r'.info r.procBuf).length = r.pktPerBuf ∧ r'.info (!r.procBuf) = r.info (!r.procBuf) ∧
        (∀ j, r.pktPerBuf - rem ≤ j → j < r.pktPerBuf →
          (r'.info r.procBuf)[j]? = some ⟨.packetDropped, 0, j * r.pktLen⟩) ∧
        (∀ j, j < r.pktPerBuf - rem → (r'.info r.procBuf)[j]? =
          some (slotInfo false r.pktLen r.pktPerBuf rem j (s.word (r.chain r.procBuf + BitVec.ofNat 32 (8 * j))))) ∧
        r'.nextFrame = r.nextFrame + BitVec.ofNat 14 (r.pktPerBuf * (s.ep ⟨n, .OUT⟩).interval) ∧
        t.IsoChain false (s.ep ⟨n, .OUT⟩).mps (s.ep ⟨n, .OUT⟩).interval r.nextFrame.toNat (r.chain r.procBuf)
          (r.buf r.procBuf) r.pktLen r.pktPerBuf ∧
        t.trace.head? = some (.cb (.isoBufferReady r.cb r.procBuf)) ∧
        ((s.ep ⟨n, .OUT⟩).disabling = false → t.ep ⟨n, .OUT⟩ = s.ep ⟨n, .OUT⟩ ∧ t.raw (.DOEPDMA n) = r.chain (!r.procBuf) ∧
          bitOf (t.raw (.DOEPCTL n)) 31 = true ∧ field (t.raw (.DOEPTSIZ n)) 19 10 = r.pktPerBuf) ∧
        ((s.ep ⟨n, .OUT⟩).disabling = true → t.ep ⟨n, .OUT⟩ = { s.ep ⟨n, .OUT⟩ with rearm := true } ∧
          ∀ k ∈ [Reg.DOEPTSIZ n, .DOEPDMA n, .DOEPCTL n], t.raw k = s.raw k) ∧
        t.raw (.DOEPINT n) = s.raw (.DOEPINT n) &&& ~~~0x201#32 ∧
        t.raw .GINTSTS = s.raw .GINTSTS &&& ~~~(bit1 14) ∧
        (∀ a, (∀ k < 8 * r.pktPerBuf, a ≠ r.chain r.procBuf + BitVec.ofNat 32 k) → t.byte a = s.byte a) ∧
        Frame s t [.GINTSTS, .DOEPINT n, .DOEPTSIZ n, .DOEPDMA n, .DOEPCTL n] [.iso, .mem, .ep ⟨n, .OUT⟩])

/-- The double buffer of an isochronous endpoint (R435, R439, P6): XFERCOMPL or BNA hands the buffer whose chain has
finished to UPPER with the status of each slot, arms the chain of the other buffer, and fills the finished chain again, slot by
slot, with the frames that follow (R434); `proc_buf_num` changes sides once. Between EPDIS and EPDISBLD the arming waits
(R550, log entry 39). The chain lies outside the arrays that DMA is walking (R117). -/
def Obligations.FinishedChainSwapsTheBuffers : Prop :=
  ∀ (s : State) (e : EpRef) (r : IsoRec), s.Alone → s.reservedLow → s.InDeviceRole → s.hw.caps.fits → e.num ≠ 0 →
    e.num.val < s.hw.caps.nEp → s.isoOf (.ep e) = some r → r.pktPerBuf < 2 ^ s.hw.caps.pw →
    (∀ k < 8 * r.pktPerBuf, s.Spared (r.chain r.procBuf + BitVec.ofNat 32 k)) →
    ∀ p ∈ (match e.dir with
        | .IN => [(Instr.inXfercompl e.num, 0), (.inBna e.num, 9)]
        | .OUT => [(.outXfercompl e.num, 0), (.outBna e.num, 9)]),
      ∃ t r', exec p.1 s = .next t ∧ t.isoOf (.ep e) = some r' ∧ r'.procBuf = !r.procBuf ∧
        (r'.info r.procBuf).length = r.pktPerBuf ∧ r'.info (!r.procBuf) = r.info (!r.procBuf) ∧
        (∀ j, j < r.pktPerBuf → (r'.info r.procBuf)[j]? = some (slotInfo (decide (e.dir = .IN)) r.pktLen r.pktPerBuf 0 j
          (s.word (r.chain r.procBuf + BitVec.ofNat 32 (8 * j))))) ∧
        r'.nextFrame = r.nextFrame + BitVec.ofNat 14 (r.pktPerBuf * (s.ep e).interval) ∧
        t.IsoChain (decide (e.dir = .IN)) (s.ep e).mps (s.ep e).interval r.nextFrame.toNat (r.chain r.procBuf)
          (r.buf r.procBuf) r.pktLen r.pktPerBuf ∧
        t.trace.head? = some (.cb (.isoBufferReady r.cb r.procBuf)) ∧
        ((s.ep e).disabling = false → t.ep e = s.ep e ∧ t.raw (epDma e) = r.chain (!r.procBuf) ∧
          bitOf (t.raw (epCtl e)) 31 = true ∧ (e.dir = .OUT → field (t.raw (epSiz e)) 19 10 = r.pktPerBuf)) ∧
        ((s.ep e).disabling = true → t.ep e = { s.ep e with rearm := true } ∧
          ∀ k ∈ [epSiz e, epDma e, epCtl e], t.raw k = s.raw k) ∧
        t.raw (epInt e) = s.raw (epInt e) &&& ~~~(bit1 p.2) ∧
        (∀ a, (∀ k < 8 * r.pktPerBuf, a ≠ r.chain r.procBuf + BitVec.ofNat 32 k) → t.byte a = s.byte a) ∧
        Frame s t [epInt e, epSiz e, epDma e, epCtl e] [.iso, .mem, .ep e]

/-! The interrupt handler and the top-level events. -/

/-- Taking the interrupt and returning from it (R471, R472, R473): the handler is entered, reads the two registers and handles
the first pending event of the order, whichever it is; where that leaves nothing pending, or leaves the core non-functional
(R218; the model's reading, log entry 38, since R472 names only the first end), it returns to task context with the machine as
the event has left it; nothing is saved or restored. For USBSUSP (R480) every access of such a run is told. Run while nothing
is pending the handler returns at once. -/
def Obligations.HandlerServesOneEventAndReturns : Prop :=
  ∀ s : State, s.Alone →
    (∀ (k : Fin 32) (u : State), s.ctx = .task → s.recordsExist = true → s.core.functional = true →
      firstEvent topOrder (s.gintsts &&& s.raw .GINTMSK &&& 0xFFFFFFFE) = some k →
      exec (topEvent k) ((s.enterHandler.note (.rd 0x014 s.gintsts)).note (.rd 0x018 (s.raw .GINTMSK))) = .next u →
      u.patience = s.patience → u.env = [] → u.prompt = false → u.unsettled = false →
      (u.gintsts &&& u.raw .GINTMSK &&& 0xFFFFFFFE = 0 ∨ u.core.functional = false) →
      bitOf (s.raw .GAHBCFG) 0 = true → ∃ t, exec .isr s = .next t ∧ t.ctx = .task ∧ Frame u t [] [.context]) ∧
    (s.ctx = .task → s.recordsExist = true → s.core.functional = true → s.hostMode = false → bitOf (s.raw .GAHBCFG) 0 = true →
      s.gintsts &&& s.raw .GINTMSK &&& 0xFFFFFFFE = bit1 11 →
      ∃ t, exec .isr s = .next t ∧ t.ctx = .task ∧ t.raw .GINTSTS = s.raw .GINTSTS &&& ~~~(bit1 11) ∧
        t.trace = [.isrExit, .rd 0x018 (s.raw .GINTMSK), .rd 0x014 (s.gintsts &&& ~~~(bit1 11)), .cb .suspend,
          .wr 0x014 (bit1 11), .rd 0x018 (s.raw .GINTMSK), .rd 0x014 s.gintsts, .isrEnter] ++ s.trace ∧
        Frame s t [.GINTSTS] []) ∧
    (s.ctx = .isr → s.gintsts &&& s.raw .GINTMSK &&& 0xFFFFFFFE = 0 →
      ∃ t, exec .isr s = .next t ∧ t.ctx = .task ∧ Frame s t [] [.context])

/-- The handler of a core that stays functional returns to task context only when no unmasked event is pending (R472, R218); a
run that is to be taken again has not returned (log entry 16). -/
def Obligations.HandlerLeavesNothingPending : Prop :=
  ∀ s t : State, s.env = [] → s.prompt = false → exec .isr s = .next t → t.patience = s.patience → t.ctx = .task →
    t.recordsExist = true → t.core.functional = true → t.unsettled = false →
    t.gintsts &&& t.raw .GINTMSK &&& 0xFFFFFFFE = 0

/-- USBSUSP and WKUPINT clear their event and tell UPPER (R480, R483). -/
def Obligations.SuspendAndResumeReachUpper : Prop :=
  ∀ s : State, s.Alone →
    (s.hostMode = false → ∃ t, exec .topUsbsusp s = .next t ∧ t.raw .GINTSTS = s.raw .GINTSTS &&& ~~~(bit1 11) ∧
      t.trace = .cb .suspend :: .wr 0x014 (bit1 11) :: s.trace ∧ Frame s t [.GINTSTS] []) ∧
    (∃ t, exec .topWkupint s = .next t ∧ t.raw .GINTSTS = s.raw .GINTSTS &&& ~~~(bit1 31) ∧
      t.trace = .cb .resume :: .wr 0x014 (bit1 31) :: s.trace ∧ Frame s t [.GINTSTS] [])

/-- USBRST (R481): the EP0 state machine leaves the bus, every data endpoint is disabled, address and configuration are 0,
and UPPER gets the reset. The endpoints have no request, and no abort of one is under way. -/
def Obligations.BusResetDisablesTheEndpoints : Prop :=
  ∀ s : State, s.Alone → s.InDeviceRole → 1 ≤ s.hw.caps.nEp → s.hw.caps.nEp ≤ 16 → bitOf (s.raw (.DIEPCTL 0)) 31 = false →
    (∀ e : EpRef, e.num ≠ 0 → (s.ep e).state ≠ .haltedPendingDisable ∧ (s.ep e).x.active = none ∧ (s.ep e).x.queue = []) →
    ∃ t, exec .topUsbrst s = .next t ∧ t.raw .GINTSTS = s.raw .GINTSTS &&& ~~~(bit1 12) ∧
      t.raw .DCFG = s.raw .DCFG &&& ~~~0x7F0#32 ∧
      t.ep0 = { s.ep0 with state := .disconnected, address := 0, config := 0, remoteWakeup := false } ∧
      (t.ep ⟨0, .IN⟩).x.active = none ∧ (t.ep ⟨0, .OUT⟩).x.active = none ∧
      (∀ e : EpRef, e.num ≠ 0 → e.num.val < s.hw.caps.nEp → (t.ep e).enabled = false ∧
        ((s.ep e).enabled = true → (t.ep e).state = .idle ∧ bitOf (t.raw (epCtl e)) 15 = false ∧
          bitOf (t.raw .DAINTMSK) (daintBit e) = false) ∧
        ((s.ep e).enabled = false → t.ep e = s.ep e ∧ t.raw (epCtl e) = s.raw (epCtl e))) ∧
      t.trace.head? = some (.cb .busReset) ∧ t.pool = s.pool ∧ t.core = s.core ∧ t.iso = s.iso ∧ t.ch = s.ch ∧
      t.htog = s.htog ∧
      Frame s t ([.GINTSTS, .DIEPEMPMSK, .DAINTMSK, .DCFG] ++
        (List.finRange 16).flatMap fun n => if n = 0 then [] else [.DIEPCTL n, .DOEPCTL n]) [.records]

/-- ENUMDONE (R482, R305): both directions of endpoint 0 are in use with 64-byte packets and NAK set, the EP0 state machine
is Idle, from whatever state (log entry 42), and the reception of a SETUP packet is armed: by size and address, or by one
descriptor outside the arrays that DMA is
walking (R117). That NAKSTS then reads 1 is the model's choice, log entry 10. -/
def Obligations.EnumerationArmsEndpointZero : Prop :=
  ∀ s : State, s.Alone → s.reservedLow → s.hostMode = false → 1 ≤ s.hw.caps.nEp → 4 ≤ s.hw.ep0Xw → 1 ≤ s.hw.ep0Pw →
    (s.isDesc = false →
      ∃ t, exec .topEnumdone s = .next t ∧ t.raw (.DIEPCTL 0) = ((s.raw (.DIEPCTL 0)) &&& 0xFC137800) ||| 0x00028040 ∧
        field (t.raw (.DOEPCTL 0)) 0 11 = 64 ∧ bitOf (t.raw (.DOEPCTL 0)) 15 = true ∧
        bitOf (t.raw (.DOEPCTL 0)) 17 = true ∧ bitOf (t.raw (.DOEPCTL 0)) 31 = true ∧
        field (t.raw (.DOEPTSIZ 0)) 0 19 = 8 ∧ field (t.raw (.DOEPTSIZ 0)) 19 10 = 1 ∧
        field (t.raw (.DOEPTSIZ 0)) 29 2 = 1 ∧
        t.raw (.DOEPDMA 0) = (if s.isSlave then s.raw (.DOEPDMA 0) else s.ep0.setupBuf) ∧
        t.ep0 = { s.ep0 with state := .idle } ∧ (∀ d, t.ep ⟨0, d⟩ = useEp0 (s.ep ⟨0, d⟩)) ∧
        t.raw .GINTSTS = s.raw .GINTSTS &&& ~~~(bit1 13) ∧
        Frame s t [.GINTSTS, .DIEPCTL 0, .DOEPCTL 0, .DOEPTSIZ 0, .DOEPDMA 0] [.ep0, .ep ⟨0, .IN⟩, .ep ⟨0, .OUT⟩]) ∧
    (∀ d, s.isDesc = true → (s.ep ⟨0, .OUT⟩).x.desc = none → s.descArray (.ep ⟨0, .OUT⟩) false = some d →
      s.Spared d → s.Spared (d + 4) →
      ∃ t, exec .topEnumdone s = .next t ∧ t.raw (.DOEPDMA 0) = d ∧ t.word d = 0x0A000040 ∧
        t.word (d + 4) = s.ep0.setupBuf ∧ bitOf (t.raw (.DOEPCTL 0)) 31 = true ∧ t.ep0.state = .idle ∧
        (∀ a, (∀ k < 8, a ≠ d + BitVec.ofNat 32 k) → t.byte a = s.byte a) ∧
        Frame s t [.GINTSTS, .DIEPCTL 0, .DOEPCTL 0, .DOEPTSIZ 0, .DOEPDMA 0]
          [.ep0, .ep ⟨0, .IN⟩, .ep ⟨0, .OUT⟩, .mem])

/-- The routes (R475 to R478): OTGINT, IEPINT, OEPINT and HCHINT read their status and mask registers, nothing else, and carry on
as the first pending event of the lowest endpoint or channel. They complete where that event does: a TIMEOUT of an IN endpoint,
a confirmed disable of an OUT endpoint that nobody asked for, an event of a channel that is not allocated, and an
unassigned OTG bit each end with their status bit cleared (R275, R285, R361, R487). -/
def Obligations.RoutesRunTheFirstPendingEvent : Prop :=
  (∀ s : State, s.Alone →
     (∀ k, firstEvent otgOrder (s.raw .GOTGINT) = some k →
       ∃ u, Frame s u [] [] ∧ u.patience = s.patience ∧ CarriesOn (exec .topOtgint s) (exec (otgEvent k) u) s.patience) ∧
     (s.hostMode = false → ∀ n k, lowestNum (s.daint &&& s.raw .DAINTMSK &&& 0x0000FFFF) = some n →
       n.val < s.hw.caps.nEp →
       firstEvent inOrder (s.diepint n &&& (s.raw .DIEPMSK ||| bitIf (bitOf (s.raw .DIEPEMPMSK) n.val) 7)) = some k →
       ∃ u, Frame s u [] [] ∧ u.patience = s.patience ∧ CarriesOn (exec .topIepint s) (exec (inEvent n k) u) s.patience) ∧
     (s.hostMode = false → ∀ n k, lowestNum ((s.daint &&& s.raw .DAINTMSK) >>> 16) = some n → n.val < s.hw.caps.nEp →
       firstEvent outOrder (s.raw (.DOEPINT n) &&& s.raw .DOEPMSK) = some k →
       ∃ u, Frame s u [] [] ∧ u.patience = s.patience ∧ CarriesOn (exec .topOepint s) (exec (outEvent n k) u) s.patience) ∧
     (s.hostMode = true → ∀ c k, lowestNum (s.haint &&& s.raw .HAINTMSK) = some c → c.val < s.hw.caps.nCh →
       firstEvent chOrder (s.raw (.HCINT c) &&& s.raw (.HCINTMSK c)) = some k →
       ∃ u, Frame s u [] [] ∧ u.patience = s.patience ∧ CarriesOn (exec .topHchint s) (exec (chEvent c k) u) s.patience)) ∧
  (∀ s : State, s.Alone →
     (s.raw .GOTGINT = bit1 8 → ∃ t, exec .topOtgint s = .next t ∧ t.raw .GOTGINT = 0 ∧ Frame s t [.GOTGINT] []) ∧
     (∀ n : Fin 16, s.hostMode = false → n.val < s.hw.caps.nEp →
       s.daint &&& s.raw .DAINTMSK = bit1 n.val →
       s.diepint n &&& (s.raw .DIEPMSK ||| bitIf (bitOf (s.raw .DIEPEMPMSK) n.val) 7) = bit1 3 →
       ∃ t, exec .topIepint s = .next t ∧ t.raw (.DIEPINT n) = s.raw (.DIEPINT n) &&& ~~~(bit1 3) ∧
         Frame s t [.DIEPINT n] []) ∧
     (∀ n : Fin 16, s.hostMode = false → n.val < s.hw.caps.nEp →
       s.daint &&& s.raw .DAINTMSK = bit1 (16 + n.val) → s.raw (.DOEPINT n) &&& s.raw .DOEPMSK = bit1 1 →
       (s.ep ⟨n, .OUT⟩).state ≠ .haltedPendingDisable → (s.ep ⟨n, .OUT⟩).disabling = false → (s.ep ⟨n, .OUT⟩).rearm = false →
       (s.ep ⟨n, .OUT⟩).waits = false → (s.ep ⟨n, .OUT⟩).enabling = none →
       ∃ t, exec .topOepint s = .next t ∧ t.raw (.DOEPINT n) = s.raw (.DOEPINT n) &&& ~~~(bit1 1) ∧
         Frame s t [.DOEPINT n] []) ∧
     (∀ c : Fin 16, s.hostMode = true → c.val < s.hw.caps.nCh → s.haint &&& s.raw .HAINTMSK = bit1 c.val →
       s.raw (.HCINT c) &&& s.raw (.HCINTMSK c) = bit1 4 → (s.chan c).allocated = false →
       ∃ t, exec .topHchint s = .next t ∧ t.raw (.HCINT c) = s.raw (.HCINT c) &&& ~~~(bit1 4) ∧
         Frame s t [.HCINT c] []))

/-- RXFLVL in slave mode, where DMAEN is 0 too (R265): the status entry is popped and handled as its row says; popping the completion entry of an
OUT transfer lets LINK set XFERCOMPL. -/
def Obligations.ReceiveEventPopsAndHandlesOneEntry : Prop :=
  ∀ (s : State) (v : Word) (l : List Word), s.Alone → s.isSlave = true → s.slaveHw = true → s.fifo.rxStatus = v :: l →
    (∀ i, (if s.hostMode then decodeRxHost v else decodeRxDevice v) = some i →
      CarriesOn (exec .topRxflvl s) (exec i (State.note { s with fifo := { s.fifo with rxStatus := l } } (.rd 0x020 v)))
        s.patience) ∧
    ((if s.hostMode then decodeRxHost v else decodeRxDevice v) = none →
      ∃ t, exec .topRxflvl s = .next t ∧ t.fifo = { s.fifo with rxStatus := l } ∧ Frame s t [] [.fifo]) ∧
    (∀ e, s.hostMode = false → decodeRxDevice v = some (.rxsOutComplete e) → e.num.val < s.hw.caps.nEp →
      ∃ t, exec .topRxflvl s = .next t ∧ t.fifo = { s.fifo with rxStatus := l } ∧
        t.raw (.DOEPINT e.num) = s.raw (.DOEPINT e.num) ||| 0x1 ∧ Frame s t [.DOEPINT e.num] [.fifo])

/-- The Rx status entries (R265, R31): a data entry moves BCNT bytes from the FIFO to the end of what the request has, or
drops them where no data is wanted; the SETUP entry fills `ep0.setup`; a completion entry, once popped, has LINK set its
status bits. -/
def Obligations.ReceiveEntriesMoveTheData : Prop :=
  ∀ (s : State) (e : RxEntry), s.Alone →
    (∀ (x : XRef) (i : Instr), (i, x) ∈ [(Instr.rxsOutData e, XRef.ep ⟨e.num, .OUT⟩), (.rxsInData e, .ch e.num)] →
      ∀ ws rest, s.fifo.rxData = ws ++ rest → ws.length = (e.bcnt.toNat + 3) / 4 →
      (s.takesData x = false →
        ∃ t, exec i s = .next t ∧ t.fifo = { s.fifo with rxData := rest } ∧ Frame s t [] [.fifo]) ∧
      (∀ h q, s.takesData x = true → (s.xfer x).active = some (.pool h) → s.pool[h]? = some (some q) →
        let data := unpackWords ws e.bcnt.toNat
        let a := q.buf + BitVec.ofNat 32 q.done
        ∃ t, exec i s = .next t ∧ t.fifo = { s.fifo with rxData := rest } ∧ data.length = e.bcnt.toNat ∧
          t.bytes a e.bcnt.toNat = data ∧ t.pool = s.pool.set h (some { q with done := q.done + e.bcnt.toNat }) ∧
          (∀ b, (∀ k < e.bcnt.toNat, b ≠ a + BitVec.ofNat 32 k) → t.byte b = s.byte b) ∧
          (x = .ch e.num → t.chan e.num =
            { s.chan e.num with x := { (s.chan e.num).x with chunkDone := (s.chan e.num).x.chunkDone + e.bcnt.toNat } }) ∧
          Frame s t [] ([.fifo, .mem, .pool] ++ (match x with | .ep _ => [] | .ch c => [.ch c])))) ∧
    (∀ w0 w1 rest, s.fifo.rxData = w0 :: w1 :: rest →
      ∃ t, exec (.rxsSetupData e) s = .next t ∧ t.fifo = { s.fifo with rxData := rest } ∧
        t.ep0 = { s.ep0 with setup := setupOfBytes (wordBytes w0 ++ wordBytes w1) } ∧ Frame s t [] [.fifo, .ep0]) ∧
    (∀ p ∈ [(Instr.rxsOutComplete e, Reg.DOEPINT e.num, 0x1#32), (.rxsSetupComplete e, .DOEPINT e.num, 0x8#32),
        (.rxsInComplete e, .HCINT e.num, 0x3#32), (.rxsChannelHalted e, .HCINT e.num, 0x2#32)],
      p.2.1.inRange s.hw.caps = true →
      ∃ t, exec p.1 s = .next t ∧ t.raw p.2.1 = s.raw p.2.1 ||| p.2.2 ∧ Frame s t [p.2.1] [])

/-- NPTXFEMP and PTXFEMP in host slave mode (R264): without a channel to serve the event is masked; an IN channel that is
next in the round robin (as log entry 17 reads it) is requested again while its request queue has room. -/
def Obligations.FifoEmptyEventsServeTheNextChannel : Prop :=
  ∀ (s : State) (periodic : Bool), s.Alone → s.InHostRole → s.isSlave = true →
    let i := if periodic then Instr.topPtxfemp else .topNptxfemp
    (s.serviceList periodic = [] →
      ∃ t, exec i s = .next t ∧ t.raw .GINTMSK = s.raw .GINTMSK &&& ~~~(bit1 (if periodic then 26 else 5)) ∧
        Frame s t [.GINTMSK] []) ∧
    (∀ c, nextServed (s.lastServed periodic) (s.serviceList periodic) = some c → (s.chan c).haltDeferred = none →
      (s.chan c).params.epDir = .IN → s.queueRoom c ≠ 0 →
      ∃ t, exec i s = .next t ∧ t.chan c = { s.chan c with requests := (s.chan c).requests + 1 } ∧
        bitOf (t.raw (.HCCHAR c)) 31 = true ∧ t.lastServed periodic = some c ∧
        t.lastServed (!periodic) = s.lastServed (!periodic) ∧ Frame s t [.HCCHAR c] [.ch c, .served, .fifo])

/-- A bit of a status register that has no handler (R487): it is cleared, and where it does not clear, as a level bit does
not, its mask bit is cleared instead; nothing else changes. A DOEPINT[n].SETUP of an endpoint other than 0 is such a bit
(DEDUCED, log entry 14), and so are NPTXFEMP and PTXFEMP outside host slave mode (DEDUCED, log entry 30: R487 says it of the
device mode only). -/
def Obligations.UnhandledBitsAreClearedOrMasked : Prop :=
  ∀ s : State, s.Alone →
    (∀ k, (Instr.topUnassigned k).wf = true →
      ∃ t, exec (.topUnassigned k) s = .next t ∧ t.raw .GINTSTS = s.raw .GINTSTS &&& ~~~(bit1 k.val) ∧
        Frame s t [.GINTSTS] []) ∧
    (∀ k, ∃ t, exec (.otgUnassigned k) s = .next t ∧ t.raw .GOTGINT = s.raw .GOTGINT &&& ~~~(bit1 k.val) ∧
      Frame s t [.GOTGINT] []) ∧
    (∃ t, exec .otgSesreqsucstschng s = .next t ∧ t.raw .GOTGINT = s.raw .GOTGINT &&& ~~~(bit1 8) ∧
      Frame s t [.GOTGINT] []) ∧
    (∀ n k, s.hostMode = false → n.val < s.hw.caps.nEp → (Instr.inUnassigned n k).wf = true →
      ∃ t, exec (.inUnassigned n k) s = .next t ∧ t.raw (.DIEPINT n) = s.raw (.DIEPINT n) &&& ~~~(bit1 k.val) ∧
        Frame s t [.DIEPINT n] []) ∧
    (∀ n k i, s.hostMode = false → n.val < s.hw.caps.nEp → (i = .outUnassigned n k ∨ (i = .outSetup n ∧ n ≠ 0 ∧ k = 3)) →
      ∃ t, exec i s = .next t ∧ t.raw (.DOEPINT n) = s.raw (.DOEPINT n) &&& ~~~(bit1 k.val) ∧
        Frame s t [.DOEPINT n] []) ∧
    (∀ c k, s.hostMode = true → c.val < s.hw.caps.nCh →
      ∃ t, exec (.chUnassigned c k) s = .next t ∧ t.raw (.HCINT c) = s.raw (.HCINT c) &&& ~~~(bit1 k.val) ∧
        Frame s t [.HCINT c] []) ∧
    (∀ p ∈ [(Instr.topNptxfemp, 5), (.topPtxfemp, 26)], s.hostSlave = false →
      ∃ t, exec p.1 s = .next t ∧ Frame s t [.GINTMSK] [] ∧
        t.raw .GINTMSK = (if bitOf s.gintsts p.2 then s.raw .GINTMSK &&& ~~~(bit1 p.2) else s.raw .GINTMSK))

/-! OTG session and role negotiation. -/

/-- The end of a session (SESENDDET, R404) and a disconnect (DISCONNINT, R407): a peripheral stops its device engine, if it
runs, and UPPER gets the disconnect; A_HOST passes a disconnect on; in the other roles the event is only cleared. The device
engine that stops has no request under way (R412). HSTNEGSUCSTSCHNG (R405, R406): a failed negotiation sets HNPREQ and
DEVHNPEN and logs the unresponsive peer; a success outside B_PERIPHERAL, or one after the mode has changed already, only
clears the event. The role switches: in B_HOST a session end and a disconnect stop the host engine and start the device engine
in B_PERIPHERAL (R404, R407, R411, R410); a successful negotiation in B_PERIPHERAL stops the device engine and starts the host
engine in B_HOST (R405, R412, R410). LINK changes the mode when the new engine waits for it; where it never does the run ends
in the fatal mode wait (R410, R458). The engine that stops has no channel and no endpoint in use. A peripheral whose engine is
stopped already gets the disconnect alone (DEDUCED from vector V44-1, log entry 32), the fields of the fresh endpoints and
channels that R81 does not name are the model's choice, log entry 6, and a fresh endpoint still waits for the EPDISBLD of an earlier
disable (the model's reading of R550, log entry 39). -/
def Obligations.SessionAndNegotiationEvents : Prop :=
  (∀ s : State, s.Alone →
     (s.peripheral = true → s.core.deviceEngine = false →
       ∃ t, exec .otgSesenddet s = .next t ∧ t.raw .GOTGINT = s.raw .GOTGINT &&& ~~~(bit1 2) ∧
         t.trace = .cb .disconnect :: .wr 0x004 (bit1 2) :: s.trace ∧ Frame s t [.GOTGINT] []) ∧
     (s.peripheral = true → s.core.deviceEngine = true → s.hostMode = false → 1 ≤ s.hw.caps.nEp →
       bitOf (s.raw (.DIEPCTL 0)) 31 = false →
       (∀ e : EpRef, e.num ≠ 0 → (s.ep e).enabled = false ∧ (s.ep e).x.active = none ∧ (s.ep e).x.queue = []) →
       ∃ t, exec .otgSesenddet s = .next t ∧ t.core = { s.core with deviceEngine := false } ∧
         t.trace.head? = some (.cb .disconnect) ∧ .cb .deviceRoleStop ∈ t.trace.take 2 ∧ t.iso = [] ∧
         t.ep0 = { s.ep0 with state := .disconnected, address := 0, config := 0 } ∧ t.raw .DAINTMSK = 0 ∧
         t.raw .DIEPEMPMSK &&& 0xFFFF = 0 ∧ t.raw .DCFG = s.raw .DCFG &&& ~~~0x7F0#32 ∧
         t.raw .GINTMSK = s.raw .GINTMSK &&& ~~~0x000C7810#32 ∧ t.raw .GOTGINT = s.raw .GOTGINT &&& ~~~(bit1 2) ∧
         Frame s t [.GOTGINT, .GINTMSK, .DAINTMSK, .DIEPEMPMSK, .DCFG]
           [.core, .ep0, .iso, .ep ⟨0, .IN⟩, .ep ⟨0, .OUT⟩]) ∧
     ((s.core.opState = .aHost ∨ s.core.opState = .aSuspend) →
       ∃ t, exec .otgSesenddet s = .next t ∧ t.raw .GOTGINT = s.raw .GOTGINT &&& ~~~(bit1 2) ∧ Frame s t [.GOTGINT] []) ∧
     (s.core.opState = .aHost →
       ∃ t, exec .topDisconnint s = .next t ∧ t.raw .GINTSTS = s.raw .GINTSTS &&& ~~~(bit1 29) ∧
         t.trace = .cb .disconnect :: .wr 0x014 (bit1 29) :: s.trace ∧ Frame s t [.GINTSTS] []) ∧
     (s.core.opState ≠ .aHost → s.core.opState ≠ .bHost →
       ∃ t, exec .topDisconnint s = .next t ∧ t.raw .GINTSTS = s.raw .GINTSTS &&& ~~~(bit1 29) ∧
         Frame s t [.GINTSTS] [])) ∧
  (∀ s : State, s.Alone →
     (bitOf (s.raw .GOTGCTL) 8 = false →
       ∃ t, exec .otgHstnegsucstschng s = .next t ∧ t.raw .GOTGINT = s.raw .GOTGINT &&& ~~~(bit1 9) ∧
         t.raw .GOTGCTL = s.raw .GOTGCTL ||| 0x00000A00 ∧ t.trace.head? = some (.log .hnpPeerUnresponsive) ∧
         Frame s t [.GOTGINT, .GOTGCTL] []) ∧
     (bitOf (s.raw .GOTGCTL) 8 = true → (s.hostMode = true ∨ s.core.opState ≠ .bPeripheral) →
       ∃ t, exec .otgHstnegsucstschng s = .next t ∧ t.raw .GOTGINT = s.raw .GOTGINT &&& ~~~(bit1 9) ∧
         Frame s t [.GOTGINT] [])) ∧
  (∀ (s : State) (i : Instr) (r : Reg) (k : Nat),
     (i, r, k) ∈ [(Instr.otgSesenddet, Reg.GOTGINT, 2), (.topDisconnint, .GINTSTS, 29)] → s.core.opState = .bHost →
     s.core.hostEngine = true → s.core.deviceEngine = false → s.hostMode = true → (∀ c, (s.chan c).allocated = false) →
     s.replies = [] → s.unsettled = false →
     (s.env = [] → s.prompt = false → exec i s = .fault .modeWait) ∧
     (s.env = [[], [], [], [], [.curmod false]] → s.prompt = true → State.tick { s with env := [] } = { s with env := [] } →
       s.hw.caps.fits → s.core.caps = s.hw.caps → 1 ≤ s.hw.flushPollLimit → 1 ≤ s.hw.modeWaitLimit →
       ∃ t l, exec i s = .next t ∧ t.core.opState = .bPeripheral ∧ t.core.hostEngine = false ∧
         t.core.deviceEngine = true ∧ t.core.functional = s.core.functional ∧ t.hostMode = false ∧
         t.trace = l ++ s.trace ∧ .cb .hostRoleStop ∈ l ∧ l.head? = some (.cb .deviceRoleStart) ∧
         (∀ e, t.ep e = { blankEp with disabling := (s.ep e).disabling }) ∧ t.ep0.state = .disconnected ∧ t.iso = [] ∧ t.pool = s.pool ∧ t.ctx = s.ctx ∧
         bitOf (t.raw r) k = false ∧ t.raw .HAINTMSK &&& 0xFFFF = 0 ∧ t.raw .DAINTMSK = 0x00010001 ∧
         t.raw .GINTMSK = ((s.raw .GINTMSK &&& ~~~0x06000030#32) ||| 0x000C7800 ||| bitIf s.isSlave 4) ∧
         t.raw .GAHBCFG = s.raw .GAHBCFG ∧ (∀ a, t.byte a = s.byte a))) ∧
  (∀ s : State, s.core.opState = .bPeripheral → s.core.deviceEngine = true → s.core.hostEngine = false →
     s.hostMode = false → bitOf (s.raw .GOTGCTL) 8 = true → s.core.caps = s.hw.caps → s.hw.caps.fits →
     bitOf (s.raw (.DIEPCTL 0)) 31 = false →
     (∀ e : EpRef, e.num ≠ 0 → (s.ep e).enabled = false ∧ (s.ep e).x.active = none ∧ (s.ep e).x.queue = []) →
     s.replies = [] → s.unsettled = false →
     (s.env = [] → s.prompt = false → exec .otgHstnegsucstschng s = .fault .modeWait) ∧
     (s.env = List.replicate (if s.isSlave then 12 else 10) [] ++ [[.curmod true]] → s.prompt = true →
       State.tick { s with env := [] } = { s with env := [] } → 1 ≤ s.hw.flushPollLimit → 1 ≤ s.hw.modeWaitLimit →
       ∃ t l, exec .otgHstnegsucstschng s = .next t ∧ t.core.opState = .bHost ∧ t.core.hostEngine = true ∧
         t.core.deviceEngine = false ∧ t.core.functional = s.core.functional ∧ t.hostMode = true ∧
         t.trace = l ++ s.trace ∧ .cb .deviceRoleStop ∈ l ∧ l.head? = some (.cb .hostRoleStart) ∧
         (∀ c, t.chan c = blankCh) ∧ t.htog = [] ∧ t.iso = [] ∧ t.pool = s.pool ∧ t.ctx = s.ctx ∧
         t.ep0 = { s.ep0 with state := .disconnected, address := 0, config := 0 } ∧ bitOf (t.raw .GOTGINT) 9 = false ∧
         t.raw .DAINTMSK = 0 ∧ t.raw .DCFG = s.raw .DCFG &&& ~~~0x7F0#32 ∧ t.raw .HAINTMSK &&& 0xFFFF = 0 ∧
         t.raw .GINTMSK = ((s.raw .GINTMSK &&& ~~~0x000C7810#32) ||| bit1 25 ||| bitIf s.isSlave 4) ∧
         t.raw .GAHBCFG = s.raw .GAHBCFG ∧ (∀ a, t.byte a = s.byte a)))

/-- CONIDSTSCHNG (R402, R403) with the B-plug in device mode and no engine started: the core is initialised again with the
parameters it has and the gate opens, as CORE_INIT leaves it; where the mode bit never follows the plug the run ends in the
fatal mode wait (R458). The context is that of the handler again (the model's choice, log entry 13); the FIFOs are empty (log
entry 26), the registers that no rule writes read 0 (log entry 4), and the fields of a fresh record that R81 does not name are
those of log entry 6. An A-plug and a running engine are left out. -/
def Obligations.ConnectorChangeInitialisesAgain : Prop :=
  ∀ s : State, s.env = [] → s.replies = [] → s.tick = s → s.unsettled = false → s.core.deviceEngine = false →
    s.core.hostEngine = false → bitOf (s.raw .GOTGCTL) 16 = true →
    (s.prompt = true → s.hw.caps.fits → s.hw.caps.dedFifo = true → s.core.params.dedicatedFifo = true →
      bitOf (s.raw .GRSTCTL) 31 = true → 1 ≤ s.hw.resetPollLimit → 1 ≤ s.hw.flushPollLimit → 1 ≤ s.hw.modeWaitLimit →
      s.hostMode = false →
      ∃ t, exec .topConidstschng s = .next t ∧ t.core.functional = true ∧ t.core.opState = .bPeripheral ∧
        t.core.deviceEngine = true ∧ t.core.hostEngine = false ∧ t.core.base = s.core.base ∧
        t.core.params = s.core.params ∧ t.core.caps = s.hw.caps ∧ (∀ e, t.ep e = blankEp) ∧ (∀ c, t.chan c = blankCh) ∧
        t.pool = List.replicate s.hw.poolCap none ∧ t.iso = [] ∧ t.recordsExist = true ∧ t.ctx = s.ctx ∧
        bitOf (t.raw .GAHBCFG) 0 = true ∧ t.raw .GINTSTS = 0 ∧ t.raw .GOTGINT = 0 ∧ t.raw .DAINTMSK = 0x00010001 ∧
        t.raw .GINTMSK = (if t.core.dmaMode = .slave then 0xB00C7814 else 0xB00C7804) ∧ (∀ a, t.byte a = s.byte a) ∧
        t.fifo = emptyFifo) ∧
    (s.hostMode = true → exec .topConidstschng s = .fault .modeWait)

/-! The events of the device endpoints. -/

/-- XFERCOMPL of a data endpoint in slave and buffer-DMA mode (R270, R271, R273, R272, P2): the bytes that the finished chunk
moved are counted, a receive of slave mode and the trailing zero-length packet apart. Data that is left and was not cut short
goes on with its next chunk: what is left of the request within the clamps of R247, from the address it has reached, with
XFERSIZE and PKTCNT as R249 gives them (whole packets on a receive); where none is left, the request asked for the zero-length packet, and its length is a multiple of
mps that is not 0, that packet is programmed; in every other case, after that packet too, the request frees its slot, the
endpoint is idle, and UPPER gets the completion. The chunk has been programmed: none waits for EPDISBLD (log entry 39). That NAKSTS
reads 0 after CNAK is the model's choice, log entry 10. -/
def Obligations.TransferCompletionCountsAndFinishes : Prop :=
  ∀ (s : State) (e : EpRef) (h : Nat) (q : Req), s.Alone → s.reservedLow → s.InDeviceRole → s.isDesc = false → e.num ≠ 0 →
    e.num.val < s.hw.caps.nEp → s.scheduled (.ep e) = false → (s.ep e).state = .active →
    (s.ep e).waits = false → (s.ep e).x.active = some (.pool h) → s.pool[h]? = some (some q) →
    let i := match e.dir with | .IN => Instr.inXfercompl e.num | .OUT => .outXfercompl e.num
    let mps := (s.ep e).mps
    let rem := field (s.raw (epSiz e)) 0 19
    let len := (s.ep e).x.chunkLen
    let moved := if e.dir = .IN then len - rem else max 1 ((len + mps - 1) / mps) * mps - rem
    let short := decide (e.dir = .OUT) && decide (0 < rem)
    let zlp := (s.ep e).x.zlpPhase
    let done := q.done + (if zlp = true ∨ (s.isSlave = true ∧ e.dir = .OUT) then 0 else moved)
    let more := zlp = false ∧ done < q.length ∧ short = false
    let packet := zlp = false ∧ q.length ≤ done ∧ short = false ∧ q.zeroFlag = true ∧ 0 < q.length ∧ q.length % mps = 0
    (¬more → ¬packet → (s.ep e).x.queue = [] →
      ∃ t, exec i s = .next t ∧ t.pool = s.pool.set h none ∧ (t.ep e).state = .idle ∧ (t.ep e).x.active = none ∧
        (t.ep e).x.queue = [] ∧ (t.ep e).enabled = (s.ep e).enabled ∧
        t.trace.head? = some (.cb (.transferComplete q.cb q.ctx .ok done)) ∧
        t.raw (epInt e) = s.raw (epInt e) &&& ~~~0x1#32 ∧ Frame s t [epInt e] [.ep e, .pool]) ∧
    (more →
      ∃ t, exec i s = .next t ∧ t.pool = s.pool.set h (some { q with done := done }) ∧ (t.ep e).state = .active ∧
        (t.ep e).x.active = some (.pool h) ∧ (t.ep e).x.chunkDone = 0 ∧ (t.ep e).x.chunkLen ≤ q.length - done ∧
        (s.hw.caps.fits → 1 ≤ mps → mps ≤ 1024 → 1 ≤ (s.ep e).multiCount →
          let top := min (2 ^ s.hw.caps.xw - 1) ((2 ^ s.hw.caps.pw - 1) * mps) / mps * mps
          let next := min (q.length - done)
            (if typePeriodic (s.ep e).type then min top ((s.ep e).multiCount * mps) else top)
          let pkts := max 1 ((next + mps - 1) / mps)
          (t.ep e).x.chunkLen = next ∧ field (t.raw (epSiz e)) 0 19 = (if e.dir = .IN then next else pkts * mps) ∧
          field (t.raw (epSiz e)) 19 10 = pkts) ∧
        t.raw (epDma e) = (if s.isSlave then s.raw (epDma e) else q.buf + BitVec.ofNat 32 done) ∧
        bitOf (t.raw (epCtl e)) 31 = true ∧ bitOf (t.raw (epCtl e)) 17 = false ∧
        t.raw (epInt e) = s.raw (epInt e) &&& ~~~0x1#32 ∧
        Frame s t [epInt e, epSiz e, epDma e, epCtl e, .DIEPEMPMSK] [.ep e, .pool]) ∧
    (packet → s.hw.caps.fits →
      ∃ t, exec i s = .next t ∧ t.pool = s.pool.set h (some { q with done := done }) ∧
        (t.ep e).x.active = some (.pool h) ∧ (t.ep e).x.zlpPhase = true ∧ (t.ep e).x.chunkLen = 0 ∧
        field (t.raw (epSiz e)) 19 10 = 1 ∧ (e.dir = .IN → field (t.raw (epSiz e)) 0 19 = 0) ∧
        bitOf (t.raw (epCtl e)) 31 = true ∧ Frame s t [epInt e, epSiz e, epDma e, epCtl e] [.ep e, .pool])

/-- A fatal error event of a data endpoint that the hardware is running (R274, R276, R277, R284): the event is cleared, the
disable is asked for with NAK set (that NAKSTS shows it at once is the model's choice, log entry 10), its confirmation
unmasked, and the status kept for it; where a stall has asked for the disable already, the error waits for the same confirmation
without a write (R550, log entry 39); nothing ends yet. A BNA that finds no request (R442), and a TIMEOUT of an IN endpoint
(R275), are only cleared. -/
def Obligations.FatalErrorDisablesTheEndpoint : Prop :=
  (∀ (s : State) (e : EpRef), s.Alone → s.reservedLow → s.hostMode = false → e.num ≠ 0 → e.num.val < s.hw.caps.nEp →
     s.scheduled (.ep e) = false → ∀ p ∈ fatalEvents e,
     ((s.ep e).state ≠ .haltedPendingDisable → bitOf (s.raw (epCtl e)) 31 = true →
       (p.2.1 = 9 → (s.ep e).x.active ≠ none) →
       ∃ t, exec p.1 s = .next t ∧
         t.ep e = { s.ep e with
           state := .haltedPendingDisable
           pendingStatus := p.2.2
           pendingAll := false
           disabling := true
           rearm := false } ∧
         t.raw (epInt e) = s.raw (epInt e) &&& ~~~(bit1 p.2.1) ∧
         ((s.ep e).disabling = true → Frame s t [epInt e] [.ep e]) ∧
         ((s.ep e).disabling = false → t.raw (epMsk e) = s.raw (epMsk e) ||| 0x2 ∧
           t.raw (epCtl e) = s.raw (epCtl e) ||| 0x40020000 ∧ Frame s t [epInt e, epCtl e, epMsk e] [.ep e])) ∧
     (p.2.1 = 9 → (s.ep e).x.active = none →
       ∃ t, exec p.1 s = .next t ∧ t.raw (epInt e) = s.raw (epInt e) &&& ~~~(bit1 9) ∧ Frame s t [epInt e] [])) ∧
  (∀ (s : State) (n : Fin 16), s.Alone → s.hostMode = false → n.val < s.hw.caps.nEp →
     ∃ t, exec (.inTimeout n) s = .next t ∧ t.raw (.DIEPINT n) = s.raw (.DIEPINT n) &&& ~~~0x8#32 ∧
       Frame s t [.DIEPINT n] [])

/-- EPDISBLD of a data endpoint whose disable was asked for (R285, R284, R272): the Tx FIFO of an IN endpoint is flushed; the
active request of an aborted endpoint ends with the status that was kept, and the endpoint is idle; a Stalled endpoint stays
Stalled, and nothing more happens to it, nor to any endpoint that is not aborted and for which nothing waits, its queue included
(R285, R287). What waited for EPDISBLD happens now (R550; the model's reading, log entry 39): the first chunk of a request that was
started meanwhile is programmed, an isochronous chain of an endpoint that is not Stalled is armed (R436), and the control word of an
ENABLE_ENDPOINT is written (R280). That NAKSTS (bit 17) reads 0 after CNAK and 1 after SNAK, and DPID
0 after SETD0PID, is the model's choice, log entry 10. -/
def Obligations.ConfirmedDisableEndsTheRequest : Prop :=
  ∀ (s : State) (e : EpRef), s.env = [] → s.replies = [] → s.prompt = true → s.tick = s →
    s.hw.debug = false → s.unsettled = false → s.reservedLow → s.hostMode = false → e.num ≠ 0 → e.num.val < s.hw.caps.nEp →
    1 ≤ s.hw.flushPollLimit → (s.ep e).enabled = true →
    let i := match e.dir with | .IN => Instr.inEpdisbld e.num | .OUT => .outEpdisbld e.num
    let flushed := fun t : State => t.raw (epInt e) = s.raw (epInt e) &&& ~~~0x2#32 ∧
      (e.dir = .OUT → t.fifo = s.fifo ∧ t.raw .GRSTCTL = s.raw .GRSTCTL) ∧
      (e.dir = .IN → t.fifo = { s.fifo with tx := s.fifo.tx.set (s.ep e).txFifo.val [] } ∧ t.unsettled = false)
    (∀ (h : Nat) (q : Req), s.scheduled (.ep e) = false → (s.ep e).state = .haltedPendingDisable →
      (s.ep e).x.active = some (.pool h) → (s.ep e).x.queue = [] → s.pool[h]? = some (some q) → (s.ep e).enabling = none →
      ∃ t, exec i s = .next t ∧ t.pool = s.pool.set h none ∧ (t.ep e).state = .idle ∧ (t.ep e).x.active = none ∧
        (t.ep e).enabled = true ∧ (t.ep e).disabling = false ∧
        t.trace.head? = some (.cb (.transferComplete q.cb q.ctx (s.ep e).pendingStatus q.done)) ∧ flushed t ∧
        Frame s t [epInt e, .GRSTCTL] [.ep e, .pool, .fifo]) ∧
    (∀ h : Nat, s.scheduled (.ep e) = false → s.isDesc = false → (s.ep e).state = .active → (s.ep e).waits = true →
      (s.ep e).x.active = some (.pool h) →
      ∃ t, exec i s = .next t ∧ (t.ep e).state = .active ∧ (t.ep e).x.active = some (.pool h) ∧
        (t.ep e).x.queue = (s.ep e).x.queue ∧ (t.ep e).waits = false ∧ (t.ep e).disabling = false ∧ bitOf (t.raw (epCtl e)) 31 = true ∧ bitOf (t.raw (epCtl e)) 17 = false ∧ flushed t ∧
        Frame s t [epInt e, .GRSTCTL, epSiz e, epDma e, epCtl e, .DIEPEMPMSK] [.ep e, .fifo]) ∧
    (∀ r : IsoRec, s.isoOf (.ep e) = some r → (s.ep e).rearm = true → (s.ep e).state ≠ .haltedPendingDisable →
      (s.ep e).state ≠ .stalled → (s.ep e).waits = false →
      ∃ t, exec i s = .next t ∧
        t.ep e = { s.ep e with state := .active, disabling := false, rearm := false, enabling := none } ∧
        t.raw (epDma e) = r.chain r.procBuf ∧ bitOf (t.raw (epCtl e)) 31 = true ∧ bitOf (t.raw (epCtl e)) 17 = false ∧
        flushed t ∧ Frame s t [epInt e, .GRSTCTL, epSiz e, epDma e, epCtl e] [.ep e, .fifo]) ∧
    (((s.ep e).state = .stalled ∨
        ((s.ep e).state ≠ .haltedPendingDisable ∧ (s.ep e).waits = false ∧ (s.ep e).rearm = false)) → (s.ep e).enabling = none →
      ∃ t, exec i s = .next t ∧ t.ep e = { s.ep e with disabling := false } ∧ flushed t ∧
        Frame s t [epInt e, .GRSTCTL] [.ep e, .fifo]) ∧
    (∀ d : Epd, (s.ep e).enabling = some (enableWord d) → epdRef d = e → epdMps d ≤ 1024 → (s.ep e).state = .idle →
      (s.ep e).waits = false → (s.ep e).rearm = false →
      ∃ t, exec i s = .next t ∧ t.ep e = { s.ep e with disabling := false, enabling := none } ∧
        field (t.raw (epCtl e)) 0 11 = epdMps d ∧ bitOf (t.raw (epCtl e)) 15 = true ∧
        field (t.raw (epCtl e)) 18 2 = (d.bmAttributes &&& 3).toNat ∧
        bitOf (t.raw (epCtl e)) 17 = true ∧ bitOf (t.raw (epCtl e)) 16 = false ∧
        (e.dir = .IN → field (t.raw (epCtl e)) 22 4 = e.num.val) ∧ flushed t ∧
        Frame s t [epInt e, .GRSTCTL, epCtl e] [.ep e, .fifo])

/-- TXFEMP of an IN endpoint, endpoint 0 among them, in slave mode (R262): it is a level, which no write to DIEPINT changes. The
event calls `continue_transfer`: where the FIFO has no space for the next packet it changes nothing and the mask stays set; where it
has, that one packet is pushed; and where no packet is left, before or after, the mask bit is cleared, and nothing else changes. What
the FIFO then holds is said where the FIFO RAM as a whole has room for the words too. -/
def Obligations.TxFifoEmptyPushesOrSilences : Prop :=
  ∀ (s : State) (n : Fin 16), s.Alone → s.hostMode = false → s.isSlave = true → n.val < s.hw.caps.nEp →
    let fifo := s.fifo.tx[(s.txFifoOf n).val]
    let x := (s.ep ⟨n, .IN⟩).x
    let plen := min (s.ep ⟨n, .IN⟩).mps (x.chunkLen - x.chunkDone)
    let words := (plen + 3) / 4
    let a := s.chunkAddr (.ep ⟨n, .IN⟩) + BitVec.ofNat 32 x.chunkDone
    let silenced := s.raw .DIEPEMPMSK &&& ~~~(bit1 n.val)
    (s.slaveHw = true → ∀ v, bitOf ((s.writeReg (.DIEPINT n) v).peek (.DIEPINT n)) 7 = fifo.isEmpty) ∧
    ((x.active = none ∨ x.chunkLen ≤ x.chunkDone) →
      ∃ t, exec (.inTxfemp n) s = .next t ∧ t.raw .DIEPEMPMSK = silenced ∧ Frame s t [.DIEPEMPMSK] []) ∧
    (x.active ≠ none → x.chunkDone < x.chunkLen → s.inSpace n < words →
      ∃ t, exec (.inTxfemp n) s = .next t ∧ Frame s t [] []) ∧
    (x.active ≠ none → x.chunkDone < x.chunkLen → words ≤ s.inSpace n →
      ∃ t, exec (.inTxfemp n) s = .next t ∧
        (words ≤ s.roomIn (s.txDepth (s.txFifoOf n)) fifo.length →
          t.fifo = { s.fifo with tx := s.fifo.tx.set (s.txFifoOf n).val (fifo ++ packWords 0 (s.bytes a plen)) }) ∧
        t.ep ⟨n, .IN⟩ = { s.ep ⟨n, .IN⟩ with x := { x with chunkDone := x.chunkDone + plen } } ∧
        t.raw .DIEPEMPMSK = (if x.chunkDone + plen < x.chunkLen then s.raw .DIEPEMPMSK else silenced) ∧
        Frame s t [.DIEPEMPMSK] [.fifo, .ep ⟨n, .IN⟩])

/-! The events of the host channels. -/

/-- The events that stop a channel (R367 to R370, R364, R365): the event is cleared and the halt is asked for with its
reason: HCCHAR is written with CHENA and CHDIS and CHHLTD is unmasked. A transaction error is counted, up to the limit; a NAK
of a split starts it over. -/
def Obligations.ChannelErrorsAskForTheHalt : Prop :=
  ∀ (s : State) (c : Fin 16), s.Alone → s.hostMode = true → c.val < s.hw.caps.nCh → (s.chan c).allocated = true →
    (s.chan c).x.active ≠ none → (s.chan c).haltStatus = .noHalt → bitOf (s.raw (.HCCHAR c)) 31 = true →
    s.queueRoom c ≠ 0 →
    let r := s.chan c
    ∀ p ∈ [(Instr.chAhberr c, 2, r, HaltReason.ahbErr), (.chStall c, 3, r, .stall), (.chBblerr c, 8, r, .babble),
        (.chXacterr c, 7, { r with errorState := true, errorCount := min (r.errorCount + 1) s.hw.errLimit }, .xactErr)] ++
        (if s.scheduled (.ch c) then [] else [(.chBna c, 11, r, .descErr)]) ++
        (if r.params.doSplit then [(.chNak c, 4, { r with completeSplit := false }, .nak)]
         else if r.params.epType = .interrupt then [(.chNak c, 4, r, .nak)] else []) ++
        (if r.params.doSplit && !r.completeSplit && !r.errorState then [(.chAck c, 5, r, .ack)] else []),
      ∃ t, exec p.1 s = .next t ∧
        t.chan c = { p.2.2.1 with haltDeferred := none, haltStatus := .haltPending, haltReason := some p.2.2.2 } ∧
        t.raw (.HCINT c) = s.raw (.HCINT c) &&& ~~~(bit1 p.2.1) ∧
        t.raw (.HCINTMSK c) = s.raw (.HCINTMSK c) ||| 0x2 ∧ bitOf (t.raw (.HCCHAR c)) 31 = true ∧
        bitOf (t.raw (.HCCHAR c)) 30 = true ∧ Frame s t [.HCINT c, .HCINTMSK c, .HCCHAR c] [.ch c, .fifo]

/-- Channel events that stop nothing (R361, R364 to R366): an event of a channel that is not allocated or has no request,
a NAK of a bulk or control transfer and an ACK outside a start-split only clear their bit; an ACK ends the error state; a
NYET of a complete-split writes HCCHAR again, but with a halt pending it is only cleared: R366 read literally would write, R550
bars it (DEDUCED, log entry 39). -/
def Obligations.ChannelEventsThatOnlyClear : Prop :=
  ∀ (s : State) (c : Fin 16), s.Alone → s.reservedLow → s.hostMode = true → c.val < s.hw.caps.nCh →
    (∀ p ∈ [(Instr.chAhberr c, 2), (.chStall c, 3), (.chNak c, 4), (.chAck c, 5), (.chNyet c, 6), (.chXacterr c, 7),
        (.chBblerr c, 8)], ((s.chan c).allocated = false ∨ (s.chan c).x.active = none) →
      ∃ t, exec p.1 s = .next t ∧ t.raw (.HCINT c) = s.raw (.HCINT c) &&& ~~~(bit1 p.2) ∧ Frame s t [.HCINT c] []) ∧
    ((s.chan c).params.doSplit = false → (s.chan c).params.epType ≠ .interrupt →
      ∃ t, exec (.chNak c) s = .next t ∧ t.raw (.HCINT c) = s.raw (.HCINT c) &&& ~~~(bit1 4) ∧ Frame s t [.HCINT c] []) ∧
    ((s.chan c).params.doSplit = false → (s.chan c).allocated = true → (s.chan c).x.active ≠ none →
      ∃ t, exec (.chAck c) s = .next t ∧ t.raw (.HCINT c) = s.raw (.HCINT c) &&& ~~~(bit1 5) ∧
        t.chan c = (if (s.chan c).errorState then { s.chan c with errorState := false, errorCount := 0 } else s.chan c) ∧
        t.raw (.HCINTMSK c) = (if (s.chan c).errorState then
            channelMask s.core.dmaMode { s.chan c with errorState := false } ||| (s.raw (.HCINTMSK c) &&& 0x2)
          else s.raw (.HCINTMSK c)) ∧ Frame s t [.HCINT c, .HCINTMSK c] [.ch c]) ∧
    ((s.chan c).params.doSplit = true → (s.chan c).completeSplit = true → (s.chan c).allocated = true →
      (s.chan c).x.active ≠ none → (s.chan c).haltStatus = .noHalt →
      ∃ t, exec (.chNyet c) s = .next t ∧ t.raw (.HCINT c) = s.raw (.HCINT c) &&& ~~~(bit1 6) ∧
        t.chan c = { s.chan c with requests := (s.chan c).requests + 1 } ∧ bitOf (t.raw (.HCCHAR c)) 31 = true ∧
        bitOf (t.raw (.HCCHAR c)) 15 = decide ((s.chan c).params.epDir = .IN) ∧
        Frame s t [.HCINT c, .HCCHAR c] [.ch c, .fifo]) ∧
    ((s.chan c).haltStatus ≠ .noHalt →
      ∃ t, exec (.chNyet c) s = .next t ∧ t.raw (.HCINT c) = s.raw (.HCINT c) &&& ~~~(bit1 6) ∧ Frame s t [.HCINT c] [])

/-- XFERCOMPL of a channel in buffer-DMA mode (R362, R273, R272, R359): the toggle is taken over from HCTSIZ and remembered for
the pipe, and the bytes are counted. Data that is left and was not cut short goes on with its next chunk. A request that needs
no further chunk, its zero-length packet sent or not asked for, frees its slot and UPPER gets the completion; the channel, with
nothing queued, is released. While a halt is pending the request ends all the same, but the channel is neither programmed nor
released before the halt is confirmed (R550; the model's reading, log entry 39). -/
def Obligations.ChannelCompletionReleasesTheChannel : Prop :=
  ∀ (s : State) (c : Fin 16) (h : Nat) (q : Req), s.Alone → s.reservedLow → s.hostMode = true → c.val < s.hw.caps.nCh →
    s.core.dmaMode = .bufferDma → s.scheduled (.ch c) = false → (s.chan c).allocated = true →
    (s.chan c).params.doSplit = false → (s.chan c).x.active = some (.pool h) → s.pool[h]? = some (some q) →
    let r := s.chan c
    let mps := r.params.mps.toNat
    let rem := field (s.raw (.HCTSIZ c)) 0 19
    let len := r.x.chunkLen
    let moved := if r.params.epDir = .OUT then len - rem else max 1 ((len + mps - 1) / mps) * mps - rem
    let short := decide (r.params.epDir = .IN) && decide (0 < rem)
    let done := q.done + (if r.x.zlpPhase then 0 else moved)
    let more := r.x.zlpPhase = false ∧ done < q.length ∧ short = false
    let packet := r.x.zlpPhase = false ∧ q.length ≤ done ∧ short = false ∧ q.zeroFlag = true ∧ 0 < q.length ∧
      q.length % mps = 0
    let pid := pidOfCode (decide (r.params.epType = .control)) (field (s.raw (.HCTSIZ c)) 29 2)
    let taken := { r with dataPid := pid, errorState := false, errorCount := 0 }
    let toggled := fun t : State => ∀ k, SMap.get false t.htog k =
      if k = pipeKey r.params ∧ (pid = .data0 ∨ pid = .data1) then decide (pid = .data1) else SMap.get false s.htog k
    (r.haltStatus ≠ .haltPending → ¬more → ¬packet → r.x.queue = [] →
      ∃ t, exec (.chXfercompl c) s = .next t ∧ t.pool = s.pool.set h none ∧ (t.chan c).allocated = false ∧
        (t.chan c).x.active = none ∧ (t.chan c).dataPid = pid ∧ (t.chan c).params = r.params ∧
        t.trace.head? = some (.cb (.transferComplete q.cb q.ctx .ok done)) ∧ t.raw (.HCINT c) = 0 ∧
        t.raw (.HCINTMSK c) = 0 ∧ t.raw .HAINTMSK = s.raw .HAINTMSK &&& ~~~(bit1 c.val) ∧ toggled t ∧
        Frame s t [.HCINT c, .HCINTMSK c, .HAINTMSK] [.ch c, .pool, .htog]) ∧
    (r.haltStatus ≠ .haltPending → more → s.hw.caps.fits → s.core.caps = s.hw.caps → r.params.wf = true →
      let len := s.channelChunk r { q with done := done }
      ∃ t, exec (.chXfercompl c) s = .next t ∧ t.pool = s.pool.set h (some { q with done := done }) ∧
        s.Programmed t c taken { q with done := done } len ∧
        t.chan c = { taken with requests := 1, x := { r.x with chunkLen := len, chunkDone := 0 } } ∧ toggled t ∧
        Frame s t [.HCINT c, .HCINTMSK c, .HAINTMSK, .HCSPLT c, .HCTSIZ c, .HCDMA c, .HCCHAR c] [.ch c, .pool, .htog, .fifo]) ∧
    (r.haltStatus = .haltPending → (more ∨ packet) →
      ∃ t, exec (.chXfercompl c) s = .next t ∧ t.pool = s.pool.set h (some { q with done := done }) ∧
        t.chan c = { taken with ended := some (.chunk short) } ∧
        t.raw (.HCINT c) = s.raw (.HCINT c) &&& ~~~(bit1 0) ∧ toggled t ∧ Frame s t [.HCINT c] [.ch c, .pool, .htog]) ∧
    (r.haltStatus = .haltPending → ¬more → ¬packet →
      ∃ t, exec (.chXfercompl c) s = .next t ∧ t.pool = s.pool.set h none ∧
        t.chan c = { taken with
          ended := some .request
          x := { r.x with active := none, zlpPhase := false, chunkLen := 0, chunkDone := 0 } } ∧
        t.trace.head? = some (.cb (.transferComplete q.cb q.ctx .ok done)) ∧
        t.raw (.HCINT c) = s.raw (.HCINT c) &&& ~~~(bit1 0) ∧ toggled t ∧ Frame s t [.HCINT c] [.ch c, .pool, .htog])

/-- CHHLTD of a channel whose halt was asked for (R358, R359): a halt that ends the transfer, and a transaction error at the
limit, end its request with the reason's status and release the channel; a CHHLTD that nobody asked for only clears its bit, and that of
a channel which an engine stop has released only tells, besides, that the channel is halted (R411, R550; log entry 39).
A NAK, an ACK and a transaction error below the limit try again: in buffer-DMA mode the channel is programmed for the same
request, an ACK as the complete-split and an error as the start-split (R372). Where a completion came while the halt was pending
(R550; the model's reading, log entry 39): a request that ended then needs no more, and the channel, with nothing queued, is
released; a request with data left is programmed for its next chunk instead. -/
def Obligations.ConfirmedHaltEndsTheTransfer : Prop :=
  ∀ (s : State) (c : Fin 16), s.Alone → s.reservedLow → s.hostMode = true → c.val < s.hw.caps.nCh →
    ((s.chan c).haltStatus ≠ .haltPending ∨ (s.chan c).haltReason = none →
      ∃ t, exec (.chChhltd c) s = .next t ∧ t.raw (.HCINT c) = s.raw (.HCINT c) &&& ~~~(bit1 1) ∧
        Frame s t [.HCINT c] []) ∧
    (∀ reason, (s.chan c).allocated = false → (s.chan c).haltStatus = .haltPending → (s.chan c).haltReason = some reason →
      ∃ t, exec (.chChhltd c) s = .next t ∧ t.raw (.HCINT c) = s.raw (.HCINT c) &&& ~~~(bit1 1) ∧
        t.chan c = { s.chan c with haltStatus := .halted reason } ∧ Frame s t [.HCINT c] [.ch c]) ∧
    (∀ (h : Nat) (q : Req) (reason : HaltReason) (st : Status), (s.chan c).allocated = true →
      (s.chan c).haltStatus = .haltPending → (s.chan c).haltReason = some reason → (s.chan c).x.active = some (.pool h) →
      (s.chan c).x.queue = [] → s.pool[h]? = some (some q) → (s.chan c).ended ≠ some .request →
      ((reason, st) ∈ [(HaltReason.stall, Status.stalled), (.ahbErr, .ahbError), (.babble, .babble),
        (.descErr, .descriptorError), (.cancelled, .cancelled)] ∨
        (reason = .xactErr ∧ st = .xactError ∧ s.hw.errLimit ≤ (s.chan c).errorCount ∧ (s.chan c).ended = none)) →
      ∃ t, exec (.chChhltd c) s = .next t ∧ t.pool = s.pool.set h none ∧ (t.chan c).allocated = false ∧
        (t.chan c).haltStatus = .halted reason ∧ (t.chan c).x.active = none ∧
        t.trace.head? = some (.cb (.transferComplete q.cb q.ctx st q.done)) ∧ t.raw (.HCINT c) = 0 ∧
        t.raw (.HCINTMSK c) = 0 ∧ t.raw .HAINTMSK = s.raw .HAINTMSK &&& ~~~(bit1 c.val) ∧
        Frame s t [.HCINT c, .HCINTMSK c, .HAINTMSK] [.ch c, .pool]) ∧
    (∀ reason : HaltReason, (s.chan c).allocated = true → (s.chan c).haltStatus = .haltPending →
      (s.chan c).haltReason = some reason → (s.chan c).ended = some .request → (s.chan c).x.queue = [] →
      ∃ t, exec (.chChhltd c) s = .next t ∧
        t.chan c = { s.chan c with haltStatus := .halted reason, ended := none, allocated := false } ∧
        t.raw (.HCINT c) = 0 ∧ t.raw (.HCINTMSK c) = 0 ∧ t.raw .HAINTMSK = s.raw .HAINTMSK &&& ~~~(bit1 c.val) ∧
        Frame s t [.HCINT c, .HCINTMSK c, .HAINTMSK] [.ch c]) ∧
    (∀ (h : Nat) (q : Req) (reason : HaltReason), (s.chan c).allocated = true → (s.chan c).haltStatus = .haltPending →
      (s.chan c).haltReason = some reason → (s.chan c).x.active = some (.pool h) → s.pool[h]? = some (some q) →
      s.core.dmaMode = .bufferDma → s.hw.caps.fits → s.core.caps = s.hw.caps → (s.chan c).params.wf = true →
      ((s.chan c).ended = none →
        (reason = .nak ∨ reason = .ack ∨ (reason = .xactErr ∧ (s.chan c).errorCount < s.hw.errLimit)) →
        let r := { s.chan c with
          haltStatus := .noHalt
          haltReason := none
          haltDeferred := none
          completeSplit := (match reason with | .ack => true | .xactErr => false | _ => (s.chan c).completeSplit) }
        let len := s.channelChunk r q
        ∃ t, exec (.chChhltd c) s = .next t ∧ s.Programmed t c r q len ∧
          t.chan c = { r with requests := 1, x := { r.x with chunkLen := len, chunkDone := 0 } } ∧ t.pool = s.pool ∧
          Frame s t [.HCINT c, .HCINTMSK c, .HAINTMSK, .HCSPLT c, .HCTSIZ c, .HCDMA c, .HCCHAR c] [.ch c, .fifo]) ∧
      ((s.chan c).ended = some (.chunk false) → (reason = .nak ∨ reason = .ack ∨ reason = .xactErr) →
        (s.chan c).x.zlpPhase = false → q.done < q.length →
        let r := { s.chan c with haltStatus := .noHalt, haltReason := none, haltDeferred := none, ended := none }
        let len := s.channelChunk r q
        ∃ t, exec (.chChhltd c) s = .next t ∧ s.Programmed t c r q len ∧
          t.chan c = { r with requests := 1, x := { r.x with chunkLen := len, chunkDone := 0 } } ∧ t.pool = s.pool ∧
          Frame s t [.HCINT c, .HCINTMSK c, .HAINTMSK, .HCSPLT c, .HCTSIZ c, .HCDMA c, .HCCHAR c] [.ch c, .fifo]))

/-! Endpoint 0 and the standard requests. -/

/-- A SETUP packet (R303, R326, P4): the event is cleared; while Disconnected nothing else happens. Otherwise the packet is
taken, from its buffer in buffer-DMA mode, and it selects the phase: without a data phase, or with one to the host, it carries
on as its request in InStatus or InData; with one from the host EP0 OUT is armed for the data (that NAKSTS then reads 0 is the
model's choice, log entry 10). No EP0 IN transfer is running; descriptor-DMA mode is left out (`ControlReady`). -/
def Obligations.SetupPacketSelectsThePhase : Prop :=
  ∀ s : State, s.Alone → s.reservedLow → s.ControlReady → bitOf (s.raw (.DIEPCTL 0)) 31 = false →
    let p := if s.isSlave then s.ep0.setup else setupOfBytes (s.bytes s.ep0.setupBuf 8)
    (s.ep0.state = .disconnected →
      ∃ t, exec (.outSetup 0) s = .next t ∧ t.raw (.DOEPINT 0) = s.raw (.DOEPINT 0) &&& ~~~0x8#32 ∧
        Frame s t [.DOEPINT 0] []) ∧
    (s.ep0.state ≠ .disconnected → (p.wLength = 0 ∨ p.bmRequestType.getLsbD 7 = true) →
      ∃ u, CarriesOn (exec (.outSetup 0) s) (exec (decodeSetup p) u) s.patience ∧ u.patience = s.patience ∧ u.ep0.setup = p ∧
        u.ep0.state = (if p.wLength = 0 then .inStatus else .inData) ∧ u.ep0.totalLength = p.wLength.toNat ∧
        (u.ep ⟨0, .IN⟩).x.active = none ∧ (u.ep ⟨0, .OUT⟩).x.active = none ∧
        u.raw (.DOEPINT 0) = s.raw (.DOEPINT 0) &&& ~~~0x8#32 ∧
        Frame s u [.DOEPINT 0, .DIEPEMPMSK] [.ep0, .ep ⟨0, .IN⟩, .ep ⟨0, .OUT⟩]) ∧
    (s.ep0.state ≠ .disconnected → p.wLength ≠ 0 → p.bmRequestType.getLsbD 7 = false → p.wLength.toNat ≤ s.ep0.replyCap →
      (s.ep ⟨0, .OUT⟩).mps = 64 → (s.ep ⟨0, .OUT⟩).type = .control → (s.ep ⟨0, .OUT⟩).x.zlpPhase = false →
      ∃ t, exec (.outSetup 0) s = .next t ∧
        t.ep0.state = .outData ∧ t.ep0.setup = p ∧ t.ep0.totalLength = p.wLength.toNat ∧
        t.ep0.request = { blankReq with
          buf := s.ep0.reply
          length := p.wLength.toNat } ∧
        (t.ep ⟨0, .OUT⟩).x.active = some .ep0 ∧ (t.ep ⟨0, .OUT⟩).x.chunkLen = min p.wLength.toNat s.ep0Room ∧
        field (t.raw (.DOEPTSIZ 0)) 19 10 = (min p.wLength.toNat s.ep0Room + 63) / 64 ∧
        field (t.raw (.DOEPTSIZ 0)) 0 19 = (min p.wLength.toNat s.ep0Room + 63) / 64 * 64 ∧
        bitOf (t.raw (.DOEPCTL 0)) 31 = true ∧ bitOf (t.raw (.DOEPCTL 0)) 17 = false ∧
        t.raw (.DOEPINT 0) = s.raw (.DOEPINT 0) &&& ~~~0x8#32 ∧
        Frame s t [.DOEPINT 0, .DIEPEMPMSK, .DOEPTSIZ 0, .DOEPDMA 0, .DOEPCTL 0]
          [.ep0, .ep ⟨0, .IN⟩, .ep ⟨0, .OUT⟩])

/-- A request that answers with data in the data phase (R310, R314, R317, R320): the reply buffer holds the bytes, cut to
wLength, and EP0 IN sends them. -/
def Obligations.RepliesAreSentToTheHost : Prop :=
  ∀ (s : State) (f : SetupFields), s.Alone → s.reservedLow → s.ControlReady → s.ep0.state = .inData → f.dir = .IN →
    (∀ b, f.recip = 0 → b = [BitVec.ofNat 8 (natOf s.plat.selfPowered + 2 * natOf s.ep0.remoteWakeup), 0#8] →
      ∃ t, exec (.getStatus f) s = .next t ∧ s.Replied t f.wLength.toNat b ∧ t.plat = s.plat) ∧
    (∀ b, f.recip = 0 → [1, 2, 3, 6, 7].contains (f.wValue.toNat / 256) = true →
      s.descLookup f.wValue f.wIndex = some b → b.length ≤ s.ep0Room →
      ∃ t, exec (.getDescriptor f) s = .next t ∧ s.Replied t f.wLength.toNat b ∧ t.plat = s.plat) ∧
    (∀ (p : SetupPkt) b rest, s.plat.answers = .value b :: rest → b.length ≤ s.ep0Room → b.length ≤ s.ep0.replyCap →
      ∃ t l, exec (.delegatedRequest p) s = .next t ∧ s.Replied t p.wLength.toNat b ∧
        t.plat = { s.plat with answers := rest } ∧ t.trace = l ++ s.trace ∧ .cb (.classRequest p s.ep0.reply) ∈ l)

/-- A request without a data phase that is accepted (R311 to R313, R315, R316): its effect, and the status phase, in which
EP0 IN sends a zero-length packet. SET_CONFIGURATION 0 disables nothing where no endpoint is enabled; one with a single
endpoint enables it. SET_FEATURE of ENDPOINT_HALT stalls the endpoint, ends its active request with Stalled, keeps its queue,
and asks for the disable of an IN endpoint that runs (R287); CLEAR_FEATURE of it clears the stall and the data toggle (R288;
that DPID shows it at once is the model's choice, log entry 10), and on an endpoint that is not stalled, or on endpoint 0,
changes nothing. With a disable still to be confirmed, the first queued request is active after the stall is cleared and its first
chunk waits, and the chain of an isochronous endpoint that waited while it was Stalled is armed then (R436; the model's reading of
R550, log entry 39; that NAKSTS, bit 17, reads 0 after CNAK is its choice, log entry 10). -/
def Obligations.RequestsAreAcknowledged : Prop :=
  ∀ (s : State) (f : SetupFields), s.Alone → s.reservedLow → s.ControlReady → s.ep0.state = .inStatus → f.dir = .OUT → f.wLength = 0 →
    (f.recip = 0 → f.wValue = 1 →
      (∃ t, exec (.setFeature f) s = .next t ∧ t.ep0.remoteWakeup = true ∧ s.Acknowledged t [] []) ∧
      (∃ t, exec (.clearFeature f) s = .next t ∧ t.ep0.remoteWakeup = false ∧ s.Acknowledged t [] [])) ∧
    (f.recip = 0 → f.wValue.toNat ≤ 127 →
      ∃ t, exec (.setAddress f) s = .next t ∧ t.ep0.address.toNat = f.wValue.toNat ∧
        field (t.raw .DCFG) 4 7 = f.wValue.toNat ∧ s.Acknowledged t [.DCFG] []) ∧
    (f.recip = 0 → f.wValue.toNat % 256 = 0 → (∀ e : EpRef, e.num ≠ 0 → (s.ep e).enabled = false) →
      ∃ t, exec (.setConfiguration f) s = .next t ∧ t.ep0.config = 0 ∧ s.Acknowledged t [] []) ∧
    (∀ d, s.enableCheck d = .ok →
      (f.recip = 0 → s.ep0.config = 0 → f.wValue.toNat % 256 ≠ 0 →
        s.configEndpoints (f.wValue.extractLsb' 0 8) = some [d] →
        ∃ t, exec (.setConfiguration f) s = .next t ∧ t.ep0.config = f.wValue.extractLsb' 0 8 ∧
          (t.ep (epdRef d)).enabled = true ∧ (t.ep (epdRef d)).mps = epdMps d ∧
          bitOf (t.raw .DAINTMSK) (daintBit (epdRef d)) = true ∧
          s.Acknowledged t [epCtl (epdRef d), .DAINTMSK] [.ep (epdRef d)]) ∧
      (f.recip = 1 → s.ep0.config ≠ 0 → s.ifaceEndpoints f.wIndex f.wValue = some [d] →
        ∃ t, exec (.setInterface f) s = .next t ∧ t.ep0.config = s.ep0.config ∧ (t.ep (epdRef d)).enabled = true ∧
          bitOf (t.raw .DAINTMSK) (daintBit (epdRef d)) = true ∧
          s.Acknowledged t [epCtl (epdRef d), .DAINTMSK] [.ep (epdRef d)])) ∧
    (f.recip = 2 → f.wValue = 0 → (indexEp f.wIndex).num = 0 →
      ∃ t, exec (.clearFeature f) s = .next t ∧ s.Acknowledged t [] []) ∧
    (∀ e : EpRef, f.recip = 2 → f.wValue = 0 → e = indexEp f.wIndex → e.num ≠ 0 → e.num.val < s.hw.caps.nEp →
      (s.ep e).enabled = true →
      let stops := decide (e.dir = .IN) && bitOf (s.raw (epCtl e)) 31
      ((s.ep e).x.active = none →
        ∃ t, exec (.setFeature f) s = .next t ∧
          t.ep e = { s.ep e with state := .stalled, disabling := (s.ep e).disabling || stops } ∧
          bitOf (t.raw (epCtl e)) 21 = true ∧ (stops = true → bitOf (t.raw (epCtl e)) 30 = true) ∧
          s.Acknowledged t [epCtl e] [.ep e]) ∧
      (∀ h q, (s.ep e).x.active = some (.pool h) → s.pool[h]? = some (some q) →
        ∃ t l, exec (.setFeature f) s = .next t ∧ t.pool = s.pool.set h none ∧ (t.ep e).state = .stalled ∧
          (t.ep e).x.active = none ∧ (t.ep e).x.queue = (s.ep e).x.queue ∧ bitOf (t.raw (epCtl e)) 21 = true ∧
          (stops = true → bitOf (t.raw (epCtl e)) 30 = true ∧ (t.ep e).disabling = true) ∧ t.trace = l ++ s.trace ∧
          .cb (.transferComplete q.cb q.ctx .stalled q.done) ∈ l ∧ s.Acknowledged t [epCtl e] [.ep e, .pool]) ∧
      (∀ (h : Nat) (hs : List Nat), (s.ep e).state = .stalled → (s.ep e).x.active = none → (s.ep e).x.queue = h :: hs →
        (s.ep e).disabling = true →
        ∃ t, exec (.clearFeature f) s = .next t ∧
          t.ep e = { s.ep e with
            state := .active
            waits := true
            x := { (s.ep e).x with active := some (.pool h), queue := hs, zlpPhase := false } } ∧
          bitOf (t.raw (epCtl e)) 21 = false ∧ s.Acknowledged t [epCtl e] [.ep e]) ∧
      ((s.ep e).state = .stalled → (s.ep e).x.active = none → (s.ep e).x.queue = [] → (s.ep e).waits = false →
        ((s.ep e).rearm = false ∨ (s.ep e).disabling = true) →
        ∃ t, exec (.clearFeature f) s = .next t ∧ t.ep e = { s.ep e with state := .idle } ∧
          bitOf (t.raw (epCtl e)) 21 = false ∧ ((s.ep e).type ≠ .isochronous → bitOf (t.raw (epCtl e)) 16 = false) ∧
          s.Acknowledged t [epCtl e] [.ep e]) ∧
      (∀ r : IsoRec, (s.ep e).state = .stalled → (s.ep e).x.active = none → (s.ep e).x.queue = [] →
        (s.ep e).waits = false → (s.ep e).rearm = true → (s.ep e).disabling = false → s.isoOf (.ep e) = some r →
        ∃ t, exec (.clearFeature f) s = .next t ∧ t.ep e = { s.ep e with state := .active, rearm := false } ∧
          t.raw (epDma e) = r.chain r.procBuf ∧ bitOf (t.raw (epCtl e)) 31 = true ∧ bitOf (t.raw (epCtl e)) 17 = false ∧
          bitOf (t.raw (epCtl e)) 21 = false ∧ s.Acknowledged t [epCtl e, epSiz e, epDma e] [.ep e]) ∧
      ((s.ep e).state ≠ .stalled → ∃ t, exec (.clearFeature f) s = .next t ∧ s.Acknowledged t [] []))

/-- The completions of endpoint 0 in slave and buffer-DMA mode (R321, R322, R320, R305, R273): a data phase to the host goes on
with its next chunk while data is left, then with the zero-length packet where it asked for one and its length is a multiple of
64 that is not 0, and when all is sent, that packet too, EP0 OUT is armed for the status packet; a data phase from the
host goes on with its next chunk, and when all has arrived the run carries on as the request, or, with another length than was
asked for, endpoint 0 stalls; the end of a status phase makes EP0 Idle with the reception of a SETUP packet armed; a stale
completion is only cleared. That NAKSTS reads 0 after CNAK is the model's choice, log entry 10. -/
def Obligations.EndpointZeroCompletionsAdvanceThePhases : Prop :=
  ∀ s : State, s.Alone → s.reservedLow → s.ControlReady → (s.ep ⟨0, .OUT⟩).mps = 64 → (s.ep ⟨0, .OUT⟩).type = .control →
    (s.ep ⟨0, .OUT⟩).x.zlpPhase = false →
    let q := s.ep0.request
    let sent := q.done + ((s.ep ⟨0, .IN⟩).x.chunkLen - field (s.raw (.DIEPTSIZ 0)) 0 19)
    let more := sent < q.length
    let packet := q.length ≤ sent ∧ q.zeroFlag = true ∧ 0 < q.length ∧ q.length % 64 = 0
    let rem := field (s.raw (.DOEPTSIZ 0)) 0 19
    let got := if s.isSlave then q.done else q.done + (max 1 (((s.ep ⟨0, .OUT⟩).x.chunkLen + 63) / 64) * 64 - rem)
    let armed := fun t : State => field (t.raw (.DOEPTSIZ 0)) 0 19 = 8 ∧ field (t.raw (.DOEPTSIZ 0)) 19 10 = 1 ∧
      field (t.raw (.DOEPTSIZ 0)) 29 2 = 1 ∧ bitOf (t.raw (.DOEPCTL 0)) 31 = true ∧
      t.raw (.DOEPDMA 0) = (if s.isSlave then s.raw (.DOEPDMA 0) else s.ep0.setupBuf)
    let outRegs := [Reg.DOEPTSIZ 0, .DOEPDMA 0, .DOEPCTL 0]
    ((s.ep ⟨0, .IN⟩).x.active = none →
      ∃ t, exec (.inXfercompl 0) s = .next t ∧ t.raw (.DIEPINT 0) = s.raw (.DIEPINT 0) &&& ~~~0x1#32 ∧
        Frame s t [.DIEPINT 0] []) ∧
    ((s.ep ⟨0, .OUT⟩).x.active = none →
      ∃ t, exec (.outXfercompl 0) s = .next t ∧ t.raw (.DOEPINT 0) = s.raw (.DOEPINT 0) &&& ~~~0x1#32 ∧
        Frame s t [.DOEPINT 0] []) ∧
    ((s.ep ⟨0, .IN⟩).x.active = some .ep0 → s.ep0.state = .inData →
      ((s.ep ⟨0, .IN⟩).x.zlpPhase = true ∨ (¬more ∧ ¬packet) →
        ∃ t, exec (.inXfercompl 0) s = .next t ∧ t.ep0.state = .outStatus ∧
          t.ep0.request = { blankReq with buf := s.ep0.reply } ∧ (t.ep ⟨0, .IN⟩).x.active = none ∧
          (t.ep ⟨0, .OUT⟩).x.active = some .ep0 ∧ (t.ep ⟨0, .OUT⟩).x.chunkLen = 0 ∧
          field (t.raw (.DOEPTSIZ 0)) 0 19 = 64 ∧ field (t.raw (.DOEPTSIZ 0)) 19 10 = 1 ∧
          bitOf (t.raw (.DOEPCTL 0)) 31 = true ∧ bitOf (t.raw (.DOEPCTL 0)) 17 = false ∧
          t.raw (.DIEPINT 0) = s.raw (.DIEPINT 0) &&& ~~~0x1#32 ∧
          Frame s t (.DIEPINT 0 :: outRegs) [.ep0, .ep ⟨0, .IN⟩, .ep ⟨0, .OUT⟩]) ∧
      ((s.ep ⟨0, .IN⟩).x.zlpPhase = false → (more ∨ packet) →
        ∃ t, exec (.inXfercompl 0) s = .next t ∧ t.ep0 = { s.ep0 with request := { q with done := sent } } ∧
          (t.ep ⟨0, .IN⟩).x.active = some .ep0 ∧ (t.ep ⟨0, .IN⟩).x.zlpPhase = decide (q.length ≤ sent) ∧
          (t.ep ⟨0, .IN⟩).x.chunkLen = min (q.length - sent) s.ep0Room ∧
          field (t.raw (.DIEPTSIZ 0)) 0 19 = (t.ep ⟨0, .IN⟩).x.chunkLen ∧ bitOf (t.raw (.DIEPCTL 0)) 31 = true ∧
          t.raw (.DIEPINT 0) = s.raw (.DIEPINT 0) &&& ~~~0x1#32 ∧
          Frame s t [.DIEPINT 0, .DIEPTSIZ 0, .DIEPDMA 0, .DIEPCTL 0, .DIEPEMPMSK] [.ep0, .ep ⟨0, .IN⟩])) ∧
    ((s.ep ⟨0, .IN⟩).x.active = some .ep0 → s.ep0.state = .inStatus →
      ∃ t, exec (.inXfercompl 0) s = .next t ∧ t.ep0 = { s.ep0 with state := .idle } ∧
        (t.ep ⟨0, .IN⟩).x.active = none ∧ armed t ∧ Frame s t (.DIEPINT 0 :: outRegs) [.ep0, .ep ⟨0, .IN⟩]) ∧
    ((s.ep ⟨0, .OUT⟩).x.active = some .ep0 → s.ep0.state = .outStatus →
      ∃ t, exec (.outXfercompl 0) s = .next t ∧ t.ep0 = { s.ep0 with state := .idle } ∧
        (t.ep ⟨0, .OUT⟩).x.active = none ∧ armed t ∧ Frame s t (.DOEPINT 0 :: outRegs) [.ep0, .ep ⟨0, .OUT⟩]) ∧
    ((s.ep ⟨0, .OUT⟩).x.active = some .ep0 → s.ep0.state = .outData →
      (got < s.ep0.totalLength → rem = 0 →
        ∃ t, exec (.outXfercompl 0) s = .next t ∧ t.ep0 = { s.ep0 with request := { q with done := got } } ∧
          (t.ep ⟨0, .OUT⟩).x.active = some .ep0 ∧ (t.ep ⟨0, .OUT⟩).x.chunkLen = min (q.length - got) s.ep0Room ∧
          bitOf (t.raw (.DOEPCTL 0)) 31 = true ∧ bitOf (t.raw (.DOEPCTL 0)) 17 = false ∧
          Frame s t (.DOEPINT 0 :: outRegs) [.ep0, .ep ⟨0, .OUT⟩]) ∧
      ((s.ep0.totalLength ≤ got ∨ 0 < rem) → got = s.ep0.totalLength →
        ∃ u, CarriesOn (exec (.outXfercompl 0) s) (exec (decodeSetup s.ep0.setup) u) s.patience ∧ u.patience = s.patience ∧
          u.ep0 = { s.ep0 with request := { q with done := got } } ∧ (u.ep ⟨0, .OUT⟩).x.active = none ∧
          Frame s u [.DOEPINT 0] [.ep0, .ep ⟨0, .OUT⟩]) ∧
      ((s.ep0.totalLength ≤ got ∨ 0 < rem) → got ≠ s.ep0.totalLength → bitOf (s.raw (.DIEPCTL 0)) 31 = false →
        ∃ t, exec (.outXfercompl 0) s = .next t ∧ t.ep0.state = .stall ∧ (t.ep ⟨0, .OUT⟩).x.active = none ∧
          bitOf (t.raw (.DIEPCTL 0)) 21 = true ∧ bitOf (t.raw (.DOEPCTL 0)) 21 = true ∧ armed t ∧
          Frame s t (.DOEPINT 0 :: .DIEPCTL 0 :: .DIEPEMPMSK :: outRegs) [.ep0, .ep ⟨0, .IN⟩, .ep ⟨0, .OUT⟩]))

/-- A request that is refused (R310 to R317, R325, R301): both directions of endpoint 0 stall, the state is Stall, and the
reception of the next SETUP packet is armed. In Disconnected, where R303 takes no SETUP packet, a row that runs by itself (log
entry 31) changes nothing. -/
def Obligations.RefusedRequestsStallEndpointZero : Prop :=
  ∀ (s : State) (f : SetupFields), s.Alone → s.reservedLow → s.ControlReady → bitOf (s.raw (.DIEPCTL 0)) 31 = false →
    ∀ i ∈ (if f.dir = .OUT then [Instr.getStatus f, .getDescriptor f] else
        [.clearFeature f, .setFeature f, .setAddress f, .setConfiguration f, .setInterface f]) ++
        (if s.ep0.config = 0 then [.setInterface f] else []),
      (s.ep0.state = .disconnected → ∃ t, exec i s = .next t ∧ Frame s t [] []) ∧
      (s.ep0.state ≠ .disconnected → ∃ t, exec i s = .next t ∧ t.ep0 = { s.ep0 with state := .stall } ∧
        t.raw (.DIEPCTL 0) = s.raw (.DIEPCTL 0) ||| bit1 21 ∧
        t.raw (.DOEPCTL 0) = s.raw (.DOEPCTL 0) ||| 0x80200000 ∧ field (t.raw (.DOEPTSIZ 0)) 0 19 = 8 ∧
        field (t.raw (.DOEPTSIZ 0)) 19 10 = 1 ∧ field (t.raw (.DOEPTSIZ 0)) 29 2 = 1 ∧
        (t.ep ⟨0, .IN⟩).x.active = none ∧ (t.ep ⟨0, .OUT⟩).x.active = none ∧
        Frame s t [.DIEPCTL 0, .DOEPCTL 0, .DOEPTSIZ 0, .DOEPDMA 0, .DIEPEMPMSK]
          [.ep0, .ep ⟨0, .IN⟩, .ep ⟨0, .OUT⟩])
end

