-- ==== Sys2Proof/Laws/Maps.lean ====
section
/-! SUPPORT. Sparse maps: what a stored value reads as, and that storing keeps the canonical form. -/

namespace Sys2Proof.Machine

open Sys2Proof

variable {β : Type} {d v w : β} {m : SMap β} {a b k lo : Nat}

@[simp] theorem SMap.get_nil : SMap.get d ([] : SMap β) a = d := rfl

theorem SMap.get_cons : SMap.get d ((k, v) :: m) a = if k = a then v else SMap.get d m a := rfl

theorem SMap.get_erase_same : SMap.get d (SMap.erase m a) a = d := by
  induction m with
  | nil => rfl
  | cons p m ih =>
    obtain ⟨k, v⟩ := p
    by_cases h : k = a <;> simp [SMap.erase, SMap.get, h, ih]

theorem SMap.get_erase_ne (h : b ≠ a) : SMap.get d (SMap.erase m a) b = SMap.get d m b := by
  induction m with
  | nil => rfl
  | cons p m ih =>
    obtain ⟨k, v⟩ := p
    by_cases hk : k = a
    · simp [SMap.erase, SMap.get, hk, ih, h.symm]
    · simp [SMap.erase, SMap.get, hk, ih]

theorem SMap.get_insert_same (h : SMap.get d m a = d) (hm : ∀ p ∈ m, p.1 ≠ a) :
    SMap.get d (SMap.insert m a v) a = v := by
  induction m with
  | nil => simp [SMap.insert, SMap.get]
  | cons p m ih =>
    obtain ⟨k, w⟩ := p
    have hk : k ≠ a := hm (k, w) (by simp)
    by_cases hlt : a < k
    · simp [SMap.insert, SMap.get, hlt]
    · simp only [SMap.insert, hlt, if_false, SMap.get, hk]
      exact ih (by simpa [SMap.get, hk] using h) fun p hp => hm p (by simp [hp])

theorem SMap.get_insert_ne (h : b ≠ a) : SMap.get d (SMap.insert m a v) b = SMap.get d m b := by
  induction m with
  | nil => simp [SMap.insert, SMap.get, h.symm]
  | cons p m ih =>
    obtain ⟨k, w⟩ := p
    by_cases hlt : a < k
    · simp [SMap.insert, SMap.get, hlt, h.symm]
    · simp [SMap.insert, SMap.get, hlt, ih]

theorem SMap.erase_ne : ∀ p ∈ SMap.erase m a, p.1 ≠ a := by
  induction m with
  | nil => simp [SMap.erase]
  | cons p m ih =>
    obtain ⟨k, v⟩ := p
    by_cases h : k = a
    · simpa [SMap.erase, h] using ih
    · simpa [SMap.erase, h] using ih

section
variable [DecidableEq β]

/-- A stored value is read back. -/
@[simp] theorem SMap.get_put_same : SMap.get d (SMap.put d m a v) a = v := by
  unfold SMap.put
  split
  · next h => rw [SMap.get_erase_same, h]
  · exact SMap.get_insert_same SMap.get_erase_same SMap.erase_ne

/-- Storing leaves every other key alone. -/
theorem SMap.get_put_ne (h : b ≠ a) : SMap.get d (SMap.put d m a v) b = SMap.get d m b := by
  unfold SMap.put
  split
  · exact SMap.get_erase_ne h
  · rw [SMap.get_insert_ne h, SMap.get_erase_ne h]

omit [DecidableEq β] in
theorem SMap.above_mono {lo' : Nat} (h : SMap.above lo m = true) (hlo : lo' ≤ lo) : SMap.above lo' m = true := by
  simp only [SMap.above, List.all_eq_true, decide_eq_true_eq] at *
  exact fun p hp => Nat.lt_of_le_of_lt hlo (h p hp)

omit [DecidableEq β] in
theorem SMap.above_erase (h : SMap.above lo m = true) : SMap.above lo (SMap.erase m a) = true := by
  induction m with
  | nil => rfl
  | cons p m ih =>
    obtain ⟨k, v⟩ := p
    simp only [SMap.above, List.all_cons, Bool.and_eq_true] at h
    by_cases hk : k = a
    · simpa [SMap.erase, hk] using ih h.2
    · simp only [SMap.erase, hk, if_false, SMap.above, List.all_cons, Bool.and_eq_true]
      exact ⟨h.1, ih h.2⟩

omit [DecidableEq β] in
theorem SMap.above_insert (h : SMap.above lo m = true) (ha : lo < a) : SMap.above lo (SMap.insert m a v) = true := by
  induction m with
  | nil => simp [SMap.insert, SMap.above, ha]
  | cons p m ih =>
    obtain ⟨k, w⟩ := p
    simp only [SMap.above, List.all_cons, Bool.and_eq_true, decide_eq_true_eq] at h
    by_cases hlt : a < k
    · simp only [SMap.insert, hlt, if_true, SMap.above, List.all_cons, Bool.and_eq_true, decide_eq_true_eq]
      exact ⟨ha, h.1, h.2⟩
    · simp only [SMap.insert, hlt, if_false, SMap.above, List.all_cons, Bool.and_eq_true, decide_eq_true_eq]
      exact ⟨h.1, ih h.2⟩

theorem SMap.wf_erase (h : SMap.wf d m = true) : SMap.wf d (SMap.erase m a) = true := by
  induction m with
  | nil => rfl
  | cons p m ih =>
    obtain ⟨k, v⟩ := p
    simp only [SMap.wf, Bool.and_eq_true] at h
    by_cases hk : k = a
    · simpa [SMap.erase, hk] using ih h.2
    · simp only [SMap.erase, hk, if_false, SMap.wf, Bool.and_eq_true]
      exact ⟨⟨h.1.1, SMap.above_erase h.1.2⟩, ih h.2⟩

theorem SMap.wf_insert (h : SMap.wf d m = true) (hv : v ≠ d) (hm : ∀ p ∈ m, p.1 ≠ a) :
    SMap.wf d (SMap.insert m a v) = true := by
  induction m with
  | nil => simp [SMap.insert, SMap.wf, SMap.above, hv]
  | cons p m ih =>
    obtain ⟨k, w⟩ := p
    have hk : k ≠ a := hm (k, w) (by simp)
    have h' := h
    simp only [SMap.wf, Bool.and_eq_true] at h'
    by_cases hlt : a < k
    · have ha : SMap.above a ((k, w) :: m) = true := by
        have := SMap.above_mono h'.1.2 (Nat.le_of_lt hlt)
        simp only [SMap.above, List.all_cons, Bool.and_eq_true, decide_eq_true_eq] at *
        exact ⟨hlt, this⟩
      simp only [SMap.insert, hlt, if_true]
      unfold SMap.wf
      simp [hv, ha, h]
    · simp only [SMap.insert, hlt, if_false, SMap.wf, Bool.and_eq_true]
      exact ⟨⟨h'.1.1, SMap.above_insert h'.1.2 (by omega)⟩, ih h'.2 fun p hp => hm p (by simp [hp])⟩

/-- Storing keeps the canonical form. -/
theorem SMap.wf_put (h : SMap.wf d m = true) : SMap.wf d (SMap.put d m a v) = true := by
  unfold SMap.put
  split
  · exact SMap.wf_erase h
  · next hv => exact SMap.wf_insert (SMap.wf_erase h) hv SMap.erase_ne

end

/-- A memory byte that is stored is read back. -/
@[simp] theorem State.byte_setByte_same (s : State) (a : Word) (b : Byte) : (s.setByte a b).byte a = b := by
  simp [State.setByte, State.byte]

/-- Storing a byte leaves every other byte alone. -/
theorem State.byte_setByte_ne (s : State) {a a' : Word} (b : Byte) (h : a' ≠ a) :
    (s.setByte a b).byte a' = s.byte a' := by
  simp only [State.setByte, State.byte]
  exact SMap.get_put_ne fun e => h (BitVec.eq_of_toNat_eq e)

/-- Storing a byte keeps the memory canonical. -/
theorem State.setByte_wf {s : State} (a : Word) (b : Byte) (h : Memory.wf s.mem = true) :
    Memory.wf (s.setByte a b).mem = true := SMap.wf_put h

/-- Storing bytes keeps the memory canonical. -/
theorem State.setBytes_wf (bs : List Byte) : ∀ {s : State} (a : Word), Memory.wf s.mem = true →
    Memory.wf (s.setBytes a bs).mem = true := by
  induction bs with
  | nil => exact fun _ h => h
  | cons b bs ih => exact fun a h => ih (a + 1) (State.setByte_wf a b h)

/-- Storing a word keeps the memory canonical. -/
theorem State.setWord_wf {s : State} (a w : Word) (h : Memory.wf s.mem = true) :
    Memory.wf (s.setWord a w).mem = true := State.setBytes_wf _ a h

end Sys2Proof.Machine
end

