-- ==== Sys2Proof/Laws/Monad.lean ====
section
/-! SUPPORT. Running a procedure: one lemma per building block of a step, and the rules by which a property of procedures
passes from the blocks to everything built from them. -/

namespace Sys2Proof.Machine

open Sys2Proof

variable {α β : Type}

@[simp] theorem run_pure (a : α) (h : Hooks) (s : State) : (pure a : M α) h s = .ok (a, s) := rfl

theorem run_bind (p : M α) (f : α → M β) (h : Hooks) (s : State) :
    (p >>= f) h s = match p h s with
      | .ok (a, t) => f a h t
      | .error e => .error e := by
  show (p h s >>= fun x => f x.1 h x.2) = _
  cases p h s <;> rfl

@[simp] theorem run_map_act (f : Unit → β) (g : State → State) (h : Hooks) (s : State) :
    (f <$> act g) h s = .ok (f (), g s) := rfl

/-- A bind after a first part that has run. -/
theorem run_bind_ok {p : M α} {f : α → M β} {h : Hooks} {s t : State} {a : α} (hp : p h s = .ok (a, t)) :
    (p >>= f) h s = f a h t := by rw [run_bind, hp]

@[simp] theorem run_ask_bind (g : State → α) (f : α → M β) (h : Hooks) (s : State) :
    (ask g >>= f) h s = f (g s) h s := rfl

@[simp] theorem run_act_bind (g : State → State) (f : Unit → M β) (h : Hooks) (s : State) :
    (act g >>= f) h s = f () h (g s) := rfl

@[simp] theorem run_pure_bind (a : α) (f : α → M β) (h : Hooks) (s : State) :
    ((pure a : M α) >>= f) h s = f a h s := rfl

@[simp] theorem run_ask (g : State → α) (h : Hooks) (s : State) : (ask g) h s = .ok (g s, s) := rfl

@[simp] theorem run_act (g : State → State) (h : Hooks) (s : State) : (act g) h s = .ok ((), g s) := rfl

@[simp] theorem run_doIf_true (p : M Unit) (h : Hooks) (s : State) : (doIf true p) h s = p h s := rfl

@[simp] theorem run_doIf_false (p : M Unit) (h : Hooks) (s : State) : (doIf false p) h s = .ok ((), s) := rfl

/-- Whether nothing outside the sequencer happens before an access: no slot of the environment, LINK not prompt, no
handler due. -/
def State.Silent (s : State) : Prop := s.env = [] ∧ s.prompt = false ∧ s.irqDue = false

theorem tick_silent {s : State} (he : s.env = []) (hp : s.prompt = false) : s.tick = s := by
  simp [State.tick, State.takeSlot, State.when, he, hp]

/-- Before an access of a silent state nothing happens. -/
theorem between_silent {s : State} (hs : s.Silent) (h : Hooks) : between h s = .ok ((), s) := by
  simp [between, tick_silent hs.1 hs.2.1, hs.2.2]

@[simp] theorem run_readNow (r : Reg) (h : Hooks) (s : State) :
    readNow r h s = .ok ((s.readReg r).1, ((s.note (.rd r.offset (s.readReg r).1)).readReg r).2) := rfl

@[simp] theorem run_writeNow (r : Reg) (v : Word) (h : Hooks) (s : State) :
    writeNow r v h s = .ok ((), (s.writeReg r v).note (.wr r.offset v)) := rfl

/-- A read in a silent state. -/
theorem regRead_silent {s : State} {r : Reg} (hs : s.Silent) (ha : s.accessible r = true) (h : Hooks) :
    regRead r h s = .ok ((s.readReg r).1, ((s.note (.rd r.offset (s.readReg r).1)).readReg r).2) := by
  simp [regRead, run_bind_ok (between_silent hs h), ha]

/-- A write in a silent state. -/
theorem regWrite_silent {s : State} {r : Reg} (hs : s.Silent) (ha : s.accessible r = true) (v : Word) (h : Hooks) :
    regWrite r v h s = .ok ((), (s.writeReg r v).note (.wr r.offset v)) := by
  simp [regWrite, run_bind_ok (between_silent hs h), ha]

/-- A 32-bit memory read in a silent state. -/
theorem memRead32_silent {s : State} (hs : s.Silent) (a : Word) (h : Hooks) :
    memRead32 a h s = .ok (s.word a, s.note (.mr a.toNat (s.word a))) := by
  simp [memRead32, run_bind_ok (between_silent hs h)]

/-- A 32-bit memory write in a silent state, outside the descriptors that DMA owns. -/
theorem memWrite32_silent {s : State} (hs : s.Silent) (a v : Word) (ho : s.owned a = false) (h : Hooks) :
    memWrite32 a v h s = .ok ((), (s.setWord a v).note (.mw a.toNat v)) := by
  simp [memWrite32, run_bind_ok (between_silent hs h), ho]

/-- With no command scripted, UPPER does nothing in a callback. -/
theorem upper_idle (n : Nat) {s : State} (hr : s.replies = []) : (hooksAt n).upper s = .ok s := by
  cases n <;> simp [hooksAt, upperNext, hr]

/-- A callback into an idle UPPER is recorded, and no more. -/
theorem callback_idle (n : Nat) {s : State} (c : Callback) (hr : s.replies = []) :
    callback c (hooksAt n) s = .ok ((), s.note (.cb c)) := by
  have : (hooksAt n).upper (s.note (.cb c)) = .ok (s.note (.cb c)) := upper_idle n hr
  simp [callback, callHook, this]

/-- An assertion is silent in a build without DEBUG. -/
theorem assertThat_release {s : State} (hd : s.hw.debug = false) (c : Bool) (a : Assertion) (h : Hooks) :
    assertThat c a h s = .ok ((), s) := by
  simp [assertThat, hd]

end Sys2Proof.Machine
end

