-- ==== Sys2Proof/Laws/State.lean ====
section
/-! SUPPORT. One lemma for each field and each named update of the state, true by definition, so that no later proof
unfolds a record update. -/

namespace Sys2Proof.Machine

open Sys2Proof

/-! `note`. -/

@[simp] theorem State.note_hw (s : State) (e : TraceEv) : (s.note e).hw = s.hw := rfl
@[simp] theorem State.note_plat (s : State) (e : TraceEv) : (s.note e).plat = s.plat := rfl
@[simp] theorem State.note_regs (s : State) (e : TraceEv) : (s.note e).regs = s.regs := rfl
@[simp] theorem State.note_fifo (s : State) (e : TraceEv) : (s.note e).fifo = s.fifo := rfl
@[simp] theorem State.note_mem (s : State) (e : TraceEv) : (s.note e).mem = s.mem := rfl
@[simp] theorem State.note_core (s : State) (e : TraceEv) : (s.note e).core = s.core := rfl
@[simp] theorem State.note_epIn (s : State) (e : TraceEv) : (s.note e).epIn = s.epIn := rfl
@[simp] theorem State.note_epOut (s : State) (e : TraceEv) : (s.note e).epOut = s.epOut := rfl
@[simp] theorem State.note_ch (s : State) (e : TraceEv) : (s.note e).ch = s.ch := rfl
@[simp] theorem State.note_pool (s : State) (e : TraceEv) : (s.note e).pool = s.pool := rfl
@[simp] theorem State.note_ep0 (s : State) (e : TraceEv) : (s.note e).ep0 = s.ep0 := rfl
@[simp] theorem State.note_iso (s : State) (e : TraceEv) : (s.note e).iso = s.iso := rfl
@[simp] theorem State.note_htog (s : State) (e : TraceEv) : (s.note e).htog = s.htog := rfl
@[simp] theorem State.note_ctx (s : State) (e : TraceEv) : (s.note e).ctx = s.ctx := rfl
@[simp] theorem State.note_recordsExist (s : State) (e : TraceEv) : (s.note e).recordsExist = s.recordsExist := rfl
@[simp] theorem State.note_rrNp (s : State) (e : TraceEv) : (s.note e).rrNp = s.rrNp := rfl
@[simp] theorem State.note_rrP (s : State) (e : TraceEv) : (s.note e).rrP = s.rrP := rfl
@[simp] theorem State.note_inbox (s : State) (e : TraceEv) : (s.note e).inbox = s.inbox := rfl
@[simp] theorem State.note_replies (s : State) (e : TraceEv) : (s.note e).replies = s.replies := rfl
@[simp] theorem State.note_env (s : State) (e : TraceEv) : (s.note e).env = s.env := rfl
@[simp] theorem State.note_prompt (s : State) (e : TraceEv) : (s.note e).prompt = s.prompt := rfl
@[simp] theorem State.note_engine (s : State) (e : TraceEv) : (s.note e).engine = s.engine := rfl
@[simp] theorem State.note_hold (s : State) (e : TraceEv) : (s.note e).hold = s.hold := rfl
@[simp] theorem State.note_owed (s : State) (e : TraceEv) : (s.note e).owed = s.owed := rfl
@[simp] theorem State.note_inCb (s : State) (e : TraceEv) : (s.note e).inCb = s.inCb := rfl
@[simp] theorem State.note_patience (s : State) (e : TraceEv) : (s.note e).patience = s.patience := rfl
@[simp] theorem State.note_poolDraws (s : State) (e : TraceEv) : (s.note e).poolDraws = s.poolDraws := rfl
@[simp] theorem State.note_draws (s : State) (e : TraceEv) : (s.note e).draws = s.draws := rfl
@[simp] theorem State.note_result (s : State) (e : TraceEv) : (s.note e).result = s.result := rfl
@[simp] theorem State.note_trace (s : State) (e : TraceEv) : (s.note e).trace = e :: s.trace := rfl

/-! `drawn`. -/

@[simp] theorem State.drawn_hw (s : State) (n : Nat) : (s.drawn n).hw = s.hw := rfl
@[simp] theorem State.drawn_plat (s : State) (n : Nat) : (s.drawn n).plat = s.plat := rfl
@[simp] theorem State.drawn_regs (s : State) (n : Nat) : (s.drawn n).regs = s.regs := rfl
@[simp] theorem State.drawn_fifo (s : State) (n : Nat) : (s.drawn n).fifo = s.fifo := rfl
@[simp] theorem State.drawn_mem (s : State) (n : Nat) : (s.drawn n).mem = s.mem := rfl
@[simp] theorem State.drawn_core (s : State) (n : Nat) : (s.drawn n).core = s.core := rfl
@[simp] theorem State.drawn_epIn (s : State) (n : Nat) : (s.drawn n).epIn = s.epIn := rfl
@[simp] theorem State.drawn_epOut (s : State) (n : Nat) : (s.drawn n).epOut = s.epOut := rfl
@[simp] theorem State.drawn_ch (s : State) (n : Nat) : (s.drawn n).ch = s.ch := rfl
@[simp] theorem State.drawn_pool (s : State) (n : Nat) : (s.drawn n).pool = s.pool := rfl
@[simp] theorem State.drawn_ep0 (s : State) (n : Nat) : (s.drawn n).ep0 = s.ep0 := rfl
@[simp] theorem State.drawn_iso (s : State) (n : Nat) : (s.drawn n).iso = s.iso := rfl
@[simp] theorem State.drawn_htog (s : State) (n : Nat) : (s.drawn n).htog = s.htog := rfl
@[simp] theorem State.drawn_ctx (s : State) (n : Nat) : (s.drawn n).ctx = s.ctx := rfl
@[simp] theorem State.drawn_recordsExist (s : State) (n : Nat) : (s.drawn n).recordsExist = s.recordsExist := rfl
@[simp] theorem State.drawn_rrNp (s : State) (n : Nat) : (s.drawn n).rrNp = s.rrNp := rfl
@[simp] theorem State.drawn_rrP (s : State) (n : Nat) : (s.drawn n).rrP = s.rrP := rfl
@[simp] theorem State.drawn_inbox (s : State) (n : Nat) : (s.drawn n).inbox = s.inbox := rfl
@[simp] theorem State.drawn_replies (s : State) (n : Nat) : (s.drawn n).replies = s.replies := rfl
@[simp] theorem State.drawn_env (s : State) (n : Nat) : (s.drawn n).env = s.env := rfl
@[simp] theorem State.drawn_prompt (s : State) (n : Nat) : (s.drawn n).prompt = s.prompt := rfl
@[simp] theorem State.drawn_engine (s : State) (n : Nat) : (s.drawn n).engine = s.engine := rfl
@[simp] theorem State.drawn_hold (s : State) (n : Nat) : (s.drawn n).hold = s.hold := rfl
@[simp] theorem State.drawn_owed (s : State) (n : Nat) : (s.drawn n).owed = s.owed := rfl
@[simp] theorem State.drawn_inCb (s : State) (n : Nat) : (s.drawn n).inCb = s.inCb := rfl
@[simp] theorem State.drawn_patience (s : State) (n : Nat) : (s.drawn n).patience = s.patience := rfl
@[simp] theorem State.drawn_poolDraws (s : State) (n : Nat) : (s.drawn n).poolDraws = s.poolDraws := rfl
@[simp] theorem State.drawn_draws (s : State) (n : Nat) : (s.drawn n).draws = s.draws + n := rfl
@[simp] theorem State.drawn_result (s : State) (n : Nat) : (s.drawn n).result = s.result := rfl
@[simp] theorem State.drawn_trace (s : State) (n : Nat) : (s.drawn n).trace = s.trace := rfl

/-! `setRaw`. -/

@[simp] theorem State.setRaw_hw (s : State) (r : Reg) (v : Word) : (s.setRaw r v).hw = s.hw := rfl
@[simp] theorem State.setRaw_plat (s : State) (r : Reg) (v : Word) : (s.setRaw r v).plat = s.plat := rfl
@[simp] theorem State.setRaw_fifo (s : State) (r : Reg) (v : Word) : (s.setRaw r v).fifo = s.fifo := rfl
@[simp] theorem State.setRaw_mem (s : State) (r : Reg) (v : Word) : (s.setRaw r v).mem = s.mem := rfl
@[simp] theorem State.setRaw_core (s : State) (r : Reg) (v : Word) : (s.setRaw r v).core = s.core := rfl
@[simp] theorem State.setRaw_epIn (s : State) (r : Reg) (v : Word) : (s.setRaw r v).epIn = s.epIn := rfl
@[simp] theorem State.setRaw_epOut (s : State) (r : Reg) (v : Word) : (s.setRaw r v).epOut = s.epOut := rfl
@[simp] theorem State.setRaw_ch (s : State) (r : Reg) (v : Word) : (s.setRaw r v).ch = s.ch := rfl
@[simp] theorem State.setRaw_pool (s : State) (r : Reg) (v : Word) : (s.setRaw r v).pool = s.pool := rfl
@[simp] theorem State.setRaw_ep0 (s : State) (r : Reg) (v : Word) : (s.setRaw r v).ep0 = s.ep0 := rfl
@[simp] theorem State.setRaw_iso (s : State) (r : Reg) (v : Word) : (s.setRaw r v).iso = s.iso := rfl
@[simp] theorem State.setRaw_htog (s : State) (r : Reg) (v : Word) : (s.setRaw r v).htog = s.htog := rfl
@[simp] theorem State.setRaw_ctx (s : State) (r : Reg) (v : Word) : (s.setRaw r v).ctx = s.ctx := rfl
@[simp] theorem State.setRaw_recordsExist (s : State) (r : Reg) (v : Word) :
    (s.setRaw r v).recordsExist = s.recordsExist := rfl
@[simp] theorem State.setRaw_rrNp (s : State) (r : Reg) (v : Word) : (s.setRaw r v).rrNp = s.rrNp := rfl
@[simp] theorem State.setRaw_rrP (s : State) (r : Reg) (v : Word) : (s.setRaw r v).rrP = s.rrP := rfl
@[simp] theorem State.setRaw_inbox (s : State) (r : Reg) (v : Word) : (s.setRaw r v).inbox = s.inbox := rfl
@[simp] theorem State.setRaw_replies (s : State) (r : Reg) (v : Word) : (s.setRaw r v).replies = s.replies := rfl
@[simp] theorem State.setRaw_env (s : State) (r : Reg) (v : Word) : (s.setRaw r v).env = s.env := rfl
@[simp] theorem State.setRaw_prompt (s : State) (r : Reg) (v : Word) : (s.setRaw r v).prompt = s.prompt := rfl
@[simp] theorem State.setRaw_engine (s : State) (r : Reg) (v : Word) : (s.setRaw r v).engine = s.engine := rfl
@[simp] theorem State.setRaw_hold (s : State) (r : Reg) (v : Word) : (s.setRaw r v).hold = s.hold := rfl
@[simp] theorem State.setRaw_owed (s : State) (r : Reg) (v : Word) : (s.setRaw r v).owed = s.owed := rfl
@[simp] theorem State.setRaw_inCb (s : State) (r : Reg) (v : Word) : (s.setRaw r v).inCb = s.inCb := rfl
@[simp] theorem State.setRaw_patience (s : State) (r : Reg) (v : Word) : (s.setRaw r v).patience = s.patience := rfl
@[simp] theorem State.setRaw_poolDraws (s : State) (r : Reg) (v : Word) : (s.setRaw r v).poolDraws = s.poolDraws := rfl
@[simp] theorem State.setRaw_draws (s : State) (r : Reg) (v : Word) : (s.setRaw r v).draws = s.draws := rfl
@[simp] theorem State.setRaw_result (s : State) (r : Reg) (v : Word) : (s.setRaw r v).result = s.result := rfl
@[simp] theorem State.setRaw_trace (s : State) (r : Reg) (v : Word) : (s.setRaw r v).trace = s.trace := rfl
@[simp] theorem State.setRaw_regs (s : State) (r : Reg) (v : Word) :
    (s.setRaw r v).regs = SMap.put 0 s.regs r.offset v := rfl

/-! `setBits`. -/

@[simp] theorem State.setBits_hw (s : State) (r : Reg) (v : Word) : (s.setBits r v).hw = s.hw := rfl
@[simp] theorem State.setBits_plat (s : State) (r : Reg) (v : Word) : (s.setBits r v).plat = s.plat := rfl
@[simp] theorem State.setBits_fifo (s : State) (r : Reg) (v : Word) : (s.setBits r v).fifo = s.fifo := rfl
@[simp] theorem State.setBits_mem (s : State) (r : Reg) (v : Word) : (s.setBits r v).mem = s.mem := rfl
@[simp] theorem State.setBits_core (s : State) (r : Reg) (v : Word) : (s.setBits r v).core = s.core := rfl
@[simp] theorem State.setBits_epIn (s : State) (r : Reg) (v : Word) : (s.setBits r v).epIn = s.epIn := rfl
@[simp] theorem State.setBits_epOut (s : State) (r : Reg) (v : Word) : (s.setBits r v).epOut = s.epOut := rfl
@[simp] theorem State.setBits_ch (s : State) (r : Reg) (v : Word) : (s.setBits r v).ch = s.ch := rfl
@[simp] theorem State.setBits_pool (s : State) (r : Reg) (v : Word) : (s.setBits r v).pool = s.pool := rfl
@[simp] theorem State.setBits_ep0 (s : State) (r : Reg) (v : Word) : (s.setBits r v).ep0 = s.ep0 := rfl
@[simp] theorem State.setBits_iso (s : State) (r : Reg) (v : Word) : (s.setBits r v).iso = s.iso := rfl
@[simp] theorem State.setBits_htog (s : State) (r : Reg) (v : Word) : (s.setBits r v).htog = s.htog := rfl
@[simp] theorem State.setBits_ctx (s : State) (r : Reg) (v : Word) : (s.setBits r v).ctx = s.ctx := rfl
@[simp] theorem State.setBits_recordsExist (s : State) (r : Reg) (v : Word) :
    (s.setBits r v).recordsExist = s.recordsExist := rfl
@[simp] theorem State.setBits_rrNp (s : State) (r : Reg) (v : Word) : (s.setBits r v).rrNp = s.rrNp := rfl
@[simp] theorem State.setBits_rrP (s : State) (r : Reg) (v : Word) : (s.setBits r v).rrP = s.rrP := rfl
@[simp] theorem State.setBits_inbox (s : State) (r : Reg) (v : Word) : (s.setBits r v).inbox = s.inbox := rfl
@[simp] theorem State.setBits_replies (s : State) (r : Reg) (v : Word) : (s.setBits r v).replies = s.replies := rfl
@[simp] theorem State.setBits_env (s : State) (r : Reg) (v : Word) : (s.setBits r v).env = s.env := rfl
@[simp] theorem State.setBits_prompt (s : State) (r : Reg) (v : Word) : (s.setBits r v).prompt = s.prompt := rfl
@[simp] theorem State.setBits_engine (s : State) (r : Reg) (v : Word) : (s.setBits r v).engine = s.engine := rfl
@[simp] theorem State.setBits_hold (s : State) (r : Reg) (v : Word) : (s.setBits r v).hold = s.hold := rfl
@[simp] theorem State.setBits_owed (s : State) (r : Reg) (v : Word) : (s.setBits r v).owed = s.owed := rfl
@[simp] theorem State.setBits_inCb (s : State) (r : Reg) (v : Word) : (s.setBits r v).inCb = s.inCb := rfl
@[simp] theorem State.setBits_patience (s : State) (r : Reg) (v : Word) : (s.setBits r v).patience = s.patience := rfl
@[simp] theorem State.setBits_poolDraws (s : State) (r : Reg) (v : Word) :
    (s.setBits r v).poolDraws = s.poolDraws := rfl
@[simp] theorem State.setBits_draws (s : State) (r : Reg) (v : Word) : (s.setBits r v).draws = s.draws := rfl
@[simp] theorem State.setBits_result (s : State) (r : Reg) (v : Word) : (s.setBits r v).result = s.result := rfl
@[simp] theorem State.setBits_trace (s : State) (r : Reg) (v : Word) : (s.setBits r v).trace =
    .hw r.offset (s.raw r ||| v) :: s.trace := rfl

/-! `clearBits`. -/

@[simp] theorem State.clearBits_hw (s : State) (r : Reg) (v : Word) : (s.clearBits r v).hw = s.hw := rfl
@[simp] theorem State.clearBits_plat (s : State) (r : Reg) (v : Word) : (s.clearBits r v).plat = s.plat := rfl
@[simp] theorem State.clearBits_fifo (s : State) (r : Reg) (v : Word) : (s.clearBits r v).fifo = s.fifo := rfl
@[simp] theorem State.clearBits_mem (s : State) (r : Reg) (v : Word) : (s.clearBits r v).mem = s.mem := rfl
@[simp] theorem State.clearBits_core (s : State) (r : Reg) (v : Word) : (s.clearBits r v).core = s.core := rfl
@[simp] theorem State.clearBits_epIn (s : State) (r : Reg) (v : Word) : (s.clearBits r v).epIn = s.epIn := rfl
@[simp] theorem State.clearBits_epOut (s : State) (r : Reg) (v : Word) : (s.clearBits r v).epOut = s.epOut := rfl
@[simp] theorem State.clearBits_ch (s : State) (r : Reg) (v : Word) : (s.clearBits r v).ch = s.ch := rfl
@[simp] theorem State.clearBits_pool (s : State) (r : Reg) (v : Word) : (s.clearBits r v).pool = s.pool := rfl
@[simp] theorem State.clearBits_ep0 (s : State) (r : Reg) (v : Word) : (s.clearBits r v).ep0 = s.ep0 := rfl
@[simp] theorem State.clearBits_iso (s : State) (r : Reg) (v : Word) : (s.clearBits r v).iso = s.iso := rfl
@[simp] theorem State.clearBits_htog (s : State) (r : Reg) (v : Word) : (s.clearBits r v).htog = s.htog := rfl
@[simp] theorem State.clearBits_ctx (s : State) (r : Reg) (v : Word) : (s.clearBits r v).ctx = s.ctx := rfl
@[simp] theorem State.clearBits_recordsExist (s : State) (r : Reg) (v : Word) :
    (s.clearBits r v).recordsExist = s.recordsExist := rfl
@[simp] theorem State.clearBits_rrNp (s : State) (r : Reg) (v : Word) : (s.clearBits r v).rrNp = s.rrNp := rfl
@[simp] theorem State.clearBits_rrP (s : State) (r : Reg) (v : Word) : (s.clearBits r v).rrP = s.rrP := rfl
@[simp] theorem State.clearBits_inbox (s : State) (r : Reg) (v : Word) : (s.clearBits r v).inbox = s.inbox := rfl
@[simp] theorem State.clearBits_replies (s : State) (r : Reg) (v : Word) : (s.clearBits r v).replies = s.replies := rfl
@[simp] theorem State.clearBits_env (s : State) (r : Reg) (v : Word) : (s.clearBits r v).env = s.env := rfl
@[simp] theorem State.clearBits_prompt (s : State) (r : Reg) (v : Word) : (s.clearBits r v).prompt = s.prompt := rfl
@[simp] theorem State.clearBits_engine (s : State) (r : Reg) (v : Word) : (s.clearBits r v).engine = s.engine := rfl
@[simp] theorem State.clearBits_hold (s : State) (r : Reg) (v : Word) : (s.clearBits r v).hold = s.hold := rfl
@[simp] theorem State.clearBits_owed (s : State) (r : Reg) (v : Word) : (s.clearBits r v).owed = s.owed := rfl
@[simp] theorem State.clearBits_inCb (s : State) (r : Reg) (v : Word) : (s.clearBits r v).inCb = s.inCb := rfl
@[simp] theorem State.clearBits_patience (s : State) (r : Reg) (v : Word) : (s.clearBits r v).patience = s.patience := rfl
@[simp] theorem State.clearBits_poolDraws (s : State) (r : Reg) (v : Word) :
    (s.clearBits r v).poolDraws = s.poolDraws := rfl
@[simp] theorem State.clearBits_draws (s : State) (r : Reg) (v : Word) : (s.clearBits r v).draws = s.draws := rfl
@[simp] theorem State.clearBits_result (s : State) (r : Reg) (v : Word) : (s.clearBits r v).result = s.result := rfl
@[simp] theorem State.clearBits_trace (s : State) (r : Reg) (v : Word) : (s.clearBits r v).trace =
    .hw r.offset (s.raw r &&& ~~~v) :: s.trace := rfl

/-! `setByte`. -/

@[simp] theorem State.setByte_hw (s : State) (a : Word) (b : Byte) : (s.setByte a b).hw = s.hw := rfl
@[simp] theorem State.setByte_plat (s : State) (a : Word) (b : Byte) : (s.setByte a b).plat = s.plat := rfl
@[simp] theorem State.setByte_regs (s : State) (a : Word) (b : Byte) : (s.setByte a b).regs = s.regs := rfl
@[simp] theorem State.setByte_fifo (s : State) (a : Word) (b : Byte) : (s.setByte a b).fifo = s.fifo := rfl
@[simp] theorem State.setByte_core (s : State) (a : Word) (b : Byte) : (s.setByte a b).core = s.core := rfl
@[simp] theorem State.setByte_epIn (s : State) (a : Word) (b : Byte) : (s.setByte a b).epIn = s.epIn := rfl
@[simp] theorem State.setByte_epOut (s : State) (a : Word) (b : Byte) : (s.setByte a b).epOut = s.epOut := rfl
@[simp] theorem State.setByte_ch (s : State) (a : Word) (b : Byte) : (s.setByte a b).ch = s.ch := rfl
@[simp] theorem State.setByte_pool (s : State) (a : Word) (b : Byte) : (s.setByte a b).pool = s.pool := rfl
@[simp] theorem State.setByte_ep0 (s : State) (a : Word) (b : Byte) : (s.setByte a b).ep0 = s.ep0 := rfl
@[simp] theorem State.setByte_iso (s : State) (a : Word) (b : Byte) : (s.setByte a b).iso = s.iso := rfl
@[simp] theorem State.setByte_htog (s : State) (a : Word) (b : Byte) : (s.setByte a b).htog = s.htog := rfl
@[simp] theorem State.setByte_ctx (s : State) (a : Word) (b : Byte) : (s.setByte a b).ctx = s.ctx := rfl
@[simp] theorem State.setByte_recordsExist (s : State) (a : Word) (b : Byte) :
    (s.setByte a b).recordsExist = s.recordsExist := rfl
@[simp] theorem State.setByte_rrNp (s : State) (a : Word) (b : Byte) : (s.setByte a b).rrNp = s.rrNp := rfl
@[simp] theorem State.setByte_rrP (s : State) (a : Word) (b : Byte) : (s.setByte a b).rrP = s.rrP := rfl
@[simp] theorem State.setByte_inbox (s : State) (a : Word) (b : Byte) : (s.setByte a b).inbox = s.inbox := rfl
@[simp] theorem State.setByte_replies (s : State) (a : Word) (b : Byte) : (s.setByte a b).replies = s.replies := rfl
@[simp] theorem State.setByte_env (s : State) (a : Word) (b : Byte) : (s.setByte a b).env = s.env := rfl
@[simp] theorem State.setByte_prompt (s : State) (a : Word) (b : Byte) : (s.setByte a b).prompt = s.prompt := rfl
@[simp] theorem State.setByte_engine (s : State) (a : Word) (b : Byte) : (s.setByte a b).engine = s.engine := rfl
@[simp] theorem State.setByte_hold (s : State) (a : Word) (b : Byte) : (s.setByte a b).hold = s.hold := rfl
@[simp] theorem State.setByte_owed (s : State) (a : Word) (b : Byte) : (s.setByte a b).owed = s.owed := rfl
@[simp] theorem State.setByte_inCb (s : State) (a : Word) (b : Byte) : (s.setByte a b).inCb = s.inCb := rfl
@[simp] theorem State.setByte_patience (s : State) (a : Word) (b : Byte) : (s.setByte a b).patience = s.patience := rfl
@[simp] theorem State.setByte_poolDraws (s : State) (a : Word) (b : Byte) :
    (s.setByte a b).poolDraws = s.poolDraws := rfl
@[simp] theorem State.setByte_draws (s : State) (a : Word) (b : Byte) : (s.setByte a b).draws = s.draws := rfl
@[simp] theorem State.setByte_result (s : State) (a : Word) (b : Byte) : (s.setByte a b).result = s.result := rfl
@[simp] theorem State.setByte_trace (s : State) (a : Word) (b : Byte) : (s.setByte a b).trace = s.trace := rfl
@[simp] theorem State.setByte_mem (s : State) (a : Word) (b : Byte) :
    (s.setByte a b).mem = SMap.put 0 s.mem a.toNat b := rfl

/-! `setBytes`, `setWord`. -/

theorem State.setBytes_only (s : State) (a : Word) (bs : List Byte) :
    s.setBytes a bs = { s with mem := (s.setBytes a bs).mem } := by
  induction bs generalizing s a with
  | nil => rfl
  | cons b bs ih =>
    rw [State.setBytes, ih]
    rfl
@[simp] theorem State.setBytes_hw (s : State) (a : Word) (bs : List Byte) : (s.setBytes a bs).hw = s.hw := by
  rw [State.setBytes_only]
@[simp] theorem State.setBytes_plat (s : State) (a : Word) (bs : List Byte) : (s.setBytes a bs).plat = s.plat := by
  rw [State.setBytes_only]
@[simp] theorem State.setBytes_regs (s : State) (a : Word) (bs : List Byte) : (s.setBytes a bs).regs = s.regs := by
  rw [State.setBytes_only]
@[simp] theorem State.setBytes_fifo (s : State) (a : Word) (bs : List Byte) : (s.setBytes a bs).fifo = s.fifo := by
  rw [State.setBytes_only]
@[simp] theorem State.setBytes_core (s : State) (a : Word) (bs : List Byte) : (s.setBytes a bs).core = s.core := by
  rw [State.setBytes_only]
@[simp] theorem State.setBytes_epIn (s : State) (a : Word) (bs : List Byte) : (s.setBytes a bs).epIn = s.epIn := by
  rw [State.setBytes_only]
@[simp] theorem State.setBytes_epOut (s : State) (a : Word) (bs : List Byte) : (s.setBytes a bs).epOut = s.epOut := by
  rw [State.setBytes_only]
@[simp] theorem State.setBytes_ch (s : State) (a : Word) (bs : List Byte) : (s.setBytes a bs).ch = s.ch := by
  rw [State.setBytes_only]
@[simp] theorem State.setBytes_pool (s : State) (a : Word) (bs : List Byte) : (s.setBytes a bs).pool = s.pool := by
  rw [State.setBytes_only]
@[simp] theorem State.setBytes_ep0 (s : State) (a : Word) (bs : List Byte) : (s.setBytes a bs).ep0 = s.ep0 := by
  rw [State.setBytes_only]
@[simp] theorem State.setBytes_iso (s : State) (a : Word) (bs : List Byte) : (s.setBytes a bs).iso = s.iso := by
  rw [State.setBytes_only]
@[simp] theorem State.setBytes_htog (s : State) (a : Word) (bs : List Byte) : (s.setBytes a bs).htog = s.htog := by
  rw [State.setBytes_only]
@[simp] theorem State.setBytes_ctx (s : State) (a : Word) (bs : List Byte) : (s.setBytes a bs).ctx = s.ctx := by
  rw [State.setBytes_only]
@[simp] theorem State.setBytes_recordsExist (s : State) (a : Word) (bs : List Byte) :
    (s.setBytes a bs).recordsExist = s.recordsExist := by
  rw [State.setBytes_only]
@[simp] theorem State.setBytes_rrNp (s : State) (a : Word) (bs : List Byte) : (s.setBytes a bs).rrNp = s.rrNp := by
  rw [State.setBytes_only]
@[simp] theorem State.setBytes_rrP (s : State) (a : Word) (bs : List Byte) : (s.setBytes a bs).rrP = s.rrP := by
  rw [State.setBytes_only]
@[simp] theorem State.setBytes_inbox (s : State) (a : Word) (bs : List Byte) : (s.setBytes a bs).inbox = s.inbox := by
  rw [State.setBytes_only]
@[simp] theorem State.setBytes_replies (s : State) (a : Word) (bs : List Byte) :
    (s.setBytes a bs).replies = s.replies := by
  rw [State.setBytes_only]
@[simp] theorem State.setBytes_env (s : State) (a : Word) (bs : List Byte) : (s.setBytes a bs).env = s.env := by
  rw [State.setBytes_only]
@[simp] theorem State.setBytes_prompt (s : State) (a : Word) (bs : List Byte) :
    (s.setBytes a bs).prompt = s.prompt := by
  rw [State.setBytes_only]
@[simp] theorem State.setBytes_engine (s : State) (a : Word) (bs : List Byte) :
    (s.setBytes a bs).engine = s.engine := by
  rw [State.setBytes_only]
@[simp] theorem State.setBytes_hold (s : State) (a : Word) (bs : List Byte) :
    (s.setBytes a bs).hold = s.hold := by
  rw [State.setBytes_only]
@[simp] theorem State.setBytes_owed (s : State) (a : Word) (bs : List Byte) :
    (s.setBytes a bs).owed = s.owed := by
  rw [State.setBytes_only]
@[simp] theorem State.setBytes_inCb (s : State) (a : Word) (bs : List Byte) :
    (s.setBytes a bs).inCb = s.inCb := by
  rw [State.setBytes_only]
@[simp] theorem State.setBytes_patience (s : State) (a : Word) (bs : List Byte) :
    (s.setBytes a bs).patience = s.patience := by
  rw [State.setBytes_only]
@[simp] theorem State.setBytes_poolDraws (s : State) (a : Word) (bs : List Byte) :
    (s.setBytes a bs).poolDraws = s.poolDraws := by
  rw [State.setBytes_only]
@[simp] theorem State.setBytes_draws (s : State) (a : Word) (bs : List Byte) : (s.setBytes a bs).draws = s.draws := by
  rw [State.setBytes_only]
@[simp] theorem State.setBytes_result (s : State) (a : Word) (bs : List Byte) :
    (s.setBytes a bs).result = s.result := by
  rw [State.setBytes_only]
@[simp] theorem State.setBytes_trace (s : State) (a : Word) (bs : List Byte) : (s.setBytes a bs).trace = s.trace := by
  rw [State.setBytes_only]
@[simp] theorem State.setWord_hw (s : State) (a w : Word) : (s.setWord a w).hw = s.hw :=
  State.setBytes_hw s a _
@[simp] theorem State.setWord_plat (s : State) (a w : Word) : (s.setWord a w).plat = s.plat :=
  State.setBytes_plat s a _
@[simp] theorem State.setWord_regs (s : State) (a w : Word) : (s.setWord a w).regs = s.regs :=
  State.setBytes_regs s a _
@[simp] theorem State.setWord_fifo (s : State) (a w : Word) : (s.setWord a w).fifo = s.fifo :=
  State.setBytes_fifo s a _
@[simp] theorem State.setWord_core (s : State) (a w : Word) : (s.setWord a w).core = s.core :=
  State.setBytes_core s a _
@[simp] theorem State.setWord_epIn (s : State) (a w : Word) : (s.setWord a w).epIn = s.epIn :=
  State.setBytes_epIn s a _
@[simp] theorem State.setWord_epOut (s : State) (a w : Word) : (s.setWord a w).epOut = s.epOut :=
  State.setBytes_epOut s a _
@[simp] theorem State.setWord_ch (s : State) (a w : Word) : (s.setWord a w).ch = s.ch :=
  State.setBytes_ch s a _
@[simp] theorem State.setWord_pool (s : State) (a w : Word) : (s.setWord a w).pool = s.pool :=
  State.setBytes_pool s a _
@[simp] theorem State.setWord_ep0 (s : State) (a w : Word) : (s.setWord a w).ep0 = s.ep0 :=
  State.setBytes_ep0 s a _
@[simp] theorem State.setWord_iso (s : State) (a w : Word) : (s.setWord a w).iso = s.iso :=
  State.setBytes_iso s a _
@[simp] theorem State.setWord_htog (s : State) (a w : Word) : (s.setWord a w).htog = s.htog :=
  State.setBytes_htog s a _
@[simp] theorem State.setWord_ctx (s : State) (a w : Word) : (s.setWord a w).ctx = s.ctx :=
  State.setBytes_ctx s a _
@[simp] theorem State.setWord_recordsExist (s : State) (a w : Word) : (s.setWord a w).recordsExist = s.recordsExist :=
  State.setBytes_recordsExist s a _
@[simp] theorem State.setWord_rrNp (s : State) (a w : Word) : (s.setWord a w).rrNp = s.rrNp :=
  State.setBytes_rrNp s a _
@[simp] theorem State.setWord_rrP (s : State) (a w : Word) : (s.setWord a w).rrP = s.rrP :=
  State.setBytes_rrP s a _
@[simp] theorem State.setWord_inbox (s : State) (a w : Word) : (s.setWord a w).inbox = s.inbox :=
  State.setBytes_inbox s a _
@[simp] theorem State.setWord_replies (s : State) (a w : Word) : (s.setWord a w).replies = s.replies :=
  State.setBytes_replies s a _
@[simp] theorem State.setWord_env (s : State) (a w : Word) : (s.setWord a w).env = s.env :=
  State.setBytes_env s a _
@[simp] theorem State.setWord_prompt (s : State) (a w : Word) : (s.setWord a w).prompt = s.prompt :=
  State.setBytes_prompt s a _
@[simp] theorem State.setWord_engine (s : State) (a w : Word) : (s.setWord a w).engine = s.engine :=
  State.setBytes_engine s a _
@[simp] theorem State.setWord_hold (s : State) (a w : Word) : (s.setWord a w).hold = s.hold :=
  State.setBytes_hold s a _
@[simp] theorem State.setWord_owed (s : State) (a w : Word) : (s.setWord a w).owed = s.owed :=
  State.setBytes_owed s a _
@[simp] theorem State.setWord_inCb (s : State) (a w : Word) : (s.setWord a w).inCb = s.inCb :=
  State.setBytes_inCb s a _
@[simp] theorem State.setWord_patience (s : State) (a w : Word) : (s.setWord a w).patience = s.patience :=
  State.setBytes_patience s a _
@[simp] theorem State.setWord_poolDraws (s : State) (a w : Word) : (s.setWord a w).poolDraws = s.poolDraws :=
  State.setBytes_poolDraws s a _
@[simp] theorem State.setWord_draws (s : State) (a w : Word) : (s.setWord a w).draws = s.draws :=
  State.setBytes_draws s a _
@[simp] theorem State.setWord_result (s : State) (a w : Word) : (s.setWord a w).result = s.result :=
  State.setBytes_result s a _
@[simp] theorem State.setWord_trace (s : State) (a w : Word) : (s.setWord a w).trace = s.trace :=
  State.setBytes_trace s a _

/-! `modEp`. -/

@[simp] theorem State.modEp_hw (s : State) (e : EpRef) (f : EpRec → EpRec) : (s.modEp e f).hw = s.hw := by
  obtain ⟨n, d⟩ := e
  cases d <;> rfl
@[simp] theorem State.modEp_plat (s : State) (e : EpRef) (f : EpRec → EpRec) : (s.modEp e f).plat = s.plat := by
  obtain ⟨n, d⟩ := e
  cases d <;> rfl
@[simp] theorem State.modEp_regs (s : State) (e : EpRef) (f : EpRec → EpRec) : (s.modEp e f).regs = s.regs := by
  obtain ⟨n, d⟩ := e
  cases d <;> rfl
@[simp] theorem State.modEp_fifo (s : State) (e : EpRef) (f : EpRec → EpRec) : (s.modEp e f).fifo = s.fifo := by
  obtain ⟨n, d⟩ := e
  cases d <;> rfl
@[simp] theorem State.modEp_mem (s : State) (e : EpRef) (f : EpRec → EpRec) : (s.modEp e f).mem = s.mem := by
  obtain ⟨n, d⟩ := e
  cases d <;> rfl
@[simp] theorem State.modEp_core (s : State) (e : EpRef) (f : EpRec → EpRec) : (s.modEp e f).core = s.core := by
  obtain ⟨n, d⟩ := e
  cases d <;> rfl
@[simp] theorem State.modEp_ch (s : State) (e : EpRef) (f : EpRec → EpRec) : (s.modEp e f).ch = s.ch := by
  obtain ⟨n, d⟩ := e
  cases d <;> rfl
@[simp] theorem State.modEp_pool (s : State) (e : EpRef) (f : EpRec → EpRec) : (s.modEp e f).pool = s.pool := by
  obtain ⟨n, d⟩ := e
  cases d <;> rfl
@[simp] theorem State.modEp_ep0 (s : State) (e : EpRef) (f : EpRec → EpRec) : (s.modEp e f).ep0 = s.ep0 := by
  obtain ⟨n, d⟩ := e
  cases d <;> rfl
@[simp] theorem State.modEp_iso (s : State) (e : EpRef) (f : EpRec → EpRec) : (s.modEp e f).iso = s.iso := by
  obtain ⟨n, d⟩ := e
  cases d <;> rfl
@[simp] theorem State.modEp_htog (s : State) (e : EpRef) (f : EpRec → EpRec) : (s.modEp e f).htog = s.htog := by
  obtain ⟨n, d⟩ := e
  cases d <;> rfl
@[simp] theorem State.modEp_ctx (s : State) (e : EpRef) (f : EpRec → EpRec) : (s.modEp e f).ctx = s.ctx := by
  obtain ⟨n, d⟩ := e
  cases d <;> rfl
@[simp] theorem State.modEp_recordsExist (s : State) (e : EpRef) (f : EpRec → EpRec) :
    (s.modEp e f).recordsExist = s.recordsExist := by
  obtain ⟨n, d⟩ := e
  cases d <;> rfl
@[simp] theorem State.modEp_rrNp (s : State) (e : EpRef) (f : EpRec → EpRec) : (s.modEp e f).rrNp = s.rrNp := by
  obtain ⟨n, d⟩ := e
  cases d <;> rfl
@[simp] theorem State.modEp_rrP (s : State) (e : EpRef) (f : EpRec → EpRec) : (s.modEp e f).rrP = s.rrP := by
  obtain ⟨n, d⟩ := e
  cases d <;> rfl
@[simp] theorem State.modEp_inbox (s : State) (e : EpRef) (f : EpRec → EpRec) : (s.modEp e f).inbox = s.inbox := by
  obtain ⟨n, d⟩ := e
  cases d <;> rfl
@[simp] theorem State.modEp_replies (s : State) (e : EpRef) (f : EpRec → EpRec) :
    (s.modEp e f).replies = s.replies := by
  obtain ⟨n, d⟩ := e
  cases d <;> rfl
@[simp] theorem State.modEp_env (s : State) (e : EpRef) (f : EpRec → EpRec) : (s.modEp e f).env = s.env := by
  obtain ⟨n, d⟩ := e
  cases d <;> rfl
@[simp] theorem State.modEp_prompt (s : State) (e : EpRef) (f : EpRec → EpRec) : (s.modEp e f).prompt = s.prompt := by
  obtain ⟨n, d⟩ := e
  cases d <;> rfl
@[simp] theorem State.modEp_engine (s : State) (e : EpRef) (f : EpRec → EpRec) : (s.modEp e f).engine = s.engine := by
  obtain ⟨n, d⟩ := e
  cases d <;> rfl
@[simp] theorem State.modEp_hold (s : State) (e : EpRef) (f : EpRec → EpRec) : (s.modEp e f).hold = s.hold := by
  obtain ⟨n, d⟩ := e
  cases d <;> rfl
@[simp] theorem State.modEp_owed (s : State) (e : EpRef) (f : EpRec → EpRec) : (s.modEp e f).owed = s.owed := by
  obtain ⟨n, d⟩ := e
  cases d <;> rfl
@[simp] theorem State.modEp_inCb (s : State) (e : EpRef) (f : EpRec → EpRec) : (s.modEp e f).inCb = s.inCb := by
  obtain ⟨n, d⟩ := e
  cases d <;> rfl
@[simp] theorem State.modEp_patience (s : State) (e : EpRef) (f : EpRec → EpRec) : (s.modEp e f).patience = s.patience := by
  obtain ⟨n, d⟩ := e
  cases d <;> rfl
@[simp] theorem State.modEp_poolDraws (s : State) (e : EpRef) (f : EpRec → EpRec) :
    (s.modEp e f).poolDraws = s.poolDraws := by
  obtain ⟨n, d⟩ := e
  cases d <;> rfl
@[simp] theorem State.modEp_draws (s : State) (e : EpRef) (f : EpRec → EpRec) : (s.modEp e f).draws = s.draws := by
  obtain ⟨n, d⟩ := e
  cases d <;> rfl
@[simp] theorem State.modEp_result (s : State) (e : EpRef) (f : EpRec → EpRec) : (s.modEp e f).result = s.result := by
  obtain ⟨n, d⟩ := e
  cases d <;> rfl
@[simp] theorem State.modEp_trace (s : State) (e : EpRef) (f : EpRec → EpRec) : (s.modEp e f).trace = s.trace := by
  obtain ⟨n, d⟩ := e
  cases d <;> rfl

/-! `modCh`. -/

@[simp] theorem State.modCh_hw (s : State) (c : Fin 16) (f : ChRec → ChRec) : (s.modCh c f).hw = s.hw := rfl
@[simp] theorem State.modCh_plat (s : State) (c : Fin 16) (f : ChRec → ChRec) : (s.modCh c f).plat = s.plat := rfl
@[simp] theorem State.modCh_regs (s : State) (c : Fin 16) (f : ChRec → ChRec) : (s.modCh c f).regs = s.regs := rfl
@[simp] theorem State.modCh_fifo (s : State) (c : Fin 16) (f : ChRec → ChRec) : (s.modCh c f).fifo = s.fifo := rfl
@[simp] theorem State.modCh_mem (s : State) (c : Fin 16) (f : ChRec → ChRec) : (s.modCh c f).mem = s.mem := rfl
@[simp] theorem State.modCh_core (s : State) (c : Fin 16) (f : ChRec → ChRec) : (s.modCh c f).core = s.core := rfl
@[simp] theorem State.modCh_epIn (s : State) (c : Fin 16) (f : ChRec → ChRec) : (s.modCh c f).epIn = s.epIn := rfl
@[simp] theorem State.modCh_epOut (s : State) (c : Fin 16) (f : ChRec → ChRec) : (s.modCh c f).epOut = s.epOut := rfl
@[simp] theorem State.modCh_pool (s : State) (c : Fin 16) (f : ChRec → ChRec) : (s.modCh c f).pool = s.pool := rfl
@[simp] theorem State.modCh_ep0 (s : State) (c : Fin 16) (f : ChRec → ChRec) : (s.modCh c f).ep0 = s.ep0 := rfl
@[simp] theorem State.modCh_iso (s : State) (c : Fin 16) (f : ChRec → ChRec) : (s.modCh c f).iso = s.iso := rfl
@[simp] theorem State.modCh_htog (s : State) (c : Fin 16) (f : ChRec → ChRec) : (s.modCh c f).htog = s.htog := rfl
@[simp] theorem State.modCh_ctx (s : State) (c : Fin 16) (f : ChRec → ChRec) : (s.modCh c f).ctx = s.ctx := rfl
@[simp] theorem State.modCh_recordsExist (s : State) (c : Fin 16) (f : ChRec → ChRec) :
    (s.modCh c f).recordsExist = s.recordsExist := rfl
@[simp] theorem State.modCh_rrNp (s : State) (c : Fin 16) (f : ChRec → ChRec) : (s.modCh c f).rrNp = s.rrNp := rfl
@[simp] theorem State.modCh_rrP (s : State) (c : Fin 16) (f : ChRec → ChRec) : (s.modCh c f).rrP = s.rrP := rfl
@[simp] theorem State.modCh_inbox (s : State) (c : Fin 16) (f : ChRec → ChRec) : (s.modCh c f).inbox = s.inbox := rfl
@[simp] theorem State.modCh_replies (s : State) (c : Fin 16) (f : ChRec → ChRec) :
    (s.modCh c f).replies = s.replies := rfl
@[simp] theorem State.modCh_env (s : State) (c : Fin 16) (f : ChRec → ChRec) : (s.modCh c f).env = s.env := rfl
@[simp] theorem State.modCh_prompt (s : State) (c : Fin 16) (f : ChRec → ChRec) : (s.modCh c f).prompt = s.prompt := rfl
@[simp] theorem State.modCh_engine (s : State) (c : Fin 16) (f : ChRec → ChRec) : (s.modCh c f).engine = s.engine := rfl
@[simp] theorem State.modCh_hold (s : State) (c : Fin 16) (f : ChRec → ChRec) : (s.modCh c f).hold = s.hold := rfl
@[simp] theorem State.modCh_owed (s : State) (c : Fin 16) (f : ChRec → ChRec) : (s.modCh c f).owed = s.owed := rfl
@[simp] theorem State.modCh_inCb (s : State) (c : Fin 16) (f : ChRec → ChRec) : (s.modCh c f).inCb = s.inCb := rfl
@[simp] theorem State.modCh_patience (s : State) (c : Fin 16) (f : ChRec → ChRec) : (s.modCh c f).patience = s.patience := rfl
@[simp] theorem State.modCh_poolDraws (s : State) (c : Fin 16) (f : ChRec → ChRec) :
    (s.modCh c f).poolDraws = s.poolDraws := rfl
@[simp] theorem State.modCh_draws (s : State) (c : Fin 16) (f : ChRec → ChRec) : (s.modCh c f).draws = s.draws := rfl
@[simp] theorem State.modCh_result (s : State) (c : Fin 16) (f : ChRec → ChRec) : (s.modCh c f).result = s.result := rfl
@[simp] theorem State.modCh_trace (s : State) (c : Fin 16) (f : ChRec → ChRec) : (s.modCh c f).trace = s.trace := rfl

/-! `modX`. -/

@[simp] theorem State.modX_hw (s : State) (x : XRef) (f : Xfer → Xfer) : (s.modX x f).hw = s.hw := by
  obtain ⟨⟨n, d⟩⟩ | c := x
  · cases d <;> rfl
  · rfl
@[simp] theorem State.modX_plat (s : State) (x : XRef) (f : Xfer → Xfer) : (s.modX x f).plat = s.plat := by
  obtain ⟨⟨n, d⟩⟩ | c := x
  · cases d <;> rfl
  · rfl
@[simp] theorem State.modX_regs (s : State) (x : XRef) (f : Xfer → Xfer) : (s.modX x f).regs = s.regs := by
  obtain ⟨⟨n, d⟩⟩ | c := x
  · cases d <;> rfl
  · rfl
@[simp] theorem State.modX_fifo (s : State) (x : XRef) (f : Xfer → Xfer) : (s.modX x f).fifo = s.fifo := by
  obtain ⟨⟨n, d⟩⟩ | c := x
  · cases d <;> rfl
  · rfl
@[simp] theorem State.modX_mem (s : State) (x : XRef) (f : Xfer → Xfer) : (s.modX x f).mem = s.mem := by
  obtain ⟨⟨n, d⟩⟩ | c := x
  · cases d <;> rfl
  · rfl
@[simp] theorem State.modX_core (s : State) (x : XRef) (f : Xfer → Xfer) : (s.modX x f).core = s.core := by
  obtain ⟨⟨n, d⟩⟩ | c := x
  · cases d <;> rfl
  · rfl
@[simp] theorem State.modX_pool (s : State) (x : XRef) (f : Xfer → Xfer) : (s.modX x f).pool = s.pool := by
  obtain ⟨⟨n, d⟩⟩ | c := x
  · cases d <;> rfl
  · rfl
@[simp] theorem State.modX_ep0 (s : State) (x : XRef) (f : Xfer → Xfer) : (s.modX x f).ep0 = s.ep0 := by
  obtain ⟨⟨n, d⟩⟩ | c := x
  · cases d <;> rfl
  · rfl
@[simp] theorem State.modX_iso (s : State) (x : XRef) (f : Xfer → Xfer) : (s.modX x f).iso = s.iso := by
  obtain ⟨⟨n, d⟩⟩ | c := x
  · cases d <;> rfl
  · rfl
@[simp] theorem State.modX_htog (s : State) (x : XRef) (f : Xfer → Xfer) : (s.modX x f).htog = s.htog := by
  obtain ⟨⟨n, d⟩⟩ | c := x
  · cases d <;> rfl
  · rfl
@[simp] theorem State.modX_ctx (s : State) (x : XRef) (f : Xfer → Xfer) : (s.modX x f).ctx = s.ctx := by
  obtain ⟨⟨n, d⟩⟩ | c := x
  · cases d <;> rfl
  · rfl
@[simp] theorem State.modX_recordsExist (s : State) (x : XRef) (f : Xfer → Xfer) :
    (s.modX x f).recordsExist = s.recordsExist := by
  obtain ⟨⟨n, d⟩⟩ | c := x
  · cases d <;> rfl
  · rfl
@[simp] theorem State.modX_rrNp (s : State) (x : XRef) (f : Xfer → Xfer) : (s.modX x f).rrNp = s.rrNp := by
  obtain ⟨⟨n, d⟩⟩ | c := x
  · cases d <;> rfl
  · rfl
@[simp] theorem State.modX_rrP (s : State) (x : XRef) (f : Xfer → Xfer) : (s.modX x f).rrP = s.rrP := by
  obtain ⟨⟨n, d⟩⟩ | c := x
  · cases d <;> rfl
  · rfl
@[simp] theorem State.modX_inbox (s : State) (x : XRef) (f : Xfer → Xfer) : (s.modX x f).inbox = s.inbox := by
  obtain ⟨⟨n, d⟩⟩ | c := x
  · cases d <;> rfl
  · rfl
@[simp] theorem State.modX_replies (s : State) (x : XRef) (f : Xfer → Xfer) : (s.modX x f).replies = s.replies := by
  obtain ⟨⟨n, d⟩⟩ | c := x
  · cases d <;> rfl
  · rfl
@[simp] theorem State.modX_env (s : State) (x : XRef) (f : Xfer → Xfer) : (s.modX x f).env = s.env := by
  obtain ⟨⟨n, d⟩⟩ | c := x
  · cases d <;> rfl
  · rfl
@[simp] theorem State.modX_prompt (s : State) (x : XRef) (f : Xfer → Xfer) : (s.modX x f).prompt = s.prompt := by
  obtain ⟨⟨n, d⟩⟩ | c := x
  · cases d <;> rfl
  · rfl
@[simp] theorem State.modX_engine (s : State) (x : XRef) (f : Xfer → Xfer) : (s.modX x f).engine = s.engine := by
  obtain ⟨⟨n, d⟩⟩ | c := x
  · cases d <;> rfl
  · rfl
@[simp] theorem State.modX_hold (s : State) (x : XRef) (f : Xfer → Xfer) : (s.modX x f).hold = s.hold := by
  obtain ⟨⟨n, d⟩⟩ | c := x
  · cases d <;> rfl
  · rfl
@[simp] theorem State.modX_owed (s : State) (x : XRef) (f : Xfer → Xfer) : (s.modX x f).owed = s.owed := by
  obtain ⟨⟨n, d⟩⟩ | c := x
  · cases d <;> rfl
  · rfl
@[simp] theorem State.modX_inCb (s : State) (x : XRef) (f : Xfer → Xfer) : (s.modX x f).inCb = s.inCb := by
  obtain ⟨⟨n, d⟩⟩ | c := x
  · cases d <;> rfl
  · rfl
@[simp] theorem State.modX_patience (s : State) (x : XRef) (f : Xfer → Xfer) : (s.modX x f).patience = s.patience := by
  obtain ⟨⟨n, d⟩⟩ | c := x
  · cases d <;> rfl
  · rfl
@[simp] theorem State.modX_poolDraws (s : State) (x : XRef) (f : Xfer → Xfer) :
    (s.modX x f).poolDraws = s.poolDraws := by
  obtain ⟨⟨n, d⟩⟩ | c := x
  · cases d <;> rfl
  · rfl
@[simp] theorem State.modX_draws (s : State) (x : XRef) (f : Xfer → Xfer) : (s.modX x f).draws = s.draws := by
  obtain ⟨⟨n, d⟩⟩ | c := x
  · cases d <;> rfl
  · rfl
@[simp] theorem State.modX_result (s : State) (x : XRef) (f : Xfer → Xfer) : (s.modX x f).result = s.result := by
  obtain ⟨⟨n, d⟩⟩ | c := x
  · cases d <;> rfl
  · rfl
@[simp] theorem State.modX_trace (s : State) (x : XRef) (f : Xfer → Xfer) : (s.modX x f).trace = s.trace := by
  obtain ⟨⟨n, d⟩⟩ | c := x
  · cases d <;> rfl
  · rfl

/-! `modReqAt`. -/

@[simp] theorem State.modReqAt_hw (s : State) (i : ReqId) (f : Req → Req) :
    (s.modReqAt i f).hw = s.hw := by cases i <;> rfl
@[simp] theorem State.modReqAt_plat (s : State) (i : ReqId) (f : Req → Req) :
    (s.modReqAt i f).plat = s.plat := by cases i <;> rfl
@[simp] theorem State.modReqAt_regs (s : State) (i : ReqId) (f : Req → Req) :
    (s.modReqAt i f).regs = s.regs := by cases i <;> rfl
@[simp] theorem State.modReqAt_fifo (s : State) (i : ReqId) (f : Req → Req) :
    (s.modReqAt i f).fifo = s.fifo := by cases i <;> rfl
@[simp] theorem State.modReqAt_mem (s : State) (i : ReqId) (f : Req → Req) :
    (s.modReqAt i f).mem = s.mem := by cases i <;> rfl
@[simp] theorem State.modReqAt_core (s : State) (i : ReqId) (f : Req → Req) :
    (s.modReqAt i f).core = s.core := by cases i <;> rfl
@[simp] theorem State.modReqAt_epIn (s : State) (i : ReqId) (f : Req → Req) :
    (s.modReqAt i f).epIn = s.epIn := by cases i <;> rfl
@[simp] theorem State.modReqAt_epOut (s : State) (i : ReqId) (f : Req → Req) :
    (s.modReqAt i f).epOut = s.epOut := by cases i <;> rfl
@[simp] theorem State.modReqAt_ch (s : State) (i : ReqId) (f : Req → Req) :
    (s.modReqAt i f).ch = s.ch := by cases i <;> rfl
@[simp] theorem State.modReqAt_iso (s : State) (i : ReqId) (f : Req → Req) :
    (s.modReqAt i f).iso = s.iso := by cases i <;> rfl
@[simp] theorem State.modReqAt_htog (s : State) (i : ReqId) (f : Req → Req) :
    (s.modReqAt i f).htog = s.htog := by cases i <;> rfl
@[simp] theorem State.modReqAt_ctx (s : State) (i : ReqId) (f : Req → Req) :
    (s.modReqAt i f).ctx = s.ctx := by cases i <;> rfl
@[simp] theorem State.modReqAt_recordsExist (s : State) (i : ReqId) (f : Req → Req) :
    (s.modReqAt i f).recordsExist = s.recordsExist := by cases i <;> rfl
@[simp] theorem State.modReqAt_rrNp (s : State) (i : ReqId) (f : Req → Req) :
    (s.modReqAt i f).rrNp = s.rrNp := by cases i <;> rfl
@[simp] theorem State.modReqAt_rrP (s : State) (i : ReqId) (f : Req → Req) :
    (s.modReqAt i f).rrP = s.rrP := by cases i <;> rfl
@[simp] theorem State.modReqAt_inbox (s : State) (i : ReqId) (f : Req → Req) :
    (s.modReqAt i f).inbox = s.inbox := by cases i <;> rfl
@[simp] theorem State.modReqAt_replies (s : State) (i : ReqId) (f : Req → Req) :
    (s.modReqAt i f).replies = s.replies := by cases i <;> rfl
@[simp] theorem State.modReqAt_env (s : State) (i : ReqId) (f : Req → Req) :
    (s.modReqAt i f).env = s.env := by cases i <;> rfl
@[simp] theorem State.modReqAt_prompt (s : State) (i : ReqId) (f : Req → Req) :
    (s.modReqAt i f).prompt = s.prompt := by cases i <;> rfl
@[simp] theorem State.modReqAt_engine (s : State) (i : ReqId) (f : Req → Req) :
    (s.modReqAt i f).engine = s.engine := by cases i <;> rfl
@[simp] theorem State.modReqAt_hold (s : State) (i : ReqId) (f : Req → Req) :
    (s.modReqAt i f).hold = s.hold := by cases i <;> rfl
@[simp] theorem State.modReqAt_owed (s : State) (i : ReqId) (f : Req → Req) :
    (s.modReqAt i f).owed = s.owed := by cases i <;> rfl
@[simp] theorem State.modReqAt_inCb (s : State) (i : ReqId) (f : Req → Req) :
    (s.modReqAt i f).inCb = s.inCb := by cases i <;> rfl
@[simp] theorem State.modReqAt_patience (s : State) (i : ReqId) (f : Req → Req) :
    (s.modReqAt i f).patience = s.patience := by cases i <;> rfl
@[simp] theorem State.modReqAt_poolDraws (s : State) (i : ReqId) (f : Req → Req) :
    (s.modReqAt i f).poolDraws = s.poolDraws := by cases i <;> rfl
@[simp] theorem State.modReqAt_draws (s : State) (i : ReqId) (f : Req → Req) :
    (s.modReqAt i f).draws = s.draws := by cases i <;> rfl
@[simp] theorem State.modReqAt_result (s : State) (i : ReqId) (f : Req → Req) :
    (s.modReqAt i f).result = s.result := by cases i <;> rfl
@[simp] theorem State.modReqAt_trace (s : State) (i : ReqId) (f : Req → Req) :
    (s.modReqAt i f).trace = s.trace := by cases i <;> rfl

/-! `returned`. -/

@[simp] theorem State.returned_hw (s : State) (r : Result) : (s.returned r).hw = s.hw := rfl
@[simp] theorem State.returned_plat (s : State) (r : Result) : (s.returned r).plat = s.plat := rfl
@[simp] theorem State.returned_regs (s : State) (r : Result) : (s.returned r).regs = s.regs := rfl
@[simp] theorem State.returned_fifo (s : State) (r : Result) : (s.returned r).fifo = s.fifo := rfl
@[simp] theorem State.returned_mem (s : State) (r : Result) : (s.returned r).mem = s.mem := rfl
@[simp] theorem State.returned_core (s : State) (r : Result) : (s.returned r).core = s.core := rfl
@[simp] theorem State.returned_epIn (s : State) (r : Result) : (s.returned r).epIn = s.epIn := rfl
@[simp] theorem State.returned_epOut (s : State) (r : Result) : (s.returned r).epOut = s.epOut := rfl
@[simp] theorem State.returned_ch (s : State) (r : Result) : (s.returned r).ch = s.ch := rfl
@[simp] theorem State.returned_pool (s : State) (r : Result) : (s.returned r).pool = s.pool := rfl
@[simp] theorem State.returned_ep0 (s : State) (r : Result) : (s.returned r).ep0 = s.ep0 := rfl
@[simp] theorem State.returned_iso (s : State) (r : Result) : (s.returned r).iso = s.iso := rfl
@[simp] theorem State.returned_htog (s : State) (r : Result) : (s.returned r).htog = s.htog := rfl
@[simp] theorem State.returned_ctx (s : State) (r : Result) : (s.returned r).ctx = s.ctx := rfl
@[simp] theorem State.returned_recordsExist (s : State) (r : Result) :
    (s.returned r).recordsExist = s.recordsExist := rfl
@[simp] theorem State.returned_rrNp (s : State) (r : Result) : (s.returned r).rrNp = s.rrNp := rfl
@[simp] theorem State.returned_rrP (s : State) (r : Result) : (s.returned r).rrP = s.rrP := rfl
@[simp] theorem State.returned_inbox (s : State) (r : Result) : (s.returned r).inbox = s.inbox := rfl
@[simp] theorem State.returned_replies (s : State) (r : Result) : (s.returned r).replies = s.replies := rfl
@[simp] theorem State.returned_env (s : State) (r : Result) : (s.returned r).env = s.env := rfl
@[simp] theorem State.returned_prompt (s : State) (r : Result) : (s.returned r).prompt = s.prompt := rfl
@[simp] theorem State.returned_engine (s : State) (r : Result) : (s.returned r).engine = s.engine := rfl
@[simp] theorem State.returned_hold (s : State) (r : Result) : (s.returned r).hold = s.hold := rfl
@[simp] theorem State.returned_owed (s : State) (r : Result) : (s.returned r).owed = s.owed := rfl
@[simp] theorem State.returned_inCb (s : State) (r : Result) : (s.returned r).inCb = s.inCb := rfl
@[simp] theorem State.returned_patience (s : State) (r : Result) : (s.returned r).patience = s.patience := rfl
@[simp] theorem State.returned_poolDraws (s : State) (r : Result) : (s.returned r).poolDraws = s.poolDraws := rfl
@[simp] theorem State.returned_draws (s : State) (r : Result) : (s.returned r).draws = s.draws := rfl
@[simp] theorem State.returned_result (s : State) (r : Result) : (s.returned r).result = r := rfl
@[simp] theorem State.returned_trace (s : State) (r : Result) : (s.returned r).trace = .ret r :: s.trace := rfl

/-! `enterHandler`. -/

@[simp] theorem State.enterHandler_hw (s : State) : (s.enterHandler).hw = s.hw := rfl
@[simp] theorem State.enterHandler_plat (s : State) : (s.enterHandler).plat = s.plat := rfl
@[simp] theorem State.enterHandler_regs (s : State) : (s.enterHandler).regs = s.regs := rfl
@[simp] theorem State.enterHandler_fifo (s : State) : (s.enterHandler).fifo = s.fifo := rfl
@[simp] theorem State.enterHandler_mem (s : State) : (s.enterHandler).mem = s.mem := rfl
@[simp] theorem State.enterHandler_core (s : State) : (s.enterHandler).core = s.core := rfl
@[simp] theorem State.enterHandler_epIn (s : State) : (s.enterHandler).epIn = s.epIn := rfl
@[simp] theorem State.enterHandler_epOut (s : State) : (s.enterHandler).epOut = s.epOut := rfl
@[simp] theorem State.enterHandler_ch (s : State) : (s.enterHandler).ch = s.ch := rfl
@[simp] theorem State.enterHandler_pool (s : State) : (s.enterHandler).pool = s.pool := rfl
@[simp] theorem State.enterHandler_ep0 (s : State) : (s.enterHandler).ep0 = s.ep0 := rfl
@[simp] theorem State.enterHandler_iso (s : State) : (s.enterHandler).iso = s.iso := rfl
@[simp] theorem State.enterHandler_htog (s : State) : (s.enterHandler).htog = s.htog := rfl
@[simp] theorem State.enterHandler_recordsExist (s : State) : (s.enterHandler).recordsExist = s.recordsExist := rfl
@[simp] theorem State.enterHandler_rrNp (s : State) : (s.enterHandler).rrNp = s.rrNp := rfl
@[simp] theorem State.enterHandler_rrP (s : State) : (s.enterHandler).rrP = s.rrP := rfl
@[simp] theorem State.enterHandler_inbox (s : State) : (s.enterHandler).inbox = s.inbox := rfl
@[simp] theorem State.enterHandler_replies (s : State) : (s.enterHandler).replies = s.replies := rfl
@[simp] theorem State.enterHandler_env (s : State) : (s.enterHandler).env = s.env := rfl
@[simp] theorem State.enterHandler_prompt (s : State) : (s.enterHandler).prompt = s.prompt := rfl
@[simp] theorem State.enterHandler_engine (s : State) : (s.enterHandler).engine = s.engine := rfl
@[simp] theorem State.enterHandler_hold (s : State) : (s.enterHandler).hold = s.hold := rfl
@[simp] theorem State.enterHandler_owed (s : State) : (s.enterHandler).owed = s.owed := rfl
@[simp] theorem State.enterHandler_inCb (s : State) : (s.enterHandler).inCb = s.inCb := rfl
@[simp] theorem State.enterHandler_patience (s : State) : (s.enterHandler).patience = s.patience := rfl
@[simp] theorem State.enterHandler_poolDraws (s : State) : (s.enterHandler).poolDraws = s.poolDraws := rfl
@[simp] theorem State.enterHandler_draws (s : State) : (s.enterHandler).draws = s.draws := rfl
@[simp] theorem State.enterHandler_result (s : State) : (s.enterHandler).result = s.result := rfl

/-! `leaveHandler`. -/

@[simp] theorem State.leaveHandler_hw (s : State) : (s.leaveHandler).hw = s.hw := rfl
@[simp] theorem State.leaveHandler_plat (s : State) : (s.leaveHandler).plat = s.plat := rfl
@[simp] theorem State.leaveHandler_regs (s : State) : (s.leaveHandler).regs = s.regs := rfl
@[simp] theorem State.leaveHandler_fifo (s : State) : (s.leaveHandler).fifo = s.fifo := rfl
@[simp] theorem State.leaveHandler_mem (s : State) : (s.leaveHandler).mem = s.mem := rfl
@[simp] theorem State.leaveHandler_core (s : State) : (s.leaveHandler).core = s.core := rfl
@[simp] theorem State.leaveHandler_epIn (s : State) : (s.leaveHandler).epIn = s.epIn := rfl
@[simp] theorem State.leaveHandler_epOut (s : State) : (s.leaveHandler).epOut = s.epOut := rfl
@[simp] theorem State.leaveHandler_ch (s : State) : (s.leaveHandler).ch = s.ch := rfl
@[simp] theorem State.leaveHandler_pool (s : State) : (s.leaveHandler).pool = s.pool := rfl
@[simp] theorem State.leaveHandler_ep0 (s : State) : (s.leaveHandler).ep0 = s.ep0 := rfl
@[simp] theorem State.leaveHandler_iso (s : State) : (s.leaveHandler).iso = s.iso := rfl
@[simp] theorem State.leaveHandler_htog (s : State) : (s.leaveHandler).htog = s.htog := rfl
@[simp] theorem State.leaveHandler_recordsExist (s : State) : (s.leaveHandler).recordsExist = s.recordsExist := rfl
@[simp] theorem State.leaveHandler_rrNp (s : State) : (s.leaveHandler).rrNp = s.rrNp := rfl
@[simp] theorem State.leaveHandler_rrP (s : State) : (s.leaveHandler).rrP = s.rrP := rfl
@[simp] theorem State.leaveHandler_inbox (s : State) : (s.leaveHandler).inbox = s.inbox := rfl
@[simp] theorem State.leaveHandler_replies (s : State) : (s.leaveHandler).replies = s.replies := rfl
@[simp] theorem State.leaveHandler_env (s : State) : (s.leaveHandler).env = s.env := rfl
@[simp] theorem State.leaveHandler_prompt (s : State) : (s.leaveHandler).prompt = s.prompt := rfl
@[simp] theorem State.leaveHandler_engine (s : State) : (s.leaveHandler).engine = s.engine := rfl
@[simp] theorem State.leaveHandler_hold (s : State) : (s.leaveHandler).hold = s.hold := rfl
@[simp] theorem State.leaveHandler_owed (s : State) : (s.leaveHandler).owed = s.owed := rfl
@[simp] theorem State.leaveHandler_inCb (s : State) : (s.leaveHandler).inCb = s.inCb := rfl
@[simp] theorem State.leaveHandler_patience (s : State) : (s.leaveHandler).patience = s.patience := rfl
@[simp] theorem State.leaveHandler_poolDraws (s : State) : (s.leaveHandler).poolDraws = s.poolDraws := rfl
@[simp] theorem State.leaveHandler_draws (s : State) : (s.leaveHandler).draws = s.draws := rfl
@[simp] theorem State.leaveHandler_result (s : State) : (s.leaveHandler).result = s.result := rfl

/-! `EpRec.reenabled`. -/

@[simp] theorem EpRec.reenabled_type (r : EpRec) (d : Epd) (o : Option Word) : (r.reenabled d o).type = epdType d := rfl
@[simp] theorem EpRec.reenabled_mps (r : EpRec) (d : Epd) (o : Option Word) : (r.reenabled d o).mps = epdMps d := rfl
@[simp] theorem EpRec.reenabled_state (r : EpRec) (d : Epd) (o : Option Word) : (r.reenabled d o).state = .idle := rfl
@[simp] theorem EpRec.reenabled_enabled (r : EpRec) (d : Epd) (o : Option Word) : (r.reenabled d o).enabled = true := rfl
@[simp] theorem EpRec.reenabled_disabling (r : EpRec) (d : Epd) (o : Option Word) :
    (r.reenabled d o).disabling = r.disabling := rfl
@[simp] theorem EpRec.reenabled_waits (r : EpRec) (d : Epd) (o : Option Word) : (r.reenabled d o).waits = false := rfl
@[simp] theorem EpRec.reenabled_rearm (r : EpRec) (d : Epd) (o : Option Word) : (r.reenabled d o).rearm = false := rfl
@[simp] theorem EpRec.reenabled_enabling (r : EpRec) (d : Epd) (o : Option Word) :
    (r.reenabled d o).enabling = if r.disabling then some (enableWord d) else none := rfl
@[simp] theorem EpRec.reenabled_x (r : EpRec) (d : Epd) (o : Option Word) :
    (r.reenabled d o).x = { blankXfer with desc := o } := rfl

/-! `EpRec.aborting`, `EpRec.waiting`, `ChRec.unhalted`. -/

@[simp] theorem EpRec.aborting_state (r : EpRec) : r.aborting.state = .haltedPendingDisable := rfl
@[simp] theorem EpRec.aborting_disabling (r : EpRec) : r.aborting.disabling = true := rfl
@[simp] theorem EpRec.aborting_rearm (r : EpRec) : r.aborting.rearm = false := rfl
@[simp] theorem EpRec.aborting_waits (r : EpRec) : r.aborting.waits = r.waits := rfl
@[simp] theorem EpRec.aborting_enabling (r : EpRec) : r.aborting.enabling = r.enabling := rfl
@[simp] theorem EpRec.aborting_enabled (r : EpRec) : r.aborting.enabled = r.enabled := rfl
@[simp] theorem EpRec.aborting_type (r : EpRec) : r.aborting.type = r.type := rfl
@[simp] theorem EpRec.aborting_mps (r : EpRec) : r.aborting.mps = r.mps := rfl
@[simp] theorem EpRec.aborting_txFifo (r : EpRec) : r.aborting.txFifo = r.txFifo := rfl
@[simp] theorem EpRec.aborting_multiCount (r : EpRec) : r.aborting.multiCount = r.multiCount := rfl
@[simp] theorem EpRec.aborting_interval (r : EpRec) : r.aborting.interval = r.interval := rfl
@[simp] theorem EpRec.aborting_pendingStatus (r : EpRec) : r.aborting.pendingStatus = r.pendingStatus := rfl
@[simp] theorem EpRec.aborting_pendingAll (r : EpRec) : r.aborting.pendingAll = r.pendingAll := rfl
@[simp] theorem EpRec.aborting_x (r : EpRec) : r.aborting.x = r.x := rfl
@[simp] theorem EpRec.waiting_state (r : EpRec) (h : Nat) : (r.waiting h).state = .active := rfl
@[simp] theorem EpRec.waiting_waits (r : EpRec) (h : Nat) : (r.waiting h).waits = true := rfl
@[simp] theorem EpRec.waiting_type (r : EpRec) (h : Nat) : (r.waiting h).type = r.type := rfl
@[simp] theorem EpRec.waiting_mps (r : EpRec) (h : Nat) : (r.waiting h).mps = r.mps := rfl
@[simp] theorem EpRec.waiting_txFifo (r : EpRec) (h : Nat) : (r.waiting h).txFifo = r.txFifo := rfl
@[simp] theorem EpRec.waiting_enabled (r : EpRec) (h : Nat) : (r.waiting h).enabled = r.enabled := rfl
@[simp] theorem EpRec.waiting_multiCount (r : EpRec) (h : Nat) : (r.waiting h).multiCount = r.multiCount := rfl
@[simp] theorem EpRec.waiting_interval (r : EpRec) (h : Nat) : (r.waiting h).interval = r.interval := rfl
@[simp] theorem EpRec.waiting_pendingStatus (r : EpRec) (h : Nat) : (r.waiting h).pendingStatus = r.pendingStatus := rfl
@[simp] theorem EpRec.waiting_pendingAll (r : EpRec) (h : Nat) : (r.waiting h).pendingAll = r.pendingAll := rfl
@[simp] theorem EpRec.waiting_disabling (r : EpRec) (h : Nat) : (r.waiting h).disabling = r.disabling := rfl
@[simp] theorem EpRec.waiting_rearm (r : EpRec) (h : Nat) : (r.waiting h).rearm = r.rearm := rfl
@[simp] theorem EpRec.waiting_enabling (r : EpRec) (h : Nat) : (r.waiting h).enabling = r.enabling := rfl
@[simp] theorem EpRec.waiting_x (r : EpRec) (h : Nat) :
    (r.waiting h).x = { r.x with active := some (.pool h), zlpPhase := false } := rfl
@[simp] theorem ChRec.unhalted_haltStatus (r : ChRec) : r.unhalted.haltStatus = .noHalt := rfl
@[simp] theorem ChRec.unhalted_haltReason (r : ChRec) : r.unhalted.haltReason = none := rfl
@[simp] theorem ChRec.unhalted_haltDeferred (r : ChRec) : r.unhalted.haltDeferred = none := rfl
@[simp] theorem ChRec.unhalted_allocated (r : ChRec) : r.unhalted.allocated = r.allocated := rfl
@[simp] theorem ChRec.unhalted_params (r : ChRec) : r.unhalted.params = r.params := rfl
@[simp] theorem ChRec.unhalted_completeSplit (r : ChRec) : r.unhalted.completeSplit = r.completeSplit := rfl
@[simp] theorem ChRec.unhalted_xactPos (r : ChRec) : r.unhalted.xactPos = r.xactPos := rfl
@[simp] theorem ChRec.unhalted_errorState (r : ChRec) : r.unhalted.errorState = r.errorState := rfl
@[simp] theorem ChRec.unhalted_errorCount (r : ChRec) : r.unhalted.errorCount = r.errorCount := rfl
@[simp] theorem ChRec.unhalted_requests (r : ChRec) : r.unhalted.requests = r.requests := rfl
@[simp] theorem ChRec.unhalted_dataPid (r : ChRec) : r.unhalted.dataPid = r.dataPid := rfl
@[simp] theorem ChRec.unhalted_cancelAll (r : ChRec) : r.unhalted.cancelAll = r.cancelAll := rfl
@[simp] theorem ChRec.unhalted_ended (r : ChRec) : r.unhalted.ended = r.ended := rfl
@[simp] theorem ChRec.unhalted_x (r : ChRec) : r.unhalted.x = r.x := rfl

end Sys2Proof.Machine
end

