-- ==== Sys2Proof/Laws/Ops.lean ====
section
/-! SUPPORT. Reading the state after an update, and for each shared operation once everything it can do. -/

namespace Sys2Proof.Machine

open Sys2Proof

/-! Register words. -/

@[simp] theorem State.raw_setRaw_same (s : State) (r : Reg) (v : Word) : (s.setRaw r v).raw r = v := by
  simp [State.raw]

theorem State.raw_setRaw_ne (s : State) {r q : Reg} (v : Word) (h : q.offset ≠ r.offset) :
    (s.setRaw r v).raw q = s.raw q := by
  simp [State.raw, SMap.get_put_ne h]

theorem State.raw_setRaw (s : State) (r q : Reg) (v : Word) :
    (s.setRaw r v).raw q = if q.offset = r.offset then v else s.raw q := by
  split
  · next h => simp [State.raw, h]
  · next h => exact State.raw_setRaw_ne s v h

theorem State.raw_congr {s t : State} (h : t.regs = s.regs) (r : Reg) : t.raw r = s.raw r := by
  rw [State.raw, State.raw, h]

/-! Memory. -/

theorem State.byte_congr {s t : State} (h : t.mem = s.mem) (a : Word) : t.byte a = s.byte a := by
  rw [State.byte, State.byte, h]

/-- A byte outside the stored ones reads as before. -/
theorem State.byte_setBytes_out (bs : List Byte) : ∀ (s : State) (a b : Word),
    (∀ k < bs.length, b ≠ a + BitVec.ofNat 32 k) → (s.setBytes a bs).byte b = s.byte b := by
  induction bs with
  | nil => exact fun _ _ _ _ => rfl
  | cons x bs ih =>
    intro s a b h
    rw [State.setBytes, ih _ (a + 1) b, State.byte_setByte_ne]
    · simpa using h 0 (by simp)
    · intro k hk e
      refine h (k + 1) (by simpa using hk) ?_
      rw [e, BitVec.add_assoc]
      congr 1
      apply BitVec.eq_of_toNat_eq
      simp [BitVec.toNat_add, Nat.add_comm]

/-! Endpoints and channels. -/

@[simp] theorem State.ep_modEp_same (s : State) (e : EpRef) (f : EpRec → EpRec) : (s.modEp e f).ep e = f (s.ep e) := by
  obtain ⟨n, d⟩ := e
  cases d <;> simp [State.ep, State.modEp]

theorem State.ep_modEp_ne (s : State) {e e' : EpRef} (f : EpRec → EpRec) (h : e' ≠ e) :
    (s.modEp e f).ep e' = s.ep e' := by
  obtain ⟨n, d⟩ := e
  obtain ⟨m, d'⟩ := e'
  have hv : d = d' → n.val ≠ m.val := by
    intro hd hn
    exact h (by rw [hd, Fin.ext hn])
  cases d <;> cases d' <;> simp_all [State.ep, State.modEp]

theorem State.ep_congr {s t : State} (hi : t.epIn = s.epIn) (ho : t.epOut = s.epOut) (e : EpRef) : t.ep e = s.ep e := by
  obtain ⟨n, d⟩ := e
  cases d <;> simp [State.ep, hi, ho]

@[simp] theorem State.chan_modCh_same (s : State) (c : Fin 16) (f : ChRec → ChRec) :
    (s.modCh c f).chan c = f (s.chan c) := by
  simp [State.chan, State.modCh]

theorem State.chan_modCh_ne (s : State) {c d : Fin 16} (f : ChRec → ChRec) (h : d ≠ c) :
    (s.modCh c f).chan d = s.chan d := by
  have : c.val ≠ d.val := fun e => h (Fin.ext e.symm)
  simp [State.chan, State.modCh, this]

theorem State.chan_congr {s t : State} (h : t.ch = s.ch) (c : Fin 16) : t.chan c = s.chan c := by
  simp [State.chan, h]

/-! The bits that decide whether an access is answered, read with a free value, or preempted. -/

@[simp] theorem bitOf_writeWord_keep {rw w1c w1s old v : Word} {k : Nat} (hr : bitOf rw k = false)
    (hc : bitOf w1c k = false) (hs : bitOf w1s k = false) : bitOf (writeWord rw w1c w1s old v) k = bitOf old k := by
  simp only [bitOf, writeWord, mergeBits] at *
  simp [hr, hc, hs]
  cases h : old.getLsbD k
  · simp
  · simpa using BitVec.lt_of_getLsbD h

/-! `writeReg` and `readReg`. -/

/-- A register write changes the register file and the FIFOs only. -/
theorem State.writeReg_only (s : State) (r : Reg) (v : Word) :
    s.writeReg r v = { s with regs := (s.writeReg r v).regs, fifo := (s.writeReg r v).fifo } := by
  cases r <;> try rfl
  · next c =>
    simp only [State.writeReg]
    split
    · unfold State.addRequest
      split <;> rfl
    · rfl
  · next n =>
    simp only [State.writeReg, State.pushFifo]
    split
    · split <;> rfl
    · rfl

@[simp] theorem State.writeReg_hw (s : State) (r : Reg) (v : Word) : (s.writeReg r v).hw = s.hw := by
  rw [State.writeReg_only]
@[simp] theorem State.writeReg_plat (s : State) (r : Reg) (v : Word) : (s.writeReg r v).plat = s.plat := by
  rw [State.writeReg_only]
@[simp] theorem State.writeReg_mem (s : State) (r : Reg) (v : Word) : (s.writeReg r v).mem = s.mem := by
  rw [State.writeReg_only]
@[simp] theorem State.writeReg_core (s : State) (r : Reg) (v : Word) : (s.writeReg r v).core = s.core := by
  rw [State.writeReg_only]
@[simp] theorem State.writeReg_epIn (s : State) (r : Reg) (v : Word) : (s.writeReg r v).epIn = s.epIn := by
  rw [State.writeReg_only]
@[simp] theorem State.writeReg_epOut (s : State) (r : Reg) (v : Word) : (s.writeReg r v).epOut = s.epOut := by
  rw [State.writeReg_only]
@[simp] theorem State.writeReg_ch (s : State) (r : Reg) (v : Word) : (s.writeReg r v).ch = s.ch := by
  rw [State.writeReg_only]
@[simp] theorem State.writeReg_pool (s : State) (r : Reg) (v : Word) : (s.writeReg r v).pool = s.pool := by
  rw [State.writeReg_only]
@[simp] theorem State.writeReg_ep0 (s : State) (r : Reg) (v : Word) : (s.writeReg r v).ep0 = s.ep0 := by
  rw [State.writeReg_only]
@[simp] theorem State.writeReg_iso (s : State) (r : Reg) (v : Word) : (s.writeReg r v).iso = s.iso := by
  rw [State.writeReg_only]
@[simp] theorem State.writeReg_htog (s : State) (r : Reg) (v : Word) : (s.writeReg r v).htog = s.htog := by
  rw [State.writeReg_only]
@[simp] theorem State.writeReg_ctx (s : State) (r : Reg) (v : Word) : (s.writeReg r v).ctx = s.ctx := by
  rw [State.writeReg_only]
@[simp] theorem State.writeReg_recordsExist (s : State) (r : Reg) (v : Word) :
    (s.writeReg r v).recordsExist = s.recordsExist := by
  rw [State.writeReg_only]
@[simp] theorem State.writeReg_rrNp (s : State) (r : Reg) (v : Word) : (s.writeReg r v).rrNp = s.rrNp := by
  rw [State.writeReg_only]
@[simp] theorem State.writeReg_rrP (s : State) (r : Reg) (v : Word) : (s.writeReg r v).rrP = s.rrP := by
  rw [State.writeReg_only]
@[simp] theorem State.writeReg_inbox (s : State) (r : Reg) (v : Word) : (s.writeReg r v).inbox = s.inbox := by
  rw [State.writeReg_only]
@[simp] theorem State.writeReg_replies (s : State) (r : Reg) (v : Word) : (s.writeReg r v).replies = s.replies := by
  rw [State.writeReg_only]
@[simp] theorem State.writeReg_env (s : State) (r : Reg) (v : Word) : (s.writeReg r v).env = s.env := by
  rw [State.writeReg_only]
@[simp] theorem State.writeReg_prompt (s : State) (r : Reg) (v : Word) : (s.writeReg r v).prompt = s.prompt := by
  rw [State.writeReg_only]
@[simp] theorem State.writeReg_engine (s : State) (r : Reg) (v : Word) : (s.writeReg r v).engine = s.engine := by
  rw [State.writeReg_only]
@[simp] theorem State.writeReg_hold (s : State) (r : Reg) (v : Word) : (s.writeReg r v).hold = s.hold := by
  rw [State.writeReg_only]
@[simp] theorem State.writeReg_owed (s : State) (r : Reg) (v : Word) : (s.writeReg r v).owed = s.owed := by
  rw [State.writeReg_only]
@[simp] theorem State.writeReg_inCb (s : State) (r : Reg) (v : Word) : (s.writeReg r v).inCb = s.inCb := by
  rw [State.writeReg_only]
@[simp] theorem State.writeReg_patience (s : State) (r : Reg) (v : Word) : (s.writeReg r v).patience = s.patience := by
  rw [State.writeReg_only]
@[simp] theorem State.writeReg_poolDraws (s : State) (r : Reg) (v : Word) :
    (s.writeReg r v).poolDraws = s.poolDraws := by
  rw [State.writeReg_only]
@[simp] theorem State.writeReg_draws (s : State) (r : Reg) (v : Word) : (s.writeReg r v).draws = s.draws := by
  rw [State.writeReg_only]
@[simp] theorem State.writeReg_result (s : State) (r : Reg) (v : Word) : (s.writeReg r v).result = s.result := by
  rw [State.writeReg_only]
@[simp] theorem State.writeReg_trace (s : State) (r : Reg) (v : Word) : (s.writeReg r v).trace = s.trace := by
  rw [State.writeReg_only]

/-- An event that LINK records changes the register file, what it still has to set, and the trace only. -/
theorem State.post_only (s : State) (r : Reg) (w : Word) :
    s.post r w = { s with regs := (s.post r w).regs, owed := (s.post r w).owed, trace := (s.post r w).trace } := by
  unfold State.post
  split <;> rfl

/-- An event that LINK keeps no bit of back. -/
theorem State.post_direct {s : State} (h : s.hold = false) (r : Reg) (w : Word) : s.post r w = s.setBits r w := by
  rw [State.post, h]
  rfl

/-- An event of which LINK keeps the bits back: no register changes, each bit is owed. -/
theorem State.post_held {s : State} (h : s.hold = true) (r : Reg) (w : Word) :
    s.post r w = { s with owed := s.owed ++ bitsOf r w } := by
  rw [State.post, h]
  rfl

/-- A word that a FIFO has room for is the FIFO's last. -/
theorem State.appendTo_room {s : State} {depth : Nat} {q : List Word} (h : 0 < s.roomIn depth q.length) (v : Word) :
    s.appendTo depth q v = q ++ [v] := if_pos h

/-- A word that a FIFO has no room for is dropped. -/
theorem State.appendTo_full {s : State} {depth : Nat} {q : List Word} (h : s.roomIn depth q.length = 0) (v : Word) :
    s.appendTo depth q v = q := if_neg (by omega)

/-- A pushed word never takes a FIFO beyond its part of the RAM. -/
theorem State.appendTo_bounded {s : State} {depth : Nat} {q : List Word} (h : q.length ≤ depth) (v : Word) :
    (s.appendTo depth q v).length ≤ depth := by
  unfold State.appendTo State.roomIn freeOf
  split
  · rw [List.length_append, List.length_singleton]
    omega
  · exact h

/-! DMA's accesses. -/

/-- With nothing out of reach, every address is reached. -/
@[simp] theorem State.reaches_nil {s : State} (h : s.plat.holes = []) (a : Word) (n : Nat) : s.reaches a n = true := by
  simp [State.reaches, h]

@[simp] theorem freeBytes_length (d n : Nat) : (freeBytes d n).length = n := by
  induction n generalizing d with
  | zero => rfl
  | succ n ih => simp [freeBytes, ih]

/-- A well-formed read of DMA gives what memory holds and changes nothing (R109). -/
theorem State.dmaRead_fine {s : State} {base a : Word} {n : Nat} (h : s.dmaFine 4 base a n = true) :
    s.dmaRead base a n = (s.bytes a n, s) := if_pos h

/-- An ill-formed read of DMA gives free bytes and changes nothing but the draws (R109, U6). -/
theorem State.dmaRead_free {s : State} {base a : Word} {n : Nat} (h : s.dmaFine 4 base a n = false) :
    s.dmaRead base a n = (freeBytes s.draws n, s.drawn n) := by
  rw [State.dmaRead, h]
  rfl

/-- A well-formed store of DMA puts its bytes in memory (R109). -/
theorem State.dmaPut_fine {s : State} {al : Nat} {base a : Word} {bs : List Byte}
    (h : s.dmaFine al base a bs.length = true) : s.dmaPut al base a bs = s.dmaBytes a bs := if_pos h

/-- An ill-formed store of DMA puts so many free bytes there (R109, U6). -/
theorem State.dmaPut_free {s : State} {al : Nat} {base a : Word} {bs : List Byte}
    (h : s.dmaFine al base a bs.length = false) :
    s.dmaPut al base a bs = (s.drawn bs.length).dmaBytes a (freeBytes s.draws bs.length) := by
  rw [State.dmaPut, h]
  rfl

/-- A store of DMA, whatever its address, stores as many bytes as it was given, and changes memory, the draws and the trace
alone. -/
theorem State.dmaPut_cases (s : State) (al : Nat) (base a : Word) (bs : List Byte) :
    ∃ cs n, cs.length = bs.length ∧ s.dmaPut al base a bs = ((s.drawn n).setBytes a cs).note (.dma a.toNat cs) := by
  cases h : s.dmaFine al base a bs.length with
  | true => exact ⟨bs, 0, rfl, State.dmaPut_fine h⟩
  | false => exact ⟨_, _, freeBytes_length _ _, State.dmaPut_free h⟩

/-- A store of DMA keeps the memory canonical. -/
theorem State.dmaPut_wf {s : State} (al : Nat) (base a : Word) (bs : List Byte) (h : Memory.wf s.mem = true) :
    Memory.wf (s.dmaPut al base a bs).mem = true := by
  obtain ⟨cs, n, -, e⟩ := State.dmaPut_cases s al base a bs
  rw [e]
  exact State.setBytes_wf cs a h

/-- A store of DMA leaves every byte outside the stored ones alone. -/
theorem State.byte_dmaPut_out {s : State} (al : Nat) (base a b : Word) (bs : List Byte)
    (h : ∀ k < bs.length, b ≠ a + BitVec.ofNat 32 k) : (s.dmaPut al base a bs).byte b = s.byte b := by
  obtain ⟨cs, n, l, e⟩ := State.dmaPut_cases s al base a bs
  rw [e]
  exact State.byte_setBytes_out cs (s.drawn n) a b (l ▸ h)

/-! LINK's requests of a host channel. -/

/-- A transaction of a channel consumes at most one request of it (R70). -/
theorem State.takeRequest_cases (s : State) (c : Fin 16) :
    (c ∈ s.fifo.inHand ∧ s.takeRequest c = { s with fifo := { s.fifo with inHand := s.fifo.inHand.erase c } }) ∨
    (c ∉ s.fifo.inHand ∧ c ∈ s.fifo.npReq ∧
      s.takeRequest c = { s with fifo := { s.fifo with npReq := s.fifo.npReq.erase c } }) ∨
    (c ∉ s.fifo.inHand ∧ c ∉ s.fifo.npReq ∧
      s.takeRequest c = { s with fifo := { s.fifo with pReq := s.fifo.pReq.erase c } }) := by
  by_cases h : c ∈ s.fifo.inHand <;> by_cases k : c ∈ s.fifo.npReq <;> simp [State.takeRequest, h, k]

/-- The end of STALL changes the control register of that direction at most, in bit 21 (R49). -/
theorem State.unstall_cases (s : State) (e : EpRef) :
    s.unstall e = s ∨ s.unstall e = s.hwSet (epCtl e) (s.raw (epCtl e) &&& ~~~(bit1 21)) := by
  unfold State.unstall State.when
  split
  · exact .inr rfl
  · exact .inl rfl

/-- LINK takes a request into its hand: only the FIFO record changes, and no FIFO word (R255). -/
theorem linkTakeRequest_only (c : Fin 16) (periodic : Bool) (s : State) :
    ∃ q r l, linkTakeRequest c periodic s = { s with fifo := { s.fifo with npReq := q, pReq := r, inHand := l } } := by
  refine ⟨(linkTakeRequest c periodic s).fifo.npReq, (linkTakeRequest c periodic s).fifo.pReq,
    (linkTakeRequest c periodic s).fifo.inHand, ?_⟩
  cases periodic <;> simp only [linkTakeRequest, State.when, Bool.false_eq_true, if_true, if_false] <;> split <;> rfl

/-- A request that LINK takes leaves its queue, whose space frees, and is in hand; the other queue stays (R70, R255). -/
theorem linkTakeRequest_takes {c : Fin 16} {s : State} (hs : s.slaveHw = true) (hp : s.present (.ch c) = true)
    (he : s.enabledHw (.ch c) = true) (hq : c ∈ s.fifo.npReq) :
    linkTakeRequest c false s =
      { s with fifo := { s.fifo with npReq := s.fifo.npReq.erase c, inHand := c :: s.fifo.inHand } } := by
  simp [linkTakeRequest, State.when, hs, hp, he, hq]

/-- An address outside the arrays that DMA is walking is in no descriptor that DMA owns. -/
theorem State.Spared.not_owned {s : State} {a : Word} (h : s.Spared a) : s.owned a = false := by
  unfold State.owned
  rw [List.any_eq_false]
  intro p hp ho
  rw [Bool.and_eq_true] at ho
  have far := h p hp ho.1
  have near := ho.2
  simp only [State.ownedSlot, Bool.and_eq_true, decide_eq_true_eq] at near
  omega

/-- The completion bits of a popped entry change what an event of LINK changes. -/
theorem State.afterPop_only (s : State) (w : Word) :
    s.afterPop w = { s with regs := (s.afterPop w).regs, owed := (s.afterPop w).owed, trace := (s.afterPop w).trace } := by
  unfold State.afterPop
  dsimp only
  repeat' split
  all_goals first | rfl | exact State.post_only _ _ _

/-- A register read changes the queues, the draw counter, and for a popped entry what an event of LINK changes. -/
theorem State.readReg_only (s : State) (r : Reg) :
    (s.readReg r).2 =
      { s with regs := (s.readReg r).2.regs, fifo := (s.readReg r).2.fifo, owed := (s.readReg r).2.owed
               draws := (s.readReg r).2.draws, trace := (s.readReg r).2.trace } := by
  unfold State.readReg
  split
  · rfl
  · split <;> try rfl
    · split <;> rfl
    · split
      · rw [State.afterPop_only]
      · rfl
    · split <;> rfl

@[simp] theorem State.readReg_hw (s : State) (r : Reg) : (s.readReg r).2.hw = s.hw := by
  rw [State.readReg_only]
@[simp] theorem State.readReg_plat (s : State) (r : Reg) : (s.readReg r).2.plat = s.plat := by
  rw [State.readReg_only]
@[simp] theorem State.readReg_mem (s : State) (r : Reg) : (s.readReg r).2.mem = s.mem := by
  rw [State.readReg_only]
@[simp] theorem State.readReg_core (s : State) (r : Reg) : (s.readReg r).2.core = s.core := by
  rw [State.readReg_only]
@[simp] theorem State.readReg_epIn (s : State) (r : Reg) : (s.readReg r).2.epIn = s.epIn := by
  rw [State.readReg_only]
@[simp] theorem State.readReg_epOut (s : State) (r : Reg) : (s.readReg r).2.epOut = s.epOut := by
  rw [State.readReg_only]
@[simp] theorem State.readReg_ch (s : State) (r : Reg) : (s.readReg r).2.ch = s.ch := by
  rw [State.readReg_only]
@[simp] theorem State.readReg_pool (s : State) (r : Reg) : (s.readReg r).2.pool = s.pool := by
  rw [State.readReg_only]
@[simp] theorem State.readReg_ep0 (s : State) (r : Reg) : (s.readReg r).2.ep0 = s.ep0 := by
  rw [State.readReg_only]
@[simp] theorem State.readReg_iso (s : State) (r : Reg) : (s.readReg r).2.iso = s.iso := by
  rw [State.readReg_only]
@[simp] theorem State.readReg_htog (s : State) (r : Reg) : (s.readReg r).2.htog = s.htog := by
  rw [State.readReg_only]
@[simp] theorem State.readReg_ctx (s : State) (r : Reg) : (s.readReg r).2.ctx = s.ctx := by
  rw [State.readReg_only]
@[simp] theorem State.readReg_recordsExist (s : State) (r : Reg) : (s.readReg r).2.recordsExist = s.recordsExist := by
  rw [State.readReg_only]
@[simp] theorem State.readReg_rrNp (s : State) (r : Reg) : (s.readReg r).2.rrNp = s.rrNp := by
  rw [State.readReg_only]
@[simp] theorem State.readReg_rrP (s : State) (r : Reg) : (s.readReg r).2.rrP = s.rrP := by
  rw [State.readReg_only]
@[simp] theorem State.readReg_inbox (s : State) (r : Reg) : (s.readReg r).2.inbox = s.inbox := by
  rw [State.readReg_only]
@[simp] theorem State.readReg_replies (s : State) (r : Reg) : (s.readReg r).2.replies = s.replies := by
  rw [State.readReg_only]
@[simp] theorem State.readReg_env (s : State) (r : Reg) : (s.readReg r).2.env = s.env := by
  rw [State.readReg_only]
@[simp] theorem State.readReg_prompt (s : State) (r : Reg) : (s.readReg r).2.prompt = s.prompt := by
  rw [State.readReg_only]
@[simp] theorem State.readReg_engine (s : State) (r : Reg) : (s.readReg r).2.engine = s.engine := by
  rw [State.readReg_only]
@[simp] theorem State.readReg_hold (s : State) (r : Reg) : (s.readReg r).2.hold = s.hold := by
  rw [State.readReg_only]
@[simp] theorem State.readReg_inCb (s : State) (r : Reg) : (s.readReg r).2.inCb = s.inCb := by
  rw [State.readReg_only]
@[simp] theorem State.readReg_patience (s : State) (r : Reg) : (s.readReg r).2.patience = s.patience := by
  rw [State.readReg_only]
@[simp] theorem State.readReg_poolDraws (s : State) (r : Reg) : (s.readReg r).2.poolDraws = s.poolDraws := by
  rw [State.readReg_only]
@[simp] theorem State.readReg_result (s : State) (r : Reg) : (s.readReg r).2.result = s.result := by
  rw [State.readReg_only]

/-- A write to one register leaves the stored words of the others. -/
theorem State.raw_writeReg_ne (s : State) {r q : Reg} (v : Word) (h : q.offset ≠ r.offset) :
    (s.writeReg r v).raw q = s.raw q := by
  have hr : ∀ c w, (State.addRequest s c w).regs = s.regs := by
    intro c w
    unfold State.addRequest
    split <;> rfl
  cases r
  case HCCHAR c =>
    simp only [State.writeReg]
    split
    · rw [State.raw, State.addRequest]
      split <;> exact State.raw_setRaw_ne s _ h
    · exact State.raw_setRaw_ne s _ h
  case FIFO n =>
    simp only [State.writeReg, State.pushFifo]
    split
    · split <;> rfl
    · rfl
  all_goals exact State.raw_setRaw_ne s _ h

/-- The stored word of a plain register after a write (R23). -/
theorem State.raw_writeReg (s : State) {r : Reg} (v : Word)
    (h : match r with | .DIEPCTL _ | .DOEPCTL _ | .FIFO _ => False | _ => True) :
    (s.writeReg r v).raw r = s.stored r v := by
  cases r <;> try cases h
  case HCCHAR c =>
    simp only [State.writeReg]
    split
    · rw [State.raw, State.addRequest]
      split <;> exact State.raw_setRaw_same s _ _
    · exact State.raw_setRaw_same s _ _
  all_goals exact State.raw_setRaw_same s _ _

/-- The stored word of an endpoint control register after a write (R23, R49). -/
theorem State.raw_writeReg_epCtl (s : State) (e : EpRef) (v : Word) :
    (s.writeReg (epCtl e) v).raw (epCtl e) = endpointActions v (s.stored (epCtl e) v) := by
  obtain ⟨n, d⟩ := e
  cases d <;> exact State.raw_setRaw_same s _ _

/-- Only a window write touches the FIFOs, and a write of HCCHAR with CHENA in slave mode. -/
theorem State.writeReg_fifo (s : State) {r : Reg} (v : Word)
    (h : match r with | .HCCHAR _ | .FIFO _ => False | _ => True) : (s.writeReg r v).fifo = s.fifo := by
  cases r <;> first | rfl | cases h

/-- No register write changes the mode (R30). -/
@[simp] theorem State.hostMode_writeReg (s : State) (r : Reg) (v : Word) : (s.writeReg r v).hostMode = s.hostMode := by
  by_cases h : Reg.offset .GINTSTS = r.offset
  · have hr : r = .GINTSTS := by
      cases r <;> simp [Reg.offset, bankOffset] at h ⊢ <;> omega
    subst hr
    show bitOf ((s.writeReg .GINTSTS v).raw .GINTSTS) 0 = _
    rw [State.raw_writeReg s v trivial, State.stored]
    exact bitOf_writeWord_keep (by simp [rwMask, bitOf]) (by simp [w1cMask, bitOf]) (by simp [w1sMask, bitOf])
  · rw [State.hostMode, State.raw_writeReg_ne s v h, State.hostMode]

@[simp] theorem State.accessible_writeReg (s : State) (r q : Reg) (v : Word) :
    (s.writeReg r v).accessible q = s.accessible q := by
  simp [State.accessible]

@[simp] theorem State.peek_note (s : State) (e : TraceEv) (q : Reg) : (s.note e).peek q = s.peek q := by
  cases q <;> rfl

/-- Only a write of GRSTCTL starts a reset or a flush. -/
theorem State.unsettled_writeReg (s : State) {r : Reg} (v : Word) (h : Reg.offset .GRSTCTL ≠ r.offset) :
    (s.writeReg r v).unsettled = s.unsettled := by
  rw [State.unsettled, State.raw_writeReg_ne s v h, State.unsettled]

/-! What each shared operation can do. -/

/-- Before an access: LINK and DMA act, and the handler runs where it is due. -/
theorem between_cases {h : Hooks} {s t : State} (e : between h s = .ok ((), t)) :
    (s.tick.irqDue = false ∧ t = s.tick) ∨ (s.tick.irqDue = true ∧ h.irq s.tick = .ok t) := by
  cases hd : s.tick.irqDue with
  | false => simp [between, hd] at e; exact .inl ⟨rfl, e.symm⟩
  | true =>
    simp [between, hd, callHook] at e
    split at e
    · next u hu => cases e; exact .inr ⟨rfl, hu⟩
    · cases e

/-- A register read: it was answered, and the value and the state are those of `readReg`. -/
theorem regRead_cases {h : Hooks} {s t : State} {r : Reg} {v : Word} (e : regRead r h s = .ok (v, t)) :
    ∃ u, between h s = .ok ((), u) ∧ u.accessible r = true ∧ v = (u.readReg r).1 ∧
      t = ((u.note (.rd r.offset v)).readReg r).2 := by
  rw [regRead, run_bind] at e
  cases hb : between h s with
  | error x => rw [hb] at e; cases e
  | ok p =>
    obtain ⟨⟨⟩, u⟩ := p
    rw [hb] at e
    cases ha : u.accessible r with
    | false => simp [ha, stopWith] at e
    | true =>
      simp [ha] at e
      obtain ⟨rfl, rfl⟩ := e
      exact ⟨u, rfl, ha, rfl, rfl⟩

/-- A register write: it was answered, and the state is that of `writeReg`. -/
theorem regWrite_cases {h : Hooks} {s t : State} {r : Reg} {v : Word} {x : Unit} (e : regWrite r v h s = .ok (x, t)) :
    ∃ u, between h s = .ok ((), u) ∧ u.accessible r = true ∧ t = (u.writeReg r v).note (.wr r.offset v) := by
  rw [regWrite, run_bind] at e
  cases hb : between h s with
  | error x => rw [hb] at e; cases e
  | ok p =>
    obtain ⟨⟨⟩, u⟩ := p
    rw [hb] at e
    cases ha : u.accessible r with
    | false => simp [ha, stopWith] at e
    | true =>
      simp [ha] at e
      exact ⟨u, rfl, ha, e.symm⟩

/-- A 32-bit memory read. -/
theorem memRead32_cases {h : Hooks} {s t : State} {a v : Word} (e : memRead32 a h s = .ok (v, t)) :
    ∃ u, between h s = .ok ((), u) ∧ v = u.word a ∧ t = u.note (.mr a.toNat v) := by
  rw [memRead32, run_bind] at e
  cases hb : between h s with
  | error x => rw [hb] at e; cases e
  | ok p =>
    obtain ⟨⟨⟩, u⟩ := p
    rw [hb] at e
    simp at e
    obtain ⟨rfl, rfl⟩ := e
    exact ⟨u, rfl, rfl, rfl⟩

/-- A 32-bit memory write: DMA does not own the address. -/
theorem memWrite32_cases {h : Hooks} {s t : State} {a v : Word} {x : Unit} (e : memWrite32 a v h s = .ok (x, t)) :
    ∃ u, between h s = .ok ((), u) ∧ u.owned a = false ∧ t = (u.setWord a v).note (.mw a.toNat v) := by
  rw [memWrite32, run_bind] at e
  cases hb : between h s with
  | error x => rw [hb] at e; cases e
  | ok p =>
    obtain ⟨⟨⟩, u⟩ := p
    rw [hb] at e
    cases ho : u.owned a with
    | true => simp [ho, stopWith] at e
    | false =>
      simp [ho] at e
      exact ⟨u, rfl, ho, e.symm⟩

/-- A step that stops in no fault and no refusal is taken again. -/
theorem stopOutcome_next {i : Instr} {s t : State} {x : Stop} (e : stopOutcome i s x = .next t) :
    x = .unfinished ∧ t = s.again i := by
  cases x <;> cases e
  exact ⟨rfl, rfl⟩

/-- A command that answers a next state ran to its end, and what it returned is recorded; or a handler run inside it reached
its bound, and it is taken again. -/
theorem runCmd_cases {i : Instr} {p : M Result} {s t : State} (e : runCmd i p s = .next t) :
    (∃ r u, p (hooksAt s.level) s = .ok (r, u) ∧ t = u.returned r) ∨
      p (hooksAt s.level) s = .error .unfinished ∧ t = s.again i := by
  unfold runCmd at e
  split at e
  · next r u hu => cases e; exact .inl ⟨r, u, hu, rfl⟩
  · next x hx =>
    obtain ⟨rfl, h⟩ := stopOutcome_next e
    exact .inr ⟨hx, h⟩

theorem runCmd_ok {i : Instr} {p : M Result} {s u : State} {r : Result} (e : p (hooksAt s.level) s = .ok (r, u)) :
    runCmd i p s = .next (u.returned r) := by
  simp [runCmd, e]

/-- The state in another context (R470). -/
def State.inCtx (s : State) (c : Ctx) : State := { s with ctx := c }

@[simp] theorem State.inCtx_ctx (s : State) (c : Ctx) : (s.inCtx c).ctx = c := rfl
@[simp] theorem State.inCtx_hw (s : State) (c : Ctx) : (s.inCtx c).hw = s.hw := rfl
@[simp] theorem State.inCtx_plat (s : State) (c : Ctx) : (s.inCtx c).plat = s.plat := rfl
@[simp] theorem State.inCtx_regs (s : State) (c : Ctx) : (s.inCtx c).regs = s.regs := rfl
@[simp] theorem State.inCtx_fifo (s : State) (c : Ctx) : (s.inCtx c).fifo = s.fifo := rfl
@[simp] theorem State.inCtx_mem (s : State) (c : Ctx) : (s.inCtx c).mem = s.mem := rfl
@[simp] theorem State.inCtx_core (s : State) (c : Ctx) : (s.inCtx c).core = s.core := rfl
@[simp] theorem State.inCtx_epIn (s : State) (c : Ctx) : (s.inCtx c).epIn = s.epIn := rfl
@[simp] theorem State.inCtx_epOut (s : State) (c : Ctx) : (s.inCtx c).epOut = s.epOut := rfl
@[simp] theorem State.inCtx_ch (s : State) (c : Ctx) : (s.inCtx c).ch = s.ch := rfl
@[simp] theorem State.inCtx_pool (s : State) (c : Ctx) : (s.inCtx c).pool = s.pool := rfl
@[simp] theorem State.inCtx_ep0 (s : State) (c : Ctx) : (s.inCtx c).ep0 = s.ep0 := rfl
@[simp] theorem State.inCtx_iso (s : State) (c : Ctx) : (s.inCtx c).iso = s.iso := rfl
@[simp] theorem State.inCtx_htog (s : State) (c : Ctx) : (s.inCtx c).htog = s.htog := rfl
@[simp] theorem State.inCtx_recordsExist (s : State) (c : Ctx) : (s.inCtx c).recordsExist = s.recordsExist := rfl
@[simp] theorem State.inCtx_rrNp (s : State) (c : Ctx) : (s.inCtx c).rrNp = s.rrNp := rfl
@[simp] theorem State.inCtx_rrP (s : State) (c : Ctx) : (s.inCtx c).rrP = s.rrP := rfl
@[simp] theorem State.inCtx_inbox (s : State) (c : Ctx) : (s.inCtx c).inbox = s.inbox := rfl
@[simp] theorem State.inCtx_replies (s : State) (c : Ctx) : (s.inCtx c).replies = s.replies := rfl
@[simp] theorem State.inCtx_env (s : State) (c : Ctx) : (s.inCtx c).env = s.env := rfl
@[simp] theorem State.inCtx_prompt (s : State) (c : Ctx) : (s.inCtx c).prompt = s.prompt := rfl
@[simp] theorem State.inCtx_engine (s : State) (c : Ctx) : (s.inCtx c).engine = s.engine := rfl
@[simp] theorem State.inCtx_hold (s : State) (c : Ctx) : (s.inCtx c).hold = s.hold := rfl
@[simp] theorem State.inCtx_owed (s : State) (c : Ctx) : (s.inCtx c).owed = s.owed := rfl
@[simp] theorem State.inCtx_inCb (s : State) (c : Ctx) : (s.inCtx c).inCb = s.inCb := rfl
@[simp] theorem State.inCtx_patience (s : State) (c : Ctx) : (s.inCtx c).patience = s.patience := rfl
@[simp] theorem State.inCtx_poolDraws (s : State) (c : Ctx) : (s.inCtx c).poolDraws = s.poolDraws := rfl
@[simp] theorem State.inCtx_draws (s : State) (c : Ctx) : (s.inCtx c).draws = s.draws := rfl
@[simp] theorem State.inCtx_result (s : State) (c : Ctx) : (s.inCtx c).result = s.result := rfl
@[simp] theorem State.inCtx_trace (s : State) (c : Ctx) : (s.inCtx c).trace = s.trace := rfl
@[simp] theorem State.inCtx_peek (s : State) (c : Ctx) (r : Reg) : (s.inCtx c).peek r = s.peek r := by cases r <;> rfl

/-- An event as one step: its procedure in handler context, and the context as it was. -/
theorem runEvt_eq (i : Instr) (p : M Unit) (s : State) :
    runEvt i p s = match p (hooksAt s.level) (s.inCtx .isr) with
      | .ok (_, u) => .next (u.inCtx s.ctx)
      | .error e => stopOutcome i s e := by
  have hb : asHandler p (hooksAt s.level) s = match p (hooksAt s.level) (s.inCtx .isr) with
      | .ok (_, u) => .ok ((), u.inCtx s.ctx)
      | .error e => .error e := by
    simp only [asHandler, run_ask_bind, run_act_bind]
    refine (run_bind _ _ _ _).trans ?_
    simp only [State.inCtx]
    split <;> simp_all
  rw [runEvt, runProc, hb]
  cases p (hooksAt s.level) (s.inCtx .isr) <;> rfl

/-- An event that answers a next state ran to its end in handler context, and the context is as it was; or it is taken
again. -/
theorem runEvt_cases {i : Instr} {p : M Unit} {s t : State} (e : runEvt i p s = .next t) :
    (∃ u, p (hooksAt s.level) (s.inCtx .isr) = .ok ((), u) ∧ t = u.inCtx s.ctx) ∨
      p (hooksAt s.level) (s.inCtx .isr) = .error .unfinished ∧ t = s.again i := by
  rw [runEvt_eq] at e
  split at e
  · next x u hu => cases e; exact .inl ⟨u, hu, rfl⟩
  · next x hx =>
    obtain ⟨rfl, h⟩ := stopOutcome_next e
    exact .inr ⟨hx, h⟩

theorem runEvt_ok {i : Instr} {p : M Unit} {s u : State} {x : Unit}
    (e : p (hooksAt s.level) (s.inCtx .isr) = .ok (x, u)) : runEvt i p s = .next (u.inCtx s.ctx) := by
  rw [runEvt_eq, e]

end Sys2Proof.Machine
end

