-- ==== Sys2Proof/Laws/Reads.lean ====
section
/-! SUPPORT. Every reading of the state after every update that does not touch it. -/

namespace Sys2Proof.Machine

open Sys2Proof

/-- The state with another `pool`. -/
def State.withPool (s : State) (x : List (Option Req)) : State := { s with pool := x }

@[simp] theorem State.withPool_pool (s : State) (x : List (Option Req)) : (s.withPool x).pool = x := rfl
@[simp] theorem State.withPool_hw (s : State) (x : List (Option Req)) : (s.withPool x).hw = s.hw := rfl
@[simp] theorem State.withPool_plat (s : State) (x : List (Option Req)) : (s.withPool x).plat = s.plat := rfl
@[simp] theorem State.withPool_regs (s : State) (x : List (Option Req)) : (s.withPool x).regs = s.regs := rfl
@[simp] theorem State.withPool_fifo (s : State) (x : List (Option Req)) : (s.withPool x).fifo = s.fifo := rfl
@[simp] theorem State.withPool_mem (s : State) (x : List (Option Req)) : (s.withPool x).mem = s.mem := rfl
@[simp] theorem State.withPool_core (s : State) (x : List (Option Req)) : (s.withPool x).core = s.core := rfl
@[simp] theorem State.withPool_epIn (s : State) (x : List (Option Req)) : (s.withPool x).epIn = s.epIn := rfl
@[simp] theorem State.withPool_epOut (s : State) (x : List (Option Req)) : (s.withPool x).epOut = s.epOut := rfl
@[simp] theorem State.withPool_ch (s : State) (x : List (Option Req)) : (s.withPool x).ch = s.ch := rfl
@[simp] theorem State.withPool_ep0 (s : State) (x : List (Option Req)) : (s.withPool x).ep0 = s.ep0 := rfl
@[simp] theorem State.withPool_iso (s : State) (x : List (Option Req)) : (s.withPool x).iso = s.iso := rfl
@[simp] theorem State.withPool_htog (s : State) (x : List (Option Req)) : (s.withPool x).htog = s.htog := rfl
@[simp] theorem State.withPool_ctx (s : State) (x : List (Option Req)) : (s.withPool x).ctx = s.ctx := rfl
@[simp] theorem State.withPool_recordsExist (s : State) (x : List (Option Req)) : (s.withPool x).recordsExist = s.recordsExist := rfl
@[simp] theorem State.withPool_rrNp (s : State) (x : List (Option Req)) : (s.withPool x).rrNp = s.rrNp := rfl
@[simp] theorem State.withPool_rrP (s : State) (x : List (Option Req)) : (s.withPool x).rrP = s.rrP := rfl
@[simp] theorem State.withPool_inbox (s : State) (x : List (Option Req)) : (s.withPool x).inbox = s.inbox := rfl
@[simp] theorem State.withPool_replies (s : State) (x : List (Option Req)) : (s.withPool x).replies = s.replies := rfl
@[simp] theorem State.withPool_env (s : State) (x : List (Option Req)) : (s.withPool x).env = s.env := rfl
@[simp] theorem State.withPool_prompt (s : State) (x : List (Option Req)) : (s.withPool x).prompt = s.prompt := rfl
@[simp] theorem State.withPool_engine (s : State) (x : List (Option Req)) : (s.withPool x).engine = s.engine := rfl
@[simp] theorem State.withPool_hold (s : State) (x : List (Option Req)) : (s.withPool x).hold = s.hold := rfl
@[simp] theorem State.withPool_owed (s : State) (x : List (Option Req)) : (s.withPool x).owed = s.owed := rfl
@[simp] theorem State.withPool_inCb (s : State) (x : List (Option Req)) : (s.withPool x).inCb = s.inCb := rfl
@[simp] theorem State.withPool_patience (s : State) (x : List (Option Req)) : (s.withPool x).patience = s.patience := rfl
@[simp] theorem State.withPool_poolDraws (s : State) (x : List (Option Req)) : (s.withPool x).poolDraws = s.poolDraws := rfl
@[simp] theorem State.withPool_draws (s : State) (x : List (Option Req)) : (s.withPool x).draws = s.draws := rfl
@[simp] theorem State.withPool_result (s : State) (x : List (Option Req)) : (s.withPool x).result = s.result := rfl
@[simp] theorem State.withPool_trace (s : State) (x : List (Option Req)) : (s.withPool x).trace = s.trace := rfl
/-- The state with another `ep0`. -/
def State.withEp0 (s : State) (x : Ep0Rec) : State := { s with ep0 := x }

@[simp] theorem State.withEp0_ep0 (s : State) (x : Ep0Rec) : (s.withEp0 x).ep0 = x := rfl
@[simp] theorem State.withEp0_hw (s : State) (x : Ep0Rec) : (s.withEp0 x).hw = s.hw := rfl
@[simp] theorem State.withEp0_plat (s : State) (x : Ep0Rec) : (s.withEp0 x).plat = s.plat := rfl
@[simp] theorem State.withEp0_regs (s : State) (x : Ep0Rec) : (s.withEp0 x).regs = s.regs := rfl
@[simp] theorem State.withEp0_fifo (s : State) (x : Ep0Rec) : (s.withEp0 x).fifo = s.fifo := rfl
@[simp] theorem State.withEp0_mem (s : State) (x : Ep0Rec) : (s.withEp0 x).mem = s.mem := rfl
@[simp] theorem State.withEp0_core (s : State) (x : Ep0Rec) : (s.withEp0 x).core = s.core := rfl
@[simp] theorem State.withEp0_epIn (s : State) (x : Ep0Rec) : (s.withEp0 x).epIn = s.epIn := rfl
@[simp] theorem State.withEp0_epOut (s : State) (x : Ep0Rec) : (s.withEp0 x).epOut = s.epOut := rfl
@[simp] theorem State.withEp0_ch (s : State) (x : Ep0Rec) : (s.withEp0 x).ch = s.ch := rfl
@[simp] theorem State.withEp0_pool (s : State) (x : Ep0Rec) : (s.withEp0 x).pool = s.pool := rfl
@[simp] theorem State.withEp0_iso (s : State) (x : Ep0Rec) : (s.withEp0 x).iso = s.iso := rfl
@[simp] theorem State.withEp0_htog (s : State) (x : Ep0Rec) : (s.withEp0 x).htog = s.htog := rfl
@[simp] theorem State.withEp0_ctx (s : State) (x : Ep0Rec) : (s.withEp0 x).ctx = s.ctx := rfl
@[simp] theorem State.withEp0_recordsExist (s : State) (x : Ep0Rec) : (s.withEp0 x).recordsExist = s.recordsExist := rfl
@[simp] theorem State.withEp0_rrNp (s : State) (x : Ep0Rec) : (s.withEp0 x).rrNp = s.rrNp := rfl
@[simp] theorem State.withEp0_rrP (s : State) (x : Ep0Rec) : (s.withEp0 x).rrP = s.rrP := rfl
@[simp] theorem State.withEp0_inbox (s : State) (x : Ep0Rec) : (s.withEp0 x).inbox = s.inbox := rfl
@[simp] theorem State.withEp0_replies (s : State) (x : Ep0Rec) : (s.withEp0 x).replies = s.replies := rfl
@[simp] theorem State.withEp0_env (s : State) (x : Ep0Rec) : (s.withEp0 x).env = s.env := rfl
@[simp] theorem State.withEp0_prompt (s : State) (x : Ep0Rec) : (s.withEp0 x).prompt = s.prompt := rfl
@[simp] theorem State.withEp0_engine (s : State) (x : Ep0Rec) : (s.withEp0 x).engine = s.engine := rfl
@[simp] theorem State.withEp0_hold (s : State) (x : Ep0Rec) : (s.withEp0 x).hold = s.hold := rfl
@[simp] theorem State.withEp0_owed (s : State) (x : Ep0Rec) : (s.withEp0 x).owed = s.owed := rfl
@[simp] theorem State.withEp0_inCb (s : State) (x : Ep0Rec) : (s.withEp0 x).inCb = s.inCb := rfl
@[simp] theorem State.withEp0_patience (s : State) (x : Ep0Rec) : (s.withEp0 x).patience = s.patience := rfl
@[simp] theorem State.withEp0_poolDraws (s : State) (x : Ep0Rec) : (s.withEp0 x).poolDraws = s.poolDraws := rfl
@[simp] theorem State.withEp0_draws (s : State) (x : Ep0Rec) : (s.withEp0 x).draws = s.draws := rfl
@[simp] theorem State.withEp0_result (s : State) (x : Ep0Rec) : (s.withEp0 x).result = s.result := rfl
@[simp] theorem State.withEp0_trace (s : State) (x : Ep0Rec) : (s.withEp0 x).trace = s.trace := rfl
/-- The state with another `core`. -/
def State.withCore (s : State) (x : CoreRec) : State := { s with core := x }

@[simp] theorem State.withCore_core (s : State) (x : CoreRec) : (s.withCore x).core = x := rfl
@[simp] theorem State.withCore_hw (s : State) (x : CoreRec) : (s.withCore x).hw = s.hw := rfl
@[simp] theorem State.withCore_plat (s : State) (x : CoreRec) : (s.withCore x).plat = s.plat := rfl
@[simp] theorem State.withCore_regs (s : State) (x : CoreRec) : (s.withCore x).regs = s.regs := rfl
@[simp] theorem State.withCore_fifo (s : State) (x : CoreRec) : (s.withCore x).fifo = s.fifo := rfl
@[simp] theorem State.withCore_mem (s : State) (x : CoreRec) : (s.withCore x).mem = s.mem := rfl
@[simp] theorem State.withCore_epIn (s : State) (x : CoreRec) : (s.withCore x).epIn = s.epIn := rfl
@[simp] theorem State.withCore_epOut (s : State) (x : CoreRec) : (s.withCore x).epOut = s.epOut := rfl
@[simp] theorem State.withCore_ch (s : State) (x : CoreRec) : (s.withCore x).ch = s.ch := rfl
@[simp] theorem State.withCore_pool (s : State) (x : CoreRec) : (s.withCore x).pool = s.pool := rfl
@[simp] theorem State.withCore_ep0 (s : State) (x : CoreRec) : (s.withCore x).ep0 = s.ep0 := rfl
@[simp] theorem State.withCore_iso (s : State) (x : CoreRec) : (s.withCore x).iso = s.iso := rfl
@[simp] theorem State.withCore_htog (s : State) (x : CoreRec) : (s.withCore x).htog = s.htog := rfl
@[simp] theorem State.withCore_ctx (s : State) (x : CoreRec) : (s.withCore x).ctx = s.ctx := rfl
@[simp] theorem State.withCore_recordsExist (s : State) (x : CoreRec) : (s.withCore x).recordsExist = s.recordsExist := rfl
@[simp] theorem State.withCore_rrNp (s : State) (x : CoreRec) : (s.withCore x).rrNp = s.rrNp := rfl
@[simp] theorem State.withCore_rrP (s : State) (x : CoreRec) : (s.withCore x).rrP = s.rrP := rfl
@[simp] theorem State.withCore_inbox (s : State) (x : CoreRec) : (s.withCore x).inbox = s.inbox := rfl
@[simp] theorem State.withCore_replies (s : State) (x : CoreRec) : (s.withCore x).replies = s.replies := rfl
@[simp] theorem State.withCore_env (s : State) (x : CoreRec) : (s.withCore x).env = s.env := rfl
@[simp] theorem State.withCore_prompt (s : State) (x : CoreRec) : (s.withCore x).prompt = s.prompt := rfl
@[simp] theorem State.withCore_engine (s : State) (x : CoreRec) : (s.withCore x).engine = s.engine := rfl
@[simp] theorem State.withCore_hold (s : State) (x : CoreRec) : (s.withCore x).hold = s.hold := rfl
@[simp] theorem State.withCore_owed (s : State) (x : CoreRec) : (s.withCore x).owed = s.owed := rfl
@[simp] theorem State.withCore_inCb (s : State) (x : CoreRec) : (s.withCore x).inCb = s.inCb := rfl
@[simp] theorem State.withCore_patience (s : State) (x : CoreRec) : (s.withCore x).patience = s.patience := rfl
@[simp] theorem State.withCore_poolDraws (s : State) (x : CoreRec) : (s.withCore x).poolDraws = s.poolDraws := rfl
@[simp] theorem State.withCore_draws (s : State) (x : CoreRec) : (s.withCore x).draws = s.draws := rfl
@[simp] theorem State.withCore_result (s : State) (x : CoreRec) : (s.withCore x).result = s.result := rfl
@[simp] theorem State.withCore_trace (s : State) (x : CoreRec) : (s.withCore x).trace = s.trace := rfl
/-- The state with another `iso`. -/
def State.withIso (s : State) (x : List IsoRec) : State := { s with iso := x }

@[simp] theorem State.withIso_iso (s : State) (x : List IsoRec) : (s.withIso x).iso = x := rfl
@[simp] theorem State.withIso_hw (s : State) (x : List IsoRec) : (s.withIso x).hw = s.hw := rfl
@[simp] theorem State.withIso_plat (s : State) (x : List IsoRec) : (s.withIso x).plat = s.plat := rfl
@[simp] theorem State.withIso_regs (s : State) (x : List IsoRec) : (s.withIso x).regs = s.regs := rfl
@[simp] theorem State.withIso_fifo (s : State) (x : List IsoRec) : (s.withIso x).fifo = s.fifo := rfl
@[simp] theorem State.withIso_mem (s : State) (x : List IsoRec) : (s.withIso x).mem = s.mem := rfl
@[simp] theorem State.withIso_core (s : State) (x : List IsoRec) : (s.withIso x).core = s.core := rfl
@[simp] theorem State.withIso_epIn (s : State) (x : List IsoRec) : (s.withIso x).epIn = s.epIn := rfl
@[simp] theorem State.withIso_epOut (s : State) (x : List IsoRec) : (s.withIso x).epOut = s.epOut := rfl
@[simp] theorem State.withIso_ch (s : State) (x : List IsoRec) : (s.withIso x).ch = s.ch := rfl
@[simp] theorem State.withIso_pool (s : State) (x : List IsoRec) : (s.withIso x).pool = s.pool := rfl
@[simp] theorem State.withIso_ep0 (s : State) (x : List IsoRec) : (s.withIso x).ep0 = s.ep0 := rfl
@[simp] theorem State.withIso_htog (s : State) (x : List IsoRec) : (s.withIso x).htog = s.htog := rfl
@[simp] theorem State.withIso_ctx (s : State) (x : List IsoRec) : (s.withIso x).ctx = s.ctx := rfl
@[simp] theorem State.withIso_recordsExist (s : State) (x : List IsoRec) : (s.withIso x).recordsExist = s.recordsExist := rfl
@[simp] theorem State.withIso_rrNp (s : State) (x : List IsoRec) : (s.withIso x).rrNp = s.rrNp := rfl
@[simp] theorem State.withIso_rrP (s : State) (x : List IsoRec) : (s.withIso x).rrP = s.rrP := rfl
@[simp] theorem State.withIso_inbox (s : State) (x : List IsoRec) : (s.withIso x).inbox = s.inbox := rfl
@[simp] theorem State.withIso_replies (s : State) (x : List IsoRec) : (s.withIso x).replies = s.replies := rfl
@[simp] theorem State.withIso_env (s : State) (x : List IsoRec) : (s.withIso x).env = s.env := rfl
@[simp] theorem State.withIso_prompt (s : State) (x : List IsoRec) : (s.withIso x).prompt = s.prompt := rfl
@[simp] theorem State.withIso_engine (s : State) (x : List IsoRec) : (s.withIso x).engine = s.engine := rfl
@[simp] theorem State.withIso_hold (s : State) (x : List IsoRec) : (s.withIso x).hold = s.hold := rfl
@[simp] theorem State.withIso_owed (s : State) (x : List IsoRec) : (s.withIso x).owed = s.owed := rfl
@[simp] theorem State.withIso_inCb (s : State) (x : List IsoRec) : (s.withIso x).inCb = s.inCb := rfl
@[simp] theorem State.withIso_patience (s : State) (x : List IsoRec) : (s.withIso x).patience = s.patience := rfl
@[simp] theorem State.withIso_poolDraws (s : State) (x : List IsoRec) : (s.withIso x).poolDraws = s.poolDraws := rfl
@[simp] theorem State.withIso_draws (s : State) (x : List IsoRec) : (s.withIso x).draws = s.draws := rfl
@[simp] theorem State.withIso_result (s : State) (x : List IsoRec) : (s.withIso x).result = s.result := rfl
@[simp] theorem State.withIso_trace (s : State) (x : List IsoRec) : (s.withIso x).trace = s.trace := rfl
/-- The state with another `htog`. -/
def State.withHtog (s : State) (x : SMap Bool) : State := { s with htog := x }

@[simp] theorem State.withHtog_htog (s : State) (x : SMap Bool) : (s.withHtog x).htog = x := rfl
@[simp] theorem State.withHtog_hw (s : State) (x : SMap Bool) : (s.withHtog x).hw = s.hw := rfl
@[simp] theorem State.withHtog_plat (s : State) (x : SMap Bool) : (s.withHtog x).plat = s.plat := rfl
@[simp] theorem State.withHtog_regs (s : State) (x : SMap Bool) : (s.withHtog x).regs = s.regs := rfl
@[simp] theorem State.withHtog_fifo (s : State) (x : SMap Bool) : (s.withHtog x).fifo = s.fifo := rfl
@[simp] theorem State.withHtog_mem (s : State) (x : SMap Bool) : (s.withHtog x).mem = s.mem := rfl
@[simp] theorem State.withHtog_core (s : State) (x : SMap Bool) : (s.withHtog x).core = s.core := rfl
@[simp] theorem State.withHtog_epIn (s : State) (x : SMap Bool) : (s.withHtog x).epIn = s.epIn := rfl
@[simp] theorem State.withHtog_epOut (s : State) (x : SMap Bool) : (s.withHtog x).epOut = s.epOut := rfl
@[simp] theorem State.withHtog_ch (s : State) (x : SMap Bool) : (s.withHtog x).ch = s.ch := rfl
@[simp] theorem State.withHtog_pool (s : State) (x : SMap Bool) : (s.withHtog x).pool = s.pool := rfl
@[simp] theorem State.withHtog_ep0 (s : State) (x : SMap Bool) : (s.withHtog x).ep0 = s.ep0 := rfl
@[simp] theorem State.withHtog_iso (s : State) (x : SMap Bool) : (s.withHtog x).iso = s.iso := rfl
@[simp] theorem State.withHtog_ctx (s : State) (x : SMap Bool) : (s.withHtog x).ctx = s.ctx := rfl
@[simp] theorem State.withHtog_recordsExist (s : State) (x : SMap Bool) : (s.withHtog x).recordsExist = s.recordsExist := rfl
@[simp] theorem State.withHtog_rrNp (s : State) (x : SMap Bool) : (s.withHtog x).rrNp = s.rrNp := rfl
@[simp] theorem State.withHtog_rrP (s : State) (x : SMap Bool) : (s.withHtog x).rrP = s.rrP := rfl
@[simp] theorem State.withHtog_inbox (s : State) (x : SMap Bool) : (s.withHtog x).inbox = s.inbox := rfl
@[simp] theorem State.withHtog_replies (s : State) (x : SMap Bool) : (s.withHtog x).replies = s.replies := rfl
@[simp] theorem State.withHtog_env (s : State) (x : SMap Bool) : (s.withHtog x).env = s.env := rfl
@[simp] theorem State.withHtog_prompt (s : State) (x : SMap Bool) : (s.withHtog x).prompt = s.prompt := rfl
@[simp] theorem State.withHtog_engine (s : State) (x : SMap Bool) : (s.withHtog x).engine = s.engine := rfl
@[simp] theorem State.withHtog_hold (s : State) (x : SMap Bool) : (s.withHtog x).hold = s.hold := rfl
@[simp] theorem State.withHtog_owed (s : State) (x : SMap Bool) : (s.withHtog x).owed = s.owed := rfl
@[simp] theorem State.withHtog_inCb (s : State) (x : SMap Bool) : (s.withHtog x).inCb = s.inCb := rfl
@[simp] theorem State.withHtog_patience (s : State) (x : SMap Bool) : (s.withHtog x).patience = s.patience := rfl
@[simp] theorem State.withHtog_poolDraws (s : State) (x : SMap Bool) : (s.withHtog x).poolDraws = s.poolDraws := rfl
@[simp] theorem State.withHtog_draws (s : State) (x : SMap Bool) : (s.withHtog x).draws = s.draws := rfl
@[simp] theorem State.withHtog_result (s : State) (x : SMap Bool) : (s.withHtog x).result = s.result := rfl
@[simp] theorem State.withHtog_trace (s : State) (x : SMap Bool) : (s.withHtog x).trace = s.trace := rfl
/-- The state with another `fifo`. -/
def State.withFifo (s : State) (x : Fifo) : State := { s with fifo := x }

@[simp] theorem State.withFifo_fifo (s : State) (x : Fifo) : (s.withFifo x).fifo = x := rfl
@[simp] theorem State.withFifo_hw (s : State) (x : Fifo) : (s.withFifo x).hw = s.hw := rfl
@[simp] theorem State.withFifo_plat (s : State) (x : Fifo) : (s.withFifo x).plat = s.plat := rfl
@[simp] theorem State.withFifo_regs (s : State) (x : Fifo) : (s.withFifo x).regs = s.regs := rfl
@[simp] theorem State.withFifo_mem (s : State) (x : Fifo) : (s.withFifo x).mem = s.mem := rfl
@[simp] theorem State.withFifo_core (s : State) (x : Fifo) : (s.withFifo x).core = s.core := rfl
@[simp] theorem State.withFifo_epIn (s : State) (x : Fifo) : (s.withFifo x).epIn = s.epIn := rfl
@[simp] theorem State.withFifo_epOut (s : State) (x : Fifo) : (s.withFifo x).epOut = s.epOut := rfl
@[simp] theorem State.withFifo_ch (s : State) (x : Fifo) : (s.withFifo x).ch = s.ch := rfl
@[simp] theorem State.withFifo_pool (s : State) (x : Fifo) : (s.withFifo x).pool = s.pool := rfl
@[simp] theorem State.withFifo_ep0 (s : State) (x : Fifo) : (s.withFifo x).ep0 = s.ep0 := rfl
@[simp] theorem State.withFifo_iso (s : State) (x : Fifo) : (s.withFifo x).iso = s.iso := rfl
@[simp] theorem State.withFifo_htog (s : State) (x : Fifo) : (s.withFifo x).htog = s.htog := rfl
@[simp] theorem State.withFifo_ctx (s : State) (x : Fifo) : (s.withFifo x).ctx = s.ctx := rfl
@[simp] theorem State.withFifo_recordsExist (s : State) (x : Fifo) : (s.withFifo x).recordsExist = s.recordsExist := rfl
@[simp] theorem State.withFifo_rrNp (s : State) (x : Fifo) : (s.withFifo x).rrNp = s.rrNp := rfl
@[simp] theorem State.withFifo_rrP (s : State) (x : Fifo) : (s.withFifo x).rrP = s.rrP := rfl
@[simp] theorem State.withFifo_inbox (s : State) (x : Fifo) : (s.withFifo x).inbox = s.inbox := rfl
@[simp] theorem State.withFifo_replies (s : State) (x : Fifo) : (s.withFifo x).replies = s.replies := rfl
@[simp] theorem State.withFifo_env (s : State) (x : Fifo) : (s.withFifo x).env = s.env := rfl
@[simp] theorem State.withFifo_prompt (s : State) (x : Fifo) : (s.withFifo x).prompt = s.prompt := rfl
@[simp] theorem State.withFifo_engine (s : State) (x : Fifo) : (s.withFifo x).engine = s.engine := rfl
@[simp] theorem State.withFifo_hold (s : State) (x : Fifo) : (s.withFifo x).hold = s.hold := rfl
@[simp] theorem State.withFifo_owed (s : State) (x : Fifo) : (s.withFifo x).owed = s.owed := rfl
@[simp] theorem State.withFifo_inCb (s : State) (x : Fifo) : (s.withFifo x).inCb = s.inCb := rfl
@[simp] theorem State.withFifo_patience (s : State) (x : Fifo) : (s.withFifo x).patience = s.patience := rfl
@[simp] theorem State.withFifo_poolDraws (s : State) (x : Fifo) : (s.withFifo x).poolDraws = s.poolDraws := rfl
@[simp] theorem State.withFifo_draws (s : State) (x : Fifo) : (s.withFifo x).draws = s.draws := rfl
@[simp] theorem State.withFifo_result (s : State) (x : Fifo) : (s.withFifo x).result = s.result := rfl
@[simp] theorem State.withFifo_trace (s : State) (x : Fifo) : (s.withFifo x).trace = s.trace := rfl
/-- The state with another `ch`. -/
def State.withCh (s : State) (x : Vector ChRec 16) : State := { s with ch := x }

@[simp] theorem State.withCh_ch (s : State) (x : Vector ChRec 16) : (s.withCh x).ch = x := rfl
@[simp] theorem State.withCh_hw (s : State) (x : Vector ChRec 16) : (s.withCh x).hw = s.hw := rfl
@[simp] theorem State.withCh_plat (s : State) (x : Vector ChRec 16) : (s.withCh x).plat = s.plat := rfl
@[simp] theorem State.withCh_regs (s : State) (x : Vector ChRec 16) : (s.withCh x).regs = s.regs := rfl
@[simp] theorem State.withCh_fifo (s : State) (x : Vector ChRec 16) : (s.withCh x).fifo = s.fifo := rfl
@[simp] theorem State.withCh_mem (s : State) (x : Vector ChRec 16) : (s.withCh x).mem = s.mem := rfl
@[simp] theorem State.withCh_core (s : State) (x : Vector ChRec 16) : (s.withCh x).core = s.core := rfl
@[simp] theorem State.withCh_epIn (s : State) (x : Vector ChRec 16) : (s.withCh x).epIn = s.epIn := rfl
@[simp] theorem State.withCh_epOut (s : State) (x : Vector ChRec 16) : (s.withCh x).epOut = s.epOut := rfl
@[simp] theorem State.withCh_pool (s : State) (x : Vector ChRec 16) : (s.withCh x).pool = s.pool := rfl
@[simp] theorem State.withCh_ep0 (s : State) (x : Vector ChRec 16) : (s.withCh x).ep0 = s.ep0 := rfl
@[simp] theorem State.withCh_iso (s : State) (x : Vector ChRec 16) : (s.withCh x).iso = s.iso := rfl
@[simp] theorem State.withCh_htog (s : State) (x : Vector ChRec 16) : (s.withCh x).htog = s.htog := rfl
@[simp] theorem State.withCh_ctx (s : State) (x : Vector ChRec 16) : (s.withCh x).ctx = s.ctx := rfl
@[simp] theorem State.withCh_recordsExist (s : State) (x : Vector ChRec 16) : (s.withCh x).recordsExist = s.recordsExist := rfl
@[simp] theorem State.withCh_rrNp (s : State) (x : Vector ChRec 16) : (s.withCh x).rrNp = s.rrNp := rfl
@[simp] theorem State.withCh_rrP (s : State) (x : Vector ChRec 16) : (s.withCh x).rrP = s.rrP := rfl
@[simp] theorem State.withCh_inbox (s : State) (x : Vector ChRec 16) : (s.withCh x).inbox = s.inbox := rfl
@[simp] theorem State.withCh_replies (s : State) (x : Vector ChRec 16) : (s.withCh x).replies = s.replies := rfl
@[simp] theorem State.withCh_env (s : State) (x : Vector ChRec 16) : (s.withCh x).env = s.env := rfl
@[simp] theorem State.withCh_prompt (s : State) (x : Vector ChRec 16) : (s.withCh x).prompt = s.prompt := rfl
@[simp] theorem State.withCh_engine (s : State) (x : Vector ChRec 16) : (s.withCh x).engine = s.engine := rfl
@[simp] theorem State.withCh_hold (s : State) (x : Vector ChRec 16) : (s.withCh x).hold = s.hold := rfl
@[simp] theorem State.withCh_owed (s : State) (x : Vector ChRec 16) : (s.withCh x).owed = s.owed := rfl
@[simp] theorem State.withCh_inCb (s : State) (x : Vector ChRec 16) : (s.withCh x).inCb = s.inCb := rfl
@[simp] theorem State.withCh_patience (s : State) (x : Vector ChRec 16) : (s.withCh x).patience = s.patience := rfl
@[simp] theorem State.withCh_poolDraws (s : State) (x : Vector ChRec 16) : (s.withCh x).poolDraws = s.poolDraws := rfl
@[simp] theorem State.withCh_draws (s : State) (x : Vector ChRec 16) : (s.withCh x).draws = s.draws := rfl
@[simp] theorem State.withCh_result (s : State) (x : Vector ChRec 16) : (s.withCh x).result = s.result := rfl
@[simp] theorem State.withCh_trace (s : State) (x : Vector ChRec 16) : (s.withCh x).trace = s.trace := rfl
/-- The state with another `plat`. -/
def State.withPlat (s : State) (x : Platform) : State := { s with plat := x }

@[simp] theorem State.withPlat_plat (s : State) (x : Platform) : (s.withPlat x).plat = x := rfl
@[simp] theorem State.withPlat_hw (s : State) (x : Platform) : (s.withPlat x).hw = s.hw := rfl
@[simp] theorem State.withPlat_regs (s : State) (x : Platform) : (s.withPlat x).regs = s.regs := rfl
@[simp] theorem State.withPlat_fifo (s : State) (x : Platform) : (s.withPlat x).fifo = s.fifo := rfl
@[simp] theorem State.withPlat_mem (s : State) (x : Platform) : (s.withPlat x).mem = s.mem := rfl
@[simp] theorem State.withPlat_core (s : State) (x : Platform) : (s.withPlat x).core = s.core := rfl
@[simp] theorem State.withPlat_epIn (s : State) (x : Platform) : (s.withPlat x).epIn = s.epIn := rfl
@[simp] theorem State.withPlat_epOut (s : State) (x : Platform) : (s.withPlat x).epOut = s.epOut := rfl
@[simp] theorem State.withPlat_ch (s : State) (x : Platform) : (s.withPlat x).ch = s.ch := rfl
@[simp] theorem State.withPlat_pool (s : State) (x : Platform) : (s.withPlat x).pool = s.pool := rfl
@[simp] theorem State.withPlat_ep0 (s : State) (x : Platform) : (s.withPlat x).ep0 = s.ep0 := rfl
@[simp] theorem State.withPlat_iso (s : State) (x : Platform) : (s.withPlat x).iso = s.iso := rfl
@[simp] theorem State.withPlat_htog (s : State) (x : Platform) : (s.withPlat x).htog = s.htog := rfl
@[simp] theorem State.withPlat_ctx (s : State) (x : Platform) : (s.withPlat x).ctx = s.ctx := rfl
@[simp] theorem State.withPlat_recordsExist (s : State) (x : Platform) : (s.withPlat x).recordsExist = s.recordsExist := rfl
@[simp] theorem State.withPlat_rrNp (s : State) (x : Platform) : (s.withPlat x).rrNp = s.rrNp := rfl
@[simp] theorem State.withPlat_rrP (s : State) (x : Platform) : (s.withPlat x).rrP = s.rrP := rfl
@[simp] theorem State.withPlat_inbox (s : State) (x : Platform) : (s.withPlat x).inbox = s.inbox := rfl
@[simp] theorem State.withPlat_replies (s : State) (x : Platform) : (s.withPlat x).replies = s.replies := rfl
@[simp] theorem State.withPlat_env (s : State) (x : Platform) : (s.withPlat x).env = s.env := rfl
@[simp] theorem State.withPlat_prompt (s : State) (x : Platform) : (s.withPlat x).prompt = s.prompt := rfl
@[simp] theorem State.withPlat_engine (s : State) (x : Platform) : (s.withPlat x).engine = s.engine := rfl
@[simp] theorem State.withPlat_hold (s : State) (x : Platform) : (s.withPlat x).hold = s.hold := rfl
@[simp] theorem State.withPlat_owed (s : State) (x : Platform) : (s.withPlat x).owed = s.owed := rfl
@[simp] theorem State.withPlat_inCb (s : State) (x : Platform) : (s.withPlat x).inCb = s.inCb := rfl
@[simp] theorem State.withPlat_patience (s : State) (x : Platform) : (s.withPlat x).patience = s.patience := rfl
@[simp] theorem State.withPlat_poolDraws (s : State) (x : Platform) : (s.withPlat x).poolDraws = s.poolDraws := rfl
@[simp] theorem State.withPlat_draws (s : State) (x : Platform) : (s.withPlat x).draws = s.draws := rfl
@[simp] theorem State.withPlat_result (s : State) (x : Platform) : (s.withPlat x).result = s.result := rfl
@[simp] theorem State.withPlat_trace (s : State) (x : Platform) : (s.withPlat x).trace = s.trace := rfl

/-! What each reading depends on. -/

theorem State.raw_of {s t : State} (hregs : t.regs = s.regs) (r : Reg) :
    t.raw r = s.raw r := by simp only [State.raw, hregs]
theorem State.hostMode_of {s t : State} (hregs : t.regs = s.regs) :
    t.hostMode = s.hostMode := by
  obtain ⟨⟩ := s
  obtain ⟨⟩ := t
  subst hregs
  rfl
theorem State.unsettled_of {s t : State} (hregs : t.regs = s.regs) :
    t.unsettled = s.unsettled := by
  obtain ⟨⟩ := s
  obtain ⟨⟩ := t
  subst hregs
  rfl
theorem State.slaveHw_of {s t : State} (hregs : t.regs = s.regs) :
    t.slaveHw = s.slaveHw := by
  obtain ⟨⟩ := s
  obtain ⟨⟩ := t
  subst hregs
  rfl
theorem State.accessible_of {s t : State} (hhw : t.hw = s.hw) (hregs : t.regs = s.regs) (r : Reg) :
    t.accessible r = s.accessible r := by
  obtain ⟨⟩ := s
  obtain ⟨⟩ := t
  subst hhw hregs
  rfl
theorem State.byte_of {s t : State} (hmem : t.mem = s.mem) (a : Word) :
    t.byte a = s.byte a := by
  obtain ⟨⟩ := s
  obtain ⟨⟩ := t
  subst hmem
  rfl
theorem State.word_of {s t : State} (hmem : t.mem = s.mem) (a : Word) :
    t.word a = s.word a := by
  obtain ⟨⟩ := s
  obtain ⟨⟩ := t
  subst hmem
  rfl
theorem State.bytes_of {s t : State} (hmem : t.mem = s.mem) (a : Word) (n : Nat) :
    t.bytes a n = s.bytes a n := by
  induction n generalizing a with
  | zero => rfl
  | succ n ih => simp only [State.bytes, State.byte, hmem, ih]
theorem State.ep_of {s t : State} (hepIn : t.epIn = s.epIn) (hepOut : t.epOut = s.epOut) (e : EpRef) :
    t.ep e = s.ep e := by
  obtain ⟨⟩ := s
  obtain ⟨⟩ := t
  subst hepIn hepOut
  obtain ⟨_, _ | _⟩ := e <;> rfl
theorem State.chan_of {s t : State} (hch : t.ch = s.ch) (c : Fin 16) :
    t.chan c = s.chan c := by
  obtain ⟨⟩ := s
  obtain ⟨⟩ := t
  subst hch
  rfl
theorem State.xfer_of {s t : State} (hepIn : t.epIn = s.epIn) (hepOut : t.epOut = s.epOut) (hch : t.ch = s.ch) (x : XRef) :
    t.xfer x = s.xfer x := by
  obtain ⟨⟩ := s
  obtain ⟨⟩ := t
  subst hepIn hepOut hch
  obtain ⟨⟨_, _ | _⟩⟩ | _ := x <;> rfl
theorem State.mpsOf_of {s t : State} (hepIn : t.epIn = s.epIn) (hepOut : t.epOut = s.epOut) (hch : t.ch = s.ch) (x : XRef) :
    t.mpsOf x = s.mpsOf x := by
  obtain ⟨⟩ := s
  obtain ⟨⟩ := t
  subst hepIn hepOut hch
  obtain ⟨⟨_, _ | _⟩⟩ | _ := x <;> rfl
theorem State.typeOf_of {s t : State} (hepIn : t.epIn = s.epIn) (hepOut : t.epOut = s.epOut) (hch : t.ch = s.ch) (x : XRef) :
    t.typeOf x = s.typeOf x := by
  obtain ⟨⟩ := s
  obtain ⟨⟩ := t
  subst hepIn hepOut hch
  obtain ⟨⟨_, _ | _⟩⟩ | _ := x <;> rfl
theorem State.multiOf_of {s t : State} (hepIn : t.epIn = s.epIn) (hepOut : t.epOut = s.epOut) (hch : t.ch = s.ch) (x : XRef) :
    t.multiOf x = s.multiOf x := by
  obtain ⟨⟩ := s
  obtain ⟨⟩ := t
  subst hepIn hepOut hch
  obtain ⟨⟨_, _ | _⟩⟩ | _ := x <;> rfl
theorem State.intervalOf_of {s t : State} (hepIn : t.epIn = s.epIn) (hepOut : t.epOut = s.epOut) (hch : t.ch = s.ch) (x : XRef) :
    t.intervalOf x = s.intervalOf x := by
  obtain ⟨⟩ := s
  obtain ⟨⟩ := t
  subst hepIn hepOut hch
  obtain ⟨⟨_, _ | _⟩⟩ | _ := x <;> rfl
theorem State.transmits_of {s t : State} (hepIn : t.epIn = s.epIn) (hepOut : t.epOut = s.epOut) (hch : t.ch = s.ch) (x : XRef) :
    t.transmits x = s.transmits x := by
  obtain ⟨⟩ := s
  obtain ⟨⟩ := t
  subst hepIn hepOut hch
  obtain ⟨⟨_, _ | _⟩⟩ | _ := x <;> rfl
theorem State.splits_of {s t : State} (hepIn : t.epIn = s.epIn) (hepOut : t.epOut = s.epOut) (hch : t.ch = s.ch) (x : XRef) :
    t.splits x = s.splits x := by
  obtain ⟨⟩ := s
  obtain ⟨⟩ := t
  subst hepIn hepOut hch
  obtain ⟨⟨_, _ | _⟩⟩ | _ := x <;> rfl
theorem State.xIdle_of {s t : State} (hepIn : t.epIn = s.epIn) (hepOut : t.epOut = s.epOut) (hch : t.ch = s.ch) (x : XRef) :
    t.xIdle x = s.xIdle x := by
  obtain ⟨⟩ := s
  obtain ⟨⟩ := t
  subst hepIn hepOut hch
  obtain ⟨⟨_, _ | _⟩⟩ | _ := x <;> rfl
theorem State.reqAt_of {s t : State} (hpool : t.pool = s.pool) (hep0 : t.ep0 = s.ep0) (i : ReqId) :
    t.reqAt i = s.reqAt i := by
  obtain ⟨⟩ := s
  obtain ⟨⟩ := t
  subst hpool hep0
  cases i <;> rfl
theorem State.reqOf_of {s t : State} (hepIn : t.epIn = s.epIn) (hepOut : t.epOut = s.epOut) (hch : t.ch = s.ch) (hpool : t.pool = s.pool) (hep0 : t.ep0 = s.ep0) (x : XRef) :
    t.reqOf x = s.reqOf x := by
  obtain ⟨⟩ := s
  obtain ⟨⟩ := t
  subst hepIn hepOut hch hpool hep0
  obtain ⟨⟨_, _ | _⟩⟩ | _ := x <;> rfl
theorem State.chunkAddr_of {s t : State} (hepIn : t.epIn = s.epIn) (hepOut : t.epOut = s.epOut) (hch : t.ch = s.ch) (hpool : t.pool = s.pool) (hep0 : t.ep0 = s.ep0) (x : XRef) :
    t.chunkAddr x = s.chunkAddr x := by
  obtain ⟨⟩ := s
  obtain ⟨⟩ := t
  subst hepIn hepOut hch hpool hep0
  obtain ⟨⟨_, _ | _⟩⟩ | _ := x <;> rfl
theorem State.slotUsed_of {s t : State} (hpool : t.pool = s.pool) (k : Nat) :
    t.slotUsed k = s.slotUsed k := by
  obtain ⟨⟩ := s
  obtain ⟨⟩ := t
  subst hpool
  rfl
theorem State.isSlave_of {s t : State} (hcore : t.core = s.core) :
    t.isSlave = s.isSlave := by
  obtain ⟨⟩ := s
  obtain ⟨⟩ := t
  subst hcore
  rfl
theorem State.isDesc_of {s t : State} (hcore : t.core = s.core) :
    t.isDesc = s.isDesc := by
  obtain ⟨⟩ := s
  obtain ⟨⟩ := t
  subst hcore
  rfl
theorem State.peripheral_of {s t : State} (hcore : t.core = s.core) :
    t.peripheral = s.peripheral := by
  obtain ⟨⟩ := s
  obtain ⟨⟩ := t
  subst hcore
  rfl
theorem State.channels_of {s t : State} (hcore : t.core = s.core) :
    t.channels = s.channels := by
  obtain ⟨⟩ := s
  obtain ⟨⟩ := t
  subst hcore
  rfl
theorem State.dataEndpoints_of {s t : State} (hcore : t.core = s.core) :
    t.dataEndpoints = s.dataEndpoints := by
  obtain ⟨⟩ := s
  obtain ⟨⟩ := t
  subst hcore
  rfl
theorem State.validX_of {s t : State} (hcore : t.core = s.core) (x : XRef) :
    t.validX x = s.validX x := by
  obtain ⟨⟩ := s
  obtain ⟨⟩ := t
  subst hcore
  obtain ⟨⟨_, _ | _⟩⟩ | _ := x <;> rfl
theorem State.xferLimits_of {s t : State} (hcore : t.core = s.core) (hhw : t.hw = s.hw) (x : XRef) :
    t.xferLimits x = s.xferLimits x := by
  obtain ⟨⟩ := s
  obtain ⟨⟩ := t
  subst hcore hhw
  obtain ⟨⟨_, _ | _⟩⟩ | _ := x <;> rfl
theorem State.isoOf_of {s t : State} (hiso : t.iso = s.iso) (x : XRef) :
    t.isoOf x = s.isoOf x := by
  obtain ⟨⟩ := s
  obtain ⟨⟩ := t
  subst hiso
  obtain ⟨⟨_, _ | _⟩⟩ | _ := x <;> rfl
theorem State.scheduled_of {s t : State} (hiso : t.iso = s.iso) (x : XRef) :
    t.scheduled x = s.scheduled x := by
  obtain ⟨⟩ := s
  obtain ⟨⟩ := t
  subst hiso
  obtain ⟨⟨_, _ | _⟩⟩ | _ := x <;> rfl
theorem State.descArray_of {s t : State} (hplat : t.plat = s.plat) (x : XRef) (w : Bool) :
    t.descArray x w = s.descArray x w := by
  obtain ⟨⟩ := s
  obtain ⟨⟩ := t
  subst hplat
  obtain ⟨⟨_, _ | _⟩⟩ | _ := x <;> rfl
theorem State.level_of {s t : State} (hreplies : t.replies = s.replies) :
    t.level = s.level := by
  obtain ⟨⟩ := s
  obtain ⟨⟩ := t
  subst hreplies
  rfl
theorem State.hostSlave_of {s t : State} (hregs : t.regs = s.regs) (hcore : t.core = s.core) :
    t.hostSlave = s.hostSlave := by
  obtain ⟨⟩ := s
  obtain ⟨⟩ := t
  subst hregs hcore
  rfl
theorem State.chunkLimit_of {s t : State} (hepIn : t.epIn = s.epIn) (hepOut : t.epOut = s.epOut) (hch : t.ch = s.ch) (hcore : t.core = s.core) (hhw : t.hw = s.hw) (x : XRef) :
    t.chunkLimit x = s.chunkLimit x := by
  obtain ⟨⟩ := s
  obtain ⟨⟩ := t
  subst hepIn hepOut hch hcore hhw
  obtain ⟨⟨_, _ | _⟩⟩ | _ := x <;> rfl
theorem State.nextChunk_of {s t : State} (hepIn : t.epIn = s.epIn) (hepOut : t.epOut = s.epOut) (hch : t.ch = s.ch) (hpool : t.pool = s.pool) (hep0 : t.ep0 = s.ep0) (hcore : t.core = s.core) (hhw : t.hw = s.hw) (x : XRef) :
    t.nextChunk x = s.nextChunk x := by
  obtain ⟨⟩ := s
  obtain ⟨⟩ := t
  subst hepIn hepOut hch hpool hep0 hcore hhw
  obtain ⟨⟨_, _ | _⟩⟩ | _ := x <;> rfl
theorem State.firstPid_of {s t : State} (hhtog : t.htog = s.htog) (p : HcParams) :
    t.firstPid p = s.firstPid p := by
  obtain ⟨⟩ := s
  obtain ⟨⟩ := t
  subst hhtog
  rfl
theorem State.serviceList_of {s t : State} (hcore : t.core = s.core) (hch : t.ch = s.ch) (b : Bool) :
    t.serviceList b = s.serviceList b := by
  obtain ⟨⟩ := s
  obtain ⟨⟩ := t
  subst hcore hch
  rfl
theorem State.lastServed_of {s t : State} (hrrNp : t.rrNp = s.rrNp) (hrrP : t.rrP = s.rrP) (b : Bool) :
    t.lastServed b = s.lastServed b := by
  obtain ⟨⟩ := s
  obtain ⟨⟩ := t
  subst hrrNp hrrP
  rfl
theorem State.freeSlots_of {s t : State} (hpool : t.pool = s.pool) :
    t.freeSlots = s.freeSlots := by
  obtain ⟨⟩ := s
  obtain ⟨⟩ := t
  subst hpool
  rfl
theorem State.txFifoOf_of {s t : State} (hregs : t.regs = s.regs) (n : Fin 16) :
    t.txFifoOf n = s.txFifoOf n := by
  obtain ⟨⟩ := s
  obtain ⟨⟩ := t
  subst hregs
  rfl
theorem State.epListed_of {s t : State} (hepIn : t.epIn = s.epIn) (hepOut : t.epOut = s.epOut) (hcore : t.core = s.core) (w : BitVec 16) :
    t.epListed w = s.epListed w := by
  obtain ⟨⟩ := s
  obtain ⟨⟩ := t
  subst hepIn hepOut hcore
  rfl
theorem State.enableCheck_of {s t : State} (hepIn : t.epIn = s.epIn) (hepOut : t.epOut = s.epOut) (hcore : t.core = s.core) (hplat : t.plat = s.plat) (d : Epd) :
    t.enableCheck d = s.enableCheck d := by
  obtain ⟨⟩ := s
  obtain ⟨⟩ := t
  subst hepIn hepOut hcore hplat
  rfl
theorem State.submitCheck_of {s t : State} (hepIn : t.epIn = s.epIn) (hepOut : t.epOut = s.epOut) (hcore : t.core = s.core) (hiso : t.iso = s.iso) (e : EpRef) :
    t.submitCheck e = s.submitCheck e := by
  obtain ⟨⟩ := s
  obtain ⟨⟩ := t
  subst hepIn hepOut hcore hiso
  obtain ⟨_, _ | _⟩ := e <;> rfl
theorem State.pipeChannel_of {s t : State} (hcore : t.core = s.core) (hch : t.ch = s.ch) (p : HcParams) :
    t.pipeChannel p = s.pipeChannel p := by
  obtain ⟨⟩ := s
  obtain ⟨⟩ := t
  subst hcore hch
  rfl
theorem State.freeChannel_of {s t : State} (hcore : t.core = s.core) (hch : t.ch = s.ch) :
    t.freeChannel = s.freeChannel := by
  obtain ⟨⟩ := s
  obtain ⟨⟩ := t
  subst hcore hch
  rfl
theorem State.channelFor_of {s t : State} (hcore : t.core = s.core) (hch : t.ch = s.ch) (p : HcParams) :
    t.channelFor p = s.channelFor p := by
  obtain ⟨⟩ := s
  obtain ⟨⟩ := t
  subst hcore hch
  rfl

/-! After `note`. -/

@[simp] theorem State.raw_of_note (s : State) (e' : TraceEv) (r : Reg) :
    (s.note e').raw r = s.raw r := State.raw_of (by simp) r
@[simp] theorem State.hostMode_of_note (s : State) (e' : TraceEv) :
    (s.note e').hostMode = s.hostMode := State.hostMode_of (by simp)
@[simp] theorem State.unsettled_of_note (s : State) (e' : TraceEv) :
    (s.note e').unsettled = s.unsettled := State.unsettled_of (by simp)
@[simp] theorem State.slaveHw_of_note (s : State) (e' : TraceEv) :
    (s.note e').slaveHw = s.slaveHw := State.slaveHw_of (by simp)
@[simp] theorem State.accessible_of_note (s : State) (e' : TraceEv) (r : Reg) :
    (s.note e').accessible r = s.accessible r := State.accessible_of (by simp) (by simp) r
@[simp] theorem State.byte_of_note (s : State) (e' : TraceEv) (a : Word) :
    (s.note e').byte a = s.byte a := State.byte_of (by simp) a
@[simp] theorem State.word_of_note (s : State) (e' : TraceEv) (a : Word) :
    (s.note e').word a = s.word a := State.word_of (by simp) a
@[simp] theorem State.bytes_of_note (s : State) (e' : TraceEv) (a : Word) (n : Nat) :
    (s.note e').bytes a n = s.bytes a n := State.bytes_of (by simp) a n
@[simp] theorem State.ep_of_note (s : State) (e' : TraceEv) (e : EpRef) :
    (s.note e').ep e = s.ep e := State.ep_of (by simp) (by simp) e
@[simp] theorem State.chan_of_note (s : State) (e' : TraceEv) (c : Fin 16) :
    (s.note e').chan c = s.chan c := State.chan_of (by simp) c
@[simp] theorem State.xfer_of_note (s : State) (e' : TraceEv) (x : XRef) :
    (s.note e').xfer x = s.xfer x := State.xfer_of (by simp) (by simp) (by simp) x
@[simp] theorem State.mpsOf_of_note (s : State) (e' : TraceEv) (x : XRef) :
    (s.note e').mpsOf x = s.mpsOf x := State.mpsOf_of (by simp) (by simp) (by simp) x
@[simp] theorem State.typeOf_of_note (s : State) (e' : TraceEv) (x : XRef) :
    (s.note e').typeOf x = s.typeOf x := State.typeOf_of (by simp) (by simp) (by simp) x
@[simp] theorem State.multiOf_of_note (s : State) (e' : TraceEv) (x : XRef) :
    (s.note e').multiOf x = s.multiOf x := State.multiOf_of (by simp) (by simp) (by simp) x
@[simp] theorem State.intervalOf_of_note (s : State) (e' : TraceEv) (x : XRef) :
    (s.note e').intervalOf x = s.intervalOf x := State.intervalOf_of (by simp) (by simp) (by simp) x
@[simp] theorem State.transmits_of_note (s : State) (e' : TraceEv) (x : XRef) :
    (s.note e').transmits x = s.transmits x := State.transmits_of (by simp) (by simp) (by simp) x
@[simp] theorem State.splits_of_note (s : State) (e' : TraceEv) (x : XRef) :
    (s.note e').splits x = s.splits x := State.splits_of (by simp) (by simp) (by simp) x
@[simp] theorem State.xIdle_of_note (s : State) (e' : TraceEv) (x : XRef) :
    (s.note e').xIdle x = s.xIdle x := State.xIdle_of (by simp) (by simp) (by simp) x
@[simp] theorem State.reqAt_of_note (s : State) (e' : TraceEv) (i : ReqId) :
    (s.note e').reqAt i = s.reqAt i := State.reqAt_of (by simp) (by simp) i
@[simp] theorem State.reqOf_of_note (s : State) (e' : TraceEv) (x : XRef) :
    (s.note e').reqOf x = s.reqOf x := State.reqOf_of (by simp) (by simp) (by simp) (by simp) (by simp) x
@[simp] theorem State.chunkAddr_of_note (s : State) (e' : TraceEv) (x : XRef) :
    (s.note e').chunkAddr x = s.chunkAddr x := State.chunkAddr_of (by simp) (by simp) (by simp) (by simp) (by simp) x
@[simp] theorem State.slotUsed_of_note (s : State) (e' : TraceEv) (k : Nat) :
    (s.note e').slotUsed k = s.slotUsed k := State.slotUsed_of (by simp) k
@[simp] theorem State.isSlave_of_note (s : State) (e' : TraceEv) :
    (s.note e').isSlave = s.isSlave := State.isSlave_of (by simp)
@[simp] theorem State.isDesc_of_note (s : State) (e' : TraceEv) :
    (s.note e').isDesc = s.isDesc := State.isDesc_of (by simp)
@[simp] theorem State.peripheral_of_note (s : State) (e' : TraceEv) :
    (s.note e').peripheral = s.peripheral := State.peripheral_of (by simp)
@[simp] theorem State.channels_of_note (s : State) (e' : TraceEv) :
    (s.note e').channels = s.channels := State.channels_of (by simp)
@[simp] theorem State.dataEndpoints_of_note (s : State) (e' : TraceEv) :
    (s.note e').dataEndpoints = s.dataEndpoints := State.dataEndpoints_of (by simp)
@[simp] theorem State.validX_of_note (s : State) (e' : TraceEv) (x : XRef) :
    (s.note e').validX x = s.validX x := State.validX_of (by simp) x
@[simp] theorem State.xferLimits_of_note (s : State) (e' : TraceEv) (x : XRef) :
    (s.note e').xferLimits x = s.xferLimits x := State.xferLimits_of (by simp) (by simp) x
@[simp] theorem State.isoOf_of_note (s : State) (e' : TraceEv) (x : XRef) :
    (s.note e').isoOf x = s.isoOf x := State.isoOf_of (by simp) x
@[simp] theorem State.scheduled_of_note (s : State) (e' : TraceEv) (x : XRef) :
    (s.note e').scheduled x = s.scheduled x := State.scheduled_of (by simp) x
@[simp] theorem State.descArray_of_note (s : State) (e' : TraceEv) (x : XRef) (w : Bool) :
    (s.note e').descArray x w = s.descArray x w := State.descArray_of (by simp) x w
@[simp] theorem State.level_of_note (s : State) (e' : TraceEv) :
    (s.note e').level = s.level := State.level_of (by simp)
@[simp] theorem State.hostSlave_of_note (s : State) (e' : TraceEv) :
    (s.note e').hostSlave = s.hostSlave := State.hostSlave_of (by simp) (by simp)
@[simp] theorem State.chunkLimit_of_note (s : State) (e' : TraceEv) (x : XRef) :
    (s.note e').chunkLimit x = s.chunkLimit x := State.chunkLimit_of (by simp) (by simp) (by simp) (by simp) (by simp) x
@[simp] theorem State.nextChunk_of_note (s : State) (e' : TraceEv) (x : XRef) :
    (s.note e').nextChunk x = s.nextChunk x := State.nextChunk_of (by simp) (by simp) (by simp) (by simp) (by simp) (by simp) (by simp) x
@[simp] theorem State.firstPid_of_note (s : State) (e' : TraceEv) (p : HcParams) :
    (s.note e').firstPid p = s.firstPid p := State.firstPid_of (by simp) p
@[simp] theorem State.serviceList_of_note (s : State) (e' : TraceEv) (b : Bool) :
    (s.note e').serviceList b = s.serviceList b := State.serviceList_of (by simp) (by simp) b
@[simp] theorem State.lastServed_of_note (s : State) (e' : TraceEv) (b : Bool) :
    (s.note e').lastServed b = s.lastServed b := State.lastServed_of (by simp) (by simp) b
@[simp] theorem State.freeSlots_of_note (s : State) (e' : TraceEv) :
    (s.note e').freeSlots = s.freeSlots := State.freeSlots_of (by simp)
@[simp] theorem State.txFifoOf_of_note (s : State) (e' : TraceEv) (n : Fin 16) :
    (s.note e').txFifoOf n = s.txFifoOf n := State.txFifoOf_of (by simp) n
@[simp] theorem State.epListed_of_note (s : State) (e' : TraceEv) (w : BitVec 16) :
    (s.note e').epListed w = s.epListed w := State.epListed_of (by simp) (by simp) (by simp) w
@[simp] theorem State.enableCheck_of_note (s : State) (e' : TraceEv) (d : Epd) :
    (s.note e').enableCheck d = s.enableCheck d := State.enableCheck_of (by simp) (by simp) (by simp) (by simp) d
@[simp] theorem State.submitCheck_of_note (s : State) (e' : TraceEv) (e : EpRef) :
    (s.note e').submitCheck e = s.submitCheck e := State.submitCheck_of (by simp) (by simp) (by simp) (by simp) e
@[simp] theorem State.pipeChannel_of_note (s : State) (e' : TraceEv) (p : HcParams) :
    (s.note e').pipeChannel p = s.pipeChannel p := State.pipeChannel_of (by simp) (by simp) p
@[simp] theorem State.freeChannel_of_note (s : State) (e' : TraceEv) :
    (s.note e').freeChannel = s.freeChannel := State.freeChannel_of (by simp) (by simp)
@[simp] theorem State.channelFor_of_note (s : State) (e' : TraceEv) (p : HcParams) :
    (s.note e').channelFor p = s.channelFor p := State.channelFor_of (by simp) (by simp) p

/-! After `returned`. -/

@[simp] theorem State.raw_of_returned (s : State) (r' : Result) (r : Reg) :
    (s.returned r').raw r = s.raw r := State.raw_of (by simp) r
@[simp] theorem State.hostMode_of_returned (s : State) (r' : Result) :
    (s.returned r').hostMode = s.hostMode := State.hostMode_of (by simp)
@[simp] theorem State.unsettled_of_returned (s : State) (r' : Result) :
    (s.returned r').unsettled = s.unsettled := State.unsettled_of (by simp)
@[simp] theorem State.slaveHw_of_returned (s : State) (r' : Result) :
    (s.returned r').slaveHw = s.slaveHw := State.slaveHw_of (by simp)
@[simp] theorem State.accessible_of_returned (s : State) (r' : Result) (r : Reg) :
    (s.returned r').accessible r = s.accessible r := State.accessible_of (by simp) (by simp) r
@[simp] theorem State.byte_of_returned (s : State) (r' : Result) (a : Word) :
    (s.returned r').byte a = s.byte a := State.byte_of (by simp) a
@[simp] theorem State.word_of_returned (s : State) (r' : Result) (a : Word) :
    (s.returned r').word a = s.word a := State.word_of (by simp) a
@[simp] theorem State.bytes_of_returned (s : State) (r' : Result) (a : Word) (n : Nat) :
    (s.returned r').bytes a n = s.bytes a n := State.bytes_of (by simp) a n
@[simp] theorem State.ep_of_returned (s : State) (r' : Result) (e : EpRef) :
    (s.returned r').ep e = s.ep e := State.ep_of (by simp) (by simp) e
@[simp] theorem State.chan_of_returned (s : State) (r' : Result) (c : Fin 16) :
    (s.returned r').chan c = s.chan c := State.chan_of (by simp) c
@[simp] theorem State.xfer_of_returned (s : State) (r' : Result) (x : XRef) :
    (s.returned r').xfer x = s.xfer x := State.xfer_of (by simp) (by simp) (by simp) x
@[simp] theorem State.mpsOf_of_returned (s : State) (r' : Result) (x : XRef) :
    (s.returned r').mpsOf x = s.mpsOf x := State.mpsOf_of (by simp) (by simp) (by simp) x
@[simp] theorem State.typeOf_of_returned (s : State) (r' : Result) (x : XRef) :
    (s.returned r').typeOf x = s.typeOf x := State.typeOf_of (by simp) (by simp) (by simp) x
@[simp] theorem State.multiOf_of_returned (s : State) (r' : Result) (x : XRef) :
    (s.returned r').multiOf x = s.multiOf x := State.multiOf_of (by simp) (by simp) (by simp) x
@[simp] theorem State.intervalOf_of_returned (s : State) (r' : Result) (x : XRef) :
    (s.returned r').intervalOf x = s.intervalOf x := State.intervalOf_of (by simp) (by simp) (by simp) x
@[simp] theorem State.transmits_of_returned (s : State) (r' : Result) (x : XRef) :
    (s.returned r').transmits x = s.transmits x := State.transmits_of (by simp) (by simp) (by simp) x
@[simp] theorem State.splits_of_returned (s : State) (r' : Result) (x : XRef) :
    (s.returned r').splits x = s.splits x := State.splits_of (by simp) (by simp) (by simp) x
@[simp] theorem State.xIdle_of_returned (s : State) (r' : Result) (x : XRef) :
    (s.returned r').xIdle x = s.xIdle x := State.xIdle_of (by simp) (by simp) (by simp) x
@[simp] theorem State.reqAt_of_returned (s : State) (r' : Result) (i : ReqId) :
    (s.returned r').reqAt i = s.reqAt i := State.reqAt_of (by simp) (by simp) i
@[simp] theorem State.reqOf_of_returned (s : State) (r' : Result) (x : XRef) :
    (s.returned r').reqOf x = s.reqOf x := State.reqOf_of (by simp) (by simp) (by simp) (by simp) (by simp) x
@[simp] theorem State.chunkAddr_of_returned (s : State) (r' : Result) (x : XRef) :
    (s.returned r').chunkAddr x = s.chunkAddr x := State.chunkAddr_of (by simp) (by simp) (by simp) (by simp) (by simp) x
@[simp] theorem State.slotUsed_of_returned (s : State) (r' : Result) (k : Nat) :
    (s.returned r').slotUsed k = s.slotUsed k := State.slotUsed_of (by simp) k
@[simp] theorem State.isSlave_of_returned (s : State) (r' : Result) :
    (s.returned r').isSlave = s.isSlave := State.isSlave_of (by simp)
@[simp] theorem State.isDesc_of_returned (s : State) (r' : Result) :
    (s.returned r').isDesc = s.isDesc := State.isDesc_of (by simp)
@[simp] theorem State.peripheral_of_returned (s : State) (r' : Result) :
    (s.returned r').peripheral = s.peripheral := State.peripheral_of (by simp)
@[simp] theorem State.channels_of_returned (s : State) (r' : Result) :
    (s.returned r').channels = s.channels := State.channels_of (by simp)
@[simp] theorem State.dataEndpoints_of_returned (s : State) (r' : Result) :
    (s.returned r').dataEndpoints = s.dataEndpoints := State.dataEndpoints_of (by simp)
@[simp] theorem State.validX_of_returned (s : State) (r' : Result) (x : XRef) :
    (s.returned r').validX x = s.validX x := State.validX_of (by simp) x
@[simp] theorem State.xferLimits_of_returned (s : State) (r' : Result) (x : XRef) :
    (s.returned r').xferLimits x = s.xferLimits x := State.xferLimits_of (by simp) (by simp) x
@[simp] theorem State.isoOf_of_returned (s : State) (r' : Result) (x : XRef) :
    (s.returned r').isoOf x = s.isoOf x := State.isoOf_of (by simp) x
@[simp] theorem State.scheduled_of_returned (s : State) (r' : Result) (x : XRef) :
    (s.returned r').scheduled x = s.scheduled x := State.scheduled_of (by simp) x
@[simp] theorem State.descArray_of_returned (s : State) (r' : Result) (x : XRef) (w : Bool) :
    (s.returned r').descArray x w = s.descArray x w := State.descArray_of (by simp) x w
@[simp] theorem State.level_of_returned (s : State) (r' : Result) :
    (s.returned r').level = s.level := State.level_of (by simp)
@[simp] theorem State.hostSlave_of_returned (s : State) (r' : Result) :
    (s.returned r').hostSlave = s.hostSlave := State.hostSlave_of (by simp) (by simp)
@[simp] theorem State.chunkLimit_of_returned (s : State) (r' : Result) (x : XRef) :
    (s.returned r').chunkLimit x = s.chunkLimit x := State.chunkLimit_of (by simp) (by simp) (by simp) (by simp) (by simp) x
@[simp] theorem State.nextChunk_of_returned (s : State) (r' : Result) (x : XRef) :
    (s.returned r').nextChunk x = s.nextChunk x := State.nextChunk_of (by simp) (by simp) (by simp) (by simp) (by simp) (by simp) (by simp) x
@[simp] theorem State.firstPid_of_returned (s : State) (r' : Result) (p : HcParams) :
    (s.returned r').firstPid p = s.firstPid p := State.firstPid_of (by simp) p
@[simp] theorem State.serviceList_of_returned (s : State) (r' : Result) (b : Bool) :
    (s.returned r').serviceList b = s.serviceList b := State.serviceList_of (by simp) (by simp) b
@[simp] theorem State.lastServed_of_returned (s : State) (r' : Result) (b : Bool) :
    (s.returned r').lastServed b = s.lastServed b := State.lastServed_of (by simp) (by simp) b
@[simp] theorem State.freeSlots_of_returned (s : State) (r' : Result) :
    (s.returned r').freeSlots = s.freeSlots := State.freeSlots_of (by simp)
@[simp] theorem State.txFifoOf_of_returned (s : State) (r' : Result) (n : Fin 16) :
    (s.returned r').txFifoOf n = s.txFifoOf n := State.txFifoOf_of (by simp) n
@[simp] theorem State.epListed_of_returned (s : State) (r' : Result) (w : BitVec 16) :
    (s.returned r').epListed w = s.epListed w := State.epListed_of (by simp) (by simp) (by simp) w
@[simp] theorem State.enableCheck_of_returned (s : State) (r' : Result) (d : Epd) :
    (s.returned r').enableCheck d = s.enableCheck d := State.enableCheck_of (by simp) (by simp) (by simp) (by simp) d
@[simp] theorem State.submitCheck_of_returned (s : State) (r' : Result) (e : EpRef) :
    (s.returned r').submitCheck e = s.submitCheck e := State.submitCheck_of (by simp) (by simp) (by simp) (by simp) e
@[simp] theorem State.pipeChannel_of_returned (s : State) (r' : Result) (p : HcParams) :
    (s.returned r').pipeChannel p = s.pipeChannel p := State.pipeChannel_of (by simp) (by simp) p
@[simp] theorem State.freeChannel_of_returned (s : State) (r' : Result) :
    (s.returned r').freeChannel = s.freeChannel := State.freeChannel_of (by simp) (by simp)
@[simp] theorem State.channelFor_of_returned (s : State) (r' : Result) (p : HcParams) :
    (s.returned r').channelFor p = s.channelFor p := State.channelFor_of (by simp) (by simp) p

/-! After `inCtx`. -/

@[simp] theorem State.raw_of_inCtx (s : State) (c' : Ctx) (r : Reg) :
    (s.inCtx c').raw r = s.raw r := State.raw_of (by simp) r
@[simp] theorem State.hostMode_of_inCtx (s : State) (c' : Ctx) :
    (s.inCtx c').hostMode = s.hostMode := State.hostMode_of (by simp)
@[simp] theorem State.unsettled_of_inCtx (s : State) (c' : Ctx) :
    (s.inCtx c').unsettled = s.unsettled := State.unsettled_of (by simp)
@[simp] theorem State.slaveHw_of_inCtx (s : State) (c' : Ctx) :
    (s.inCtx c').slaveHw = s.slaveHw := State.slaveHw_of (by simp)
@[simp] theorem State.accessible_of_inCtx (s : State) (c' : Ctx) (r : Reg) :
    (s.inCtx c').accessible r = s.accessible r := State.accessible_of (by simp) (by simp) r
@[simp] theorem State.byte_of_inCtx (s : State) (c' : Ctx) (a : Word) :
    (s.inCtx c').byte a = s.byte a := State.byte_of (by simp) a
@[simp] theorem State.word_of_inCtx (s : State) (c' : Ctx) (a : Word) :
    (s.inCtx c').word a = s.word a := State.word_of (by simp) a
@[simp] theorem State.bytes_of_inCtx (s : State) (c' : Ctx) (a : Word) (n : Nat) :
    (s.inCtx c').bytes a n = s.bytes a n := State.bytes_of (by simp) a n
@[simp] theorem State.ep_of_inCtx (s : State) (c' : Ctx) (e : EpRef) :
    (s.inCtx c').ep e = s.ep e := State.ep_of (by simp) (by simp) e
@[simp] theorem State.chan_of_inCtx (s : State) (c' : Ctx) (c : Fin 16) :
    (s.inCtx c').chan c = s.chan c := State.chan_of (by simp) c
@[simp] theorem State.xfer_of_inCtx (s : State) (c' : Ctx) (x : XRef) :
    (s.inCtx c').xfer x = s.xfer x := State.xfer_of (by simp) (by simp) (by simp) x
@[simp] theorem State.mpsOf_of_inCtx (s : State) (c' : Ctx) (x : XRef) :
    (s.inCtx c').mpsOf x = s.mpsOf x := State.mpsOf_of (by simp) (by simp) (by simp) x
@[simp] theorem State.typeOf_of_inCtx (s : State) (c' : Ctx) (x : XRef) :
    (s.inCtx c').typeOf x = s.typeOf x := State.typeOf_of (by simp) (by simp) (by simp) x
@[simp] theorem State.multiOf_of_inCtx (s : State) (c' : Ctx) (x : XRef) :
    (s.inCtx c').multiOf x = s.multiOf x := State.multiOf_of (by simp) (by simp) (by simp) x
@[simp] theorem State.intervalOf_of_inCtx (s : State) (c' : Ctx) (x : XRef) :
    (s.inCtx c').intervalOf x = s.intervalOf x := State.intervalOf_of (by simp) (by simp) (by simp) x
@[simp] theorem State.transmits_of_inCtx (s : State) (c' : Ctx) (x : XRef) :
    (s.inCtx c').transmits x = s.transmits x := State.transmits_of (by simp) (by simp) (by simp) x
@[simp] theorem State.splits_of_inCtx (s : State) (c' : Ctx) (x : XRef) :
    (s.inCtx c').splits x = s.splits x := State.splits_of (by simp) (by simp) (by simp) x
@[simp] theorem State.xIdle_of_inCtx (s : State) (c' : Ctx) (x : XRef) :
    (s.inCtx c').xIdle x = s.xIdle x := State.xIdle_of (by simp) (by simp) (by simp) x
@[simp] theorem State.reqAt_of_inCtx (s : State) (c' : Ctx) (i : ReqId) :
    (s.inCtx c').reqAt i = s.reqAt i := State.reqAt_of (by simp) (by simp) i
@[simp] theorem State.reqOf_of_inCtx (s : State) (c' : Ctx) (x : XRef) :
    (s.inCtx c').reqOf x = s.reqOf x := State.reqOf_of (by simp) (by simp) (by simp) (by simp) (by simp) x
@[simp] theorem State.chunkAddr_of_inCtx (s : State) (c' : Ctx) (x : XRef) :
    (s.inCtx c').chunkAddr x = s.chunkAddr x := State.chunkAddr_of (by simp) (by simp) (by simp) (by simp) (by simp) x
@[simp] theorem State.slotUsed_of_inCtx (s : State) (c' : Ctx) (k : Nat) :
    (s.inCtx c').slotUsed k = s.slotUsed k := State.slotUsed_of (by simp) k
@[simp] theorem State.isSlave_of_inCtx (s : State) (c' : Ctx) :
    (s.inCtx c').isSlave = s.isSlave := State.isSlave_of (by simp)
@[simp] theorem State.isDesc_of_inCtx (s : State) (c' : Ctx) :
    (s.inCtx c').isDesc = s.isDesc := State.isDesc_of (by simp)
@[simp] theorem State.peripheral_of_inCtx (s : State) (c' : Ctx) :
    (s.inCtx c').peripheral = s.peripheral := State.peripheral_of (by simp)
@[simp] theorem State.channels_of_inCtx (s : State) (c' : Ctx) :
    (s.inCtx c').channels = s.channels := State.channels_of (by simp)
@[simp] theorem State.dataEndpoints_of_inCtx (s : State) (c' : Ctx) :
    (s.inCtx c').dataEndpoints = s.dataEndpoints := State.dataEndpoints_of (by simp)
@[simp] theorem State.validX_of_inCtx (s : State) (c' : Ctx) (x : XRef) :
    (s.inCtx c').validX x = s.validX x := State.validX_of (by simp) x
@[simp] theorem State.xferLimits_of_inCtx (s : State) (c' : Ctx) (x : XRef) :
    (s.inCtx c').xferLimits x = s.xferLimits x := State.xferLimits_of (by simp) (by simp) x
@[simp] theorem State.isoOf_of_inCtx (s : State) (c' : Ctx) (x : XRef) :
    (s.inCtx c').isoOf x = s.isoOf x := State.isoOf_of (by simp) x
@[simp] theorem State.scheduled_of_inCtx (s : State) (c' : Ctx) (x : XRef) :
    (s.inCtx c').scheduled x = s.scheduled x := State.scheduled_of (by simp) x
@[simp] theorem State.descArray_of_inCtx (s : State) (c' : Ctx) (x : XRef) (w : Bool) :
    (s.inCtx c').descArray x w = s.descArray x w := State.descArray_of (by simp) x w
@[simp] theorem State.level_of_inCtx (s : State) (c' : Ctx) :
    (s.inCtx c').level = s.level := State.level_of (by simp)
@[simp] theorem State.hostSlave_of_inCtx (s : State) (c' : Ctx) :
    (s.inCtx c').hostSlave = s.hostSlave := State.hostSlave_of (by simp) (by simp)
@[simp] theorem State.chunkLimit_of_inCtx (s : State) (c' : Ctx) (x : XRef) :
    (s.inCtx c').chunkLimit x = s.chunkLimit x := State.chunkLimit_of (by simp) (by simp) (by simp) (by simp) (by simp) x
@[simp] theorem State.nextChunk_of_inCtx (s : State) (c' : Ctx) (x : XRef) :
    (s.inCtx c').nextChunk x = s.nextChunk x := State.nextChunk_of (by simp) (by simp) (by simp) (by simp) (by simp) (by simp) (by simp) x
@[simp] theorem State.firstPid_of_inCtx (s : State) (c' : Ctx) (p : HcParams) :
    (s.inCtx c').firstPid p = s.firstPid p := State.firstPid_of (by simp) p
@[simp] theorem State.serviceList_of_inCtx (s : State) (c' : Ctx) (b : Bool) :
    (s.inCtx c').serviceList b = s.serviceList b := State.serviceList_of (by simp) (by simp) b
@[simp] theorem State.lastServed_of_inCtx (s : State) (c' : Ctx) (b : Bool) :
    (s.inCtx c').lastServed b = s.lastServed b := State.lastServed_of (by simp) (by simp) b
@[simp] theorem State.freeSlots_of_inCtx (s : State) (c' : Ctx) :
    (s.inCtx c').freeSlots = s.freeSlots := State.freeSlots_of (by simp)
@[simp] theorem State.txFifoOf_of_inCtx (s : State) (c' : Ctx) (n : Fin 16) :
    (s.inCtx c').txFifoOf n = s.txFifoOf n := State.txFifoOf_of (by simp) n
@[simp] theorem State.epListed_of_inCtx (s : State) (c' : Ctx) (w : BitVec 16) :
    (s.inCtx c').epListed w = s.epListed w := State.epListed_of (by simp) (by simp) (by simp) w
@[simp] theorem State.enableCheck_of_inCtx (s : State) (c' : Ctx) (d : Epd) :
    (s.inCtx c').enableCheck d = s.enableCheck d := State.enableCheck_of (by simp) (by simp) (by simp) (by simp) d
@[simp] theorem State.submitCheck_of_inCtx (s : State) (c' : Ctx) (e : EpRef) :
    (s.inCtx c').submitCheck e = s.submitCheck e := State.submitCheck_of (by simp) (by simp) (by simp) (by simp) e
@[simp] theorem State.pipeChannel_of_inCtx (s : State) (c' : Ctx) (p : HcParams) :
    (s.inCtx c').pipeChannel p = s.pipeChannel p := State.pipeChannel_of (by simp) (by simp) p
@[simp] theorem State.freeChannel_of_inCtx (s : State) (c' : Ctx) :
    (s.inCtx c').freeChannel = s.freeChannel := State.freeChannel_of (by simp) (by simp)
@[simp] theorem State.channelFor_of_inCtx (s : State) (c' : Ctx) (p : HcParams) :
    (s.inCtx c').channelFor p = s.channelFor p := State.channelFor_of (by simp) (by simp) p

/-! After `writeReg`. -/

@[simp] theorem State.byte_of_writeReg (s : State) (r' : Reg) (v' : Word) (a : Word) :
    (s.writeReg r' v').byte a = s.byte a := State.byte_of (by simp) a
@[simp] theorem State.word_of_writeReg (s : State) (r' : Reg) (v' : Word) (a : Word) :
    (s.writeReg r' v').word a = s.word a := State.word_of (by simp) a
@[simp] theorem State.bytes_of_writeReg (s : State) (r' : Reg) (v' : Word) (a : Word) (n : Nat) :
    (s.writeReg r' v').bytes a n = s.bytes a n := State.bytes_of (by simp) a n
@[simp] theorem State.ep_of_writeReg (s : State) (r' : Reg) (v' : Word) (e : EpRef) :
    (s.writeReg r' v').ep e = s.ep e := State.ep_of (by simp) (by simp) e
@[simp] theorem State.chan_of_writeReg (s : State) (r' : Reg) (v' : Word) (c : Fin 16) :
    (s.writeReg r' v').chan c = s.chan c := State.chan_of (by simp) c
@[simp] theorem State.xfer_of_writeReg (s : State) (r' : Reg) (v' : Word) (x : XRef) :
    (s.writeReg r' v').xfer x = s.xfer x := State.xfer_of (by simp) (by simp) (by simp) x
@[simp] theorem State.mpsOf_of_writeReg (s : State) (r' : Reg) (v' : Word) (x : XRef) :
    (s.writeReg r' v').mpsOf x = s.mpsOf x := State.mpsOf_of (by simp) (by simp) (by simp) x
@[simp] theorem State.typeOf_of_writeReg (s : State) (r' : Reg) (v' : Word) (x : XRef) :
    (s.writeReg r' v').typeOf x = s.typeOf x := State.typeOf_of (by simp) (by simp) (by simp) x
@[simp] theorem State.multiOf_of_writeReg (s : State) (r' : Reg) (v' : Word) (x : XRef) :
    (s.writeReg r' v').multiOf x = s.multiOf x := State.multiOf_of (by simp) (by simp) (by simp) x
@[simp] theorem State.intervalOf_of_writeReg (s : State) (r' : Reg) (v' : Word) (x : XRef) :
    (s.writeReg r' v').intervalOf x = s.intervalOf x := State.intervalOf_of (by simp) (by simp) (by simp) x
@[simp] theorem State.transmits_of_writeReg (s : State) (r' : Reg) (v' : Word) (x : XRef) :
    (s.writeReg r' v').transmits x = s.transmits x := State.transmits_of (by simp) (by simp) (by simp) x
@[simp] theorem State.splits_of_writeReg (s : State) (r' : Reg) (v' : Word) (x : XRef) :
    (s.writeReg r' v').splits x = s.splits x := State.splits_of (by simp) (by simp) (by simp) x
@[simp] theorem State.xIdle_of_writeReg (s : State) (r' : Reg) (v' : Word) (x : XRef) :
    (s.writeReg r' v').xIdle x = s.xIdle x := State.xIdle_of (by simp) (by simp) (by simp) x
@[simp] theorem State.reqAt_of_writeReg (s : State) (r' : Reg) (v' : Word) (i : ReqId) :
    (s.writeReg r' v').reqAt i = s.reqAt i := State.reqAt_of (by simp) (by simp) i
@[simp] theorem State.reqOf_of_writeReg (s : State) (r' : Reg) (v' : Word) (x : XRef) :
    (s.writeReg r' v').reqOf x = s.reqOf x := State.reqOf_of (by simp) (by simp) (by simp) (by simp) (by simp) x
@[simp] theorem State.chunkAddr_of_writeReg (s : State) (r' : Reg) (v' : Word) (x : XRef) :
    (s.writeReg r' v').chunkAddr x = s.chunkAddr x := State.chunkAddr_of (by simp) (by simp) (by simp) (by simp) (by simp) x
@[simp] theorem State.slotUsed_of_writeReg (s : State) (r' : Reg) (v' : Word) (k : Nat) :
    (s.writeReg r' v').slotUsed k = s.slotUsed k := State.slotUsed_of (by simp) k
@[simp] theorem State.isSlave_of_writeReg (s : State) (r' : Reg) (v' : Word) :
    (s.writeReg r' v').isSlave = s.isSlave := State.isSlave_of (by simp)
@[simp] theorem State.isDesc_of_writeReg (s : State) (r' : Reg) (v' : Word) :
    (s.writeReg r' v').isDesc = s.isDesc := State.isDesc_of (by simp)
@[simp] theorem State.peripheral_of_writeReg (s : State) (r' : Reg) (v' : Word) :
    (s.writeReg r' v').peripheral = s.peripheral := State.peripheral_of (by simp)
@[simp] theorem State.channels_of_writeReg (s : State) (r' : Reg) (v' : Word) :
    (s.writeReg r' v').channels = s.channels := State.channels_of (by simp)
@[simp] theorem State.dataEndpoints_of_writeReg (s : State) (r' : Reg) (v' : Word) :
    (s.writeReg r' v').dataEndpoints = s.dataEndpoints := State.dataEndpoints_of (by simp)
@[simp] theorem State.validX_of_writeReg (s : State) (r' : Reg) (v' : Word) (x : XRef) :
    (s.writeReg r' v').validX x = s.validX x := State.validX_of (by simp) x
@[simp] theorem State.xferLimits_of_writeReg (s : State) (r' : Reg) (v' : Word) (x : XRef) :
    (s.writeReg r' v').xferLimits x = s.xferLimits x := State.xferLimits_of (by simp) (by simp) x
@[simp] theorem State.isoOf_of_writeReg (s : State) (r' : Reg) (v' : Word) (x : XRef) :
    (s.writeReg r' v').isoOf x = s.isoOf x := State.isoOf_of (by simp) x
@[simp] theorem State.scheduled_of_writeReg (s : State) (r' : Reg) (v' : Word) (x : XRef) :
    (s.writeReg r' v').scheduled x = s.scheduled x := State.scheduled_of (by simp) x
@[simp] theorem State.descArray_of_writeReg (s : State) (r' : Reg) (v' : Word) (x : XRef) (w : Bool) :
    (s.writeReg r' v').descArray x w = s.descArray x w := State.descArray_of (by simp) x w
@[simp] theorem State.level_of_writeReg (s : State) (r' : Reg) (v' : Word) :
    (s.writeReg r' v').level = s.level := State.level_of (by simp)
@[simp] theorem State.chunkLimit_of_writeReg (s : State) (r' : Reg) (v' : Word) (x : XRef) :
    (s.writeReg r' v').chunkLimit x = s.chunkLimit x := State.chunkLimit_of (by simp) (by simp) (by simp) (by simp) (by simp) x
@[simp] theorem State.nextChunk_of_writeReg (s : State) (r' : Reg) (v' : Word) (x : XRef) :
    (s.writeReg r' v').nextChunk x = s.nextChunk x := State.nextChunk_of (by simp) (by simp) (by simp) (by simp) (by simp) (by simp) (by simp) x
@[simp] theorem State.firstPid_of_writeReg (s : State) (r' : Reg) (v' : Word) (p : HcParams) :
    (s.writeReg r' v').firstPid p = s.firstPid p := State.firstPid_of (by simp) p
@[simp] theorem State.serviceList_of_writeReg (s : State) (r' : Reg) (v' : Word) (b : Bool) :
    (s.writeReg r' v').serviceList b = s.serviceList b := State.serviceList_of (by simp) (by simp) b
@[simp] theorem State.lastServed_of_writeReg (s : State) (r' : Reg) (v' : Word) (b : Bool) :
    (s.writeReg r' v').lastServed b = s.lastServed b := State.lastServed_of (by simp) (by simp) b
@[simp] theorem State.freeSlots_of_writeReg (s : State) (r' : Reg) (v' : Word) :
    (s.writeReg r' v').freeSlots = s.freeSlots := State.freeSlots_of (by simp)
@[simp] theorem State.epListed_of_writeReg (s : State) (r' : Reg) (v' : Word) (w : BitVec 16) :
    (s.writeReg r' v').epListed w = s.epListed w := State.epListed_of (by simp) (by simp) (by simp) w
@[simp] theorem State.enableCheck_of_writeReg (s : State) (r' : Reg) (v' : Word) (d : Epd) :
    (s.writeReg r' v').enableCheck d = s.enableCheck d := State.enableCheck_of (by simp) (by simp) (by simp) (by simp) d
@[simp] theorem State.submitCheck_of_writeReg (s : State) (r' : Reg) (v' : Word) (e : EpRef) :
    (s.writeReg r' v').submitCheck e = s.submitCheck e := State.submitCheck_of (by simp) (by simp) (by simp) (by simp) e
@[simp] theorem State.pipeChannel_of_writeReg (s : State) (r' : Reg) (v' : Word) (p : HcParams) :
    (s.writeReg r' v').pipeChannel p = s.pipeChannel p := State.pipeChannel_of (by simp) (by simp) p
@[simp] theorem State.freeChannel_of_writeReg (s : State) (r' : Reg) (v' : Word) :
    (s.writeReg r' v').freeChannel = s.freeChannel := State.freeChannel_of (by simp) (by simp)
@[simp] theorem State.channelFor_of_writeReg (s : State) (r' : Reg) (v' : Word) (p : HcParams) :
    (s.writeReg r' v').channelFor p = s.channelFor p := State.channelFor_of (by simp) (by simp) p

/-! After `setRaw`. -/

@[simp] theorem State.byte_of_setRaw (s : State) (r' : Reg) (v' : Word) (a : Word) :
    (s.setRaw r' v').byte a = s.byte a := State.byte_of (by simp) a
@[simp] theorem State.word_of_setRaw (s : State) (r' : Reg) (v' : Word) (a : Word) :
    (s.setRaw r' v').word a = s.word a := State.word_of (by simp) a
@[simp] theorem State.bytes_of_setRaw (s : State) (r' : Reg) (v' : Word) (a : Word) (n : Nat) :
    (s.setRaw r' v').bytes a n = s.bytes a n := State.bytes_of (by simp) a n
@[simp] theorem State.ep_of_setRaw (s : State) (r' : Reg) (v' : Word) (e : EpRef) :
    (s.setRaw r' v').ep e = s.ep e := State.ep_of (by simp) (by simp) e
@[simp] theorem State.chan_of_setRaw (s : State) (r' : Reg) (v' : Word) (c : Fin 16) :
    (s.setRaw r' v').chan c = s.chan c := State.chan_of (by simp) c
@[simp] theorem State.xfer_of_setRaw (s : State) (r' : Reg) (v' : Word) (x : XRef) :
    (s.setRaw r' v').xfer x = s.xfer x := State.xfer_of (by simp) (by simp) (by simp) x
@[simp] theorem State.mpsOf_of_setRaw (s : State) (r' : Reg) (v' : Word) (x : XRef) :
    (s.setRaw r' v').mpsOf x = s.mpsOf x := State.mpsOf_of (by simp) (by simp) (by simp) x
@[simp] theorem State.typeOf_of_setRaw (s : State) (r' : Reg) (v' : Word) (x : XRef) :
    (s.setRaw r' v').typeOf x = s.typeOf x := State.typeOf_of (by simp) (by simp) (by simp) x
@[simp] theorem State.multiOf_of_setRaw (s : State) (r' : Reg) (v' : Word) (x : XRef) :
    (s.setRaw r' v').multiOf x = s.multiOf x := State.multiOf_of (by simp) (by simp) (by simp) x
@[simp] theorem State.intervalOf_of_setRaw (s : State) (r' : Reg) (v' : Word) (x : XRef) :
    (s.setRaw r' v').intervalOf x = s.intervalOf x := State.intervalOf_of (by simp) (by simp) (by simp) x
@[simp] theorem State.transmits_of_setRaw (s : State) (r' : Reg) (v' : Word) (x : XRef) :
    (s.setRaw r' v').transmits x = s.transmits x := State.transmits_of (by simp) (by simp) (by simp) x
@[simp] theorem State.splits_of_setRaw (s : State) (r' : Reg) (v' : Word) (x : XRef) :
    (s.setRaw r' v').splits x = s.splits x := State.splits_of (by simp) (by simp) (by simp) x
@[simp] theorem State.xIdle_of_setRaw (s : State) (r' : Reg) (v' : Word) (x : XRef) :
    (s.setRaw r' v').xIdle x = s.xIdle x := State.xIdle_of (by simp) (by simp) (by simp) x
@[simp] theorem State.reqAt_of_setRaw (s : State) (r' : Reg) (v' : Word) (i : ReqId) :
    (s.setRaw r' v').reqAt i = s.reqAt i := State.reqAt_of (by simp) (by simp) i
@[simp] theorem State.reqOf_of_setRaw (s : State) (r' : Reg) (v' : Word) (x : XRef) :
    (s.setRaw r' v').reqOf x = s.reqOf x := State.reqOf_of (by simp) (by simp) (by simp) (by simp) (by simp) x
@[simp] theorem State.chunkAddr_of_setRaw (s : State) (r' : Reg) (v' : Word) (x : XRef) :
    (s.setRaw r' v').chunkAddr x = s.chunkAddr x := State.chunkAddr_of (by simp) (by simp) (by simp) (by simp) (by simp) x
@[simp] theorem State.slotUsed_of_setRaw (s : State) (r' : Reg) (v' : Word) (k : Nat) :
    (s.setRaw r' v').slotUsed k = s.slotUsed k := State.slotUsed_of (by simp) k
@[simp] theorem State.isSlave_of_setRaw (s : State) (r' : Reg) (v' : Word) :
    (s.setRaw r' v').isSlave = s.isSlave := State.isSlave_of (by simp)
@[simp] theorem State.isDesc_of_setRaw (s : State) (r' : Reg) (v' : Word) :
    (s.setRaw r' v').isDesc = s.isDesc := State.isDesc_of (by simp)
@[simp] theorem State.peripheral_of_setRaw (s : State) (r' : Reg) (v' : Word) :
    (s.setRaw r' v').peripheral = s.peripheral := State.peripheral_of (by simp)
@[simp] theorem State.channels_of_setRaw (s : State) (r' : Reg) (v' : Word) :
    (s.setRaw r' v').channels = s.channels := State.channels_of (by simp)
@[simp] theorem State.dataEndpoints_of_setRaw (s : State) (r' : Reg) (v' : Word) :
    (s.setRaw r' v').dataEndpoints = s.dataEndpoints := State.dataEndpoints_of (by simp)
@[simp] theorem State.validX_of_setRaw (s : State) (r' : Reg) (v' : Word) (x : XRef) :
    (s.setRaw r' v').validX x = s.validX x := State.validX_of (by simp) x
@[simp] theorem State.xferLimits_of_setRaw (s : State) (r' : Reg) (v' : Word) (x : XRef) :
    (s.setRaw r' v').xferLimits x = s.xferLimits x := State.xferLimits_of (by simp) (by simp) x
@[simp] theorem State.isoOf_of_setRaw (s : State) (r' : Reg) (v' : Word) (x : XRef) :
    (s.setRaw r' v').isoOf x = s.isoOf x := State.isoOf_of (by simp) x
@[simp] theorem State.scheduled_of_setRaw (s : State) (r' : Reg) (v' : Word) (x : XRef) :
    (s.setRaw r' v').scheduled x = s.scheduled x := State.scheduled_of (by simp) x
@[simp] theorem State.descArray_of_setRaw (s : State) (r' : Reg) (v' : Word) (x : XRef) (w : Bool) :
    (s.setRaw r' v').descArray x w = s.descArray x w := State.descArray_of (by simp) x w
@[simp] theorem State.level_of_setRaw (s : State) (r' : Reg) (v' : Word) :
    (s.setRaw r' v').level = s.level := State.level_of (by simp)
@[simp] theorem State.chunkLimit_of_setRaw (s : State) (r' : Reg) (v' : Word) (x : XRef) :
    (s.setRaw r' v').chunkLimit x = s.chunkLimit x := State.chunkLimit_of (by simp) (by simp) (by simp) (by simp) (by simp) x
@[simp] theorem State.nextChunk_of_setRaw (s : State) (r' : Reg) (v' : Word) (x : XRef) :
    (s.setRaw r' v').nextChunk x = s.nextChunk x := State.nextChunk_of (by simp) (by simp) (by simp) (by simp) (by simp) (by simp) (by simp) x
@[simp] theorem State.firstPid_of_setRaw (s : State) (r' : Reg) (v' : Word) (p : HcParams) :
    (s.setRaw r' v').firstPid p = s.firstPid p := State.firstPid_of (by simp) p
@[simp] theorem State.serviceList_of_setRaw (s : State) (r' : Reg) (v' : Word) (b : Bool) :
    (s.setRaw r' v').serviceList b = s.serviceList b := State.serviceList_of (by simp) (by simp) b
@[simp] theorem State.lastServed_of_setRaw (s : State) (r' : Reg) (v' : Word) (b : Bool) :
    (s.setRaw r' v').lastServed b = s.lastServed b := State.lastServed_of (by simp) (by simp) b
@[simp] theorem State.freeSlots_of_setRaw (s : State) (r' : Reg) (v' : Word) :
    (s.setRaw r' v').freeSlots = s.freeSlots := State.freeSlots_of (by simp)
@[simp] theorem State.epListed_of_setRaw (s : State) (r' : Reg) (v' : Word) (w : BitVec 16) :
    (s.setRaw r' v').epListed w = s.epListed w := State.epListed_of (by simp) (by simp) (by simp) w
@[simp] theorem State.enableCheck_of_setRaw (s : State) (r' : Reg) (v' : Word) (d : Epd) :
    (s.setRaw r' v').enableCheck d = s.enableCheck d := State.enableCheck_of (by simp) (by simp) (by simp) (by simp) d
@[simp] theorem State.submitCheck_of_setRaw (s : State) (r' : Reg) (v' : Word) (e : EpRef) :
    (s.setRaw r' v').submitCheck e = s.submitCheck e := State.submitCheck_of (by simp) (by simp) (by simp) (by simp) e
@[simp] theorem State.pipeChannel_of_setRaw (s : State) (r' : Reg) (v' : Word) (p : HcParams) :
    (s.setRaw r' v').pipeChannel p = s.pipeChannel p := State.pipeChannel_of (by simp) (by simp) p
@[simp] theorem State.freeChannel_of_setRaw (s : State) (r' : Reg) (v' : Word) :
    (s.setRaw r' v').freeChannel = s.freeChannel := State.freeChannel_of (by simp) (by simp)
@[simp] theorem State.channelFor_of_setRaw (s : State) (r' : Reg) (v' : Word) (p : HcParams) :
    (s.setRaw r' v').channelFor p = s.channelFor p := State.channelFor_of (by simp) (by simp) p

/-! After `modEp`. -/

@[simp] theorem State.raw_of_modEp (s : State) (e' : EpRef) (f' : EpRec → EpRec) (r : Reg) :
    (s.modEp e' f').raw r = s.raw r := State.raw_of (by simp) r
@[simp] theorem State.hostMode_of_modEp (s : State) (e' : EpRef) (f' : EpRec → EpRec) :
    (s.modEp e' f').hostMode = s.hostMode := State.hostMode_of (by simp)
@[simp] theorem State.unsettled_of_modEp (s : State) (e' : EpRef) (f' : EpRec → EpRec) :
    (s.modEp e' f').unsettled = s.unsettled := State.unsettled_of (by simp)
@[simp] theorem State.slaveHw_of_modEp (s : State) (e' : EpRef) (f' : EpRec → EpRec) :
    (s.modEp e' f').slaveHw = s.slaveHw := State.slaveHw_of (by simp)
@[simp] theorem State.accessible_of_modEp (s : State) (e' : EpRef) (f' : EpRec → EpRec) (r : Reg) :
    (s.modEp e' f').accessible r = s.accessible r := State.accessible_of (by simp) (by simp) r
@[simp] theorem State.byte_of_modEp (s : State) (e' : EpRef) (f' : EpRec → EpRec) (a : Word) :
    (s.modEp e' f').byte a = s.byte a := State.byte_of (by simp) a
@[simp] theorem State.word_of_modEp (s : State) (e' : EpRef) (f' : EpRec → EpRec) (a : Word) :
    (s.modEp e' f').word a = s.word a := State.word_of (by simp) a
@[simp] theorem State.bytes_of_modEp (s : State) (e' : EpRef) (f' : EpRec → EpRec) (a : Word) (n : Nat) :
    (s.modEp e' f').bytes a n = s.bytes a n := State.bytes_of (by simp) a n
@[simp] theorem State.chan_of_modEp (s : State) (e' : EpRef) (f' : EpRec → EpRec) (c : Fin 16) :
    (s.modEp e' f').chan c = s.chan c := State.chan_of (by simp) c
@[simp] theorem State.reqAt_of_modEp (s : State) (e' : EpRef) (f' : EpRec → EpRec) (i : ReqId) :
    (s.modEp e' f').reqAt i = s.reqAt i := State.reqAt_of (by simp) (by simp) i
@[simp] theorem State.slotUsed_of_modEp (s : State) (e' : EpRef) (f' : EpRec → EpRec) (k : Nat) :
    (s.modEp e' f').slotUsed k = s.slotUsed k := State.slotUsed_of (by simp) k
@[simp] theorem State.isSlave_of_modEp (s : State) (e' : EpRef) (f' : EpRec → EpRec) :
    (s.modEp e' f').isSlave = s.isSlave := State.isSlave_of (by simp)
@[simp] theorem State.isDesc_of_modEp (s : State) (e' : EpRef) (f' : EpRec → EpRec) :
    (s.modEp e' f').isDesc = s.isDesc := State.isDesc_of (by simp)
@[simp] theorem State.peripheral_of_modEp (s : State) (e' : EpRef) (f' : EpRec → EpRec) :
    (s.modEp e' f').peripheral = s.peripheral := State.peripheral_of (by simp)
@[simp] theorem State.channels_of_modEp (s : State) (e' : EpRef) (f' : EpRec → EpRec) :
    (s.modEp e' f').channels = s.channels := State.channels_of (by simp)
@[simp] theorem State.dataEndpoints_of_modEp (s : State) (e' : EpRef) (f' : EpRec → EpRec) :
    (s.modEp e' f').dataEndpoints = s.dataEndpoints := State.dataEndpoints_of (by simp)
@[simp] theorem State.validX_of_modEp (s : State) (e' : EpRef) (f' : EpRec → EpRec) (x : XRef) :
    (s.modEp e' f').validX x = s.validX x := State.validX_of (by simp) x
@[simp] theorem State.xferLimits_of_modEp (s : State) (e' : EpRef) (f' : EpRec → EpRec) (x : XRef) :
    (s.modEp e' f').xferLimits x = s.xferLimits x := State.xferLimits_of (by simp) (by simp) x
@[simp] theorem State.isoOf_of_modEp (s : State) (e' : EpRef) (f' : EpRec → EpRec) (x : XRef) :
    (s.modEp e' f').isoOf x = s.isoOf x := State.isoOf_of (by simp) x
@[simp] theorem State.scheduled_of_modEp (s : State) (e' : EpRef) (f' : EpRec → EpRec) (x : XRef) :
    (s.modEp e' f').scheduled x = s.scheduled x := State.scheduled_of (by simp) x
@[simp] theorem State.descArray_of_modEp (s : State) (e' : EpRef) (f' : EpRec → EpRec) (x : XRef) (w : Bool) :
    (s.modEp e' f').descArray x w = s.descArray x w := State.descArray_of (by simp) x w
@[simp] theorem State.level_of_modEp (s : State) (e' : EpRef) (f' : EpRec → EpRec) :
    (s.modEp e' f').level = s.level := State.level_of (by simp)
@[simp] theorem State.hostSlave_of_modEp (s : State) (e' : EpRef) (f' : EpRec → EpRec) :
    (s.modEp e' f').hostSlave = s.hostSlave := State.hostSlave_of (by simp) (by simp)
@[simp] theorem State.firstPid_of_modEp (s : State) (e' : EpRef) (f' : EpRec → EpRec) (p : HcParams) :
    (s.modEp e' f').firstPid p = s.firstPid p := State.firstPid_of (by simp) p
@[simp] theorem State.serviceList_of_modEp (s : State) (e' : EpRef) (f' : EpRec → EpRec) (b : Bool) :
    (s.modEp e' f').serviceList b = s.serviceList b := State.serviceList_of (by simp) (by simp) b
@[simp] theorem State.lastServed_of_modEp (s : State) (e' : EpRef) (f' : EpRec → EpRec) (b : Bool) :
    (s.modEp e' f').lastServed b = s.lastServed b := State.lastServed_of (by simp) (by simp) b
@[simp] theorem State.freeSlots_of_modEp (s : State) (e' : EpRef) (f' : EpRec → EpRec) :
    (s.modEp e' f').freeSlots = s.freeSlots := State.freeSlots_of (by simp)
@[simp] theorem State.txFifoOf_of_modEp (s : State) (e' : EpRef) (f' : EpRec → EpRec) (n : Fin 16) :
    (s.modEp e' f').txFifoOf n = s.txFifoOf n := State.txFifoOf_of (by simp) n
@[simp] theorem State.pipeChannel_of_modEp (s : State) (e' : EpRef) (f' : EpRec → EpRec) (p : HcParams) :
    (s.modEp e' f').pipeChannel p = s.pipeChannel p := State.pipeChannel_of (by simp) (by simp) p
@[simp] theorem State.freeChannel_of_modEp (s : State) (e' : EpRef) (f' : EpRec → EpRec) :
    (s.modEp e' f').freeChannel = s.freeChannel := State.freeChannel_of (by simp) (by simp)
@[simp] theorem State.channelFor_of_modEp (s : State) (e' : EpRef) (f' : EpRec → EpRec) (p : HcParams) :
    (s.modEp e' f').channelFor p = s.channelFor p := State.channelFor_of (by simp) (by simp) p

/-! After `modCh`. -/

@[simp] theorem State.raw_of_modCh (s : State) (c' : Fin 16) (f' : ChRec → ChRec) (r : Reg) :
    (s.modCh c' f').raw r = s.raw r := State.raw_of (by simp) r
@[simp] theorem State.hostMode_of_modCh (s : State) (c' : Fin 16) (f' : ChRec → ChRec) :
    (s.modCh c' f').hostMode = s.hostMode := State.hostMode_of (by simp)
@[simp] theorem State.unsettled_of_modCh (s : State) (c' : Fin 16) (f' : ChRec → ChRec) :
    (s.modCh c' f').unsettled = s.unsettled := State.unsettled_of (by simp)
@[simp] theorem State.slaveHw_of_modCh (s : State) (c' : Fin 16) (f' : ChRec → ChRec) :
    (s.modCh c' f').slaveHw = s.slaveHw := State.slaveHw_of (by simp)
@[simp] theorem State.accessible_of_modCh (s : State) (c' : Fin 16) (f' : ChRec → ChRec) (r : Reg) :
    (s.modCh c' f').accessible r = s.accessible r := State.accessible_of (by simp) (by simp) r
@[simp] theorem State.byte_of_modCh (s : State) (c' : Fin 16) (f' : ChRec → ChRec) (a : Word) :
    (s.modCh c' f').byte a = s.byte a := State.byte_of (by simp) a
@[simp] theorem State.word_of_modCh (s : State) (c' : Fin 16) (f' : ChRec → ChRec) (a : Word) :
    (s.modCh c' f').word a = s.word a := State.word_of (by simp) a
@[simp] theorem State.bytes_of_modCh (s : State) (c' : Fin 16) (f' : ChRec → ChRec) (a : Word) (n : Nat) :
    (s.modCh c' f').bytes a n = s.bytes a n := State.bytes_of (by simp) a n
@[simp] theorem State.ep_of_modCh (s : State) (c' : Fin 16) (f' : ChRec → ChRec) (e : EpRef) :
    (s.modCh c' f').ep e = s.ep e := State.ep_of (by simp) (by simp) e
@[simp] theorem State.reqAt_of_modCh (s : State) (c' : Fin 16) (f' : ChRec → ChRec) (i : ReqId) :
    (s.modCh c' f').reqAt i = s.reqAt i := State.reqAt_of (by simp) (by simp) i
@[simp] theorem State.slotUsed_of_modCh (s : State) (c' : Fin 16) (f' : ChRec → ChRec) (k : Nat) :
    (s.modCh c' f').slotUsed k = s.slotUsed k := State.slotUsed_of (by simp) k
@[simp] theorem State.isSlave_of_modCh (s : State) (c' : Fin 16) (f' : ChRec → ChRec) :
    (s.modCh c' f').isSlave = s.isSlave := State.isSlave_of (by simp)
@[simp] theorem State.isDesc_of_modCh (s : State) (c' : Fin 16) (f' : ChRec → ChRec) :
    (s.modCh c' f').isDesc = s.isDesc := State.isDesc_of (by simp)
@[simp] theorem State.peripheral_of_modCh (s : State) (c' : Fin 16) (f' : ChRec → ChRec) :
    (s.modCh c' f').peripheral = s.peripheral := State.peripheral_of (by simp)
@[simp] theorem State.channels_of_modCh (s : State) (c' : Fin 16) (f' : ChRec → ChRec) :
    (s.modCh c' f').channels = s.channels := State.channels_of (by simp)
@[simp] theorem State.dataEndpoints_of_modCh (s : State) (c' : Fin 16) (f' : ChRec → ChRec) :
    (s.modCh c' f').dataEndpoints = s.dataEndpoints := State.dataEndpoints_of (by simp)
@[simp] theorem State.validX_of_modCh (s : State) (c' : Fin 16) (f' : ChRec → ChRec) (x : XRef) :
    (s.modCh c' f').validX x = s.validX x := State.validX_of (by simp) x
@[simp] theorem State.xferLimits_of_modCh (s : State) (c' : Fin 16) (f' : ChRec → ChRec) (x : XRef) :
    (s.modCh c' f').xferLimits x = s.xferLimits x := State.xferLimits_of (by simp) (by simp) x
@[simp] theorem State.isoOf_of_modCh (s : State) (c' : Fin 16) (f' : ChRec → ChRec) (x : XRef) :
    (s.modCh c' f').isoOf x = s.isoOf x := State.isoOf_of (by simp) x
@[simp] theorem State.scheduled_of_modCh (s : State) (c' : Fin 16) (f' : ChRec → ChRec) (x : XRef) :
    (s.modCh c' f').scheduled x = s.scheduled x := State.scheduled_of (by simp) x
@[simp] theorem State.descArray_of_modCh (s : State) (c' : Fin 16) (f' : ChRec → ChRec) (x : XRef) (w : Bool) :
    (s.modCh c' f').descArray x w = s.descArray x w := State.descArray_of (by simp) x w
@[simp] theorem State.level_of_modCh (s : State) (c' : Fin 16) (f' : ChRec → ChRec) :
    (s.modCh c' f').level = s.level := State.level_of (by simp)
@[simp] theorem State.hostSlave_of_modCh (s : State) (c' : Fin 16) (f' : ChRec → ChRec) :
    (s.modCh c' f').hostSlave = s.hostSlave := State.hostSlave_of (by simp) (by simp)
@[simp] theorem State.firstPid_of_modCh (s : State) (c' : Fin 16) (f' : ChRec → ChRec) (p : HcParams) :
    (s.modCh c' f').firstPid p = s.firstPid p := State.firstPid_of (by simp) p
@[simp] theorem State.lastServed_of_modCh (s : State) (c' : Fin 16) (f' : ChRec → ChRec) (b : Bool) :
    (s.modCh c' f').lastServed b = s.lastServed b := State.lastServed_of (by simp) (by simp) b
@[simp] theorem State.freeSlots_of_modCh (s : State) (c' : Fin 16) (f' : ChRec → ChRec) :
    (s.modCh c' f').freeSlots = s.freeSlots := State.freeSlots_of (by simp)
@[simp] theorem State.txFifoOf_of_modCh (s : State) (c' : Fin 16) (f' : ChRec → ChRec) (n : Fin 16) :
    (s.modCh c' f').txFifoOf n = s.txFifoOf n := State.txFifoOf_of (by simp) n
@[simp] theorem State.epListed_of_modCh (s : State) (c' : Fin 16) (f' : ChRec → ChRec) (w : BitVec 16) :
    (s.modCh c' f').epListed w = s.epListed w := State.epListed_of (by simp) (by simp) (by simp) w
@[simp] theorem State.enableCheck_of_modCh (s : State) (c' : Fin 16) (f' : ChRec → ChRec) (d : Epd) :
    (s.modCh c' f').enableCheck d = s.enableCheck d := State.enableCheck_of (by simp) (by simp) (by simp) (by simp) d
@[simp] theorem State.submitCheck_of_modCh (s : State) (c' : Fin 16) (f' : ChRec → ChRec) (e : EpRef) :
    (s.modCh c' f').submitCheck e = s.submitCheck e := State.submitCheck_of (by simp) (by simp) (by simp) (by simp) e

/-! After `modX`. -/

@[simp] theorem State.raw_of_modX (s : State) (x' : XRef) (f' : Xfer → Xfer) (r : Reg) :
    (s.modX x' f').raw r = s.raw r := State.raw_of (by simp) r
@[simp] theorem State.hostMode_of_modX (s : State) (x' : XRef) (f' : Xfer → Xfer) :
    (s.modX x' f').hostMode = s.hostMode := State.hostMode_of (by simp)
@[simp] theorem State.unsettled_of_modX (s : State) (x' : XRef) (f' : Xfer → Xfer) :
    (s.modX x' f').unsettled = s.unsettled := State.unsettled_of (by simp)
@[simp] theorem State.slaveHw_of_modX (s : State) (x' : XRef) (f' : Xfer → Xfer) :
    (s.modX x' f').slaveHw = s.slaveHw := State.slaveHw_of (by simp)
@[simp] theorem State.accessible_of_modX (s : State) (x' : XRef) (f' : Xfer → Xfer) (r : Reg) :
    (s.modX x' f').accessible r = s.accessible r := State.accessible_of (by simp) (by simp) r
@[simp] theorem State.byte_of_modX (s : State) (x' : XRef) (f' : Xfer → Xfer) (a : Word) :
    (s.modX x' f').byte a = s.byte a := State.byte_of (by simp) a
@[simp] theorem State.word_of_modX (s : State) (x' : XRef) (f' : Xfer → Xfer) (a : Word) :
    (s.modX x' f').word a = s.word a := State.word_of (by simp) a
@[simp] theorem State.bytes_of_modX (s : State) (x' : XRef) (f' : Xfer → Xfer) (a : Word) (n : Nat) :
    (s.modX x' f').bytes a n = s.bytes a n := State.bytes_of (by simp) a n
@[simp] theorem State.reqAt_of_modX (s : State) (x' : XRef) (f' : Xfer → Xfer) (i : ReqId) :
    (s.modX x' f').reqAt i = s.reqAt i := State.reqAt_of (by simp) (by simp) i
@[simp] theorem State.slotUsed_of_modX (s : State) (x' : XRef) (f' : Xfer → Xfer) (k : Nat) :
    (s.modX x' f').slotUsed k = s.slotUsed k := State.slotUsed_of (by simp) k
@[simp] theorem State.isSlave_of_modX (s : State) (x' : XRef) (f' : Xfer → Xfer) :
    (s.modX x' f').isSlave = s.isSlave := State.isSlave_of (by simp)
@[simp] theorem State.isDesc_of_modX (s : State) (x' : XRef) (f' : Xfer → Xfer) :
    (s.modX x' f').isDesc = s.isDesc := State.isDesc_of (by simp)
@[simp] theorem State.peripheral_of_modX (s : State) (x' : XRef) (f' : Xfer → Xfer) :
    (s.modX x' f').peripheral = s.peripheral := State.peripheral_of (by simp)
@[simp] theorem State.channels_of_modX (s : State) (x' : XRef) (f' : Xfer → Xfer) :
    (s.modX x' f').channels = s.channels := State.channels_of (by simp)
@[simp] theorem State.dataEndpoints_of_modX (s : State) (x' : XRef) (f' : Xfer → Xfer) :
    (s.modX x' f').dataEndpoints = s.dataEndpoints := State.dataEndpoints_of (by simp)
@[simp] theorem State.validX_of_modX (s : State) (x' : XRef) (f' : Xfer → Xfer) (x : XRef) :
    (s.modX x' f').validX x = s.validX x := State.validX_of (by simp) x
@[simp] theorem State.xferLimits_of_modX (s : State) (x' : XRef) (f' : Xfer → Xfer) (x : XRef) :
    (s.modX x' f').xferLimits x = s.xferLimits x := State.xferLimits_of (by simp) (by simp) x
@[simp] theorem State.isoOf_of_modX (s : State) (x' : XRef) (f' : Xfer → Xfer) (x : XRef) :
    (s.modX x' f').isoOf x = s.isoOf x := State.isoOf_of (by simp) x
@[simp] theorem State.scheduled_of_modX (s : State) (x' : XRef) (f' : Xfer → Xfer) (x : XRef) :
    (s.modX x' f').scheduled x = s.scheduled x := State.scheduled_of (by simp) x
@[simp] theorem State.descArray_of_modX (s : State) (x' : XRef) (f' : Xfer → Xfer) (x : XRef) (w : Bool) :
    (s.modX x' f').descArray x w = s.descArray x w := State.descArray_of (by simp) x w
@[simp] theorem State.level_of_modX (s : State) (x' : XRef) (f' : Xfer → Xfer) :
    (s.modX x' f').level = s.level := State.level_of (by simp)
@[simp] theorem State.hostSlave_of_modX (s : State) (x' : XRef) (f' : Xfer → Xfer) :
    (s.modX x' f').hostSlave = s.hostSlave := State.hostSlave_of (by simp) (by simp)
@[simp] theorem State.firstPid_of_modX (s : State) (x' : XRef) (f' : Xfer → Xfer) (p : HcParams) :
    (s.modX x' f').firstPid p = s.firstPid p := State.firstPid_of (by simp) p
@[simp] theorem State.lastServed_of_modX (s : State) (x' : XRef) (f' : Xfer → Xfer) (b : Bool) :
    (s.modX x' f').lastServed b = s.lastServed b := State.lastServed_of (by simp) (by simp) b
@[simp] theorem State.freeSlots_of_modX (s : State) (x' : XRef) (f' : Xfer → Xfer) :
    (s.modX x' f').freeSlots = s.freeSlots := State.freeSlots_of (by simp)
@[simp] theorem State.txFifoOf_of_modX (s : State) (x' : XRef) (f' : Xfer → Xfer) (n : Fin 16) :
    (s.modX x' f').txFifoOf n = s.txFifoOf n := State.txFifoOf_of (by simp) n

/-! After `modReqAt`. -/

@[simp] theorem State.raw_of_modReqAt (s : State) (i' : ReqId) (f' : Req → Req) (r : Reg) :
    (s.modReqAt i' f').raw r = s.raw r := State.raw_of (by simp) r
@[simp] theorem State.hostMode_of_modReqAt (s : State) (i' : ReqId) (f' : Req → Req) :
    (s.modReqAt i' f').hostMode = s.hostMode := State.hostMode_of (by simp)
@[simp] theorem State.unsettled_of_modReqAt (s : State) (i' : ReqId) (f' : Req → Req) :
    (s.modReqAt i' f').unsettled = s.unsettled := State.unsettled_of (by simp)
@[simp] theorem State.slaveHw_of_modReqAt (s : State) (i' : ReqId) (f' : Req → Req) :
    (s.modReqAt i' f').slaveHw = s.slaveHw := State.slaveHw_of (by simp)
@[simp] theorem State.accessible_of_modReqAt (s : State) (i' : ReqId) (f' : Req → Req) (r : Reg) :
    (s.modReqAt i' f').accessible r = s.accessible r := State.accessible_of (by simp) (by simp) r
@[simp] theorem State.byte_of_modReqAt (s : State) (i' : ReqId) (f' : Req → Req) (a : Word) :
    (s.modReqAt i' f').byte a = s.byte a := State.byte_of (by simp) a
@[simp] theorem State.word_of_modReqAt (s : State) (i' : ReqId) (f' : Req → Req) (a : Word) :
    (s.modReqAt i' f').word a = s.word a := State.word_of (by simp) a
@[simp] theorem State.bytes_of_modReqAt (s : State) (i' : ReqId) (f' : Req → Req) (a : Word) (n : Nat) :
    (s.modReqAt i' f').bytes a n = s.bytes a n := State.bytes_of (by simp) a n
@[simp] theorem State.ep_of_modReqAt (s : State) (i' : ReqId) (f' : Req → Req) (e : EpRef) :
    (s.modReqAt i' f').ep e = s.ep e := State.ep_of (by simp) (by simp) e
@[simp] theorem State.chan_of_modReqAt (s : State) (i' : ReqId) (f' : Req → Req) (c : Fin 16) :
    (s.modReqAt i' f').chan c = s.chan c := State.chan_of (by simp) c
@[simp] theorem State.xfer_of_modReqAt (s : State) (i' : ReqId) (f' : Req → Req) (x : XRef) :
    (s.modReqAt i' f').xfer x = s.xfer x := State.xfer_of (by simp) (by simp) (by simp) x
@[simp] theorem State.mpsOf_of_modReqAt (s : State) (i' : ReqId) (f' : Req → Req) (x : XRef) :
    (s.modReqAt i' f').mpsOf x = s.mpsOf x := State.mpsOf_of (by simp) (by simp) (by simp) x
@[simp] theorem State.typeOf_of_modReqAt (s : State) (i' : ReqId) (f' : Req → Req) (x : XRef) :
    (s.modReqAt i' f').typeOf x = s.typeOf x := State.typeOf_of (by simp) (by simp) (by simp) x
@[simp] theorem State.multiOf_of_modReqAt (s : State) (i' : ReqId) (f' : Req → Req) (x : XRef) :
    (s.modReqAt i' f').multiOf x = s.multiOf x := State.multiOf_of (by simp) (by simp) (by simp) x
@[simp] theorem State.intervalOf_of_modReqAt (s : State) (i' : ReqId) (f' : Req → Req) (x : XRef) :
    (s.modReqAt i' f').intervalOf x = s.intervalOf x := State.intervalOf_of (by simp) (by simp) (by simp) x
@[simp] theorem State.transmits_of_modReqAt (s : State) (i' : ReqId) (f' : Req → Req) (x : XRef) :
    (s.modReqAt i' f').transmits x = s.transmits x := State.transmits_of (by simp) (by simp) (by simp) x
@[simp] theorem State.splits_of_modReqAt (s : State) (i' : ReqId) (f' : Req → Req) (x : XRef) :
    (s.modReqAt i' f').splits x = s.splits x := State.splits_of (by simp) (by simp) (by simp) x
@[simp] theorem State.xIdle_of_modReqAt (s : State) (i' : ReqId) (f' : Req → Req) (x : XRef) :
    (s.modReqAt i' f').xIdle x = s.xIdle x := State.xIdle_of (by simp) (by simp) (by simp) x
@[simp] theorem State.isSlave_of_modReqAt (s : State) (i' : ReqId) (f' : Req → Req) :
    (s.modReqAt i' f').isSlave = s.isSlave := State.isSlave_of (by simp)
@[simp] theorem State.isDesc_of_modReqAt (s : State) (i' : ReqId) (f' : Req → Req) :
    (s.modReqAt i' f').isDesc = s.isDesc := State.isDesc_of (by simp)
@[simp] theorem State.peripheral_of_modReqAt (s : State) (i' : ReqId) (f' : Req → Req) :
    (s.modReqAt i' f').peripheral = s.peripheral := State.peripheral_of (by simp)
@[simp] theorem State.channels_of_modReqAt (s : State) (i' : ReqId) (f' : Req → Req) :
    (s.modReqAt i' f').channels = s.channels := State.channels_of (by simp)
@[simp] theorem State.dataEndpoints_of_modReqAt (s : State) (i' : ReqId) (f' : Req → Req) :
    (s.modReqAt i' f').dataEndpoints = s.dataEndpoints := State.dataEndpoints_of (by simp)
@[simp] theorem State.validX_of_modReqAt (s : State) (i' : ReqId) (f' : Req → Req) (x : XRef) :
    (s.modReqAt i' f').validX x = s.validX x := State.validX_of (by simp) x
@[simp] theorem State.xferLimits_of_modReqAt (s : State) (i' : ReqId) (f' : Req → Req) (x : XRef) :
    (s.modReqAt i' f').xferLimits x = s.xferLimits x := State.xferLimits_of (by simp) (by simp) x
@[simp] theorem State.isoOf_of_modReqAt (s : State) (i' : ReqId) (f' : Req → Req) (x : XRef) :
    (s.modReqAt i' f').isoOf x = s.isoOf x := State.isoOf_of (by simp) x
@[simp] theorem State.scheduled_of_modReqAt (s : State) (i' : ReqId) (f' : Req → Req) (x : XRef) :
    (s.modReqAt i' f').scheduled x = s.scheduled x := State.scheduled_of (by simp) x
@[simp] theorem State.descArray_of_modReqAt (s : State) (i' : ReqId) (f' : Req → Req) (x : XRef) (w : Bool) :
    (s.modReqAt i' f').descArray x w = s.descArray x w := State.descArray_of (by simp) x w
@[simp] theorem State.level_of_modReqAt (s : State) (i' : ReqId) (f' : Req → Req) :
    (s.modReqAt i' f').level = s.level := State.level_of (by simp)
@[simp] theorem State.hostSlave_of_modReqAt (s : State) (i' : ReqId) (f' : Req → Req) :
    (s.modReqAt i' f').hostSlave = s.hostSlave := State.hostSlave_of (by simp) (by simp)
@[simp] theorem State.chunkLimit_of_modReqAt (s : State) (i' : ReqId) (f' : Req → Req) (x : XRef) :
    (s.modReqAt i' f').chunkLimit x = s.chunkLimit x := State.chunkLimit_of (by simp) (by simp) (by simp) (by simp) (by simp) x
@[simp] theorem State.firstPid_of_modReqAt (s : State) (i' : ReqId) (f' : Req → Req) (p : HcParams) :
    (s.modReqAt i' f').firstPid p = s.firstPid p := State.firstPid_of (by simp) p
@[simp] theorem State.serviceList_of_modReqAt (s : State) (i' : ReqId) (f' : Req → Req) (b : Bool) :
    (s.modReqAt i' f').serviceList b = s.serviceList b := State.serviceList_of (by simp) (by simp) b
@[simp] theorem State.lastServed_of_modReqAt (s : State) (i' : ReqId) (f' : Req → Req) (b : Bool) :
    (s.modReqAt i' f').lastServed b = s.lastServed b := State.lastServed_of (by simp) (by simp) b
@[simp] theorem State.txFifoOf_of_modReqAt (s : State) (i' : ReqId) (f' : Req → Req) (n : Fin 16) :
    (s.modReqAt i' f').txFifoOf n = s.txFifoOf n := State.txFifoOf_of (by simp) n
@[simp] theorem State.epListed_of_modReqAt (s : State) (i' : ReqId) (f' : Req → Req) (w : BitVec 16) :
    (s.modReqAt i' f').epListed w = s.epListed w := State.epListed_of (by simp) (by simp) (by simp) w
@[simp] theorem State.enableCheck_of_modReqAt (s : State) (i' : ReqId) (f' : Req → Req) (d : Epd) :
    (s.modReqAt i' f').enableCheck d = s.enableCheck d := State.enableCheck_of (by simp) (by simp) (by simp) (by simp) d
@[simp] theorem State.submitCheck_of_modReqAt (s : State) (i' : ReqId) (f' : Req → Req) (e : EpRef) :
    (s.modReqAt i' f').submitCheck e = s.submitCheck e := State.submitCheck_of (by simp) (by simp) (by simp) (by simp) e
@[simp] theorem State.pipeChannel_of_modReqAt (s : State) (i' : ReqId) (f' : Req → Req) (p : HcParams) :
    (s.modReqAt i' f').pipeChannel p = s.pipeChannel p := State.pipeChannel_of (by simp) (by simp) p
@[simp] theorem State.freeChannel_of_modReqAt (s : State) (i' : ReqId) (f' : Req → Req) :
    (s.modReqAt i' f').freeChannel = s.freeChannel := State.freeChannel_of (by simp) (by simp)
@[simp] theorem State.channelFor_of_modReqAt (s : State) (i' : ReqId) (f' : Req → Req) (p : HcParams) :
    (s.modReqAt i' f').channelFor p = s.channelFor p := State.channelFor_of (by simp) (by simp) p

/-! After `setBytes`. -/

@[simp] theorem State.raw_of_setBytes (s : State) (a' : Word) (b' : List Byte) (r : Reg) :
    (s.setBytes a' b').raw r = s.raw r := State.raw_of (by simp) r
@[simp] theorem State.hostMode_of_setBytes (s : State) (a' : Word) (b' : List Byte) :
    (s.setBytes a' b').hostMode = s.hostMode := State.hostMode_of (by simp)
@[simp] theorem State.unsettled_of_setBytes (s : State) (a' : Word) (b' : List Byte) :
    (s.setBytes a' b').unsettled = s.unsettled := State.unsettled_of (by simp)
@[simp] theorem State.slaveHw_of_setBytes (s : State) (a' : Word) (b' : List Byte) :
    (s.setBytes a' b').slaveHw = s.slaveHw := State.slaveHw_of (by simp)
@[simp] theorem State.accessible_of_setBytes (s : State) (a' : Word) (b' : List Byte) (r : Reg) :
    (s.setBytes a' b').accessible r = s.accessible r := State.accessible_of (by simp) (by simp) r
@[simp] theorem State.ep_of_setBytes (s : State) (a' : Word) (b' : List Byte) (e : EpRef) :
    (s.setBytes a' b').ep e = s.ep e := State.ep_of (by simp) (by simp) e
@[simp] theorem State.chan_of_setBytes (s : State) (a' : Word) (b' : List Byte) (c : Fin 16) :
    (s.setBytes a' b').chan c = s.chan c := State.chan_of (by simp) c
@[simp] theorem State.xfer_of_setBytes (s : State) (a' : Word) (b' : List Byte) (x : XRef) :
    (s.setBytes a' b').xfer x = s.xfer x := State.xfer_of (by simp) (by simp) (by simp) x
@[simp] theorem State.mpsOf_of_setBytes (s : State) (a' : Word) (b' : List Byte) (x : XRef) :
    (s.setBytes a' b').mpsOf x = s.mpsOf x := State.mpsOf_of (by simp) (by simp) (by simp) x
@[simp] theorem State.typeOf_of_setBytes (s : State) (a' : Word) (b' : List Byte) (x : XRef) :
    (s.setBytes a' b').typeOf x = s.typeOf x := State.typeOf_of (by simp) (by simp) (by simp) x
@[simp] theorem State.multiOf_of_setBytes (s : State) (a' : Word) (b' : List Byte) (x : XRef) :
    (s.setBytes a' b').multiOf x = s.multiOf x := State.multiOf_of (by simp) (by simp) (by simp) x
@[simp] theorem State.intervalOf_of_setBytes (s : State) (a' : Word) (b' : List Byte) (x : XRef) :
    (s.setBytes a' b').intervalOf x = s.intervalOf x := State.intervalOf_of (by simp) (by simp) (by simp) x
@[simp] theorem State.transmits_of_setBytes (s : State) (a' : Word) (b' : List Byte) (x : XRef) :
    (s.setBytes a' b').transmits x = s.transmits x := State.transmits_of (by simp) (by simp) (by simp) x
@[simp] theorem State.splits_of_setBytes (s : State) (a' : Word) (b' : List Byte) (x : XRef) :
    (s.setBytes a' b').splits x = s.splits x := State.splits_of (by simp) (by simp) (by simp) x
@[simp] theorem State.xIdle_of_setBytes (s : State) (a' : Word) (b' : List Byte) (x : XRef) :
    (s.setBytes a' b').xIdle x = s.xIdle x := State.xIdle_of (by simp) (by simp) (by simp) x
@[simp] theorem State.reqAt_of_setBytes (s : State) (a' : Word) (b' : List Byte) (i : ReqId) :
    (s.setBytes a' b').reqAt i = s.reqAt i := State.reqAt_of (by simp) (by simp) i
@[simp] theorem State.reqOf_of_setBytes (s : State) (a' : Word) (b' : List Byte) (x : XRef) :
    (s.setBytes a' b').reqOf x = s.reqOf x := State.reqOf_of (by simp) (by simp) (by simp) (by simp) (by simp) x
@[simp] theorem State.chunkAddr_of_setBytes (s : State) (a' : Word) (b' : List Byte) (x : XRef) :
    (s.setBytes a' b').chunkAddr x = s.chunkAddr x := State.chunkAddr_of (by simp) (by simp) (by simp) (by simp) (by simp) x
@[simp] theorem State.slotUsed_of_setBytes (s : State) (a' : Word) (b' : List Byte) (k : Nat) :
    (s.setBytes a' b').slotUsed k = s.slotUsed k := State.slotUsed_of (by simp) k
@[simp] theorem State.isSlave_of_setBytes (s : State) (a' : Word) (b' : List Byte) :
    (s.setBytes a' b').isSlave = s.isSlave := State.isSlave_of (by simp)
@[simp] theorem State.isDesc_of_setBytes (s : State) (a' : Word) (b' : List Byte) :
    (s.setBytes a' b').isDesc = s.isDesc := State.isDesc_of (by simp)
@[simp] theorem State.peripheral_of_setBytes (s : State) (a' : Word) (b' : List Byte) :
    (s.setBytes a' b').peripheral = s.peripheral := State.peripheral_of (by simp)
@[simp] theorem State.channels_of_setBytes (s : State) (a' : Word) (b' : List Byte) :
    (s.setBytes a' b').channels = s.channels := State.channels_of (by simp)
@[simp] theorem State.dataEndpoints_of_setBytes (s : State) (a' : Word) (b' : List Byte) :
    (s.setBytes a' b').dataEndpoints = s.dataEndpoints := State.dataEndpoints_of (by simp)
@[simp] theorem State.validX_of_setBytes (s : State) (a' : Word) (b' : List Byte) (x : XRef) :
    (s.setBytes a' b').validX x = s.validX x := State.validX_of (by simp) x
@[simp] theorem State.xferLimits_of_setBytes (s : State) (a' : Word) (b' : List Byte) (x : XRef) :
    (s.setBytes a' b').xferLimits x = s.xferLimits x := State.xferLimits_of (by simp) (by simp) x
@[simp] theorem State.isoOf_of_setBytes (s : State) (a' : Word) (b' : List Byte) (x : XRef) :
    (s.setBytes a' b').isoOf x = s.isoOf x := State.isoOf_of (by simp) x
@[simp] theorem State.scheduled_of_setBytes (s : State) (a' : Word) (b' : List Byte) (x : XRef) :
    (s.setBytes a' b').scheduled x = s.scheduled x := State.scheduled_of (by simp) x
@[simp] theorem State.descArray_of_setBytes (s : State) (a' : Word) (b' : List Byte) (x : XRef) (w : Bool) :
    (s.setBytes a' b').descArray x w = s.descArray x w := State.descArray_of (by simp) x w
@[simp] theorem State.level_of_setBytes (s : State) (a' : Word) (b' : List Byte) :
    (s.setBytes a' b').level = s.level := State.level_of (by simp)
@[simp] theorem State.hostSlave_of_setBytes (s : State) (a' : Word) (b' : List Byte) :
    (s.setBytes a' b').hostSlave = s.hostSlave := State.hostSlave_of (by simp) (by simp)
@[simp] theorem State.chunkLimit_of_setBytes (s : State) (a' : Word) (b' : List Byte) (x : XRef) :
    (s.setBytes a' b').chunkLimit x = s.chunkLimit x := State.chunkLimit_of (by simp) (by simp) (by simp) (by simp) (by simp) x
@[simp] theorem State.nextChunk_of_setBytes (s : State) (a' : Word) (b' : List Byte) (x : XRef) :
    (s.setBytes a' b').nextChunk x = s.nextChunk x := State.nextChunk_of (by simp) (by simp) (by simp) (by simp) (by simp) (by simp) (by simp) x
@[simp] theorem State.firstPid_of_setBytes (s : State) (a' : Word) (b' : List Byte) (p : HcParams) :
    (s.setBytes a' b').firstPid p = s.firstPid p := State.firstPid_of (by simp) p
@[simp] theorem State.serviceList_of_setBytes (s : State) (a' : Word) (b' : List Byte) (b : Bool) :
    (s.setBytes a' b').serviceList b = s.serviceList b := State.serviceList_of (by simp) (by simp) b
@[simp] theorem State.lastServed_of_setBytes (s : State) (a' : Word) (b' : List Byte) (b : Bool) :
    (s.setBytes a' b').lastServed b = s.lastServed b := State.lastServed_of (by simp) (by simp) b
@[simp] theorem State.freeSlots_of_setBytes (s : State) (a' : Word) (b' : List Byte) :
    (s.setBytes a' b').freeSlots = s.freeSlots := State.freeSlots_of (by simp)
@[simp] theorem State.txFifoOf_of_setBytes (s : State) (a' : Word) (b' : List Byte) (n : Fin 16) :
    (s.setBytes a' b').txFifoOf n = s.txFifoOf n := State.txFifoOf_of (by simp) n
@[simp] theorem State.epListed_of_setBytes (s : State) (a' : Word) (b' : List Byte) (w : BitVec 16) :
    (s.setBytes a' b').epListed w = s.epListed w := State.epListed_of (by simp) (by simp) (by simp) w
@[simp] theorem State.enableCheck_of_setBytes (s : State) (a' : Word) (b' : List Byte) (d : Epd) :
    (s.setBytes a' b').enableCheck d = s.enableCheck d := State.enableCheck_of (by simp) (by simp) (by simp) (by simp) d
@[simp] theorem State.submitCheck_of_setBytes (s : State) (a' : Word) (b' : List Byte) (e : EpRef) :
    (s.setBytes a' b').submitCheck e = s.submitCheck e := State.submitCheck_of (by simp) (by simp) (by simp) (by simp) e
@[simp] theorem State.pipeChannel_of_setBytes (s : State) (a' : Word) (b' : List Byte) (p : HcParams) :
    (s.setBytes a' b').pipeChannel p = s.pipeChannel p := State.pipeChannel_of (by simp) (by simp) p
@[simp] theorem State.freeChannel_of_setBytes (s : State) (a' : Word) (b' : List Byte) :
    (s.setBytes a' b').freeChannel = s.freeChannel := State.freeChannel_of (by simp) (by simp)
@[simp] theorem State.channelFor_of_setBytes (s : State) (a' : Word) (b' : List Byte) (p : HcParams) :
    (s.setBytes a' b').channelFor p = s.channelFor p := State.channelFor_of (by simp) (by simp) p

/-! After `setWord`. -/

@[simp] theorem State.raw_of_setWord (s : State) (a' w' : Word) (r : Reg) :
    (s.setWord a' w').raw r = s.raw r := State.raw_of (by simp) r
@[simp] theorem State.hostMode_of_setWord (s : State) (a' w' : Word) :
    (s.setWord a' w').hostMode = s.hostMode := State.hostMode_of (by simp)
@[simp] theorem State.unsettled_of_setWord (s : State) (a' w' : Word) :
    (s.setWord a' w').unsettled = s.unsettled := State.unsettled_of (by simp)
@[simp] theorem State.slaveHw_of_setWord (s : State) (a' w' : Word) :
    (s.setWord a' w').slaveHw = s.slaveHw := State.slaveHw_of (by simp)
@[simp] theorem State.accessible_of_setWord (s : State) (a' w' : Word) (r : Reg) :
    (s.setWord a' w').accessible r = s.accessible r := State.accessible_of (by simp) (by simp) r
@[simp] theorem State.ep_of_setWord (s : State) (a' w' : Word) (e : EpRef) :
    (s.setWord a' w').ep e = s.ep e := State.ep_of (by simp) (by simp) e
@[simp] theorem State.chan_of_setWord (s : State) (a' w' : Word) (c : Fin 16) :
    (s.setWord a' w').chan c = s.chan c := State.chan_of (by simp) c
@[simp] theorem State.xfer_of_setWord (s : State) (a' w' : Word) (x : XRef) :
    (s.setWord a' w').xfer x = s.xfer x := State.xfer_of (by simp) (by simp) (by simp) x
@[simp] theorem State.mpsOf_of_setWord (s : State) (a' w' : Word) (x : XRef) :
    (s.setWord a' w').mpsOf x = s.mpsOf x := State.mpsOf_of (by simp) (by simp) (by simp) x
@[simp] theorem State.typeOf_of_setWord (s : State) (a' w' : Word) (x : XRef) :
    (s.setWord a' w').typeOf x = s.typeOf x := State.typeOf_of (by simp) (by simp) (by simp) x
@[simp] theorem State.multiOf_of_setWord (s : State) (a' w' : Word) (x : XRef) :
    (s.setWord a' w').multiOf x = s.multiOf x := State.multiOf_of (by simp) (by simp) (by simp) x
@[simp] theorem State.intervalOf_of_setWord (s : State) (a' w' : Word) (x : XRef) :
    (s.setWord a' w').intervalOf x = s.intervalOf x := State.intervalOf_of (by simp) (by simp) (by simp) x
@[simp] theorem State.transmits_of_setWord (s : State) (a' w' : Word) (x : XRef) :
    (s.setWord a' w').transmits x = s.transmits x := State.transmits_of (by simp) (by simp) (by simp) x
@[simp] theorem State.splits_of_setWord (s : State) (a' w' : Word) (x : XRef) :
    (s.setWord a' w').splits x = s.splits x := State.splits_of (by simp) (by simp) (by simp) x
@[simp] theorem State.xIdle_of_setWord (s : State) (a' w' : Word) (x : XRef) :
    (s.setWord a' w').xIdle x = s.xIdle x := State.xIdle_of (by simp) (by simp) (by simp) x
@[simp] theorem State.reqAt_of_setWord (s : State) (a' w' : Word) (i : ReqId) :
    (s.setWord a' w').reqAt i = s.reqAt i := State.reqAt_of (by simp) (by simp) i
@[simp] theorem State.reqOf_of_setWord (s : State) (a' w' : Word) (x : XRef) :
    (s.setWord a' w').reqOf x = s.reqOf x := State.reqOf_of (by simp) (by simp) (by simp) (by simp) (by simp) x
@[simp] theorem State.chunkAddr_of_setWord (s : State) (a' w' : Word) (x : XRef) :
    (s.setWord a' w').chunkAddr x = s.chunkAddr x := State.chunkAddr_of (by simp) (by simp) (by simp) (by simp) (by simp) x
@[simp] theorem State.slotUsed_of_setWord (s : State) (a' w' : Word) (k : Nat) :
    (s.setWord a' w').slotUsed k = s.slotUsed k := State.slotUsed_of (by simp) k
@[simp] theorem State.isSlave_of_setWord (s : State) (a' w' : Word) :
    (s.setWord a' w').isSlave = s.isSlave := State.isSlave_of (by simp)
@[simp] theorem State.isDesc_of_setWord (s : State) (a' w' : Word) :
    (s.setWord a' w').isDesc = s.isDesc := State.isDesc_of (by simp)
@[simp] theorem State.peripheral_of_setWord (s : State) (a' w' : Word) :
    (s.setWord a' w').peripheral = s.peripheral := State.peripheral_of (by simp)
@[simp] theorem State.channels_of_setWord (s : State) (a' w' : Word) :
    (s.setWord a' w').channels = s.channels := State.channels_of (by simp)
@[simp] theorem State.dataEndpoints_of_setWord (s : State) (a' w' : Word) :
    (s.setWord a' w').dataEndpoints = s.dataEndpoints := State.dataEndpoints_of (by simp)
@[simp] theorem State.validX_of_setWord (s : State) (a' w' : Word) (x : XRef) :
    (s.setWord a' w').validX x = s.validX x := State.validX_of (by simp) x
@[simp] theorem State.xferLimits_of_setWord (s : State) (a' w' : Word) (x : XRef) :
    (s.setWord a' w').xferLimits x = s.xferLimits x := State.xferLimits_of (by simp) (by simp) x
@[simp] theorem State.isoOf_of_setWord (s : State) (a' w' : Word) (x : XRef) :
    (s.setWord a' w').isoOf x = s.isoOf x := State.isoOf_of (by simp) x
@[simp] theorem State.scheduled_of_setWord (s : State) (a' w' : Word) (x : XRef) :
    (s.setWord a' w').scheduled x = s.scheduled x := State.scheduled_of (by simp) x
@[simp] theorem State.descArray_of_setWord (s : State) (a' w' : Word) (x : XRef) (w : Bool) :
    (s.setWord a' w').descArray x w = s.descArray x w := State.descArray_of (by simp) x w
@[simp] theorem State.level_of_setWord (s : State) (a' w' : Word) :
    (s.setWord a' w').level = s.level := State.level_of (by simp)
@[simp] theorem State.hostSlave_of_setWord (s : State) (a' w' : Word) :
    (s.setWord a' w').hostSlave = s.hostSlave := State.hostSlave_of (by simp) (by simp)
@[simp] theorem State.chunkLimit_of_setWord (s : State) (a' w' : Word) (x : XRef) :
    (s.setWord a' w').chunkLimit x = s.chunkLimit x := State.chunkLimit_of (by simp) (by simp) (by simp) (by simp) (by simp) x
@[simp] theorem State.nextChunk_of_setWord (s : State) (a' w' : Word) (x : XRef) :
    (s.setWord a' w').nextChunk x = s.nextChunk x := State.nextChunk_of (by simp) (by simp) (by simp) (by simp) (by simp) (by simp) (by simp) x
@[simp] theorem State.firstPid_of_setWord (s : State) (a' w' : Word) (p : HcParams) :
    (s.setWord a' w').firstPid p = s.firstPid p := State.firstPid_of (by simp) p
@[simp] theorem State.serviceList_of_setWord (s : State) (a' w' : Word) (b : Bool) :
    (s.setWord a' w').serviceList b = s.serviceList b := State.serviceList_of (by simp) (by simp) b
@[simp] theorem State.lastServed_of_setWord (s : State) (a' w' : Word) (b : Bool) :
    (s.setWord a' w').lastServed b = s.lastServed b := State.lastServed_of (by simp) (by simp) b
@[simp] theorem State.freeSlots_of_setWord (s : State) (a' w' : Word) :
    (s.setWord a' w').freeSlots = s.freeSlots := State.freeSlots_of (by simp)
@[simp] theorem State.txFifoOf_of_setWord (s : State) (a' w' : Word) (n : Fin 16) :
    (s.setWord a' w').txFifoOf n = s.txFifoOf n := State.txFifoOf_of (by simp) n
@[simp] theorem State.epListed_of_setWord (s : State) (a' w' : Word) (w : BitVec 16) :
    (s.setWord a' w').epListed w = s.epListed w := State.epListed_of (by simp) (by simp) (by simp) w
@[simp] theorem State.enableCheck_of_setWord (s : State) (a' w' : Word) (d : Epd) :
    (s.setWord a' w').enableCheck d = s.enableCheck d := State.enableCheck_of (by simp) (by simp) (by simp) (by simp) d
@[simp] theorem State.submitCheck_of_setWord (s : State) (a' w' : Word) (e : EpRef) :
    (s.setWord a' w').submitCheck e = s.submitCheck e := State.submitCheck_of (by simp) (by simp) (by simp) (by simp) e
@[simp] theorem State.pipeChannel_of_setWord (s : State) (a' w' : Word) (p : HcParams) :
    (s.setWord a' w').pipeChannel p = s.pipeChannel p := State.pipeChannel_of (by simp) (by simp) p
@[simp] theorem State.freeChannel_of_setWord (s : State) (a' w' : Word) :
    (s.setWord a' w').freeChannel = s.freeChannel := State.freeChannel_of (by simp) (by simp)
@[simp] theorem State.channelFor_of_setWord (s : State) (a' w' : Word) (p : HcParams) :
    (s.setWord a' w').channelFor p = s.channelFor p := State.channelFor_of (by simp) (by simp) p

/-! After `withPool`. -/

@[simp] theorem State.raw_of_withPool (s : State) (x' : List (Option Req)) (r : Reg) :
    (s.withPool x').raw r = s.raw r := State.raw_of (by simp) r
@[simp] theorem State.hostMode_of_withPool (s : State) (x' : List (Option Req)) :
    (s.withPool x').hostMode = s.hostMode := State.hostMode_of (by simp)
@[simp] theorem State.unsettled_of_withPool (s : State) (x' : List (Option Req)) :
    (s.withPool x').unsettled = s.unsettled := State.unsettled_of (by simp)
@[simp] theorem State.slaveHw_of_withPool (s : State) (x' : List (Option Req)) :
    (s.withPool x').slaveHw = s.slaveHw := State.slaveHw_of (by simp)
@[simp] theorem State.accessible_of_withPool (s : State) (x' : List (Option Req)) (r : Reg) :
    (s.withPool x').accessible r = s.accessible r := State.accessible_of (by simp) (by simp) r
@[simp] theorem State.byte_of_withPool (s : State) (x' : List (Option Req)) (a : Word) :
    (s.withPool x').byte a = s.byte a := State.byte_of (by simp) a
@[simp] theorem State.word_of_withPool (s : State) (x' : List (Option Req)) (a : Word) :
    (s.withPool x').word a = s.word a := State.word_of (by simp) a
@[simp] theorem State.bytes_of_withPool (s : State) (x' : List (Option Req)) (a : Word) (n : Nat) :
    (s.withPool x').bytes a n = s.bytes a n := State.bytes_of (by simp) a n
@[simp] theorem State.ep_of_withPool (s : State) (x' : List (Option Req)) (e : EpRef) :
    (s.withPool x').ep e = s.ep e := State.ep_of (by simp) (by simp) e
@[simp] theorem State.chan_of_withPool (s : State) (x' : List (Option Req)) (c : Fin 16) :
    (s.withPool x').chan c = s.chan c := State.chan_of (by simp) c
@[simp] theorem State.xfer_of_withPool (s : State) (x' : List (Option Req)) (x : XRef) :
    (s.withPool x').xfer x = s.xfer x := State.xfer_of (by simp) (by simp) (by simp) x
@[simp] theorem State.mpsOf_of_withPool (s : State) (x' : List (Option Req)) (x : XRef) :
    (s.withPool x').mpsOf x = s.mpsOf x := State.mpsOf_of (by simp) (by simp) (by simp) x
@[simp] theorem State.typeOf_of_withPool (s : State) (x' : List (Option Req)) (x : XRef) :
    (s.withPool x').typeOf x = s.typeOf x := State.typeOf_of (by simp) (by simp) (by simp) x
@[simp] theorem State.multiOf_of_withPool (s : State) (x' : List (Option Req)) (x : XRef) :
    (s.withPool x').multiOf x = s.multiOf x := State.multiOf_of (by simp) (by simp) (by simp) x
@[simp] theorem State.intervalOf_of_withPool (s : State) (x' : List (Option Req)) (x : XRef) :
    (s.withPool x').intervalOf x = s.intervalOf x := State.intervalOf_of (by simp) (by simp) (by simp) x
@[simp] theorem State.transmits_of_withPool (s : State) (x' : List (Option Req)) (x : XRef) :
    (s.withPool x').transmits x = s.transmits x := State.transmits_of (by simp) (by simp) (by simp) x
@[simp] theorem State.splits_of_withPool (s : State) (x' : List (Option Req)) (x : XRef) :
    (s.withPool x').splits x = s.splits x := State.splits_of (by simp) (by simp) (by simp) x
@[simp] theorem State.xIdle_of_withPool (s : State) (x' : List (Option Req)) (x : XRef) :
    (s.withPool x').xIdle x = s.xIdle x := State.xIdle_of (by simp) (by simp) (by simp) x
@[simp] theorem State.isSlave_of_withPool (s : State) (x' : List (Option Req)) :
    (s.withPool x').isSlave = s.isSlave := State.isSlave_of (by simp)
@[simp] theorem State.isDesc_of_withPool (s : State) (x' : List (Option Req)) :
    (s.withPool x').isDesc = s.isDesc := State.isDesc_of (by simp)
@[simp] theorem State.peripheral_of_withPool (s : State) (x' : List (Option Req)) :
    (s.withPool x').peripheral = s.peripheral := State.peripheral_of (by simp)
@[simp] theorem State.channels_of_withPool (s : State) (x' : List (Option Req)) :
    (s.withPool x').channels = s.channels := State.channels_of (by simp)
@[simp] theorem State.dataEndpoints_of_withPool (s : State) (x' : List (Option Req)) :
    (s.withPool x').dataEndpoints = s.dataEndpoints := State.dataEndpoints_of (by simp)
@[simp] theorem State.validX_of_withPool (s : State) (x' : List (Option Req)) (x : XRef) :
    (s.withPool x').validX x = s.validX x := State.validX_of (by simp) x
@[simp] theorem State.xferLimits_of_withPool (s : State) (x' : List (Option Req)) (x : XRef) :
    (s.withPool x').xferLimits x = s.xferLimits x := State.xferLimits_of (by simp) (by simp) x
@[simp] theorem State.isoOf_of_withPool (s : State) (x' : List (Option Req)) (x : XRef) :
    (s.withPool x').isoOf x = s.isoOf x := State.isoOf_of (by simp) x
@[simp] theorem State.scheduled_of_withPool (s : State) (x' : List (Option Req)) (x : XRef) :
    (s.withPool x').scheduled x = s.scheduled x := State.scheduled_of (by simp) x
@[simp] theorem State.descArray_of_withPool (s : State) (x' : List (Option Req)) (x : XRef) (w : Bool) :
    (s.withPool x').descArray x w = s.descArray x w := State.descArray_of (by simp) x w
@[simp] theorem State.level_of_withPool (s : State) (x' : List (Option Req)) :
    (s.withPool x').level = s.level := State.level_of (by simp)
@[simp] theorem State.hostSlave_of_withPool (s : State) (x' : List (Option Req)) :
    (s.withPool x').hostSlave = s.hostSlave := State.hostSlave_of (by simp) (by simp)
@[simp] theorem State.chunkLimit_of_withPool (s : State) (x' : List (Option Req)) (x : XRef) :
    (s.withPool x').chunkLimit x = s.chunkLimit x := State.chunkLimit_of (by simp) (by simp) (by simp) (by simp) (by simp) x
@[simp] theorem State.firstPid_of_withPool (s : State) (x' : List (Option Req)) (p : HcParams) :
    (s.withPool x').firstPid p = s.firstPid p := State.firstPid_of (by simp) p
@[simp] theorem State.serviceList_of_withPool (s : State) (x' : List (Option Req)) (b : Bool) :
    (s.withPool x').serviceList b = s.serviceList b := State.serviceList_of (by simp) (by simp) b
@[simp] theorem State.lastServed_of_withPool (s : State) (x' : List (Option Req)) (b : Bool) :
    (s.withPool x').lastServed b = s.lastServed b := State.lastServed_of (by simp) (by simp) b
@[simp] theorem State.txFifoOf_of_withPool (s : State) (x' : List (Option Req)) (n : Fin 16) :
    (s.withPool x').txFifoOf n = s.txFifoOf n := State.txFifoOf_of (by simp) n
@[simp] theorem State.epListed_of_withPool (s : State) (x' : List (Option Req)) (w : BitVec 16) :
    (s.withPool x').epListed w = s.epListed w := State.epListed_of (by simp) (by simp) (by simp) w
@[simp] theorem State.enableCheck_of_withPool (s : State) (x' : List (Option Req)) (d : Epd) :
    (s.withPool x').enableCheck d = s.enableCheck d := State.enableCheck_of (by simp) (by simp) (by simp) (by simp) d
@[simp] theorem State.submitCheck_of_withPool (s : State) (x' : List (Option Req)) (e : EpRef) :
    (s.withPool x').submitCheck e = s.submitCheck e := State.submitCheck_of (by simp) (by simp) (by simp) (by simp) e
@[simp] theorem State.pipeChannel_of_withPool (s : State) (x' : List (Option Req)) (p : HcParams) :
    (s.withPool x').pipeChannel p = s.pipeChannel p := State.pipeChannel_of (by simp) (by simp) p
@[simp] theorem State.freeChannel_of_withPool (s : State) (x' : List (Option Req)) :
    (s.withPool x').freeChannel = s.freeChannel := State.freeChannel_of (by simp) (by simp)
@[simp] theorem State.channelFor_of_withPool (s : State) (x' : List (Option Req)) (p : HcParams) :
    (s.withPool x').channelFor p = s.channelFor p := State.channelFor_of (by simp) (by simp) p

/-! After `withEp0`. -/

@[simp] theorem State.raw_of_withEp0 (s : State) (x' : Ep0Rec) (r : Reg) :
    (s.withEp0 x').raw r = s.raw r := State.raw_of (by simp) r
@[simp] theorem State.hostMode_of_withEp0 (s : State) (x' : Ep0Rec) :
    (s.withEp0 x').hostMode = s.hostMode := State.hostMode_of (by simp)
@[simp] theorem State.unsettled_of_withEp0 (s : State) (x' : Ep0Rec) :
    (s.withEp0 x').unsettled = s.unsettled := State.unsettled_of (by simp)
@[simp] theorem State.slaveHw_of_withEp0 (s : State) (x' : Ep0Rec) :
    (s.withEp0 x').slaveHw = s.slaveHw := State.slaveHw_of (by simp)
@[simp] theorem State.accessible_of_withEp0 (s : State) (x' : Ep0Rec) (r : Reg) :
    (s.withEp0 x').accessible r = s.accessible r := State.accessible_of (by simp) (by simp) r
@[simp] theorem State.byte_of_withEp0 (s : State) (x' : Ep0Rec) (a : Word) :
    (s.withEp0 x').byte a = s.byte a := State.byte_of (by simp) a
@[simp] theorem State.word_of_withEp0 (s : State) (x' : Ep0Rec) (a : Word) :
    (s.withEp0 x').word a = s.word a := State.word_of (by simp) a
@[simp] theorem State.bytes_of_withEp0 (s : State) (x' : Ep0Rec) (a : Word) (n : Nat) :
    (s.withEp0 x').bytes a n = s.bytes a n := State.bytes_of (by simp) a n
@[simp] theorem State.ep_of_withEp0 (s : State) (x' : Ep0Rec) (e : EpRef) :
    (s.withEp0 x').ep e = s.ep e := State.ep_of (by simp) (by simp) e
@[simp] theorem State.chan_of_withEp0 (s : State) (x' : Ep0Rec) (c : Fin 16) :
    (s.withEp0 x').chan c = s.chan c := State.chan_of (by simp) c
@[simp] theorem State.xfer_of_withEp0 (s : State) (x' : Ep0Rec) (x : XRef) :
    (s.withEp0 x').xfer x = s.xfer x := State.xfer_of (by simp) (by simp) (by simp) x
@[simp] theorem State.mpsOf_of_withEp0 (s : State) (x' : Ep0Rec) (x : XRef) :
    (s.withEp0 x').mpsOf x = s.mpsOf x := State.mpsOf_of (by simp) (by simp) (by simp) x
@[simp] theorem State.typeOf_of_withEp0 (s : State) (x' : Ep0Rec) (x : XRef) :
    (s.withEp0 x').typeOf x = s.typeOf x := State.typeOf_of (by simp) (by simp) (by simp) x
@[simp] theorem State.multiOf_of_withEp0 (s : State) (x' : Ep0Rec) (x : XRef) :
    (s.withEp0 x').multiOf x = s.multiOf x := State.multiOf_of (by simp) (by simp) (by simp) x
@[simp] theorem State.intervalOf_of_withEp0 (s : State) (x' : Ep0Rec) (x : XRef) :
    (s.withEp0 x').intervalOf x = s.intervalOf x := State.intervalOf_of (by simp) (by simp) (by simp) x
@[simp] theorem State.transmits_of_withEp0 (s : State) (x' : Ep0Rec) (x : XRef) :
    (s.withEp0 x').transmits x = s.transmits x := State.transmits_of (by simp) (by simp) (by simp) x
@[simp] theorem State.splits_of_withEp0 (s : State) (x' : Ep0Rec) (x : XRef) :
    (s.withEp0 x').splits x = s.splits x := State.splits_of (by simp) (by simp) (by simp) x
@[simp] theorem State.xIdle_of_withEp0 (s : State) (x' : Ep0Rec) (x : XRef) :
    (s.withEp0 x').xIdle x = s.xIdle x := State.xIdle_of (by simp) (by simp) (by simp) x
@[simp] theorem State.slotUsed_of_withEp0 (s : State) (x' : Ep0Rec) (k : Nat) :
    (s.withEp0 x').slotUsed k = s.slotUsed k := State.slotUsed_of (by simp) k
@[simp] theorem State.isSlave_of_withEp0 (s : State) (x' : Ep0Rec) :
    (s.withEp0 x').isSlave = s.isSlave := State.isSlave_of (by simp)
@[simp] theorem State.isDesc_of_withEp0 (s : State) (x' : Ep0Rec) :
    (s.withEp0 x').isDesc = s.isDesc := State.isDesc_of (by simp)
@[simp] theorem State.peripheral_of_withEp0 (s : State) (x' : Ep0Rec) :
    (s.withEp0 x').peripheral = s.peripheral := State.peripheral_of (by simp)
@[simp] theorem State.channels_of_withEp0 (s : State) (x' : Ep0Rec) :
    (s.withEp0 x').channels = s.channels := State.channels_of (by simp)
@[simp] theorem State.dataEndpoints_of_withEp0 (s : State) (x' : Ep0Rec) :
    (s.withEp0 x').dataEndpoints = s.dataEndpoints := State.dataEndpoints_of (by simp)
@[simp] theorem State.validX_of_withEp0 (s : State) (x' : Ep0Rec) (x : XRef) :
    (s.withEp0 x').validX x = s.validX x := State.validX_of (by simp) x
@[simp] theorem State.xferLimits_of_withEp0 (s : State) (x' : Ep0Rec) (x : XRef) :
    (s.withEp0 x').xferLimits x = s.xferLimits x := State.xferLimits_of (by simp) (by simp) x
@[simp] theorem State.isoOf_of_withEp0 (s : State) (x' : Ep0Rec) (x : XRef) :
    (s.withEp0 x').isoOf x = s.isoOf x := State.isoOf_of (by simp) x
@[simp] theorem State.scheduled_of_withEp0 (s : State) (x' : Ep0Rec) (x : XRef) :
    (s.withEp0 x').scheduled x = s.scheduled x := State.scheduled_of (by simp) x
@[simp] theorem State.descArray_of_withEp0 (s : State) (x' : Ep0Rec) (x : XRef) (w : Bool) :
    (s.withEp0 x').descArray x w = s.descArray x w := State.descArray_of (by simp) x w
@[simp] theorem State.level_of_withEp0 (s : State) (x' : Ep0Rec) :
    (s.withEp0 x').level = s.level := State.level_of (by simp)
@[simp] theorem State.hostSlave_of_withEp0 (s : State) (x' : Ep0Rec) :
    (s.withEp0 x').hostSlave = s.hostSlave := State.hostSlave_of (by simp) (by simp)
@[simp] theorem State.chunkLimit_of_withEp0 (s : State) (x' : Ep0Rec) (x : XRef) :
    (s.withEp0 x').chunkLimit x = s.chunkLimit x := State.chunkLimit_of (by simp) (by simp) (by simp) (by simp) (by simp) x
@[simp] theorem State.firstPid_of_withEp0 (s : State) (x' : Ep0Rec) (p : HcParams) :
    (s.withEp0 x').firstPid p = s.firstPid p := State.firstPid_of (by simp) p
@[simp] theorem State.serviceList_of_withEp0 (s : State) (x' : Ep0Rec) (b : Bool) :
    (s.withEp0 x').serviceList b = s.serviceList b := State.serviceList_of (by simp) (by simp) b
@[simp] theorem State.lastServed_of_withEp0 (s : State) (x' : Ep0Rec) (b : Bool) :
    (s.withEp0 x').lastServed b = s.lastServed b := State.lastServed_of (by simp) (by simp) b
@[simp] theorem State.freeSlots_of_withEp0 (s : State) (x' : Ep0Rec) :
    (s.withEp0 x').freeSlots = s.freeSlots := State.freeSlots_of (by simp)
@[simp] theorem State.txFifoOf_of_withEp0 (s : State) (x' : Ep0Rec) (n : Fin 16) :
    (s.withEp0 x').txFifoOf n = s.txFifoOf n := State.txFifoOf_of (by simp) n
@[simp] theorem State.epListed_of_withEp0 (s : State) (x' : Ep0Rec) (w : BitVec 16) :
    (s.withEp0 x').epListed w = s.epListed w := State.epListed_of (by simp) (by simp) (by simp) w
@[simp] theorem State.enableCheck_of_withEp0 (s : State) (x' : Ep0Rec) (d : Epd) :
    (s.withEp0 x').enableCheck d = s.enableCheck d := State.enableCheck_of (by simp) (by simp) (by simp) (by simp) d
@[simp] theorem State.submitCheck_of_withEp0 (s : State) (x' : Ep0Rec) (e : EpRef) :
    (s.withEp0 x').submitCheck e = s.submitCheck e := State.submitCheck_of (by simp) (by simp) (by simp) (by simp) e
@[simp] theorem State.pipeChannel_of_withEp0 (s : State) (x' : Ep0Rec) (p : HcParams) :
    (s.withEp0 x').pipeChannel p = s.pipeChannel p := State.pipeChannel_of (by simp) (by simp) p
@[simp] theorem State.freeChannel_of_withEp0 (s : State) (x' : Ep0Rec) :
    (s.withEp0 x').freeChannel = s.freeChannel := State.freeChannel_of (by simp) (by simp)
@[simp] theorem State.channelFor_of_withEp0 (s : State) (x' : Ep0Rec) (p : HcParams) :
    (s.withEp0 x').channelFor p = s.channelFor p := State.channelFor_of (by simp) (by simp) p

/-! After `withCore`. -/

@[simp] theorem State.raw_of_withCore (s : State) (x' : CoreRec) (r : Reg) :
    (s.withCore x').raw r = s.raw r := State.raw_of (by simp) r
@[simp] theorem State.hostMode_of_withCore (s : State) (x' : CoreRec) :
    (s.withCore x').hostMode = s.hostMode := State.hostMode_of (by simp)
@[simp] theorem State.unsettled_of_withCore (s : State) (x' : CoreRec) :
    (s.withCore x').unsettled = s.unsettled := State.unsettled_of (by simp)
@[simp] theorem State.slaveHw_of_withCore (s : State) (x' : CoreRec) :
    (s.withCore x').slaveHw = s.slaveHw := State.slaveHw_of (by simp)
@[simp] theorem State.accessible_of_withCore (s : State) (x' : CoreRec) (r : Reg) :
    (s.withCore x').accessible r = s.accessible r := State.accessible_of (by simp) (by simp) r
@[simp] theorem State.byte_of_withCore (s : State) (x' : CoreRec) (a : Word) :
    (s.withCore x').byte a = s.byte a := State.byte_of (by simp) a
@[simp] theorem State.word_of_withCore (s : State) (x' : CoreRec) (a : Word) :
    (s.withCore x').word a = s.word a := State.word_of (by simp) a
@[simp] theorem State.bytes_of_withCore (s : State) (x' : CoreRec) (a : Word) (n : Nat) :
    (s.withCore x').bytes a n = s.bytes a n := State.bytes_of (by simp) a n
@[simp] theorem State.ep_of_withCore (s : State) (x' : CoreRec) (e : EpRef) :
    (s.withCore x').ep e = s.ep e := State.ep_of (by simp) (by simp) e
@[simp] theorem State.chan_of_withCore (s : State) (x' : CoreRec) (c : Fin 16) :
    (s.withCore x').chan c = s.chan c := State.chan_of (by simp) c
@[simp] theorem State.xfer_of_withCore (s : State) (x' : CoreRec) (x : XRef) :
    (s.withCore x').xfer x = s.xfer x := State.xfer_of (by simp) (by simp) (by simp) x
@[simp] theorem State.mpsOf_of_withCore (s : State) (x' : CoreRec) (x : XRef) :
    (s.withCore x').mpsOf x = s.mpsOf x := State.mpsOf_of (by simp) (by simp) (by simp) x
@[simp] theorem State.typeOf_of_withCore (s : State) (x' : CoreRec) (x : XRef) :
    (s.withCore x').typeOf x = s.typeOf x := State.typeOf_of (by simp) (by simp) (by simp) x
@[simp] theorem State.multiOf_of_withCore (s : State) (x' : CoreRec) (x : XRef) :
    (s.withCore x').multiOf x = s.multiOf x := State.multiOf_of (by simp) (by simp) (by simp) x
@[simp] theorem State.intervalOf_of_withCore (s : State) (x' : CoreRec) (x : XRef) :
    (s.withCore x').intervalOf x = s.intervalOf x := State.intervalOf_of (by simp) (by simp) (by simp) x
@[simp] theorem State.transmits_of_withCore (s : State) (x' : CoreRec) (x : XRef) :
    (s.withCore x').transmits x = s.transmits x := State.transmits_of (by simp) (by simp) (by simp) x
@[simp] theorem State.splits_of_withCore (s : State) (x' : CoreRec) (x : XRef) :
    (s.withCore x').splits x = s.splits x := State.splits_of (by simp) (by simp) (by simp) x
@[simp] theorem State.xIdle_of_withCore (s : State) (x' : CoreRec) (x : XRef) :
    (s.withCore x').xIdle x = s.xIdle x := State.xIdle_of (by simp) (by simp) (by simp) x
@[simp] theorem State.reqAt_of_withCore (s : State) (x' : CoreRec) (i : ReqId) :
    (s.withCore x').reqAt i = s.reqAt i := State.reqAt_of (by simp) (by simp) i
@[simp] theorem State.reqOf_of_withCore (s : State) (x' : CoreRec) (x : XRef) :
    (s.withCore x').reqOf x = s.reqOf x := State.reqOf_of (by simp) (by simp) (by simp) (by simp) (by simp) x
@[simp] theorem State.chunkAddr_of_withCore (s : State) (x' : CoreRec) (x : XRef) :
    (s.withCore x').chunkAddr x = s.chunkAddr x := State.chunkAddr_of (by simp) (by simp) (by simp) (by simp) (by simp) x
@[simp] theorem State.slotUsed_of_withCore (s : State) (x' : CoreRec) (k : Nat) :
    (s.withCore x').slotUsed k = s.slotUsed k := State.slotUsed_of (by simp) k
@[simp] theorem State.isoOf_of_withCore (s : State) (x' : CoreRec) (x : XRef) :
    (s.withCore x').isoOf x = s.isoOf x := State.isoOf_of (by simp) x
@[simp] theorem State.scheduled_of_withCore (s : State) (x' : CoreRec) (x : XRef) :
    (s.withCore x').scheduled x = s.scheduled x := State.scheduled_of (by simp) x
@[simp] theorem State.descArray_of_withCore (s : State) (x' : CoreRec) (x : XRef) (w : Bool) :
    (s.withCore x').descArray x w = s.descArray x w := State.descArray_of (by simp) x w
@[simp] theorem State.level_of_withCore (s : State) (x' : CoreRec) :
    (s.withCore x').level = s.level := State.level_of (by simp)
@[simp] theorem State.firstPid_of_withCore (s : State) (x' : CoreRec) (p : HcParams) :
    (s.withCore x').firstPid p = s.firstPid p := State.firstPid_of (by simp) p
@[simp] theorem State.lastServed_of_withCore (s : State) (x' : CoreRec) (b : Bool) :
    (s.withCore x').lastServed b = s.lastServed b := State.lastServed_of (by simp) (by simp) b
@[simp] theorem State.freeSlots_of_withCore (s : State) (x' : CoreRec) :
    (s.withCore x').freeSlots = s.freeSlots := State.freeSlots_of (by simp)
@[simp] theorem State.txFifoOf_of_withCore (s : State) (x' : CoreRec) (n : Fin 16) :
    (s.withCore x').txFifoOf n = s.txFifoOf n := State.txFifoOf_of (by simp) n

/-! After `withIso`. -/

@[simp] theorem State.raw_of_withIso (s : State) (x' : List IsoRec) (r : Reg) :
    (s.withIso x').raw r = s.raw r := State.raw_of (by simp) r
@[simp] theorem State.hostMode_of_withIso (s : State) (x' : List IsoRec) :
    (s.withIso x').hostMode = s.hostMode := State.hostMode_of (by simp)
@[simp] theorem State.unsettled_of_withIso (s : State) (x' : List IsoRec) :
    (s.withIso x').unsettled = s.unsettled := State.unsettled_of (by simp)
@[simp] theorem State.slaveHw_of_withIso (s : State) (x' : List IsoRec) :
    (s.withIso x').slaveHw = s.slaveHw := State.slaveHw_of (by simp)
@[simp] theorem State.accessible_of_withIso (s : State) (x' : List IsoRec) (r : Reg) :
    (s.withIso x').accessible r = s.accessible r := State.accessible_of (by simp) (by simp) r
@[simp] theorem State.byte_of_withIso (s : State) (x' : List IsoRec) (a : Word) :
    (s.withIso x').byte a = s.byte a := State.byte_of (by simp) a
@[simp] theorem State.word_of_withIso (s : State) (x' : List IsoRec) (a : Word) :
    (s.withIso x').word a = s.word a := State.word_of (by simp) a
@[simp] theorem State.bytes_of_withIso (s : State) (x' : List IsoRec) (a : Word) (n : Nat) :
    (s.withIso x').bytes a n = s.bytes a n := State.bytes_of (by simp) a n
@[simp] theorem State.ep_of_withIso (s : State) (x' : List IsoRec) (e : EpRef) :
    (s.withIso x').ep e = s.ep e := State.ep_of (by simp) (by simp) e
@[simp] theorem State.chan_of_withIso (s : State) (x' : List IsoRec) (c : Fin 16) :
    (s.withIso x').chan c = s.chan c := State.chan_of (by simp) c
@[simp] theorem State.xfer_of_withIso (s : State) (x' : List IsoRec) (x : XRef) :
    (s.withIso x').xfer x = s.xfer x := State.xfer_of (by simp) (by simp) (by simp) x
@[simp] theorem State.mpsOf_of_withIso (s : State) (x' : List IsoRec) (x : XRef) :
    (s.withIso x').mpsOf x = s.mpsOf x := State.mpsOf_of (by simp) (by simp) (by simp) x
@[simp] theorem State.typeOf_of_withIso (s : State) (x' : List IsoRec) (x : XRef) :
    (s.withIso x').typeOf x = s.typeOf x := State.typeOf_of (by simp) (by simp) (by simp) x
@[simp] theorem State.multiOf_of_withIso (s : State) (x' : List IsoRec) (x : XRef) :
    (s.withIso x').multiOf x = s.multiOf x := State.multiOf_of (by simp) (by simp) (by simp) x
@[simp] theorem State.intervalOf_of_withIso (s : State) (x' : List IsoRec) (x : XRef) :
    (s.withIso x').intervalOf x = s.intervalOf x := State.intervalOf_of (by simp) (by simp) (by simp) x
@[simp] theorem State.transmits_of_withIso (s : State) (x' : List IsoRec) (x : XRef) :
    (s.withIso x').transmits x = s.transmits x := State.transmits_of (by simp) (by simp) (by simp) x
@[simp] theorem State.splits_of_withIso (s : State) (x' : List IsoRec) (x : XRef) :
    (s.withIso x').splits x = s.splits x := State.splits_of (by simp) (by simp) (by simp) x
@[simp] theorem State.xIdle_of_withIso (s : State) (x' : List IsoRec) (x : XRef) :
    (s.withIso x').xIdle x = s.xIdle x := State.xIdle_of (by simp) (by simp) (by simp) x
@[simp] theorem State.reqAt_of_withIso (s : State) (x' : List IsoRec) (i : ReqId) :
    (s.withIso x').reqAt i = s.reqAt i := State.reqAt_of (by simp) (by simp) i
@[simp] theorem State.reqOf_of_withIso (s : State) (x' : List IsoRec) (x : XRef) :
    (s.withIso x').reqOf x = s.reqOf x := State.reqOf_of (by simp) (by simp) (by simp) (by simp) (by simp) x
@[simp] theorem State.chunkAddr_of_withIso (s : State) (x' : List IsoRec) (x : XRef) :
    (s.withIso x').chunkAddr x = s.chunkAddr x := State.chunkAddr_of (by simp) (by simp) (by simp) (by simp) (by simp) x
@[simp] theorem State.slotUsed_of_withIso (s : State) (x' : List IsoRec) (k : Nat) :
    (s.withIso x').slotUsed k = s.slotUsed k := State.slotUsed_of (by simp) k
@[simp] theorem State.isSlave_of_withIso (s : State) (x' : List IsoRec) :
    (s.withIso x').isSlave = s.isSlave := State.isSlave_of (by simp)
@[simp] theorem State.isDesc_of_withIso (s : State) (x' : List IsoRec) :
    (s.withIso x').isDesc = s.isDesc := State.isDesc_of (by simp)
@[simp] theorem State.peripheral_of_withIso (s : State) (x' : List IsoRec) :
    (s.withIso x').peripheral = s.peripheral := State.peripheral_of (by simp)
@[simp] theorem State.channels_of_withIso (s : State) (x' : List IsoRec) :
    (s.withIso x').channels = s.channels := State.channels_of (by simp)
@[simp] theorem State.dataEndpoints_of_withIso (s : State) (x' : List IsoRec) :
    (s.withIso x').dataEndpoints = s.dataEndpoints := State.dataEndpoints_of (by simp)
@[simp] theorem State.validX_of_withIso (s : State) (x' : List IsoRec) (x : XRef) :
    (s.withIso x').validX x = s.validX x := State.validX_of (by simp) x
@[simp] theorem State.xferLimits_of_withIso (s : State) (x' : List IsoRec) (x : XRef) :
    (s.withIso x').xferLimits x = s.xferLimits x := State.xferLimits_of (by simp) (by simp) x
@[simp] theorem State.descArray_of_withIso (s : State) (x' : List IsoRec) (x : XRef) (w : Bool) :
    (s.withIso x').descArray x w = s.descArray x w := State.descArray_of (by simp) x w
@[simp] theorem State.level_of_withIso (s : State) (x' : List IsoRec) :
    (s.withIso x').level = s.level := State.level_of (by simp)
@[simp] theorem State.hostSlave_of_withIso (s : State) (x' : List IsoRec) :
    (s.withIso x').hostSlave = s.hostSlave := State.hostSlave_of (by simp) (by simp)
@[simp] theorem State.chunkLimit_of_withIso (s : State) (x' : List IsoRec) (x : XRef) :
    (s.withIso x').chunkLimit x = s.chunkLimit x := State.chunkLimit_of (by simp) (by simp) (by simp) (by simp) (by simp) x
@[simp] theorem State.nextChunk_of_withIso (s : State) (x' : List IsoRec) (x : XRef) :
    (s.withIso x').nextChunk x = s.nextChunk x := State.nextChunk_of (by simp) (by simp) (by simp) (by simp) (by simp) (by simp) (by simp) x
@[simp] theorem State.firstPid_of_withIso (s : State) (x' : List IsoRec) (p : HcParams) :
    (s.withIso x').firstPid p = s.firstPid p := State.firstPid_of (by simp) p
@[simp] theorem State.serviceList_of_withIso (s : State) (x' : List IsoRec) (b : Bool) :
    (s.withIso x').serviceList b = s.serviceList b := State.serviceList_of (by simp) (by simp) b
@[simp] theorem State.lastServed_of_withIso (s : State) (x' : List IsoRec) (b : Bool) :
    (s.withIso x').lastServed b = s.lastServed b := State.lastServed_of (by simp) (by simp) b
@[simp] theorem State.freeSlots_of_withIso (s : State) (x' : List IsoRec) :
    (s.withIso x').freeSlots = s.freeSlots := State.freeSlots_of (by simp)
@[simp] theorem State.txFifoOf_of_withIso (s : State) (x' : List IsoRec) (n : Fin 16) :
    (s.withIso x').txFifoOf n = s.txFifoOf n := State.txFifoOf_of (by simp) n
@[simp] theorem State.epListed_of_withIso (s : State) (x' : List IsoRec) (w : BitVec 16) :
    (s.withIso x').epListed w = s.epListed w := State.epListed_of (by simp) (by simp) (by simp) w
@[simp] theorem State.enableCheck_of_withIso (s : State) (x' : List IsoRec) (d : Epd) :
    (s.withIso x').enableCheck d = s.enableCheck d := State.enableCheck_of (by simp) (by simp) (by simp) (by simp) d
@[simp] theorem State.pipeChannel_of_withIso (s : State) (x' : List IsoRec) (p : HcParams) :
    (s.withIso x').pipeChannel p = s.pipeChannel p := State.pipeChannel_of (by simp) (by simp) p
@[simp] theorem State.freeChannel_of_withIso (s : State) (x' : List IsoRec) :
    (s.withIso x').freeChannel = s.freeChannel := State.freeChannel_of (by simp) (by simp)
@[simp] theorem State.channelFor_of_withIso (s : State) (x' : List IsoRec) (p : HcParams) :
    (s.withIso x').channelFor p = s.channelFor p := State.channelFor_of (by simp) (by simp) p

/-! After `withHtog`. -/

@[simp] theorem State.raw_of_withHtog (s : State) (x' : SMap Bool) (r : Reg) :
    (s.withHtog x').raw r = s.raw r := State.raw_of (by simp) r
@[simp] theorem State.hostMode_of_withHtog (s : State) (x' : SMap Bool) :
    (s.withHtog x').hostMode = s.hostMode := State.hostMode_of (by simp)
@[simp] theorem State.unsettled_of_withHtog (s : State) (x' : SMap Bool) :
    (s.withHtog x').unsettled = s.unsettled := State.unsettled_of (by simp)
@[simp] theorem State.slaveHw_of_withHtog (s : State) (x' : SMap Bool) :
    (s.withHtog x').slaveHw = s.slaveHw := State.slaveHw_of (by simp)
@[simp] theorem State.accessible_of_withHtog (s : State) (x' : SMap Bool) (r : Reg) :
    (s.withHtog x').accessible r = s.accessible r := State.accessible_of (by simp) (by simp) r
@[simp] theorem State.byte_of_withHtog (s : State) (x' : SMap Bool) (a : Word) :
    (s.withHtog x').byte a = s.byte a := State.byte_of (by simp) a
@[simp] theorem State.word_of_withHtog (s : State) (x' : SMap Bool) (a : Word) :
    (s.withHtog x').word a = s.word a := State.word_of (by simp) a
@[simp] theorem State.bytes_of_withHtog (s : State) (x' : SMap Bool) (a : Word) (n : Nat) :
    (s.withHtog x').bytes a n = s.bytes a n := State.bytes_of (by simp) a n
@[simp] theorem State.ep_of_withHtog (s : State) (x' : SMap Bool) (e : EpRef) :
    (s.withHtog x').ep e = s.ep e := State.ep_of (by simp) (by simp) e
@[simp] theorem State.chan_of_withHtog (s : State) (x' : SMap Bool) (c : Fin 16) :
    (s.withHtog x').chan c = s.chan c := State.chan_of (by simp) c
@[simp] theorem State.xfer_of_withHtog (s : State) (x' : SMap Bool) (x : XRef) :
    (s.withHtog x').xfer x = s.xfer x := State.xfer_of (by simp) (by simp) (by simp) x
@[simp] theorem State.mpsOf_of_withHtog (s : State) (x' : SMap Bool) (x : XRef) :
    (s.withHtog x').mpsOf x = s.mpsOf x := State.mpsOf_of (by simp) (by simp) (by simp) x
@[simp] theorem State.typeOf_of_withHtog (s : State) (x' : SMap Bool) (x : XRef) :
    (s.withHtog x').typeOf x = s.typeOf x := State.typeOf_of (by simp) (by simp) (by simp) x
@[simp] theorem State.multiOf_of_withHtog (s : State) (x' : SMap Bool) (x : XRef) :
    (s.withHtog x').multiOf x = s.multiOf x := State.multiOf_of (by simp) (by simp) (by simp) x
@[simp] theorem State.intervalOf_of_withHtog (s : State) (x' : SMap Bool) (x : XRef) :
    (s.withHtog x').intervalOf x = s.intervalOf x := State.intervalOf_of (by simp) (by simp) (by simp) x
@[simp] theorem State.transmits_of_withHtog (s : State) (x' : SMap Bool) (x : XRef) :
    (s.withHtog x').transmits x = s.transmits x := State.transmits_of (by simp) (by simp) (by simp) x
@[simp] theorem State.splits_of_withHtog (s : State) (x' : SMap Bool) (x : XRef) :
    (s.withHtog x').splits x = s.splits x := State.splits_of (by simp) (by simp) (by simp) x
@[simp] theorem State.xIdle_of_withHtog (s : State) (x' : SMap Bool) (x : XRef) :
    (s.withHtog x').xIdle x = s.xIdle x := State.xIdle_of (by simp) (by simp) (by simp) x
@[simp] theorem State.reqAt_of_withHtog (s : State) (x' : SMap Bool) (i : ReqId) :
    (s.withHtog x').reqAt i = s.reqAt i := State.reqAt_of (by simp) (by simp) i
@[simp] theorem State.reqOf_of_withHtog (s : State) (x' : SMap Bool) (x : XRef) :
    (s.withHtog x').reqOf x = s.reqOf x := State.reqOf_of (by simp) (by simp) (by simp) (by simp) (by simp) x
@[simp] theorem State.chunkAddr_of_withHtog (s : State) (x' : SMap Bool) (x : XRef) :
    (s.withHtog x').chunkAddr x = s.chunkAddr x := State.chunkAddr_of (by simp) (by simp) (by simp) (by simp) (by simp) x
@[simp] theorem State.slotUsed_of_withHtog (s : State) (x' : SMap Bool) (k : Nat) :
    (s.withHtog x').slotUsed k = s.slotUsed k := State.slotUsed_of (by simp) k
@[simp] theorem State.isSlave_of_withHtog (s : State) (x' : SMap Bool) :
    (s.withHtog x').isSlave = s.isSlave := State.isSlave_of (by simp)
@[simp] theorem State.isDesc_of_withHtog (s : State) (x' : SMap Bool) :
    (s.withHtog x').isDesc = s.isDesc := State.isDesc_of (by simp)
@[simp] theorem State.peripheral_of_withHtog (s : State) (x' : SMap Bool) :
    (s.withHtog x').peripheral = s.peripheral := State.peripheral_of (by simp)
@[simp] theorem State.channels_of_withHtog (s : State) (x' : SMap Bool) :
    (s.withHtog x').channels = s.channels := State.channels_of (by simp)
@[simp] theorem State.dataEndpoints_of_withHtog (s : State) (x' : SMap Bool) :
    (s.withHtog x').dataEndpoints = s.dataEndpoints := State.dataEndpoints_of (by simp)
@[simp] theorem State.validX_of_withHtog (s : State) (x' : SMap Bool) (x : XRef) :
    (s.withHtog x').validX x = s.validX x := State.validX_of (by simp) x
@[simp] theorem State.xferLimits_of_withHtog (s : State) (x' : SMap Bool) (x : XRef) :
    (s.withHtog x').xferLimits x = s.xferLimits x := State.xferLimits_of (by simp) (by simp) x
@[simp] theorem State.isoOf_of_withHtog (s : State) (x' : SMap Bool) (x : XRef) :
    (s.withHtog x').isoOf x = s.isoOf x := State.isoOf_of (by simp) x
@[simp] theorem State.scheduled_of_withHtog (s : State) (x' : SMap Bool) (x : XRef) :
    (s.withHtog x').scheduled x = s.scheduled x := State.scheduled_of (by simp) x
@[simp] theorem State.descArray_of_withHtog (s : State) (x' : SMap Bool) (x : XRef) (w : Bool) :
    (s.withHtog x').descArray x w = s.descArray x w := State.descArray_of (by simp) x w
@[simp] theorem State.level_of_withHtog (s : State) (x' : SMap Bool) :
    (s.withHtog x').level = s.level := State.level_of (by simp)
@[simp] theorem State.hostSlave_of_withHtog (s : State) (x' : SMap Bool) :
    (s.withHtog x').hostSlave = s.hostSlave := State.hostSlave_of (by simp) (by simp)
@[simp] theorem State.chunkLimit_of_withHtog (s : State) (x' : SMap Bool) (x : XRef) :
    (s.withHtog x').chunkLimit x = s.chunkLimit x := State.chunkLimit_of (by simp) (by simp) (by simp) (by simp) (by simp) x
@[simp] theorem State.nextChunk_of_withHtog (s : State) (x' : SMap Bool) (x : XRef) :
    (s.withHtog x').nextChunk x = s.nextChunk x := State.nextChunk_of (by simp) (by simp) (by simp) (by simp) (by simp) (by simp) (by simp) x
@[simp] theorem State.serviceList_of_withHtog (s : State) (x' : SMap Bool) (b : Bool) :
    (s.withHtog x').serviceList b = s.serviceList b := State.serviceList_of (by simp) (by simp) b
@[simp] theorem State.lastServed_of_withHtog (s : State) (x' : SMap Bool) (b : Bool) :
    (s.withHtog x').lastServed b = s.lastServed b := State.lastServed_of (by simp) (by simp) b
@[simp] theorem State.freeSlots_of_withHtog (s : State) (x' : SMap Bool) :
    (s.withHtog x').freeSlots = s.freeSlots := State.freeSlots_of (by simp)
@[simp] theorem State.txFifoOf_of_withHtog (s : State) (x' : SMap Bool) (n : Fin 16) :
    (s.withHtog x').txFifoOf n = s.txFifoOf n := State.txFifoOf_of (by simp) n
@[simp] theorem State.epListed_of_withHtog (s : State) (x' : SMap Bool) (w : BitVec 16) :
    (s.withHtog x').epListed w = s.epListed w := State.epListed_of (by simp) (by simp) (by simp) w
@[simp] theorem State.enableCheck_of_withHtog (s : State) (x' : SMap Bool) (d : Epd) :
    (s.withHtog x').enableCheck d = s.enableCheck d := State.enableCheck_of (by simp) (by simp) (by simp) (by simp) d
@[simp] theorem State.submitCheck_of_withHtog (s : State) (x' : SMap Bool) (e : EpRef) :
    (s.withHtog x').submitCheck e = s.submitCheck e := State.submitCheck_of (by simp) (by simp) (by simp) (by simp) e
@[simp] theorem State.pipeChannel_of_withHtog (s : State) (x' : SMap Bool) (p : HcParams) :
    (s.withHtog x').pipeChannel p = s.pipeChannel p := State.pipeChannel_of (by simp) (by simp) p
@[simp] theorem State.freeChannel_of_withHtog (s : State) (x' : SMap Bool) :
    (s.withHtog x').freeChannel = s.freeChannel := State.freeChannel_of (by simp) (by simp)
@[simp] theorem State.channelFor_of_withHtog (s : State) (x' : SMap Bool) (p : HcParams) :
    (s.withHtog x').channelFor p = s.channelFor p := State.channelFor_of (by simp) (by simp) p

/-! After `withFifo`. -/

@[simp] theorem State.raw_of_withFifo (s : State) (x' : Fifo) (r : Reg) :
    (s.withFifo x').raw r = s.raw r := State.raw_of (by simp) r
@[simp] theorem State.hostMode_of_withFifo (s : State) (x' : Fifo) :
    (s.withFifo x').hostMode = s.hostMode := State.hostMode_of (by simp)
@[simp] theorem State.unsettled_of_withFifo (s : State) (x' : Fifo) :
    (s.withFifo x').unsettled = s.unsettled := State.unsettled_of (by simp)
@[simp] theorem State.slaveHw_of_withFifo (s : State) (x' : Fifo) :
    (s.withFifo x').slaveHw = s.slaveHw := State.slaveHw_of (by simp)
@[simp] theorem State.accessible_of_withFifo (s : State) (x' : Fifo) (r : Reg) :
    (s.withFifo x').accessible r = s.accessible r := State.accessible_of (by simp) (by simp) r
@[simp] theorem State.byte_of_withFifo (s : State) (x' : Fifo) (a : Word) :
    (s.withFifo x').byte a = s.byte a := State.byte_of (by simp) a
@[simp] theorem State.word_of_withFifo (s : State) (x' : Fifo) (a : Word) :
    (s.withFifo x').word a = s.word a := State.word_of (by simp) a
@[simp] theorem State.bytes_of_withFifo (s : State) (x' : Fifo) (a : Word) (n : Nat) :
    (s.withFifo x').bytes a n = s.bytes a n := State.bytes_of (by simp) a n
@[simp] theorem State.ep_of_withFifo (s : State) (x' : Fifo) (e : EpRef) :
    (s.withFifo x').ep e = s.ep e := State.ep_of (by simp) (by simp) e
@[simp] theorem State.chan_of_withFifo (s : State) (x' : Fifo) (c : Fin 16) :
    (s.withFifo x').chan c = s.chan c := State.chan_of (by simp) c
@[simp] theorem State.xfer_of_withFifo (s : State) (x' : Fifo) (x : XRef) :
    (s.withFifo x').xfer x = s.xfer x := State.xfer_of (by simp) (by simp) (by simp) x
@[simp] theorem State.mpsOf_of_withFifo (s : State) (x' : Fifo) (x : XRef) :
    (s.withFifo x').mpsOf x = s.mpsOf x := State.mpsOf_of (by simp) (by simp) (by simp) x
@[simp] theorem State.typeOf_of_withFifo (s : State) (x' : Fifo) (x : XRef) :
    (s.withFifo x').typeOf x = s.typeOf x := State.typeOf_of (by simp) (by simp) (by simp) x
@[simp] theorem State.multiOf_of_withFifo (s : State) (x' : Fifo) (x : XRef) :
    (s.withFifo x').multiOf x = s.multiOf x := State.multiOf_of (by simp) (by simp) (by simp) x
@[simp] theorem State.intervalOf_of_withFifo (s : State) (x' : Fifo) (x : XRef) :
    (s.withFifo x').intervalOf x = s.intervalOf x := State.intervalOf_of (by simp) (by simp) (by simp) x
@[simp] theorem State.transmits_of_withFifo (s : State) (x' : Fifo) (x : XRef) :
    (s.withFifo x').transmits x = s.transmits x := State.transmits_of (by simp) (by simp) (by simp) x
@[simp] theorem State.splits_of_withFifo (s : State) (x' : Fifo) (x : XRef) :
    (s.withFifo x').splits x = s.splits x := State.splits_of (by simp) (by simp) (by simp) x
@[simp] theorem State.xIdle_of_withFifo (s : State) (x' : Fifo) (x : XRef) :
    (s.withFifo x').xIdle x = s.xIdle x := State.xIdle_of (by simp) (by simp) (by simp) x
@[simp] theorem State.reqAt_of_withFifo (s : State) (x' : Fifo) (i : ReqId) :
    (s.withFifo x').reqAt i = s.reqAt i := State.reqAt_of (by simp) (by simp) i
@[simp] theorem State.reqOf_of_withFifo (s : State) (x' : Fifo) (x : XRef) :
    (s.withFifo x').reqOf x = s.reqOf x := State.reqOf_of (by simp) (by simp) (by simp) (by simp) (by simp) x
@[simp] theorem State.chunkAddr_of_withFifo (s : State) (x' : Fifo) (x : XRef) :
    (s.withFifo x').chunkAddr x = s.chunkAddr x := State.chunkAddr_of (by simp) (by simp) (by simp) (by simp) (by simp) x
@[simp] theorem State.slotUsed_of_withFifo (s : State) (x' : Fifo) (k : Nat) :
    (s.withFifo x').slotUsed k = s.slotUsed k := State.slotUsed_of (by simp) k
@[simp] theorem State.isSlave_of_withFifo (s : State) (x' : Fifo) :
    (s.withFifo x').isSlave = s.isSlave := State.isSlave_of (by simp)
@[simp] theorem State.isDesc_of_withFifo (s : State) (x' : Fifo) :
    (s.withFifo x').isDesc = s.isDesc := State.isDesc_of (by simp)
@[simp] theorem State.peripheral_of_withFifo (s : State) (x' : Fifo) :
    (s.withFifo x').peripheral = s.peripheral := State.peripheral_of (by simp)
@[simp] theorem State.channels_of_withFifo (s : State) (x' : Fifo) :
    (s.withFifo x').channels = s.channels := State.channels_of (by simp)
@[simp] theorem State.dataEndpoints_of_withFifo (s : State) (x' : Fifo) :
    (s.withFifo x').dataEndpoints = s.dataEndpoints := State.dataEndpoints_of (by simp)
@[simp] theorem State.validX_of_withFifo (s : State) (x' : Fifo) (x : XRef) :
    (s.withFifo x').validX x = s.validX x := State.validX_of (by simp) x
@[simp] theorem State.xferLimits_of_withFifo (s : State) (x' : Fifo) (x : XRef) :
    (s.withFifo x').xferLimits x = s.xferLimits x := State.xferLimits_of (by simp) (by simp) x
@[simp] theorem State.isoOf_of_withFifo (s : State) (x' : Fifo) (x : XRef) :
    (s.withFifo x').isoOf x = s.isoOf x := State.isoOf_of (by simp) x
@[simp] theorem State.scheduled_of_withFifo (s : State) (x' : Fifo) (x : XRef) :
    (s.withFifo x').scheduled x = s.scheduled x := State.scheduled_of (by simp) x
@[simp] theorem State.descArray_of_withFifo (s : State) (x' : Fifo) (x : XRef) (w : Bool) :
    (s.withFifo x').descArray x w = s.descArray x w := State.descArray_of (by simp) x w
@[simp] theorem State.level_of_withFifo (s : State) (x' : Fifo) :
    (s.withFifo x').level = s.level := State.level_of (by simp)
@[simp] theorem State.hostSlave_of_withFifo (s : State) (x' : Fifo) :
    (s.withFifo x').hostSlave = s.hostSlave := State.hostSlave_of (by simp) (by simp)
@[simp] theorem State.chunkLimit_of_withFifo (s : State) (x' : Fifo) (x : XRef) :
    (s.withFifo x').chunkLimit x = s.chunkLimit x := State.chunkLimit_of (by simp) (by simp) (by simp) (by simp) (by simp) x
@[simp] theorem State.nextChunk_of_withFifo (s : State) (x' : Fifo) (x : XRef) :
    (s.withFifo x').nextChunk x = s.nextChunk x := State.nextChunk_of (by simp) (by simp) (by simp) (by simp) (by simp) (by simp) (by simp) x
@[simp] theorem State.firstPid_of_withFifo (s : State) (x' : Fifo) (p : HcParams) :
    (s.withFifo x').firstPid p = s.firstPid p := State.firstPid_of (by simp) p
@[simp] theorem State.serviceList_of_withFifo (s : State) (x' : Fifo) (b : Bool) :
    (s.withFifo x').serviceList b = s.serviceList b := State.serviceList_of (by simp) (by simp) b
@[simp] theorem State.lastServed_of_withFifo (s : State) (x' : Fifo) (b : Bool) :
    (s.withFifo x').lastServed b = s.lastServed b := State.lastServed_of (by simp) (by simp) b
@[simp] theorem State.freeSlots_of_withFifo (s : State) (x' : Fifo) :
    (s.withFifo x').freeSlots = s.freeSlots := State.freeSlots_of (by simp)
@[simp] theorem State.txFifoOf_of_withFifo (s : State) (x' : Fifo) (n : Fin 16) :
    (s.withFifo x').txFifoOf n = s.txFifoOf n := State.txFifoOf_of (by simp) n
@[simp] theorem State.epListed_of_withFifo (s : State) (x' : Fifo) (w : BitVec 16) :
    (s.withFifo x').epListed w = s.epListed w := State.epListed_of (by simp) (by simp) (by simp) w
@[simp] theorem State.enableCheck_of_withFifo (s : State) (x' : Fifo) (d : Epd) :
    (s.withFifo x').enableCheck d = s.enableCheck d := State.enableCheck_of (by simp) (by simp) (by simp) (by simp) d
@[simp] theorem State.submitCheck_of_withFifo (s : State) (x' : Fifo) (e : EpRef) :
    (s.withFifo x').submitCheck e = s.submitCheck e := State.submitCheck_of (by simp) (by simp) (by simp) (by simp) e
@[simp] theorem State.pipeChannel_of_withFifo (s : State) (x' : Fifo) (p : HcParams) :
    (s.withFifo x').pipeChannel p = s.pipeChannel p := State.pipeChannel_of (by simp) (by simp) p
@[simp] theorem State.freeChannel_of_withFifo (s : State) (x' : Fifo) :
    (s.withFifo x').freeChannel = s.freeChannel := State.freeChannel_of (by simp) (by simp)
@[simp] theorem State.channelFor_of_withFifo (s : State) (x' : Fifo) (p : HcParams) :
    (s.withFifo x').channelFor p = s.channelFor p := State.channelFor_of (by simp) (by simp) p

/-! After `withCh`. -/

@[simp] theorem State.raw_of_withCh (s : State) (x' : Vector ChRec 16) (r : Reg) :
    (s.withCh x').raw r = s.raw r := State.raw_of (by simp) r
@[simp] theorem State.hostMode_of_withCh (s : State) (x' : Vector ChRec 16) :
    (s.withCh x').hostMode = s.hostMode := State.hostMode_of (by simp)
@[simp] theorem State.unsettled_of_withCh (s : State) (x' : Vector ChRec 16) :
    (s.withCh x').unsettled = s.unsettled := State.unsettled_of (by simp)
@[simp] theorem State.slaveHw_of_withCh (s : State) (x' : Vector ChRec 16) :
    (s.withCh x').slaveHw = s.slaveHw := State.slaveHw_of (by simp)
@[simp] theorem State.accessible_of_withCh (s : State) (x' : Vector ChRec 16) (r : Reg) :
    (s.withCh x').accessible r = s.accessible r := State.accessible_of (by simp) (by simp) r
@[simp] theorem State.byte_of_withCh (s : State) (x' : Vector ChRec 16) (a : Word) :
    (s.withCh x').byte a = s.byte a := State.byte_of (by simp) a
@[simp] theorem State.word_of_withCh (s : State) (x' : Vector ChRec 16) (a : Word) :
    (s.withCh x').word a = s.word a := State.word_of (by simp) a
@[simp] theorem State.bytes_of_withCh (s : State) (x' : Vector ChRec 16) (a : Word) (n : Nat) :
    (s.withCh x').bytes a n = s.bytes a n := State.bytes_of (by simp) a n
@[simp] theorem State.ep_of_withCh (s : State) (x' : Vector ChRec 16) (e : EpRef) :
    (s.withCh x').ep e = s.ep e := State.ep_of (by simp) (by simp) e
@[simp] theorem State.reqAt_of_withCh (s : State) (x' : Vector ChRec 16) (i : ReqId) :
    (s.withCh x').reqAt i = s.reqAt i := State.reqAt_of (by simp) (by simp) i
@[simp] theorem State.slotUsed_of_withCh (s : State) (x' : Vector ChRec 16) (k : Nat) :
    (s.withCh x').slotUsed k = s.slotUsed k := State.slotUsed_of (by simp) k
@[simp] theorem State.isSlave_of_withCh (s : State) (x' : Vector ChRec 16) :
    (s.withCh x').isSlave = s.isSlave := State.isSlave_of (by simp)
@[simp] theorem State.isDesc_of_withCh (s : State) (x' : Vector ChRec 16) :
    (s.withCh x').isDesc = s.isDesc := State.isDesc_of (by simp)
@[simp] theorem State.peripheral_of_withCh (s : State) (x' : Vector ChRec 16) :
    (s.withCh x').peripheral = s.peripheral := State.peripheral_of (by simp)
@[simp] theorem State.channels_of_withCh (s : State) (x' : Vector ChRec 16) :
    (s.withCh x').channels = s.channels := State.channels_of (by simp)
@[simp] theorem State.dataEndpoints_of_withCh (s : State) (x' : Vector ChRec 16) :
    (s.withCh x').dataEndpoints = s.dataEndpoints := State.dataEndpoints_of (by simp)
@[simp] theorem State.validX_of_withCh (s : State) (x' : Vector ChRec 16) (x : XRef) :
    (s.withCh x').validX x = s.validX x := State.validX_of (by simp) x
@[simp] theorem State.xferLimits_of_withCh (s : State) (x' : Vector ChRec 16) (x : XRef) :
    (s.withCh x').xferLimits x = s.xferLimits x := State.xferLimits_of (by simp) (by simp) x
@[simp] theorem State.isoOf_of_withCh (s : State) (x' : Vector ChRec 16) (x : XRef) :
    (s.withCh x').isoOf x = s.isoOf x := State.isoOf_of (by simp) x
@[simp] theorem State.scheduled_of_withCh (s : State) (x' : Vector ChRec 16) (x : XRef) :
    (s.withCh x').scheduled x = s.scheduled x := State.scheduled_of (by simp) x
@[simp] theorem State.descArray_of_withCh (s : State) (x' : Vector ChRec 16) (x : XRef) (w : Bool) :
    (s.withCh x').descArray x w = s.descArray x w := State.descArray_of (by simp) x w
@[simp] theorem State.level_of_withCh (s : State) (x' : Vector ChRec 16) :
    (s.withCh x').level = s.level := State.level_of (by simp)
@[simp] theorem State.hostSlave_of_withCh (s : State) (x' : Vector ChRec 16) :
    (s.withCh x').hostSlave = s.hostSlave := State.hostSlave_of (by simp) (by simp)
@[simp] theorem State.firstPid_of_withCh (s : State) (x' : Vector ChRec 16) (p : HcParams) :
    (s.withCh x').firstPid p = s.firstPid p := State.firstPid_of (by simp) p
@[simp] theorem State.lastServed_of_withCh (s : State) (x' : Vector ChRec 16) (b : Bool) :
    (s.withCh x').lastServed b = s.lastServed b := State.lastServed_of (by simp) (by simp) b
@[simp] theorem State.freeSlots_of_withCh (s : State) (x' : Vector ChRec 16) :
    (s.withCh x').freeSlots = s.freeSlots := State.freeSlots_of (by simp)
@[simp] theorem State.txFifoOf_of_withCh (s : State) (x' : Vector ChRec 16) (n : Fin 16) :
    (s.withCh x').txFifoOf n = s.txFifoOf n := State.txFifoOf_of (by simp) n
@[simp] theorem State.epListed_of_withCh (s : State) (x' : Vector ChRec 16) (w : BitVec 16) :
    (s.withCh x').epListed w = s.epListed w := State.epListed_of (by simp) (by simp) (by simp) w
@[simp] theorem State.enableCheck_of_withCh (s : State) (x' : Vector ChRec 16) (d : Epd) :
    (s.withCh x').enableCheck d = s.enableCheck d := State.enableCheck_of (by simp) (by simp) (by simp) (by simp) d
@[simp] theorem State.submitCheck_of_withCh (s : State) (x' : Vector ChRec 16) (e : EpRef) :
    (s.withCh x').submitCheck e = s.submitCheck e := State.submitCheck_of (by simp) (by simp) (by simp) (by simp) e

/-! After `withPlat`. -/

@[simp] theorem State.raw_of_withPlat (s : State) (x' : Platform) (r : Reg) :
    (s.withPlat x').raw r = s.raw r := State.raw_of (by simp) r
@[simp] theorem State.hostMode_of_withPlat (s : State) (x' : Platform) :
    (s.withPlat x').hostMode = s.hostMode := State.hostMode_of (by simp)
@[simp] theorem State.unsettled_of_withPlat (s : State) (x' : Platform) :
    (s.withPlat x').unsettled = s.unsettled := State.unsettled_of (by simp)
@[simp] theorem State.slaveHw_of_withPlat (s : State) (x' : Platform) :
    (s.withPlat x').slaveHw = s.slaveHw := State.slaveHw_of (by simp)
@[simp] theorem State.accessible_of_withPlat (s : State) (x' : Platform) (r : Reg) :
    (s.withPlat x').accessible r = s.accessible r := State.accessible_of (by simp) (by simp) r
@[simp] theorem State.byte_of_withPlat (s : State) (x' : Platform) (a : Word) :
    (s.withPlat x').byte a = s.byte a := State.byte_of (by simp) a
@[simp] theorem State.word_of_withPlat (s : State) (x' : Platform) (a : Word) :
    (s.withPlat x').word a = s.word a := State.word_of (by simp) a
@[simp] theorem State.bytes_of_withPlat (s : State) (x' : Platform) (a : Word) (n : Nat) :
    (s.withPlat x').bytes a n = s.bytes a n := State.bytes_of (by simp) a n
@[simp] theorem State.ep_of_withPlat (s : State) (x' : Platform) (e : EpRef) :
    (s.withPlat x').ep e = s.ep e := State.ep_of (by simp) (by simp) e
@[simp] theorem State.chan_of_withPlat (s : State) (x' : Platform) (c : Fin 16) :
    (s.withPlat x').chan c = s.chan c := State.chan_of (by simp) c
@[simp] theorem State.xfer_of_withPlat (s : State) (x' : Platform) (x : XRef) :
    (s.withPlat x').xfer x = s.xfer x := State.xfer_of (by simp) (by simp) (by simp) x
@[simp] theorem State.mpsOf_of_withPlat (s : State) (x' : Platform) (x : XRef) :
    (s.withPlat x').mpsOf x = s.mpsOf x := State.mpsOf_of (by simp) (by simp) (by simp) x
@[simp] theorem State.typeOf_of_withPlat (s : State) (x' : Platform) (x : XRef) :
    (s.withPlat x').typeOf x = s.typeOf x := State.typeOf_of (by simp) (by simp) (by simp) x
@[simp] theorem State.multiOf_of_withPlat (s : State) (x' : Platform) (x : XRef) :
    (s.withPlat x').multiOf x = s.multiOf x := State.multiOf_of (by simp) (by simp) (by simp) x
@[simp] theorem State.intervalOf_of_withPlat (s : State) (x' : Platform) (x : XRef) :
    (s.withPlat x').intervalOf x = s.intervalOf x := State.intervalOf_of (by simp) (by simp) (by simp) x
@[simp] theorem State.transmits_of_withPlat (s : State) (x' : Platform) (x : XRef) :
    (s.withPlat x').transmits x = s.transmits x := State.transmits_of (by simp) (by simp) (by simp) x
@[simp] theorem State.splits_of_withPlat (s : State) (x' : Platform) (x : XRef) :
    (s.withPlat x').splits x = s.splits x := State.splits_of (by simp) (by simp) (by simp) x
@[simp] theorem State.xIdle_of_withPlat (s : State) (x' : Platform) (x : XRef) :
    (s.withPlat x').xIdle x = s.xIdle x := State.xIdle_of (by simp) (by simp) (by simp) x
@[simp] theorem State.reqAt_of_withPlat (s : State) (x' : Platform) (i : ReqId) :
    (s.withPlat x').reqAt i = s.reqAt i := State.reqAt_of (by simp) (by simp) i
@[simp] theorem State.reqOf_of_withPlat (s : State) (x' : Platform) (x : XRef) :
    (s.withPlat x').reqOf x = s.reqOf x := State.reqOf_of (by simp) (by simp) (by simp) (by simp) (by simp) x
@[simp] theorem State.chunkAddr_of_withPlat (s : State) (x' : Platform) (x : XRef) :
    (s.withPlat x').chunkAddr x = s.chunkAddr x := State.chunkAddr_of (by simp) (by simp) (by simp) (by simp) (by simp) x
@[simp] theorem State.slotUsed_of_withPlat (s : State) (x' : Platform) (k : Nat) :
    (s.withPlat x').slotUsed k = s.slotUsed k := State.slotUsed_of (by simp) k
@[simp] theorem State.isSlave_of_withPlat (s : State) (x' : Platform) :
    (s.withPlat x').isSlave = s.isSlave := State.isSlave_of (by simp)
@[simp] theorem State.isDesc_of_withPlat (s : State) (x' : Platform) :
    (s.withPlat x').isDesc = s.isDesc := State.isDesc_of (by simp)
@[simp] theorem State.peripheral_of_withPlat (s : State) (x' : Platform) :
    (s.withPlat x').peripheral = s.peripheral := State.peripheral_of (by simp)
@[simp] theorem State.channels_of_withPlat (s : State) (x' : Platform) :
    (s.withPlat x').channels = s.channels := State.channels_of (by simp)
@[simp] theorem State.dataEndpoints_of_withPlat (s : State) (x' : Platform) :
    (s.withPlat x').dataEndpoints = s.dataEndpoints := State.dataEndpoints_of (by simp)
@[simp] theorem State.validX_of_withPlat (s : State) (x' : Platform) (x : XRef) :
    (s.withPlat x').validX x = s.validX x := State.validX_of (by simp) x
@[simp] theorem State.xferLimits_of_withPlat (s : State) (x' : Platform) (x : XRef) :
    (s.withPlat x').xferLimits x = s.xferLimits x := State.xferLimits_of (by simp) (by simp) x
@[simp] theorem State.isoOf_of_withPlat (s : State) (x' : Platform) (x : XRef) :
    (s.withPlat x').isoOf x = s.isoOf x := State.isoOf_of (by simp) x
@[simp] theorem State.scheduled_of_withPlat (s : State) (x' : Platform) (x : XRef) :
    (s.withPlat x').scheduled x = s.scheduled x := State.scheduled_of (by simp) x
@[simp] theorem State.level_of_withPlat (s : State) (x' : Platform) :
    (s.withPlat x').level = s.level := State.level_of (by simp)
@[simp] theorem State.hostSlave_of_withPlat (s : State) (x' : Platform) :
    (s.withPlat x').hostSlave = s.hostSlave := State.hostSlave_of (by simp) (by simp)
@[simp] theorem State.chunkLimit_of_withPlat (s : State) (x' : Platform) (x : XRef) :
    (s.withPlat x').chunkLimit x = s.chunkLimit x := State.chunkLimit_of (by simp) (by simp) (by simp) (by simp) (by simp) x
@[simp] theorem State.nextChunk_of_withPlat (s : State) (x' : Platform) (x : XRef) :
    (s.withPlat x').nextChunk x = s.nextChunk x := State.nextChunk_of (by simp) (by simp) (by simp) (by simp) (by simp) (by simp) (by simp) x
@[simp] theorem State.firstPid_of_withPlat (s : State) (x' : Platform) (p : HcParams) :
    (s.withPlat x').firstPid p = s.firstPid p := State.firstPid_of (by simp) p
@[simp] theorem State.serviceList_of_withPlat (s : State) (x' : Platform) (b : Bool) :
    (s.withPlat x').serviceList b = s.serviceList b := State.serviceList_of (by simp) (by simp) b
@[simp] theorem State.lastServed_of_withPlat (s : State) (x' : Platform) (b : Bool) :
    (s.withPlat x').lastServed b = s.lastServed b := State.lastServed_of (by simp) (by simp) b
@[simp] theorem State.freeSlots_of_withPlat (s : State) (x' : Platform) :
    (s.withPlat x').freeSlots = s.freeSlots := State.freeSlots_of (by simp)
@[simp] theorem State.txFifoOf_of_withPlat (s : State) (x' : Platform) (n : Fin 16) :
    (s.withPlat x').txFifoOf n = s.txFifoOf n := State.txFifoOf_of (by simp) n
@[simp] theorem State.epListed_of_withPlat (s : State) (x' : Platform) (w : BitVec 16) :
    (s.withPlat x').epListed w = s.epListed w := State.epListed_of (by simp) (by simp) (by simp) w
@[simp] theorem State.submitCheck_of_withPlat (s : State) (x' : Platform) (e : EpRef) :
    (s.withPlat x').submitCheck e = s.submitCheck e := State.submitCheck_of (by simp) (by simp) (by simp) (by simp) e
@[simp] theorem State.pipeChannel_of_withPlat (s : State) (x' : Platform) (p : HcParams) :
    (s.withPlat x').pipeChannel p = s.pipeChannel p := State.pipeChannel_of (by simp) (by simp) p
@[simp] theorem State.freeChannel_of_withPlat (s : State) (x' : Platform) :
    (s.withPlat x').freeChannel = s.freeChannel := State.freeChannel_of (by simp) (by simp)
@[simp] theorem State.channelFor_of_withPlat (s : State) (x' : Platform) (p : HcParams) :
    (s.withPlat x').channelFor p = s.channelFor p := State.channelFor_of (by simp) (by simp) p

end Sys2Proof.Machine
end

