-- ==== Sys2Proof/Laws/Run.lean ====
section
/-! SUPPORT. Running a procedure in a state where nothing but the sequencer acts: each access has one outcome. -/

namespace Sys2Proof.Machine

open Sys2Proof

variable {α β : Type}

/-- Nothing happens before an access: no act scripted, LINK not prompt, the handler cannot start. -/
structure State.Quiet (s : State) : Prop where
  env : s.env = []
  prompt : s.prompt = false
  shut : s.Shut

theorem State.Shut.line {s : State} (h : s.Shut) : s.irqDue = false := by
  rcases h with h | h
  · simp [State.irqDue, h]
  · simp [State.irqDue, State.line, h]

theorem State.Quiet.silent {s : State} (q : s.Quiet) : s.Silent := ⟨q.env, q.prompt, q.shut.line⟩

/-- Quietness depends on three fields and one bit. -/
theorem State.Quiet.of {s t : State} (q : s.Quiet) (he : t.env = s.env) (hp : t.prompt = s.prompt) (hc : t.ctx = s.ctx)
    (hg : bitOf (t.raw .GAHBCFG) 0 = bitOf (s.raw .GAHBCFG) 0) : t.Quiet :=
  ⟨he.trans q.env, hp.trans q.prompt, q.shut.imp (fun h => hc.trans h) fun h => hg.trans h⟩

/-- In handler context the gate does not matter. -/
theorem State.Quiet.isr {s : State} (he : s.env = []) (hp : s.prompt = false) (hc : s.ctx = .isr) : s.Quiet :=
  ⟨he, hp, .inl hc⟩

theorem State.Quiet.note {s : State} (q : s.Quiet) (e : TraceEv) : (s.note e).Quiet := q.of rfl rfl rfl rfl

theorem readReg_steady {s : State} {r : Reg} (hs : r.steady = true) (hu : s.unsettled = false) :
    s.readReg r = (s.peek r, s) := by
  cases r <;> simp_all [State.readReg, Reg.steady]

/-- GRSTCTL answers even while a reset or a flush settles. -/
theorem readReg_grstctl (s : State) : s.readReg .GRSTCTL = (s.raw .GRSTCTL, s) := by
  simp [State.readReg, State.peek]

theorem regRead_quiet {s : State} {r : Reg} (q : s.Quiet) (ha : s.accessible r = true) (hs : r.steady = true)
    (hu : s.unsettled = false) (h : Hooks) :
    regRead r h s = .ok (s.peek r, s.note (.rd r.offset (s.peek r))) := by
  rw [regRead_silent q.silent ha, readReg_steady hs hu, readReg_steady (s := s.note _) hs hu]

theorem regRead_grstctl {s : State} (q : s.Quiet) (h : Hooks) :
    regRead .GRSTCTL h s = .ok (s.raw .GRSTCTL, s.note (.rd 0x010 (s.raw .GRSTCTL))) := by
  rw [regRead_silent q.silent (by simp [State.accessible, Reg.inRange, Reg.isHost, Reg.isDevice]),
    readReg_grstctl, readReg_grstctl]
  rfl

theorem regWrite_quiet {s : State} {r : Reg} (q : s.Quiet) (ha : s.accessible r = true) (v : Word) (h : Hooks) :
    regWrite r v h s = .ok ((), (s.writeReg r v).note (.wr r.offset v)) := regWrite_silent q.silent ha v h

/-- A read-modify-write in a quiet state. -/
theorem regUpdate_quiet {s : State} {r : Reg} (q : s.Quiet) (ha : s.accessible r = true) (hs : r.steady = true)
    (hu : s.unsettled = false) (f : Word → Word) (h : Hooks) :
    regUpdate r f h s = .ok ((), ((s.note (.rd r.offset (s.peek r))).writeReg r (f (s.peek r))).note
      (.wr r.offset (f (s.peek r)))) := by
  rw [regUpdate, run_bind_ok (regRead_quiet q ha hs hu h)]
  exact regWrite_quiet (q.note _) (by simpa [State.accessible, State.hostMode] using ha) _ h

/-- Where nothing settles, a read-modify-write gives back what it read. -/
theorem State.keepDma_settled {s : State} (hu : s.unsettled = false) (k : Nat) (b : Bool) (w : Word) : s.keepDma k b w = w := by
  simp [State.keepDma, hu]

/-- Where a reset or a flush settles, the DMA bit is the fixed one (R552). -/
theorem State.keepDma_unsettled {s : State} (hu : s.unsettled = true) (k : Nat) (b : Bool) (w : Word) :
    s.keepDma k b w = withBit w k b := by
  simp [State.keepDma, hu]

/-- A control word written back for another purpose has none of the write-one bits 31:26 (R106). -/
@[simp] theorem bitOf_keepControl (w : Word) (k : Nat) : bitOf (keepControl w) k = (decide (k < 26) && bitOf w k) := by
  unfold keepControl bitOf
  rw [BitVec.getLsbD_and, Bool.and_comm]
  congr 1
  by_cases h : k < 32
  · revert k
    decide
  · have : ¬ k < 26 := by omega
    simp [this, BitVec.getLsbD_of_ge _ _ (Nat.le_of_not_lt h)]

/-- A read-modify-write whose new word depends on the state after the read, in a quiet state. -/
theorem regUpdateAt_quiet {s : State} {r : Reg} (q : s.Quiet) (ha : s.accessible r = true) (hs : r.steady = true)
    (hu : s.unsettled = false) (f : State → Word → Word) (h : Hooks) :
    regUpdateAt r f h s = regUpdate r (f (s.note (.rd r.offset (s.peek r)))) h s := by
  rw [regUpdateAt, run_bind_ok (regRead_quiet q ha hs hu h), run_ask_bind, regUpdate, run_bind_ok (regRead_quiet q ha hs hu h)]
  rfl

/-- Where nothing settles, the gate is written by a plain read-modify-write (R214, R215). -/
theorem setGate_settled {s : State} (q : s.Quiet) (hu : s.unsettled = false) (b : Bool) (h : Hooks) :
    setGate b h s = regUpdate .GAHBCFG (fun t => withBit t 0 b) h s := by
  have ha : s.accessible .GAHBCFG = true := by simp [State.accessible, Reg.inRange, Reg.isHost, Reg.isDevice]
  rw [setGate, regUpdateAt_quiet q ha rfl hu]
  congr 1
  funext t
  exact State.keepDma_settled (s := s.note _) hu _ _ _

/-- A critical section is its body in handler context. -/
theorem critical_isr {s : State} (hc : s.ctx = .isr) (p : M α) (h : Hooks) : critical p h s = p h s := by
  simp [critical, hc]

/-- A critical section that finds the gate closed reads GAHBCFG and runs its body. -/
theorem critical_closed {s : State} (q : s.Quiet) (hc : s.ctx = .task) (hu : s.unsettled = false) (p : M α) (h : Hooks) :
    critical p h s = p h (s.note (.rd 0x008 (s.raw .GAHBCFG))) := by
  have ha : s.accessible .GAHBCFG = true := by simp [State.accessible, Reg.inRange, Reg.isHost, Reg.isDevice]
  have hg : bitOf (s.peek .GAHBCFG) 0 = false := by
    rcases q.shut with h' | h'
    · rw [hc] at h'; cases h'
    · exact h'
  simp only [critical, run_ask_bind, hc]
  rw [run_bind_ok (regRead_quiet q ha rfl hu h)]
  simp only [hg, run_bind, run_doIf_false]
  show (match p h _ with | .ok (a, t) => _ | .error e => _) = _
  cases hp : p h (s.note (.rd (Reg.offset .GAHBCFG) (s.peek .GAHBCFG))) with
  | ok x => rw [show s.note (.rd 0x008 (s.raw .GAHBCFG)) = s.note (.rd (Reg.offset .GAHBCFG) (s.peek .GAHBCFG)) from rfl, hp]; rfl
  | error e => rw [show s.note (.rd 0x008 (s.raw .GAHBCFG)) = s.note (.rd (Reg.offset .GAHBCFG) (s.peek .GAHBCFG)) from rfl, hp]

/-! The hypotheses of the lemmas above pass through the updates, so that `simp` can run a straight piece of a procedure. -/

/-- Until its halt is confirmed no queued request of a channel starts (R550). -/
theorem nextRequest_waits {s : State} {x : XRef} (d : s.haltPends x = true) (h : Hooks) : nextRequest x h s = .ok ((), s) := by
  unfold nextRequest
  simp only [run_ask_bind, id_eq, d, Bool.true_eq_false, and_false, if_false]
  rfl

theorem State.quiet_congr {s t : State} (he : t.env = s.env) (hp : t.prompt = s.prompt) (hc : t.ctx = s.ctx)
    (hg : bitOf (t.raw .GAHBCFG) 0 = bitOf (s.raw .GAHBCFG) 0) : t.Quiet ↔ s.Quiet :=
  ⟨fun q => q.of he.symm hp.symm hc.symm hg.symm, fun q => q.of he hp hc hg⟩

@[simp] theorem State.quiet_note (s : State) (e : TraceEv) : (s.note e).Quiet ↔ s.Quiet :=
  State.quiet_congr rfl rfl rfl rfl
@[simp] theorem State.quiet_modEp (s : State) (e : EpRef) (f : EpRec → EpRec) : (s.modEp e f).Quiet ↔ s.Quiet :=
  State.quiet_congr (by simp) (by simp) (by simp) (by simp)
@[simp] theorem State.quiet_modCh (s : State) (c : Fin 16) (f : ChRec → ChRec) : (s.modCh c f).Quiet ↔ s.Quiet :=
  State.quiet_congr rfl rfl rfl rfl
@[simp] theorem State.quiet_modX (s : State) (x : XRef) (f : Xfer → Xfer) : (s.modX x f).Quiet ↔ s.Quiet :=
  State.quiet_congr (by simp) (by simp) (by simp) (by simp)
@[simp] theorem State.quiet_modReqAt (s : State) (i : ReqId) (f : Req → Req) : (s.modReqAt i f).Quiet ↔ s.Quiet :=
  State.quiet_congr (by simp) (by simp) (by simp) (by simp)
theorem State.quiet_writeReg (s : State) {r : Reg} (v : Word) (h : Reg.offset .GAHBCFG ≠ r.offset) :
    (s.writeReg r v).Quiet ↔ s.Quiet :=
  State.quiet_congr (by simp) (by simp) (by simp) (by rw [State.raw_writeReg_ne s v h])

theorem State.hostMode_congr {s t : State} (h : t.regs = s.regs) : t.hostMode = s.hostMode := by
  rw [State.hostMode, State.hostMode, State.raw_congr h]

theorem State.accessible_congr {s t : State} (hw : t.hw = s.hw) (h : t.regs = s.regs) (r : Reg) :
    t.accessible r = s.accessible r := by
  rw [State.accessible, State.accessible, hw, State.hostMode_congr h]

theorem State.unsettled_congr {s t : State} (h : t.regs = s.regs) : t.unsettled = s.unsettled := by
  rw [State.unsettled, State.unsettled, State.raw_congr h]

/-! The registers of an endpoint and of a channel. -/

@[simp] theorem epCtl_steady (e : EpRef) : (epCtl e).steady = true := by
  obtain ⟨n, d⟩ := e
  cases d <;> rfl
theorem epCtl_offset (e : EpRef) :
    (epCtl e).offset = (match e.dir with | .IN => 0x900 | .OUT => 0xB00) + 0x20 * e.num.val := by
  obtain ⟨n, d⟩ := e
  cases d <;> rfl
theorem epCtl_accessible {s : State} {e : EpRef} (hm : s.hostMode = false) (hn : e.num.val < s.hw.caps.nEp) :
    s.accessible (epCtl e) = true := by
  obtain ⟨n, d⟩ := e
  cases d <;> simpa [epCtl, State.accessible, Reg.inRange, Reg.isHost, Reg.isDevice, hm] using hn
@[simp] theorem peek_epCtl (s : State) (e : EpRef) : s.peek (epCtl e) = s.raw (epCtl e) := by
  obtain ⟨n, d⟩ := e
  cases d <;> rfl
@[simp] theorem epInt_steady (e : EpRef) : (epInt e).steady = true := by
  obtain ⟨n, d⟩ := e
  cases d <;> rfl
theorem epInt_offset (e : EpRef) :
    (epInt e).offset = (match e.dir with | .IN => 0x908 | .OUT => 0xB08) + 0x20 * e.num.val := by
  obtain ⟨n, d⟩ := e
  cases d <;> rfl
theorem epInt_accessible {s : State} {e : EpRef} (hm : s.hostMode = false) (hn : e.num.val < s.hw.caps.nEp) :
    s.accessible (epInt e) = true := by
  obtain ⟨n, d⟩ := e
  cases d <;> simpa [epInt, State.accessible, Reg.inRange, Reg.isHost, Reg.isDevice, hm] using hn
@[simp] theorem epSiz_steady (e : EpRef) : (epSiz e).steady = true := by
  obtain ⟨n, d⟩ := e
  cases d <;> rfl
theorem epSiz_offset (e : EpRef) :
    (epSiz e).offset = (match e.dir with | .IN => 0x910 | .OUT => 0xB10) + 0x20 * e.num.val := by
  obtain ⟨n, d⟩ := e
  cases d <;> rfl
theorem epSiz_accessible {s : State} {e : EpRef} (hm : s.hostMode = false) (hn : e.num.val < s.hw.caps.nEp) :
    s.accessible (epSiz e) = true := by
  obtain ⟨n, d⟩ := e
  cases d <;> simpa [epSiz, State.accessible, Reg.inRange, Reg.isHost, Reg.isDevice, hm] using hn
@[simp] theorem peek_epSiz (s : State) (e : EpRef) : s.peek (epSiz e) = s.raw (epSiz e) := by
  obtain ⟨n, d⟩ := e
  cases d <;> rfl
@[simp] theorem epDma_steady (e : EpRef) : (epDma e).steady = true := by
  obtain ⟨n, d⟩ := e
  cases d <;> rfl
theorem epDma_offset (e : EpRef) :
    (epDma e).offset = (match e.dir with | .IN => 0x914 | .OUT => 0xB14) + 0x20 * e.num.val := by
  obtain ⟨n, d⟩ := e
  cases d <;> rfl
theorem epDma_accessible {s : State} {e : EpRef} (hm : s.hostMode = false) (hn : e.num.val < s.hw.caps.nEp) :
    s.accessible (epDma e) = true := by
  obtain ⟨n, d⟩ := e
  cases d <;> simpa [epDma, State.accessible, Reg.inRange, Reg.isHost, Reg.isDevice, hm] using hn
@[simp] theorem peek_epDma (s : State) (e : EpRef) : s.peek (epDma e) = s.raw (epDma e) := by
  obtain ⟨n, d⟩ := e
  cases d <;> rfl

/-- The common registers of the device group answer in device mode. -/
theorem accessible_device {s : State} {r : Reg} (hm : s.hostMode = false) (h : r.isHost = false)
    (hr : r.inRange s.hw.caps = true) : s.accessible r = true := by
  simp [State.accessible, h, hr, hm]

/-- The registers of the host group answer in host mode. -/
theorem accessible_host {s : State} {r : Reg} (hm : s.hostMode = true) (h : r.isDevice = false)
    (hr : r.inRange s.hw.caps = true) : s.accessible r = true := by
  simp [State.accessible, h, hr, hm]

/-- The global registers always answer. -/
theorem accessible_global (s : State) {r : Reg} (hh : r.isHost = false) (hd : r.isDevice = false)
    (hr : ∀ c, r.inRange c = true) : s.accessible r = true := by
  simp [State.accessible, hh, hd, hr]

@[simp] theorem epMsk_steady (e : EpRef) : (epMsk e).steady = true := by
  obtain ⟨n, d⟩ := e
  cases d <;> rfl
@[simp] theorem peek_epMsk (s : State) (e : EpRef) : s.peek (epMsk e) = s.raw (epMsk e) := by
  obtain ⟨n, d⟩ := e
  cases d <;> rfl
theorem epMsk_accessible {s : State} (e : EpRef) (hm : s.hostMode = false) : s.accessible (epMsk e) = true := by
  obtain ⟨n, d⟩ := e
  cases d <;> exact accessible_device hm rfl rfl
theorem epMsk_offset (e : EpRef) : (epMsk e).offset = match e.dir with | .IN => 0x810 | .OUT => 0x814 := by
  obtain ⟨n, d⟩ := e
  cases d <;> rfl

/-- The state in which an event's procedure starts. -/
theorem State.Alone.quiet {s : State} (a : s.Alone) : (s.inCtx .isr).Quiet :=
  State.Quiet.isr a.env a.prompt rfl

end Sys2Proof.Machine
end

