-- ==== Sys2Proof/Laws/Frame.lean ====
section
/-! SUPPORT. What a frame allows, one lemma for each named update. -/

namespace Sys2Proof.Machine

open Sys2Proof

variable {s t : State} {rs : List Reg} {ps : List Part}

theorem Frame.refl (s : State) (rs : List Reg) (ps : List Part) : Frame s s rs ps := by
  constructor <;> intros <;> first | rfl | exact ⟨rfl, rfl⟩ | exact ⟨rfl, rfl, rfl, rfl⟩

/-- An update of fields that no frame compares. -/
theorem Frame.of_eq (f : Frame s t rs ps) {u : State} (h : u = { t with
    poolDraws := u.poolDraws, draws := u.draws, patience := u.patience, result := u.result, trace := u.trace }) : Frame s u rs ps := by
  rw [h]
  constructor
  · exact f.regs
  · exact f.mem
  · exact f.fifo
  · exact f.core
  · exact f.ep
  · exact f.ch
  · exact f.pool
  · exact f.ep0
  · exact f.iso
  · exact f.htog
  · exact f.plat
  · exact f.served
  · exact f.context
  · exact f.hw
  · exact f.exist
  · exact f.inputs
  · exact f.hidden

theorem Frame.note (f : Frame s t rs ps) (e : TraceEv) : Frame s (t.note e) rs ps := f.of_eq rfl

theorem Frame.returned (f : Frame s t rs ps) (r : Result) : Frame s (t.returned r) rs ps := f.of_eq rfl

/-- Registers whose write leaves the FIFOs and the request queues alone. -/
def Reg.keepsFifo : Reg → Bool
  | .HCCHAR _ | .FIFO _ => false
  | _ => true

theorem SMap.get_writeReg_ne (s : State) {r : Reg} (v : Word) {a : Nat} (h : a ≠ r.offset) :
    SMap.get 0 (s.writeReg r v).regs a = SMap.get 0 s.regs a := by
  have hr : ∀ c w t, (State.addRequest t c w).regs = t.regs := by
    intro c w t
    unfold State.addRequest
    split <;> rfl
  cases r
  case HCCHAR c =>
    simp only [State.writeReg]
    split
    · rw [hr]
      exact SMap.get_put_ne h
    · exact SMap.get_put_ne h
  case FIFO n =>
    simp only [State.writeReg, State.pushFifo]
    split
    · split <;> rfl
    · rfl
  all_goals exact SMap.get_put_ne h

/-- A register write inside a frame: the register is listed, and the FIFOs where the write may reach them. -/
theorem Frame.writeReg (f : Frame s t rs ps) {r : Reg} (v : Word) (hr : r ∈ rs)
    (hf : Part.fifo ∈ ps ∨ r.keepsFifo = true) : Frame s (t.writeReg r v) rs ps := by
  constructor
  · intro a ha
    rw [SMap.get_writeReg_ne t v (fun e => ha (by rw [e]; exact List.mem_map_of_mem hr))]
    exact f.regs a ha
  · intro h a
    exact (State.byte_congr (by simp) a).trans (f.mem h a)
  · intro h
    rcases hf with hf | hf
    · exact absurd hf h
    · rw [State.writeReg_fifo t v (by cases r <;> simp_all [Reg.keepsFifo])]
      exact f.fifo h
  · simpa using f.core
  · intro e he hr
    exact (State.ep_congr (by simp) (by simp) e).trans (f.ep e he hr)
  · intro c hc hr
    exact (State.chan_congr (by simp) c).trans (f.ch c hc hr)
  · simpa using f.pool
  · simpa using f.ep0
  · simpa using f.iso
  · simpa using f.htog
  · simpa using f.plat
  · simpa using f.served
  · simpa using f.context
  · simpa using f.hw
  · simpa using f.exist
  · simpa using f.inputs
  · simpa using f.hidden

theorem Frame.modEp (f : Frame s t rs ps) {e : EpRef} (g : EpRec → EpRec) (h : .ep e ∈ ps) :
    Frame s (t.modEp e g) rs ps := by
  constructor
  · simpa using f.regs
  · simpa using f.mem
  · simpa using f.fifo
  · simpa using f.core
  · intro e' he hr
    have hn : e' ≠ e := fun q => he (q ▸ h)
    rw [State.ep_modEp_ne t g hn]
    exact f.ep e' he hr
  · intro c hc hr
    exact (State.chan_congr (by simp) c).trans (f.ch c hc hr)
  · simpa using f.pool
  · simpa using f.ep0
  · simpa using f.iso
  · simpa using f.htog
  · simpa using f.plat
  · simpa using f.served
  · simpa using f.context
  · simpa using f.hw
  · simpa using f.exist
  · simpa using f.inputs
  · simpa using f.hidden

theorem Frame.modCh (f : Frame s t rs ps) {c : Fin 16} (g : ChRec → ChRec) (h : .ch c ∈ ps) :
    Frame s (t.modCh c g) rs ps := by
  constructor
  · exact f.regs
  · exact f.mem
  · exact f.fifo
  · exact f.core
  · exact f.ep
  · intro c' hc hr
    have hn : c' ≠ c := fun q => hc (q ▸ h)
    rw [State.chan_modCh_ne t g hn]
    exact f.ch c' hc hr
  · exact f.pool
  · exact f.ep0
  · exact f.iso
  · exact f.htog
  · exact f.plat
  · exact f.served
  · exact f.context
  · exact f.hw
  · exact f.exist
  · exact f.inputs
  · exact f.hidden

/-- The part of an endpoint or channel. -/
def partOf : XRef → Part
  | .ep e => .ep e
  | .ch c => .ch c

theorem Frame.modX (f : Frame s t rs ps) {x : XRef} (g : Xfer → Xfer) (h : partOf x ∈ ps) : Frame s (t.modX x g) rs ps := by
  cases x with
  | ep e => exact f.modEp (fun r => { r with x := g r.x }) h
  | ch c => exact f.modCh (fun r => { r with x := g r.x }) h

/-- Parts that are fields of the state. -/
theorem Frame.pool' (f : Frame s t rs ps) (h : .pool ∈ ps) (l : List (Option Req)) :
    Frame s { t with pool := l } rs ps := by
  constructor <;> first
    | exact f.regs | exact f.mem | exact f.fifo | exact f.core | exact f.ep | exact f.ch | exact f.ep0 | exact f.iso
    | exact f.htog | exact f.plat | exact f.served | exact f.context | exact f.hw | exact f.exist | exact f.inputs | exact f.hidden
    | exact fun hn _ => absurd h hn
    | exact fun hn => absurd h hn

theorem Frame.ep0' (f : Frame s t rs ps) (h : .ep0 ∈ ps) (l : Ep0Rec) : Frame s { t with ep0 := l } rs ps := by
  constructor <;> first
    | exact f.regs | exact f.mem | exact f.fifo | exact f.core | exact f.ep | exact f.ch | exact f.pool | exact f.iso
    | exact f.htog | exact f.plat | exact f.served | exact f.context | exact f.hw | exact f.exist | exact f.inputs | exact f.hidden
    | exact fun hn _ => absurd h hn
    | exact fun hn => absurd h hn

theorem Frame.core' (f : Frame s t rs ps) (h : .core ∈ ps) (l : CoreRec) : Frame s { t with core := l } rs ps := by
  constructor <;> first
    | exact f.regs | exact f.mem | exact f.fifo | exact f.ep | exact f.ch | exact f.pool | exact f.ep0 | exact f.iso
    | exact f.htog | exact f.plat | exact f.served | exact f.context | exact f.hw | exact f.inputs | exact f.hidden
    | exact fun hn _ => absurd h hn
    | exact fun hn => absurd h hn

theorem Frame.htog' (f : Frame s t rs ps) (h : .htog ∈ ps) (l : SMap Bool) : Frame s { t with htog := l } rs ps := by
  constructor <;> first
    | exact f.regs | exact f.mem | exact f.fifo | exact f.core | exact f.ep | exact f.ch | exact f.pool | exact f.ep0
    | exact f.iso | exact f.plat | exact f.served | exact f.context | exact f.hw | exact f.exist | exact f.inputs | exact f.hidden
    | exact fun hn _ => absurd h hn
    | exact fun hn => absurd h hn

theorem Frame.iso' (f : Frame s t rs ps) (h : .iso ∈ ps) (l : List IsoRec) : Frame s { t with iso := l } rs ps := by
  constructor <;> first
    | exact f.regs | exact f.mem | exact f.fifo | exact f.core | exact f.ep | exact f.ch | exact f.pool | exact f.ep0
    | exact f.htog | exact f.plat | exact f.served | exact f.context | exact f.hw | exact f.exist | exact f.inputs | exact f.hidden
    | exact fun hn _ => absurd h hn
    | exact fun hn => absurd h hn

theorem Frame.fifo' (f : Frame s t rs ps) (h : .fifo ∈ ps) (l : Fifo) : Frame s { t with fifo := l } rs ps := by
  constructor <;> first
    | exact f.regs | exact f.mem | exact f.core | exact f.ep | exact f.ch | exact f.pool | exact f.ep0 | exact f.iso
    | exact f.htog | exact f.plat | exact f.served | exact f.context | exact f.hw | exact f.exist | exact f.inputs | exact f.hidden
    | exact fun hn _ => absurd h hn
    | exact fun hn => absurd h hn

theorem Frame.modReqAt (f : Frame s t rs ps) {i : ReqId} (g : Req → Req)
    (h : match i with | .pool _ => Part.pool ∈ ps | .ep0 => Part.ep0 ∈ ps) : Frame s (t.modReqAt i g) rs ps := by
  cases i with
  | pool k => exact f.pool' h _
  | ep0 => exact f.ep0' h _

/-- Any change of the records inside a frame that lists them. -/
theorem Frame.records' (f : Frame s t rs ps) (h : .records ∈ ps) {u : State} (hu : u = { t with
    core := u.core, epIn := u.epIn, epOut := u.epOut, ch := u.ch, pool := u.pool, ep0 := u.ep0, iso := u.iso
    htog := u.htog, recordsExist := u.recordsExist, rrNp := u.rrNp, rrP := u.rrP }) : Frame s u rs ps := by
  rw [hu]
  constructor <;> first
    | exact f.regs | exact f.mem | exact f.fifo | exact f.plat | exact f.context | exact f.hw | exact f.inputs | exact f.hidden
    | exact fun _ hn => absurd h hn
    | exact fun _ _ hn => absurd h hn

/-- The frame of an event's procedure is the frame of the event. -/
theorem Frame.event {u : State} (f : Frame (s.inCtx .isr) u rs ps) : Frame s (u.inCtx s.ctx) rs ps := by
  constructor
  · exact f.regs
  · exact f.mem
  · exact f.fifo
  · exact f.core
  · exact f.ep
  · exact f.ch
  · exact f.pool
  · exact f.ep0
  · exact f.iso
  · exact f.htog
  · exact f.plat
  · exact f.served
  · exact fun _ => rfl
  · exact f.hw
  · exact f.exist
  · exact f.inputs
  · exact f.hidden

end Sys2Proof.Machine
end

