-- ==== Sys2Proof/Laws/Sound.lean ====
section
/-! SUPPORT. Properties of procedures that pass from the building blocks to everything built from them. `Sound I can ok`
says that `ok` is such a property, for states with `I` and the register accesses in `can`; the lemmas below carry it
through every procedure of the sequencer once, for every `ok`. -/

namespace Sys2Proof.Machine

open Sys2Proof

/-- Two states that differ in the sequencer's records, the FIFOs, the free draws and the trace only. -/
structure Same (s t : State) : Prop where
  hw : t.hw = s.hw
  arrays : t.plat.descArrays = s.plat.descArrays
  ifaces : t.plat.ifaces = s.plat.ifaces
  regs : t.regs = s.regs
  mem : t.mem = s.mem
  htog : t.htog = s.htog
  env : t.env = s.env
  replies : t.replies = s.replies
  prompt : t.prompt = s.prompt
  ctx : t.ctx = s.ctx
  caps : t.core.caps = s.core.caps
  dma : t.core.dmaMode = s.core.dmaMode

/-- The registers that the rules of endpoint `n` touch. -/
structure CanEp (can : Reg → Prop) (n : Fin 16) : Prop where
  inCtl : can (.DIEPCTL n)
  inInt : can (.DIEPINT n)
  inSiz : can (.DIEPTSIZ n)
  inDma : can (.DIEPDMA n)
  inFifo : can (.DTXFSTS n)
  outCtl : can (.DOEPCTL n)
  outInt : can (.DOEPINT n)
  outSiz : can (.DOEPTSIZ n)
  outDma : can (.DOEPDMA n)

/-- The common registers that the rules of the device role touch. -/
structure CanDev (can : Reg → Prop) : Prop where
  dcfg : can .DCFG
  dsts : can .DSTS
  diepmsk : can .DIEPMSK
  doepmsk : can .DOEPMSK
  daint : can .DAINT
  daintmsk : can .DAINTMSK
  empty : can .DIEPEMPMSK

/-- The registers that the rules of channel `c` touch. -/
structure CanCh (can : Reg → Prop) (c : Fin 16) : Prop where
  hcchar : can (.HCCHAR c)
  hcsplt : can (.HCSPLT c)
  hcint : can (.HCINT c)
  hcintmsk : can (.HCINTMSK c)
  hctsiz : can (.HCTSIZ c)
  hcdma : can (.HCDMA c)

/-- The common registers that the rules of the host role touch. -/
structure CanHost (can : Reg → Prop) : Prop where
  hcfg : can .HCFG
  hfnum : can .HFNUM
  hptxsts : can .HPTXSTS
  haint : can .HAINT
  haintmsk : can .HAINTMSK

/-- The global registers that the handlers touch in both modes. -/
structure CanGlob (can : Reg → Prop) : Prop where
  gintsts : can .GINTSTS
  gintmsk : can .GINTMSK
  gotgint : can .GOTGINT
  gotgctl : can .GOTGCTL
  gnptxsts : can .GNPTXSTS
  grxstsp : can .GRXSTSP
  fifo : ∀ n, can (.FIFO n)

/-- What an endpoint or channel needs. -/
def CanX (can : Reg → Prop) : XRef → Prop
  | .ep e => CanEp can e.num ∧ CanDev can
  | .ch c => CanCh can c ∧ CanHost can

/-- A property of procedures that is closed under the sequencer's building blocks. -/
structure Sound (I : State → Prop) (can : Reg → Prop) (ok : {α : Type} → M α → Prop) : Prop where
  pure : ∀ {α : Type} (a : α), ok (pure a)
  bind : ∀ {α β : Type} {p : M α} {f : α → M β}, ok p → (∀ a, ok (f a)) → ok (p >>= f)
  asks : ∀ {α β : Type} {g : State → α} {f : α → M β}, (∀ s, I s → ok (f (g s))) → ok (ask g >>= f)
  ask : ∀ {α : Type} (g : State → α), ok (ask g)
  act : ∀ {f : State → State}, (∀ s, I s → I (f s)) → ok (act f)
  same : ∀ {s t : State}, Same s t → I s → I t
  bytes : ∀ {s : State} (a : Word) (bs : List Byte), I s → I (s.setBytes a bs)
  htog : ∀ {s : State} (k : Nat) (b : Bool), I s → I { s with htog := SMap.put false s.htog k b }
  rd : ∀ {r : Reg}, can r → ok (regRead r)
  wr : ∀ {r : Reg} (v : Word), can r → ok (regWrite r v)
  mr : ∀ a, ok (memRead32 a)
  mw : ∀ a v, ok (memWrite32 a v)
  assert : ∀ c a, ok (assertThat c a)
  upper : ok (callHook Hooks.upper)
  retry : ∀ c, CanCh can c → CanHost can → CanGlob can → ok (callHook fun h => h.retry c)
  critical : ∀ {α : Type} {p : M α}, ok p → ok (critical p)
  descBase : ∀ x, ok (descBase x)
  start : ∀ x h, (ok (programChunk x)) → ok (startTransfer x h)

section
variable {I : State → Prop} {can : Reg → Prop} {ok : {α : Type} → M α → Prop} (L : Sound I can ok)
include L

theorem ok_rec {f : State → State} (h : ∀ s, Same s (f s)) : ok (act f) := L.act fun s hs => L.same (h s) hs

theorem ok_ite {α : Type} {c : Prop} [Decidable c] {p q : M α} (hp : c → ok p) (hq : ¬c → ok q) :
    ok (if c then p else q) := by
  split
  · exact hp ‹_›
  · exact hq ‹_›

theorem ok_doIf {c : Bool} {p : M Unit} (h : c = true → ok p) : ok (doIf c p) := by
  unfold doIf
  exact ok_ite L h fun _ => L.pure _

theorem ok_forEach {α : Type} {l : List α} {p : α → M Unit} (h : ∀ a ∈ l, ok (p a)) : ok (forEach l p) := by
  induction l with
  | nil => exact L.pure _
  | cons a l ih =>
    exact L.bind (h a (by simp)) fun _ => ih fun b hb => h b (by simp [hb])

theorem ok_poll {p : M Bool} (h : ok p) : ∀ n, ok (poll p n)
  | 0 => L.pure _
  | n + 1 => L.bind h fun _ => ok_ite L (fun _ => L.pure _) fun _ => ok_poll h n

theorem ok_update {r : Reg} (f : Word → Word) (h : can r) : ok (regUpdate r f) :=
  L.bind (L.rd h) fun _ => L.wr _ h

theorem ok_updateAt {r : Reg} (f : State → Word → Word) (h : can r) : ok (regUpdateAt r f) :=
  L.bind (L.rd h) fun _ => L.asks fun _ _ => L.wr _ h

theorem ok_log (m : LogMsg) : ok (logMsg m) := ok_rec L fun _ => by constructor <;> rfl

theorem ok_callback (c : Callback) : ok (callback c) :=
  L.bind (ok_rec L fun _ => by constructor <;> rfl) fun _ => L.upper

theorem ok_modEp (e : EpRef) (f : EpRec → EpRec) : ok (modEp e f) := ok_rec L fun s => by
  obtain ⟨n, d⟩ := e
  cases d <;> constructor <;> rfl

theorem ok_modCh (c : Fin 16) (f : ChRec → ChRec) : ok (modCh c f) := ok_rec L fun _ => by constructor <;> rfl

theorem ok_modX (x : XRef) (f : Xfer → Xfer) : ok (modX x f) := by
  refine ok_rec L fun s => ?_
  cases x with
  | ep e =>
    obtain ⟨n, d⟩ := e
    cases d <;> constructor <;> rfl
  | ch c => constructor <;> rfl

theorem ok_modEp0 (f : Ep0Rec → Ep0Rec) : ok (modEp0 f) := ok_rec L fun _ => by constructor <;> rfl

theorem same_modReqAt (s : State) (i : ReqId) (f : Req → Req) : Same s (s.modReqAt i f) := by
  cases i <;> constructor <;> rfl

theorem ok_modReq (x : XRef) (f : Req → Req) : ok (modReq x f) := ok_rec L fun s => by
  split
  · exact same_modReqAt L s _ f
  · constructor <;> rfl

theorem ok_modIso (x : XRef) (f : IsoRec → IsoRec) : ok (modIso x f) := ok_rec L fun _ => by constructor <;> rfl

theorem ok_dropIso (x : XRef) : ok (dropIso x) := ok_rec L fun _ => by constructor <;> rfl

theorem ok_modCore {f : CoreRec → CoreRec} (h : ∀ c, (f c).caps = c.caps ∧ (f c).dmaMode = c.dmaMode) :
    ok (modCore f) := ok_rec L fun s => by
  constructor
  case caps => exact (h s.core).1
  case dma => exact (h s.core).2
  all_goals rfl

/-! Registers and flushes. -/

theorem ok_pollGrstctl (k : Nat) (v : Bool) (n : Nat) (h : can .GRSTCTL) : ok (pollGrstctl k v n) :=
  ok_poll L (L.bind (L.rd h) fun _ => L.pure _) n

theorem ok_flushTxFifo (n : Nat) (h : can .GRSTCTL) : ok (flushTxFifo n) :=
  L.asks fun _ _ => L.bind (L.wr _ h) fun _ => L.bind (ok_pollGrstctl L _ _ _ h) fun _ => L.pure _

theorem ok_flushRxFifo (h : can .GRSTCTL) : ok flushRxFifo :=
  L.asks fun _ _ => L.bind (L.wr _ h) fun _ => L.bind (ok_pollGrstctl L _ _ _ h) fun _ => L.pure _

/-! Channels. -/

theorem ok_oddFrame (h : CanHost can) : ok oddFrame := L.bind (L.rd h.hfnum) fun _ => L.pure _

theorem ok_hccharValue (c : Fin 16) (h : CanHost can) : ok (hccharValue c) :=
  L.asks fun _ _ => ok_ite L (fun _ => L.bind (ok_oddFrame L h) fun _ => L.pure _) fun _ => L.pure _

theorem ok_queueSpace (c : Fin 16) (h : CanHost can) (g : CanGlob can) : ok (queueSpace c) :=
  L.asks fun _ _ => ok_ite L (fun _ => L.bind (L.rd h.hptxsts) fun _ => L.pure _)
    fun _ => L.bind (L.rd g.gnptxsts) fun _ => L.pure _

theorem ok_fifoSpace (c : Fin 16) (h : CanHost can) (g : CanGlob can) : ok (fifoSpace c) :=
  L.asks fun _ _ => ok_ite L (fun _ => L.bind (L.rd h.hptxsts) fun _ => L.pure _)
    fun _ => L.bind (L.rd g.gnptxsts) fun _ => L.pure _

theorem ok_unmaskFifoEmpty (c : Fin 16) (g : CanGlob can) : ok (unmaskFifoEmpty c) :=
  L.asks fun _ _ => ok_update L _ g.gintmsk

/-! The pool. -/

theorem ok_poolAlloc : ok poolAlloc := by
  unfold poolAlloc
  refine L.asks fun s _ => ?_
  split
  · exact L.pure _
  · exact L.bind (ok_rec L fun _ => by constructor <;> rfl) fun _ => L.pure _

theorem ok_freeSlot (h : Nat) : ok (freeSlot h) := ok_rec L fun _ => by constructor <;> rfl

/-! Programming. -/

theorem ok_writeDesc (a b v : Word) : ok (writeDesc a b v) :=
  L.bind (L.mw _ _) fun _ => L.bind (L.mw _ _) fun _ => L.mw _ _

theorem ok_drawFrame (i : Bool) : ok (drawFrame i) :=
  ok_ite L (fun _ => L.asks fun _ _ => L.bind (ok_rec L fun _ => by constructor <;> rfl) fun _ => L.pure _) fun _ => L.pure _

theorem ok_buildChain (i r : Bool) (m : Nat) (a b : Word) (n : Nat) : ok (buildChain i r m a b n) :=
  L.bind (ok_drawFrame L i) fun _ => ok_forEach L fun _ _ => ok_writeDesc L _ _ _

theorem can_epCtl {e : EpRef} (h : CanEp can e.num) : can (epCtl e) := by
  obtain ⟨n, d⟩ := e
  cases d
  · exact h.outCtl
  · exact h.inCtl

theorem can_epInt {e : EpRef} (h : CanEp can e.num) : can (epInt e) := by
  obtain ⟨n, d⟩ := e
  cases d
  · exact h.outInt
  · exact h.inInt

theorem can_epSiz {e : EpRef} (h : CanEp can e.num) : can (epSiz e) := by
  obtain ⟨n, d⟩ := e
  cases d
  · exact h.outSiz
  · exact h.inSiz

theorem can_epDma {e : EpRef} (h : CanEp can e.num) : can (epDma e) := by
  obtain ⟨n, d⟩ := e
  cases d
  · exact h.outDma
  · exact h.inDma

theorem can_epMsk {e : EpRef} (h : CanDev can) : can (epMsk e) := by
  obtain ⟨n, d⟩ := e
  cases d
  · exact h.doepmsk
  · exact h.diepmsk

theorem can_sizOf {x : XRef} (h : CanX can x) : can (sizOf x) := by
  cases x with
  | ep e => exact can_epSiz L h.1
  | ch c => exact h.1.hctsiz

theorem ok_isoParity (e : EpRef) (d : CanDev can) : ok (isoParity e) :=
  L.asks fun _ _ => ok_ite L (fun _ => L.bind (L.rd d.dsts) fun _ => L.pure _) fun _ => L.pure _

theorem ok_setEmptyMask (n : Fin 16) (b : Bool) (d : CanDev can) : ok (setEmptyMask n b) := ok_update L _ d.empty

theorem ok_programEpDirect (e : EpRef) (len pkts : Nat) (h : CanEp can e.num) (d : CanDev can) :
    ok (programEpDirect e len pkts) :=
  L.asks fun _ _ => L.bind (L.wr _ (can_epSiz L h)) fun _ =>
    L.bind (ok_doIf L fun _ => L.wr _ (can_epDma L h)) fun _ => L.bind (ok_isoParity L e d) fun _ =>
    L.bind (ok_update L _ (can_epCtl L h)) fun _ => ok_doIf L fun _ => ok_setEmptyMask L _ _ d

theorem ok_programEpDesc (e : EpRef) (len : Nat) (h : CanEp can e.num) : ok (programEpDesc e len) :=
  L.asks fun _ _ => L.bind (L.descBase _) fun _ => L.bind (ok_buildChain L _ _ _ _ _ _) fun _ =>
    L.bind (L.wr _ (can_epDma L h)) fun _ => ok_update L _ (can_epCtl L h)

theorem ok_writePacket (x : XRef) (n : Nat) (g : CanGlob can) : ok (writePacket x n) :=
  L.asks fun _ _ => L.bind (ok_forEach L fun _ _ => L.wr _ (g.fifo _)) fun _ => ok_modX L _ _

theorem ok_continueIn (n : Fin 16) (h : CanEp can n) (g : CanGlob can) : ok (continueIn n) := by
  unfold continueIn
  refine L.asks fun s _ => ok_ite L (fun _ => L.pure _) fun _ => L.bind (L.rd h.inFifo) fun _ => ?_
  exact ok_ite L (fun _ => L.pure _) fun _ => L.bind (ok_writePacket L _ _ g) fun _ => L.ask _

theorem ok_requestAgain (c : Fin 16) (h : CanCh can c) (d : CanHost can) : ok (requestAgain c) :=
  L.bind (ok_hccharValue L c d) fun _ => L.bind (L.wr _ h.hcchar) fun _ => ok_modCh L _ _

theorem ok_continueChIn (c : Fin 16) (h : CanCh can c) (d : CanHost can) (g : CanGlob can) : ok (continueChIn c) :=
  L.asks fun _ _ => ok_ite L (fun _ => L.pure _) fun _ => L.bind (ok_queueSpace L c d g) fun _ =>
    ok_ite L (fun _ => L.pure _) fun _ => L.bind (ok_requestAgain L c h d) fun _ => L.pure _

theorem ok_channelFull (c : Fin 16) (n : Nat) (d : CanHost can) (g : CanGlob can) : ok (channelFull c n) :=
  L.bind (ok_fifoSpace L c d g) fun _ => ok_ite L (fun _ => L.pure _) fun _ => L.bind (ok_queueSpace L c d g) fun _ =>
    L.pure _

theorem ok_continueChOut (c : Fin 16) (h : CanCh can c) (d : CanHost can) (g : CanGlob can) :
    ok (continueChOut c) := by
  unfold continueChOut
  refine L.asks fun s _ => ok_ite L (fun _ => L.pure _) fun _ => L.bind (ok_channelFull L c _ d g) fun _ => ?_
  refine ok_ite L (fun _ => L.pure _) fun _ => ok_ite L (fun _ => L.pure _) fun _ => ?_
  exact L.bind (ok_doIf L fun _ => ok_requestAgain L c h d) fun _ => L.bind (ok_writePacket L _ _ g) fun _ =>
    L.asks fun _ _ => L.pure _

theorem ok_continueTransfer (x : XRef) (h : CanX can x) (g : CanGlob can) : ok (continueTransfer x) := by
  unfold continueTransfer
  refine L.asks fun s _ => ok_ite L (fun _ => ?_) fun _ => L.pure _
  split
  · exact ok_continueIn L _ h.1 g
  · exact L.pure _
  · next c =>
    refine ok_ite L (fun _ => L.pure _) fun _ => ok_ite L (fun _ => ?_) fun _ => ?_
    · exact L.bind (L.retry c h.1 h.2 g) fun _ => L.pure _
    · exact ok_ite L (fun _ => ok_continueChIn L c h.1 h.2 g) fun _ => ok_continueChOut L c h.1 h.2 g

theorem ok_programChannelHead (c : Fin 16) (h : CanCh can c) (d : CanHost can) : ok (programChannelHead c) :=
  L.bind (L.wr _ h.hcint) fun _ => L.asks fun _ _ => L.bind (L.wr _ h.hcintmsk) fun _ =>
    L.bind (ok_update L _ d.haintmsk) fun _ => L.wr _ h.hcsplt

theorem ok_programChannelDirect (c : Fin 16) (len pkts : Nat) (h : CanCh can c) (d : CanHost can)
    (g : CanGlob can) : ok (programChannelDirect c len pkts) := by
  unfold programChannelDirect
  refine L.bind (ok_programChannelHead L c h d) fun _ => L.asks fun s _ => L.bind (L.wr _ h.hctsiz) fun _ => ?_
  refine L.bind (ok_doIf L fun _ => L.wr _ h.hcdma) fun _ => L.bind (ok_hccharValue L c d) fun _ => ?_
  refine L.bind (L.wr _ h.hcchar) fun _ => L.bind (ok_modCh L _ _) fun _ => L.bind (ok_doIf L fun _ => ?_) fun _ => ?_
  · exact L.bind (ok_continueTransfer L (.ch c) ⟨h, d⟩ g) fun _ => ok_doIf L fun _ => ok_unmaskFifoEmpty L c g
  · exact ok_doIf L fun _ => ok_unmaskFifoEmpty L c g

theorem ok_startChannelChain (c : Fin 16) (a : Word) (h : CanCh can c) (d : CanHost can) :
    ok (startChannelChain c a) :=
  L.asks fun _ _ => L.bind (L.wr _ h.hctsiz) fun _ => L.bind (L.wr _ h.hcdma) fun _ =>
    L.bind (ok_hccharValue L c d) fun _ => L.wr _ h.hcchar

theorem ok_programChannelDesc (c : Fin 16) (len : Nat) (h : CanCh can c) (d : CanHost can) :
    ok (programChannelDesc c len) :=
  L.asks fun _ _ => L.bind (L.descBase _) fun _ => L.bind (ok_buildChain L _ _ _ _ _ _) fun _ =>
    L.bind (ok_programChannelHead L c h d) fun _ => ok_startChannelChain L c _ h d

theorem ok_programChunk (x : XRef) (h : CanX can x) (g : CanGlob can) : ok (programChunk x) := by
  unfold programChunk
  refine L.asks fun s _ => L.bind (ok_modX L _ _) fun _ => ?_
  cases x with
  | ep e => exact ok_ite L (fun _ => ok_programEpDesc L e _ h.1) fun _ => ok_programEpDirect L e _ _ h.1 h.2
  | ch c => exact ok_ite L (fun _ => ok_programChannelDesc L c _ h.1 h.2) fun _ => ok_programChannelDirect L c _ _ h.1 h.2 g

theorem ok_markActive (x : XRef) : ok (markActive x) := by
  cases x with
  | ep e => exact ok_modEp L e _
  | ch c => exact L.pure _

theorem ok_startTransfer (x : XRef) (h : Nat) (hx : CanX can x) (g : CanGlob can) : ok (startTransfer x h) :=
  L.start x h (ok_programChunk L x hx g)

/-! Completion. -/

theorem ok_nextRequest (x : XRef) (h : CanX can x) (g : CanGlob can) : ok (nextRequest x) := by
  unfold nextRequest
  refine L.asks fun s _ => ok_ite L (fun _ => ?_) fun _ => L.pure _
  split
  · exact L.pure _
  · exact L.bind (ok_modX L _ _) fun _ => ok_startTransfer L x _ h g

theorem ok_channelRelease (c : Fin 16) (h : CanCh can c) (d : CanHost can) : ok (channelRelease c) :=
  L.bind (L.wr _ h.hcintmsk) fun _ => L.bind (ok_update L _ d.haintmsk) fun _ => L.bind (L.wr _ h.hcint) fun _ =>
    ok_modCh L _ _

theorem ok_channelComplete (c : Fin 16) (h : CanCh can c) (d : CanHost can) (g : CanGlob can) :
    ok (channelComplete c) :=
  L.asks fun _ _ => ok_ite L (fun _ => ok_channelRelease L c h d) fun _ =>
    L.bind (ok_doIf L fun _ => ok_modCh L _ _) fun _ => ok_nextRequest L (.ch c) ⟨h, d⟩ g

theorem ok_doneCallback (i : ReqId) (q : Req) (st : Status) : ok (doneCallback i q st) := by
  cases i with
  | pool h => exact ok_callback L _
  | ep0 => exact L.pure _

theorem ok_freeRequest (i : ReqId) : ok (freeRequest i) := by
  cases i with
  | pool h => exact ok_freeSlot L h
  | ep0 => exact L.pure _

theorem ok_markIdle (x : XRef) : ok (markIdle x) := by
  cases x with
  | ep e => exact ok_modEp L e _
  | ch c => exact L.pure _

theorem ok_detachRequest (x : XRef) (i : ReqId) (st : Status) : ok (detachRequest x i st) :=
  L.bind (ok_modReq L x _) fun _ => L.bind (ok_modX L x _) fun _ => L.bind (ok_markIdle L x) fun _ => ok_freeRequest L i

theorem ok_afterRequest (x : XRef) (h : CanX can x) (g : CanGlob can) : ok (afterRequest x) := by
  cases x with
  | ep e => exact ok_nextRequest L _ h g
  | ch c => exact ok_channelComplete L c h.1 h.2 g

theorem ok_completeRequest (x : XRef) (st : Status) (h : CanX can x) (g : CanGlob can) :
    ok (completeRequest x st) := by
  unfold completeRequest
  refine L.asks fun s _ => ?_
  split
  · exact L.assert _ _
  · exact L.bind (ok_detachRequest L x _ st) fun _ => L.bind (ok_afterRequest L x h g) fun _ => ok_doneCallback L _ _ _

theorem ok_completeKeep (x : XRef) (st : Status) : ok (completeKeep x st) := by
  unfold completeKeep
  refine L.asks fun s _ => ?_
  split
  · exact L.pure _
  · exact L.bind (ok_detachRequest L x _ st) fun _ => ok_doneCallback L _ _ _

theorem ok_cancelQueued (h : Nat) : ok (cancelQueued h) :=
  L.asks fun _ _ => L.bind (ok_freeSlot L h) fun _ => ok_doneCallback L _ _ _

theorem ok_chainResult (a : Word) (k : Nat) (f : Nat → Nat) : ∀ (l : List Nat) (r : ChunkResult), ok (chainResult a k f l r)
  | [], _ => L.pure _
  | _ :: l, _ => L.bind (L.mr _) fun _ => ok_ite L (fun _ => ok_chainResult a k f l _) fun _ => L.pure _

theorem ok_chunkResult (x : XRef) (h : CanX can x) : ok (chunkResult x) := by
  unfold chunkResult
  refine L.asks fun s _ => ok_ite L (fun _ => ?_) fun _ => ?_
  · exact L.bind (L.descBase _) fun _ => L.bind (ok_chainResult L _ _ _ _ _) fun _ => L.pure _
  · exact L.bind (L.rd (can_sizOf L h)) fun _ => L.pure _

theorem ok_advanceWith (x : XRef) (b : Bool) {p : M Unit} (h : CanX can x) (g : CanGlob can) (hp : ok p) :
    ok (advanceWith x b p) := by
  unfold advanceWith
  refine L.asks fun s _ => ?_
  dsimp only
  split
  · exact ok_programChunk L x h g
  · exact L.bind (ok_modX L _ _) fun _ => ok_programChunk L x h g
  · exact hp

theorem ok_advance (x : XRef) (b : Bool) (h : CanX can x) (g : CanGlob can) : ok (advance x b) :=
  ok_advanceWith L x b h g (ok_completeRequest L x _ h g)

theorem ok_countMoved (x : XRef) (c : Bool) (n : Nat) : ok (countMoved x c n) := ok_doIf L fun _ => ok_modReq L x _

theorem ok_epChunkDone (e : EpRef) (h : CanX can (.ep e)) (g : CanGlob can) : ok (epChunkDone e) := by
  unfold epChunkDone
  refine L.asks fun s _ => ok_ite L (fun _ => L.pure _) fun _ => L.bind (ok_chunkResult L _ h) fun _ => ?_
  exact ok_ite L (fun _ => ok_completeRequest L _ _ h g) fun _ => L.bind (ok_countMoved L _ _ _) fun _ =>
    ok_advance L _ _ h g

/-! Endpoints: abort, enable, disable, stall. -/

theorem ok_deactivate (e : EpRef) (h : CanX can (.ep e)) : ok (deactivate e) :=
  L.asks fun _ _ => L.bind (L.wr _ (can_epCtl L h.1)) fun _ => L.bind (ok_update L _ h.2.daintmsk) fun _ =>
    L.bind (ok_doIf L fun _ => ok_setEmptyMask L _ _ h.2) fun _ => ok_modEp L _ _

theorem ok_finishAbort (e : EpRef) (h : CanX can (.ep e)) (g : CanGlob can) : ok (finishAbort e) := by
  unfold finishAbort
  refine L.asks fun s _ => L.bind (ok_doIf L fun _ => ok_modEp L _ _) fun _ => ?_
  refine L.bind (ok_doIf L fun _ => ok_modX L _ _) fun _ => ?_
  refine L.bind (ok_doIf L fun _ => ok_completeRequest L _ _ h g) fun _ => ?_
  refine L.bind (ok_doIf L fun _ => ok_forEach L fun _ _ => ok_cancelQueued L _) fun _ => ?_
  exact L.asks fun _ _ => ok_doIf L fun _ => ok_deactivate L e h

theorem ok_abortEndpoint (e : EpRef) (st : Status) (b : Bool) (h : CanX can (.ep e)) (g : CanGlob can) :
    ok (abortEndpoint e st b) := by
  unfold abortEndpoint
  refine L.asks fun s _ => ok_ite L (fun _ => ok_modEp L _ _) fun _ => L.bind (ok_modEp L _ _) fun _ => ?_
  refine L.bind (L.rd (can_epCtl L h.1)) fun _ => L.asks fun _ _ => ok_ite L (fun _ => ?_) fun _ => ok_finishAbort L e h g
  exact L.bind (ok_modEp L _ _) fun _ => ok_doIf L fun _ => L.bind (ok_update L _ (can_epCtl L h.1)) fun _ =>
    ok_update L _ (can_epMsk L h.2)

theorem ok_enableAccepted (d : Epd) (h : CanX can (.ep (epdRef d))) : ok (enableAccepted d) :=
  L.critical <| L.asks fun _ _ => L.bind (ok_modEp L _ _) fun _ =>
    L.bind (ok_doIf L fun _ => L.wr _ (can_epCtl L h.1)) fun _ => ok_update L _ h.2.daintmsk

theorem enableCheck_ok_lt {s : State} {d : Epd} (hc : s.enableCheck d = .ok) :
    (epdRef d).num.val < s.core.caps.nEp := by
  by_contra hn
  have : epdBad s.core.caps.nEp d = true := by simp [epdBad, Nat.le_of_not_lt hn]
  simp [State.enableCheck, this] at hc

theorem ok_enableEndpoint (d : Epd) (hd : CanDev can)
    (hep : ∀ s, I s → ∀ n : Fin 16, n.val < s.core.caps.nEp → CanEp can n) : ok (enableEndpoint d) := by
  unfold enableEndpoint
  refine L.asks fun s hs => ok_ite L (fun hc => ?_) fun _ => L.pure _
  exact L.bind (ok_enableAccepted L d ⟨hep s hs _ (enableCheck_ok_lt L hc), hd⟩) fun _ => L.pure _

theorem ok_disableEndpoint (e : EpRef) (h : CanX can (.ep e)) (g : CanGlob can) : ok (disableEndpoint e) := by
  unfold disableEndpoint
  refine L.asks fun s _ => ok_ite L (fun _ => L.pure _) fun _ => L.critical ?_
  refine L.bind (ok_modEp L _ _) fun _ => L.asks fun _ _ => L.bind (ok_doIf L fun _ => ok_abortEndpoint L e _ _ h g) fun _ => ?_
  exact L.asks fun _ _ => L.bind (ok_doIf L fun _ => ok_deactivate L e h) fun _ => L.pure _

theorem ok_epSetStall (e : EpRef) (h : CanX can (.ep e)) : ok (epSetStall e) :=
  L.bind (L.rd (can_epCtl L h.1)) fun _ => L.bind (L.wr _ (can_epCtl L h.1)) fun _ =>
    L.bind (ok_doIf L fun _ => ok_modEp L _ _) fun _ => L.bind (ok_completeKeep L _ _) fun _ => ok_modEp L _ _

theorem ok_epClearStall (e : EpRef) (h : CanX can (.ep e)) (g : CanGlob can) : ok (epClearStall e) :=
  L.asks fun _ _ => ok_ite L (fun _ => L.bind (ok_update L _ (can_epCtl L h.1)) fun _ =>
    L.bind (ok_modEp L _ _) fun _ => ok_nextRequest L _ h g) fun _ => L.pure _

theorem ok_storeReceived (x : XRef) (bs : List Byte) : ok (storeReceived x bs) :=
  L.bind (L.act fun _ hs => L.bytes _ _ hs) fun _ => ok_modReq L x _

theorem ok_popWords (g : CanGlob can) : ∀ n, ok (popWords n)
  | 0 => L.pure _
  | n + 1 => L.bind (L.rd (g.fifo 0)) fun _ => L.bind (ok_popWords g n) fun _ => L.pure _

/-! Channels: halt, submit, cancel. -/

theorem ok_endChannel (c : Fin 16) (st : Status) (h : CanX can (.ch c)) (g : CanGlob can) : ok (endChannel c st) :=
  L.asks fun _ _ => ok_ite L (fun _ => ok_channelComplete L c h.1 h.2 g) fun _ => ok_completeRequest L _ _ h g

theorem ok_finishChannel (c : Fin 16) (st : Status) (h : CanX can (.ch c)) (g : CanGlob can) :
    ok (finishChannel c st) :=
  L.asks fun _ _ => L.bind (ok_doIf L fun _ => ok_modX L _ _) fun _ =>
    L.bind (ok_endChannel L c st h g) fun _ => ok_forEach L fun _ _ => ok_cancelQueued L _

theorem ok_channelRearm (c : Fin 16) (h : CanX can (.ch c)) (g : CanGlob can) : ok (channelRearm c) :=
  L.bind (ok_modCh L _ _) fun _ => ok_programChunk L _ h g

theorem ok_channelHalted (c : Fin 16) (r : HaltReason) (h : CanX can (.ch c)) (g : CanGlob can) :
    ok (channelHalted c r) := by
  cases r
  case nak => exact ok_channelRearm L c h g
  case ack => exact L.bind (ok_modCh L _ _) fun _ => ok_channelRearm L c h g
  case xactErr =>
    exact L.asks fun _ _ => ok_ite L (fun _ => ok_finishChannel L c _ h g) fun _ =>
      L.bind (ok_modCh L _ _) fun _ => ok_channelRearm L c h g
  all_goals exact ok_finishChannel L c _ h g

theorem ok_halt (c : Fin 16) (r : HaltReason) (h : CanX can (.ch c)) (g : CanGlob can) : ok (halt c r) := by
  unfold halt
  refine L.asks fun s _ => ok_ite L (fun _ => L.pure _) fun _ => L.bind (L.rd h.1.hcchar) fun _ => ?_
  refine ok_ite L (fun _ => L.bind (ok_modCh L _ _) fun _ => ok_channelHalted L c r h g) fun _ => ?_
  refine L.bind (ok_queueSpace L c h.2 g) fun _ => ok_ite L (fun _ => ?_) fun _ => ?_
  · exact L.bind (ok_modCh L _ _) fun _ => ok_unmaskFifoEmpty L c g
  · exact L.bind (ok_modCh L _ _) fun _ => L.bind (ok_update L _ h.1.hcintmsk) fun _ =>
      L.bind (ok_hccharValue L c h.2) fun _ => L.bind (L.wr _ h.1.hcchar) fun _ => ok_modCh L _ _

theorem ok_retryDeferredHalt (c : Fin 16) (h : CanX can (.ch c)) (g : CanGlob can) : ok (retryDeferredHalt c) := by
  unfold retryDeferredHalt
  refine L.asks fun s _ => ?_
  split
  · exact L.pure _
  · exact L.bind (ok_modCh L _ _) fun _ => ok_halt L c _ h g

theorem ok_startOrQueue (x : XRef) (h : Nat) (hx : CanX can x) (g : CanGlob can) : ok (startOrQueue x h) :=
  L.asks fun _ _ => ok_ite L (fun _ => ok_startTransfer L x h hx g) fun _ => ok_modX L _ _

theorem ok_channelSettled (c : Fin 16) (h : CanX can (.ch c)) (g : CanGlob can) : ok (channelSettled c) :=
  L.asks fun _ _ => L.bind (ok_doIf L fun _ => ok_modX L _ _) fun _ =>
    L.bind (ok_channelComplete L c h.1 h.2 g) fun _ => ok_forEach L fun _ _ => ok_cancelQueued L _

theorem ok_submitOn (x : XRef) (b : Word) (n : Nat) (z : Bool) (cb : CbId) {u : M Unit} (hu : ok u)
    (hx : CanX can x) (g : CanGlob can) : ok (submitOn x b n z cb u) := by
  unfold submitOn
  refine L.bind (ok_poolAlloc L) fun o => ?_
  split
  · exact L.bind hu fun _ => L.pure _
  · exact L.bind (ok_rec L fun s => same_modReqAt L s _ _) fun _ => L.bind (ok_startOrQueue L x _ hx g) fun _ =>
      L.pure _

theorem submitCheck_ok_lt {s : State} {e : EpRef} (h : s.submitCheck e = .ok) : e.num.val < s.core.caps.nEp := by
  by_contra hn
  simp [State.submitCheck, Nat.le_of_not_lt hn] at h

theorem ok_submitEp (e : EpRef) (b : Word) (n : Nat) (z : Bool) (cb : CbId) (hd : CanDev can) (g : CanGlob can)
    (hep : ∀ s, I s → ∀ n : Fin 16, n.val < s.core.caps.nEp → CanEp can n) : ok (submitEp e b n z cb) := by
  unfold submitEp
  refine L.asks fun s hs => ok_ite L (fun hc => ?_) fun _ => L.pure _
  exact ok_submitOn L _ _ _ _ _ (L.pure _) ⟨hep s hs _ (submitCheck_ok_lt L hc), hd⟩ g

theorem find_channel_lt {s : State} {p : Fin 16 → Bool} {c : Fin 16} (h : s.channels.find? p = some c) :
    c.val < s.core.caps.nCh := by
  have := List.mem_of_find?_eq_some h
  simpa [State.channels] using this

theorem channelFor_lt {s : State} {t : HcParams} {c : Fin 16}
    (h : s.channelFor t = .inUse c ∨ s.channelFor t = .fresh c) : c.val < s.core.caps.nCh := by
  unfold State.channelFor at h
  split at h
  · next d hd =>
    split at h
    · simp only [ChanFor.inUse.injEq, reduceCtorEq, or_false] at h
      subst h
      exact find_channel_lt L hd
    · simp at h
  · split at h
    · next d hd =>
      simp only [reduceCtorEq, ChanFor.fresh.injEq, false_or] at h
      subst h
      exact find_channel_lt L hd
    · simp at h

theorem ok_submitPipe (t : HcParams) (b : Word) (n : Nat) (z : Bool) (cb : CbId) (hd : CanHost can) (g : CanGlob can)
    (hch : ∀ s, I s → ∀ c : Fin 16, c.val < s.core.caps.nCh → CanCh can c) : ok (submitPipe t b n z cb) := by
  unfold submitPipe
  refine L.asks fun s hs => ?_
  dsimp only [id]
  split
  · exact L.pure _
  · exact L.pure _
  · next c hc =>
    exact ok_ite L (fun _ => L.pure _) fun _ =>
      ok_submitOn L _ _ _ _ _ (L.pure _) ⟨hch s hs c (channelFor_lt L (.inl hc)), hd⟩ g
  · next c hc =>
    exact L.bind (ok_modCh L _ _) fun _ =>
      ok_submitOn L _ _ _ _ _ (ok_modCh L _ _) ⟨hch s hs c (channelFor_lt L (.inr hc)), hd⟩ g

theorem ok_cancelChannel (c : Fin 16) (h : CanX can (.ch c)) (g : CanGlob can) : ok (cancelChannel c) :=
  L.asks fun _ _ => ok_ite L (fun _ => ok_modCh L _ _) fun _ => ok_halt L c _ h g

theorem ok_cancelTarget (x : XRef) (h : CanX can x) (g : CanGlob can) : ok (cancelTarget x) := by
  cases x with
  | ep e => exact ok_abortEndpoint L e _ _ h g
  | ch c =>
    exact L.bind (ok_modCh L _ _) fun _ => ok_cancelChannel L c h g

end

end Sys2Proof.Machine
end

