-- ==== Sys2Proof/Laws/Handlers.lean ====
section
/-! SUPPORT. The properties of Laws/Sound.lean carried through the isochronous scheduler, endpoint 0, the event handlers and
the dispatcher. -/

namespace Sys2Proof.Machine

open Sys2Proof

/-- What the handlers of the device role need: the registers of the existing endpoints, endpoint 0 among them, and
descriptors of alternate settings that name existing endpoints. -/
structure DevRole (I : State → Prop) (can : Reg → Prop) : Prop where
  glob : CanGlob can
  dev : CanDev can
  grstctl : can .GRSTCTL
  zero : CanEp can 0
  eps : ∀ s, I s → ∀ n : Fin 16, n.val < s.core.caps.nEp → CanEp can n
  ifaces : ∀ s, I s → ∀ i a l, s.ifaceEndpoints i a = some l → ∀ d ∈ l, CanEp can (epdRef d).num

/-- What the handlers of the host role need: the registers of the existing channels. -/
structure HostRole (I : State → Prop) (can : Reg → Prop) : Prop where
  glob : CanGlob can
  host : CanHost can
  chs : ∀ s, I s → ∀ c : Fin 16, c.val < s.core.caps.nCh → CanCh can c

section
variable {I : State → Prop} {can : Reg → Prop} {ok : {α : Type} → M α → Prop} (L : Sound I can ok)
include L

/-! The isochronous scheduler. -/

theorem ok_currentFrame (hd : can .DSTS) (hh : can .HFNUM) : ok currentFrame :=
  L.asks fun _ _ => ok_ite L (fun _ => L.bind (L.rd hd) fun _ => L.pure _) fun _ => L.bind (L.rd hh) fun _ => L.pure _

theorem ok_isoBuildSlot (x : XRef) (b : Bool) (j : Nat) : ok (isoBuildSlot x b j) := by
  unfold isoBuildSlot
  refine L.asks fun s _ => ?_
  split
  · exact L.pure _
  · exact L.bind (ok_writeDesc L _ _ _) fun _ => ok_modIso L _ _

theorem ok_isoBuildChain (x : XRef) (b : Bool) (n : Nat) : ok (isoBuildChain x b n) :=
  ok_forEach L fun _ _ => ok_isoBuildSlot L _ _ _

theorem ok_isoArm (x : XRef) (b : Bool) (h : CanX can x) : ok (isoArm x b) := by
  unfold isoArm
  refine L.asks fun s _ => ?_
  split
  · exact L.pure _
  · cases x with
    | ep e =>
      exact L.bind (ok_doIf L fun _ => L.wr _ (can_epSiz L h.1)) fun _ => L.bind (L.wr _ (can_epDma L h.1)) fun _ =>
        ok_update L _ (can_epCtl L h.1)
    | ch c => exact L.bind (ok_programChannelHead L c h.1 h.2) fun _ => ok_startChannelChain L c _ h.1 h.2

theorem ok_readSlots (tx : Bool) (a : Word) (p n r : Nat) : ∀ l, ok (readSlots tx a p n r l)
  | [] => L.pure _
  | _ :: l => L.bind (L.mr _) fun _ => L.bind (ok_readSlots tx a p n r l) fun _ => L.pure _

theorem ok_isoArmNext (x : XRef) (b : Bool) (h : CanX can x) : ok (isoArmNext x b) := by
  unfold isoArmNext
  refine L.asks fun s _ => ?_
  cases x with
  | ep e => exact ok_ite L (fun _ => ok_modEp L _ _) fun _ => ok_isoArm L _ _ h
  | ch c => exact ok_ite L (fun _ => ok_modCh L _ _) fun _ => ok_isoArm L _ _ h

theorem ok_isoArmCurrent (x : XRef) (h : CanX can x) : ok (isoArmCurrent x) := by
  unfold isoArmCurrent
  refine L.asks fun s _ => ?_
  split
  · exact L.pure _
  · exact ok_isoArm L _ _ h

theorem ok_isoResume (e : EpRef) (h : CanX can (.ep e)) : ok (isoResume e) :=
  L.asks fun _ _ => ok_ite L (fun _ => ok_modEp L _ _) fun _ =>
    ok_doIf L fun _ => L.bind (ok_markActive L _) fun _ => ok_isoArmCurrent L _ h

theorem ok_startResume (e : EpRef) (h : CanX can (.ep e)) (g : CanGlob can) : ok (startResume e) :=
  L.asks fun _ _ => ok_doIf L fun _ => L.bind (ok_markActive L _) fun _ => ok_programChunk L _ h g

theorem ok_epUnstall (e : EpRef) (h : CanX can (.ep e)) (g : CanGlob can) : ok (epUnstall e) :=
  L.asks fun _ _ => L.bind (ok_epClearStall L e h g) fun _ =>
    L.bind (ok_doIf L fun _ => ok_startResume L e h g) fun _ =>
      ok_doIf L fun _ => L.bind (ok_modEp L _ _) fun _ => ok_isoResume L e h

theorem ok_isoChainComplete (x : XRef) (n : Nat) (h : CanX can x) : ok (isoChainComplete x n) := by
  unfold isoChainComplete
  refine L.asks fun s _ => ?_
  split
  · exact L.pure _
  · exact L.bind (ok_readSlots L _ _ _ _ _ _) fun _ => L.bind (ok_modIso L _ _) fun _ =>
      L.bind (ok_modIso L _ _) fun _ => L.bind (ok_isoBuildChain L _ _ _) fun _ => L.bind (ok_isoArmNext L x _ h) fun _ =>
      ok_callback L _

theorem ok_isoDropOne (n : Fin 16) (h : CanEp can n) (d : CanDev can) : ok (isoDropOne n) := by
  unfold isoDropOne
  refine L.asks fun s _ => ?_
  split
  · exact L.pure _
  · exact L.bind (L.rd h.outCtl) fun _ => ok_ite L (fun _ => L.pure _) fun _ => L.bind (L.rd h.outSiz) fun _ =>
      L.bind (L.wr _ h.outInt) fun _ => ok_isoChainComplete L _ _ ⟨h, d⟩

theorem ok_evtIsooutdrop (R : DevRole I can) : ok evtIsooutdrop := by
  unfold evtIsooutdrop
  refine L.bind (L.wr _ R.glob.gintsts) fun _ => L.asks fun s hs => ok_forEach L fun n hn => ?_
  have : n.val < s.core.caps.nEp := by simpa using (List.mem_filter.mp hn).2 |> fun h => (by simpa using h : _ ∧ _).2
  exact ok_isoDropOne L n (R.eps s hs n this) R.dev

/-! Endpoint 0. -/

theorem ok_setEp0State (v : Ep0State) : ok (setEp0State v) := ok_modEp0 L _

theorem ok_clearActive (x : XRef) : ok (clearActive x) := ok_modX L _ _

theorem ok_ep0ArmSetup (R : DevRole I can) : ok ep0ArmSetup :=
  L.bind (L.wr _ R.zero.outSiz) fun _ => L.asks fun _ _ => L.bind (ok_doIf L fun _ => L.wr _ R.zero.outDma) fun _ =>
    L.bind (ok_doIf L fun _ => L.bind (L.descBase _) fun _ => L.bind (ok_writeDesc L _ _ _) fun _ =>
      L.wr _ R.zero.outDma) fun _ => ok_update L _ R.zero.outCtl

theorem ok_ep0DisableIn (R : DevRole I can) : ok ep0DisableIn :=
  L.bind (ok_update L _ R.zero.inCtl) fun _ => L.asks fun _ _ =>
    L.bind (ok_poll L (L.bind (L.rd R.zero.inInt) fun _ => L.pure _) _) fun _ =>
    L.bind (ok_doIf L fun _ => ok_log L _) fun _ => L.bind (L.wr _ R.zero.inInt) fun _ =>
    L.bind (ok_flushTxFifo L _ R.grstctl) fun _ => ok_doIf L fun _ => ok_log L _

theorem ok_ep0Abandon (R : DevRole I can) : ok ep0Abandon :=
  L.bind (L.rd R.zero.inCtl) fun _ => L.bind (ok_doIf L fun _ => ok_ep0DisableIn L R) fun _ => L.asks fun _ _ =>
    L.bind (ok_doIf L fun _ => ok_setEmptyMask L _ _ R.dev) fun _ => L.bind (ok_modX L _ _) fun _ =>
    ok_clearActive L _

theorem ok_ep0Stall (R : DevRole I can) : ok ep0Stall :=
  L.bind (ok_ep0Abandon L R) fun _ => L.bind (ok_update L _ R.zero.inCtl) fun _ =>
    L.bind (ok_update L _ R.zero.outCtl) fun _ => L.bind (ok_setEp0State L _) fun _ => ok_ep0ArmSetup L R

theorem ok_ep0Refuse (R : DevRole I can) : ok ep0Refuse := L.asks fun _ _ => ok_doIf L fun _ => ok_ep0Stall L R

theorem ok_setEp0Request (n : Nat) (z : Bool) : ok (setEp0Request n z) := ok_modEp0 L _

theorem ok_ep0Send (n : Nat) (z : Bool) (R : DevRole I can) : ok (ep0Send n z) :=
  L.bind (ok_setEp0Request L n z) fun _ => L.bind (ok_modX L _ _) fun _ =>
    ok_programChunk L ep0In ⟨R.zero, R.dev⟩ R.glob

theorem ok_ep0Receive (n : Nat) (R : DevRole I can) : ok (ep0Receive n) :=
  L.asks fun _ _ => ok_ite L (fun _ => ok_ep0Stall L R) fun _ => L.bind (ok_setEp0Request L n _) fun _ =>
    L.bind (ok_modX L _ _) fun _ => ok_programChunk L ep0Out ⟨R.zero, R.dev⟩ R.glob

theorem ok_getStatusReq (f : SetupFields) : ok (getStatusReq f) := L.asks fun _ _ => L.pure _

theorem epListed_lt {s : State} {w : BitVec 16} (h : s.epListed w = true) : (indexEp w).num.val < s.core.caps.nEp := by
  simp only [State.epListed, Bool.and_eq_true, decide_eq_true_eq] at h
  exact h.1

theorem ok_clearFeatureReq (f : SetupFields) (R : DevRole I can) : ok (clearFeatureReq f) := by
  unfold clearFeatureReq
  refine L.asks fun s hs => ok_ite L (fun _ => L.pure _) fun _ => ok_ite L (fun _ => ?_) fun _ => ?_
  · exact L.bind (ok_modEp0 L _) fun _ => L.pure _
  · refine ok_ite L (fun _ => ok_ite L (fun _ => L.pure _) fun _ => ok_ite L (fun h => ?_) fun _ => L.pure _)
      fun _ => L.pure _
    exact L.bind (ok_epUnstall L _ ⟨R.eps s hs _ (epListed_lt L h), R.dev⟩ R.glob) fun _ => L.pure _

theorem ok_setFeatureReq (f : SetupFields) (R : DevRole I can) : ok (setFeatureReq f) := by
  unfold setFeatureReq
  refine L.asks fun s hs => ok_ite L (fun _ => L.pure _) fun _ => ok_ite L (fun _ => ?_) fun _ => ?_
  · exact L.bind (ok_modEp0 L _) fun _ => L.pure _
  · refine ok_ite L (fun _ => ok_ite L (fun _ => L.pure _) fun _ => ok_ite L (fun h => ?_) fun _ => L.pure _)
      fun _ => L.pure _
    exact L.bind (ok_epSetStall L _ ⟨R.eps s hs _ (epListed_lt L h), R.dev⟩) fun _ => L.pure _

theorem ok_setDevAddr (a : Nat) (d : CanDev can) : ok (setDevAddr a) := ok_updateAt L _ d.dcfg

theorem ok_setAddressReq (f : SetupFields) (R : DevRole I can) : ok (setAddressReq f) := by
  unfold setAddressReq
  exact ok_ite L (fun _ => L.pure _) fun _ => L.bind (ok_modEp0 L _) fun _ => L.bind (ok_setDevAddr L _ R.dev) fun _ =>
    L.pure _

theorem ok_classAnswer : ok classAnswer := by
  unfold classAnswer
  refine L.asks fun s _ => ?_
  split
  all_goals exact L.bind (ok_rec L fun _ => by constructor <;> rfl) fun _ => L.pure _

theorem ok_delegate (p : SetupPkt) : ok (delegate p) := by
  unfold delegate
  refine L.asks fun _ _ => L.bind (ok_callback L _) fun _ => L.bind (ok_classAnswer L) fun o => ?_
  cases o with
  | none => exact L.pure _
  | some bs =>
    exact L.asks fun _ _ => L.bind (L.assert _ _) fun _ => L.bind (L.act fun _ hs => L.bytes _ _ hs) fun _ => L.ask _

theorem ok_getDescriptorReq (f : SetupFields) : ok (getDescriptorReq f) := by
  unfold getDescriptorReq
  exact L.asks fun _ _ => ok_ite L (fun _ => L.pure _) fun _ => ok_ite L (fun _ => ok_delegate L _) fun _ => L.pure _

theorem ok_disableQuietly (e : EpRef) (h : CanX can (.ep e)) (g : CanGlob can) : ok (disableQuietly e) :=
  L.bind (ok_disableEndpoint L e h g) fun _ => L.pure _

theorem ok_disableIfEnabled (e : EpRef) (h : CanX can (.ep e)) (g : CanGlob can) : ok (disableIfEnabled e) :=
  L.asks fun _ _ => ok_doIf L fun _ => ok_disableQuietly L e h g

theorem dataEndpoints_lt {s : State} {e : EpRef} (h : e ∈ s.dataEndpoints) : e.num.val < s.core.caps.nEp := by
  simp only [State.dataEndpoints, List.mem_flatMap, List.mem_filter, Bool.and_eq_true, decide_eq_true_eq] at h
  obtain ⟨n, ⟨-, -, hn⟩, he⟩ := h
  simp only [List.mem_cons, List.not_mem_nil, or_false] at he
  rcases he with rfl | rfl <;> exact hn

theorem ok_deactivateAll (R : DevRole I can) : ok deactivateAll :=
  L.asks fun s hs => ok_forEach L fun e he =>
    ok_disableIfEnabled L e ⟨R.eps s hs _ (dataEndpoints_lt L he), R.dev⟩ R.glob

theorem ok_activateConfiguration (R : DevRole I can) : ∀ (l : List Epd) (done : List EpRef),
    (∀ e ∈ done, CanEp can e.num) → ok (activateConfiguration l done)
  | [], _, _ => L.pure _
  | d :: ds, done, hd => by
    unfold activateConfiguration
    refine L.asks fun s hs => ok_ite L (fun hc => ?_) fun _ => ?_
    · have he := R.eps s hs _ (enableCheck_ok_lt L hc)
      exact L.bind (ok_enableAccepted L d ⟨he, R.dev⟩) fun _ =>
        ok_activateConfiguration R ds _ (by simpa using ⟨he, hd⟩)
    · exact L.bind (ok_forEach L fun e he => ok_disableQuietly L e ⟨hd e he, R.dev⟩ R.glob) fun _ => L.pure _

theorem ok_dropConfiguration (R : DevRole I can) : ok dropConfiguration :=
  L.bind (ok_deactivateAll L R) fun _ => ok_modEp0 L _

theorem ok_setConfigurationReq (f : SetupFields) (R : DevRole I can) : ok (setConfigurationReq f) := by
  unfold setConfigurationReq
  refine L.asks fun s _ => ok_ite L (fun _ => L.pure _) fun _ => ?_
  dsimp only
  refine ok_ite L (fun _ => L.bind (ok_dropConfiguration L R) fun _ => L.pure _) fun _ => ?_
  split
  · exact L.pure _
  · refine L.bind (ok_doIf L fun _ => ok_dropConfiguration L R) fun _ =>
      L.bind (ok_activateConfiguration L R _ [] (by simp)) fun _ => ok_ite L (fun _ => ?_) fun _ => L.pure _
    exact L.bind (ok_modEp0 L _) fun _ => L.pure _

theorem ok_setInterfaceReq (f : SetupFields) (R : DevRole I can) : ok (setInterfaceReq f) := by
  unfold setInterfaceReq
  refine L.asks fun s hs => ok_ite L (fun _ => L.pure _) fun _ => ?_
  split
  · exact L.pure _
  · next l hl =>
    refine L.bind (ok_forEach L fun d hd => ?_) fun _ =>
      L.bind (ok_activateConfiguration L R _ [] (by simp)) fun _ => L.pure _
    exact ok_disableIfEnabled L _ ⟨R.ifaces s hs _ _ l hl d hd, R.dev⟩ R.glob

theorem ok_dispatchSetup (p : SetupPkt) (R : DevRole I can) : ok (dispatchSetup p) := by
  unfold dispatchSetup
  split
  · exact ok_getStatusReq L _
  · exact ok_clearFeatureReq L _ R
  · exact ok_setFeatureReq L _ R
  · exact ok_setAddressReq L _ R
  · exact ok_getDescriptorReq L _
  · exact ok_setConfigurationReq L _ R
  · exact ok_setInterfaceReq L _ R
  · exact ok_delegate L _

theorem ok_ep0Apply (n : Nat) (r : ReqResult) (R : DevRole I can) : ok (ep0Apply n r) := by
  unfold ep0Apply
  refine L.asks fun s _ => ?_
  cases r with
  | stall => exact ok_ep0Refuse L R
  | ack =>
    dsimp only
    split
    · exact ok_ep0Send L _ _ R
    · exact ok_ep0Stall L R
    · exact L.pure _
  | reply bs =>
    dsimp only
    split
    · exact ok_ep0Send L _ _ R
    · exact L.bind (L.act fun _ hs => L.bytes _ _ hs) fun _ => L.bind (ok_modEp0 L _) fun _ => ok_ep0Send L _ _ R
    · exact L.pure _

theorem ok_ep0AfterData (r : ReqResult) (R : DevRole I can) : ok (ep0AfterData r) := by
  cases r with
  | stall => exact ok_ep0Stall L R
  | ack => exact L.bind (ok_setEp0State L _) fun _ => ok_ep0Send L _ _ R
  | reply bs => exact L.bind (ok_setEp0State L _) fun _ => ok_ep0Send L _ _ R

theorem ok_ep0Conclude (n : Nat) (r : ReqResult) (R : DevRole I can) : ok (ep0Conclude n r) :=
  L.asks fun _ _ => ok_ite L (fun _ => ok_ep0AfterData L r R) fun _ => ok_ep0Apply L n r R

theorem ok_readSetup (a : Word) : ok (readSetup a) :=
  L.bind (L.mr _) fun _ => L.bind (L.mr _) fun _ => ok_modEp0 L _

theorem ok_evtSetup0 (R : DevRole I can) : ok evtSetup0 := by
  unfold evtSetup0
  refine L.bind (L.wr _ R.zero.outInt) fun _ => L.asks fun s _ => ok_ite L (fun _ => L.pure _) fun _ => ?_
  refine L.bind (ok_doIf L fun _ => ok_readSetup L _) fun _ => L.asks fun _ _ => L.bind (ok_ep0Abandon L R) fun _ => ?_
  refine L.bind (ok_modEp0 L _) fun _ => L.bind (ok_setEp0State L _) fun _ => ok_ite L (fun _ => ok_ep0Receive L _ R) fun _ => ?_
  exact L.bind (ok_dispatchSetup L _ R) fun _ => ok_ep0Apply L _ _ R

theorem ok_ep0InComplete (R : DevRole I can) : ok ep0InComplete := by
  have hx : CanX can ep0In := ⟨R.zero, R.dev⟩
  unfold ep0InComplete
  refine L.asks fun s _ => ok_ite L (fun _ => L.pure _) fun _ => ?_
  split
  · refine L.bind (ok_chunkResult L _ hx) fun _ => ok_ite L (fun _ => ok_ep0Stall L R) fun _ => ?_
    refine L.bind (ok_countMoved L _ _ _) fun _ => ok_advanceWith L _ _ hx R.glob ?_
    exact L.bind (ok_clearActive L _) fun _ => L.bind (ok_setEp0State L _) fun _ => ok_ep0Receive L _ R
  · exact L.bind (ok_clearActive L _) fun _ => L.bind (ok_setEp0State L _) fun _ => ok_ep0ArmSetup L R
  all_goals exact ok_clearActive L _

theorem ok_ep0OutEnd (R : DevRole I can) : ok ep0OutEnd := by
  unfold ep0OutEnd
  refine L.bind (ok_clearActive L _) fun _ => L.asks fun s _ => ok_ite L (fun _ => ok_ep0Stall L R) fun _ => ?_
  exact L.bind (ok_dispatchSetup L _ R) fun _ => ok_ep0AfterData L _ R

theorem ok_ep0OutComplete (R : DevRole I can) : ok ep0OutComplete := by
  have hx : CanX can ep0Out := ⟨R.zero, R.dev⟩
  unfold ep0OutComplete
  refine L.asks fun s _ => ok_ite L (fun _ => L.pure _) fun _ => ?_
  split
  · refine L.bind (ok_chunkResult L _ hx) fun _ => ok_ite L (fun _ => ok_ep0Stall L R) fun _ => ?_
    refine L.bind (ok_countMoved L _ _ _) fun _ => L.asks fun _ _ => ?_
    exact ok_ite L (fun _ => ok_programChunk L _ hx R.glob) fun _ => ok_ep0OutEnd L R
  · exact L.bind (ok_clearActive L _) fun _ => L.bind (ok_setEp0State L _) fun _ => ok_ep0ArmSetup L R
  all_goals exact ok_clearActive L _

/-! Bus events. -/

theorem ok_evtUsbsusp (g : CanGlob can) : ok evtUsbsusp := L.bind (L.wr _ g.gintsts) fun _ => ok_callback L _

theorem ok_evtWkupint (g : CanGlob can) : ok evtWkupint := L.bind (L.wr _ g.gintsts) fun _ => ok_callback L _

theorem ok_evtUsbrst (R : DevRole I can) : ok evtUsbrst :=
  L.bind (L.wr _ R.glob.gintsts) fun _ => L.bind (ok_ep0Abandon L R) fun _ => L.bind (ok_setEp0State L _) fun _ =>
    L.bind (ok_deactivateAll L R) fun _ => L.bind (ok_setDevAddr L _ R.dev) fun _ => L.bind (ok_modEp0 L _) fun _ =>
    ok_callback L _

theorem ok_evtEnumdone (R : DevRole I can) : ok evtEnumdone :=
  L.bind (L.wr _ R.glob.gintsts) fun _ => L.bind (L.wr _ R.zero.inCtl) fun _ => L.bind (L.wr _ R.zero.outCtl) fun _ =>
    L.bind (ok_modEp L _ _) fun _ => L.bind (ok_modEp L _ _) fun _ => L.bind (ok_setEp0State L _) fun _ =>
    ok_ep0ArmSetup L R

/-! Unhandled bits and the events of the device endpoints. -/

theorem ok_unhandledBit (r : Reg) (k : Fin 32) (h : can r) (hm : ∀ m, maskOf r = some m → can m) :
    ok (unhandledBit r k) := by
  unfold unhandledBit
  refine L.bind (L.assert _ _) fun _ => L.bind (L.wr _ h) fun _ => ?_
  split
  · exact L.pure _
  · next m hr => exact L.bind (L.rd h) fun _ => ok_doIf L fun _ => ok_update L _ (hm m hr)

theorem ok_unhandledTop (k : Fin 32) (g : CanGlob can) : ok (unhandledBit .GINTSTS k) :=
  ok_unhandledBit L _ _ g.gintsts fun m hm => by
    cases hm
    exact g.gintmsk

theorem ok_unhandledOtg (k : Fin 32) (g : CanGlob can) : ok (unhandledBit .GOTGINT k) :=
  ok_unhandledBit L _ _ g.gotgint fun m hm => by cases hm

theorem ok_unhandledIn (n : Fin 16) (k : Fin 32) (h : CanEp can n) (d : CanDev can) : ok (unhandledBit (.DIEPINT n) k) :=
  ok_unhandledBit L _ _ h.inInt fun m hm => by
    cases hm
    exact d.diepmsk

theorem ok_unhandledOut (n : Fin 16) (k : Fin 32) (h : CanEp can n) (d : CanDev can) :
    ok (unhandledBit (.DOEPINT n) k) :=
  ok_unhandledBit L _ _ h.outInt fun m hm => by
    cases hm
    exact d.doepmsk

theorem ok_unhandledCh (c : Fin 16) (k : Fin 32) (h : CanCh can c) : ok (unhandledBit (.HCINT c) k) :=
  ok_unhandledBit L _ _ h.hcint fun m hm => by
    cases hm
    exact h.hcintmsk

theorem ok_endpointError (e : EpRef) (st : Status) (h : CanEp can e.num) (R : DevRole I can) :
    ok (endpointError e st) := by
  unfold endpointError
  exact ok_ite L (fun _ => ok_ep0Refuse L R) fun _ => ok_abortEndpoint L e st _ ⟨h, R.dev⟩ R.glob

theorem ok_dataComplete (e : EpRef) (h : CanEp can e.num) (R : DevRole I can) : ok (dataComplete e) :=
  L.asks fun _ _ => ok_ite L (fun _ => ok_isoChainComplete L _ _ ⟨h, R.dev⟩) fun _ =>
    ok_epChunkDone L e ⟨h, R.dev⟩ R.glob

theorem ok_bnaOf (e : EpRef) (h : CanEp can e.num) (R : DevRole I can) : ok (bnaOf e) :=
  L.asks fun _ _ => ok_ite L (fun _ => ok_isoChainComplete L _ _ ⟨h, R.dev⟩) fun _ => ok_doIf L fun _ => ok_endpointError L e _ h R

theorem ok_enableNow (e : EpRef) (r : EpRec) (h : CanEp can e.num) : ok (enableNow e r) := by
  unfold enableNow
  split
  · exact L.pure _
  · exact ok_doIf L fun _ => L.wr _ (can_epCtl L h)

theorem ok_disableConfirmed (e : EpRef) (h : CanEp can e.num) (R : DevRole I can) : ok (disableConfirmed e) :=
  L.asks fun _ _ => L.bind (ok_modEp L _ _) fun _ => L.bind (ok_enableNow L e _ h) fun _ => L.bind (ok_doIf L fun _ => ok_finishAbort L e ⟨h, R.dev⟩ R.glob) fun _ =>
    L.bind (ok_startResume L e ⟨h, R.dev⟩ R.glob) fun _ =>
    ok_doIf L fun _ => ok_isoResume L e ⟨h, R.dev⟩

theorem ok_evtInXfercompl (n : Fin 16) (h : CanEp can n) (R : DevRole I can) : ok (evtInXfercompl n) :=
  L.bind (L.wr _ h.inInt) fun _ => ok_ite L (fun _ => ok_ep0InComplete L R) fun _ => ok_dataComplete L ⟨n, .IN⟩ h R

theorem ok_evtOutXfercompl (n : Fin 16) (h : CanEp can n) (R : DevRole I can) : ok (evtOutXfercompl n) :=
  L.bind (L.wr _ h.outInt) fun _ => ok_ite L (fun _ => ok_ep0OutComplete L R) fun _ => ok_dataComplete L ⟨n, .OUT⟩ h R

theorem ok_evtInEpdisbld (n : Fin 16) (h : CanEp can n) (R : DevRole I can) : ok (evtInEpdisbld n) :=
  L.bind (L.wr _ h.inInt) fun _ => L.asks fun _ _ => L.bind (ok_flushTxFifo L _ R.grstctl) fun _ =>
    L.bind (ok_doIf L fun _ => ok_log L _) fun _ => ok_disableConfirmed L ⟨n, .IN⟩ h R

theorem ok_evtOutEpdisbld (n : Fin 16) (h : CanEp can n) (R : DevRole I can) : ok (evtOutEpdisbld n) :=
  L.bind (L.wr _ h.outInt) fun _ => ok_disableConfirmed L ⟨n, .OUT⟩ h R

theorem ok_evtInAhberr (n : Fin 16) (h : CanEp can n) (R : DevRole I can) : ok (evtInAhberr n) :=
  L.bind (L.wr _ h.inInt) fun _ => ok_endpointError L ⟨n, .IN⟩ _ h R

theorem ok_evtOutAhberr (n : Fin 16) (h : CanEp can n) (R : DevRole I can) : ok (evtOutAhberr n) :=
  L.bind (L.wr _ h.outInt) fun _ => ok_endpointError L ⟨n, .OUT⟩ _ h R

theorem ok_evtInTimeout (n : Fin 16) (h : CanEp can n) : ok (evtInTimeout n) := L.wr _ h.inInt

theorem ok_evtInTxfemp (n : Fin 16) (h : CanEp can n) (R : DevRole I can) : ok (evtInTxfemp n) :=
  L.bind (ok_continueTransfer L (.ep ⟨n, .IN⟩) ⟨h, R.dev⟩ R.glob) fun _ => ok_doIf L fun _ => ok_setEmptyMask L n _ R.dev

theorem ok_evtInBna (n : Fin 16) (h : CanEp can n) (R : DevRole I can) : ok (evtInBna n) :=
  L.bind (L.wr _ h.inInt) fun _ => ok_bnaOf L ⟨n, .IN⟩ h R

theorem ok_evtOutBna (n : Fin 16) (h : CanEp can n) (R : DevRole I can) : ok (evtOutBna n) :=
  L.bind (L.wr _ h.outInt) fun _ => ok_bnaOf L ⟨n, .OUT⟩ h R

theorem ok_evtOutSetup (n : Fin 16) (h : CanEp can n) (R : DevRole I can) : ok (evtOutSetup n) := by
  unfold evtOutSetup
  exact ok_ite L (fun _ => ok_evtSetup0 L R) fun _ => ok_unhandledOut L n 3 h R.dev

theorem ok_evtOutOutpkterr (n : Fin 16) (h : CanEp can n) (R : DevRole I can) : ok (evtOutOutpkterr n) :=
  L.bind (L.wr _ h.outInt) fun _ => ok_endpointError L ⟨n, .OUT⟩ _ h R

theorem ok_evtOutBbleerr (n : Fin 16) (h : CanEp can n) (R : DevRole I can) : ok (evtOutBbleerr n) :=
  L.bind (L.wr _ h.outInt) fun _ => ok_endpointError L ⟨n, .OUT⟩ _ h R

/-! The receive queue. -/

theorem ok_readPacket (n : Nat) (g : CanGlob can) : ok (readPacket n) :=
  L.bind (ok_popWords L g _) fun _ => L.pure _

theorem ok_rxOutData (e : RxEntry) (g : CanGlob can) : ok (rxOutData e) :=
  L.bind (ok_readPacket L _ g) fun _ => L.asks fun _ _ => ok_doIf L fun _ => ok_storeReceived L _ _

theorem ok_rxSetupData (g : CanGlob can) : ok rxSetupData := L.bind (ok_readPacket L _ g) fun _ => ok_modEp0 L _

theorem ok_rxInData (e : RxEntry) (g : CanGlob can) : ok (rxInData e) :=
  L.bind (ok_readPacket L _ g) fun _ => L.asks fun _ _ => ok_doIf L fun _ =>
    L.bind (ok_storeReceived L _ _) fun _ => ok_modX L _ _

theorem ok_rxEntry (b : Bool) (w : Word) (g : CanGlob can) : ok (rxEntry b w) := by
  unfold rxEntry
  split
  · exact ok_rxOutData L _ g
  · exact ok_rxSetupData L g
  · exact ok_rxInData L _ g
  · exact L.pure _

theorem ok_evtRxflvl (g : CanGlob can) : ok evtRxflvl := by
  unfold evtRxflvl
  refine L.asks fun _ _ => ok_ite L (fun _ => ?_) fun _ => ok_unhandledTop L 4 g
  exact L.bind (L.rd g.grxstsp) fun _ => L.asks fun _ _ => ok_rxEntry L _ _ g

/-! Channels. -/

theorem ok_channelEvent (c : Fin 16) (k : Nat) {p : M Unit} (h : CanCh can c) (hp : ok p) : ok (channelEvent c k p) :=
  L.bind (L.wr _ h.hcint) fun _ => L.asks fun _ _ => ok_doIf L fun _ => hp

theorem ok_takePid (c : Fin 16) (h : CanCh can c) : ok (takePid c) := by
  unfold takePid
  refine L.bind (L.rd h.hctsiz) fun _ => L.asks fun _ _ => ?_
  dsimp only
  exact L.bind (ok_modCh L _ _) fun _ => ok_doIf L fun _ => L.act fun _ hs => L.htog _ _ hs

theorem ok_channelGoesOn (c : Fin 16) (b e : Bool) (h : CanX can (.ch c)) (g : CanGlob can) : ok (channelGoesOn c b e) :=
  ok_ite L (fun _ => ok_completeRequest L _ _ h g) fun _ => ok_advance L _ _ h g

theorem ok_channelWaits (c : Fin 16) (b e : Bool) : ok (channelWaits c b e) :=
  L.asks fun _ _ => L.bind (ok_modCh L _ _) fun _ => ok_doIf L fun _ => ok_completeKeep L _ _

theorem ok_channelEnded (c : Fin 16) (b e : Bool) (h : CanX can (.ch c)) (g : CanGlob can) : ok (channelEnded c b e) :=
  L.asks fun _ _ => ok_ite L (fun _ => ok_channelWaits L c b e) fun _ => ok_channelGoesOn L c b e h g

theorem ok_resumeOr (c : Fin 16) (r : HaltReason) {p : M Unit} (h : CanX can (.ch c)) (g : CanGlob can) (hp : ok p) :
    ok (resumeOr c r p) :=
  ok_ite L (fun _ => L.bind (ok_modCh L _ _) fun _ => hp) fun _ => ok_channelHalted L c r h g

theorem ok_confirmHalt (c : Fin 16) (r : HaltReason) (h : CanX can (.ch c)) (g : CanGlob can) : ok (confirmHalt c r) := by
  unfold confirmHalt
  refine L.asks fun s _ => L.bind (ok_modCh L _ _) fun _ => ?_
  split
  · exact ok_channelHalted L c _ h g
  · exact ok_channelSettled L c h g
  · exact ok_resumeOr L c _ h g (ok_advance L _ _ h g)
  · exact ok_resumeOr L c _ h g (ok_isoArmCurrent L _ h)

theorem ok_channelChunkDone (c : Fin 16) (h : CanX can (.ch c)) (g : CanGlob can) : ok (channelChunkDone c) := by
  unfold channelChunkDone
  refine L.asks fun s _ => L.bind (ok_chunkResult L _ h) fun _ => ?_
  dsimp only
  exact L.bind (ok_doIf L fun _ => ok_modCh L _ _) fun _ => L.bind (ok_countMoved L _ _ _) fun _ =>
    ok_channelEnded L c _ _ h g

theorem ok_evtChXfercompl (c : Fin 16) (h : CanX can (.ch c)) (g : CanGlob can) : ok (evtChXfercompl c) :=
  L.bind (L.wr _ h.1.hcint) fun _ => L.asks fun _ _ => ok_ite L
    (fun _ => L.bind (ok_takePid L c h.1) fun _ => ok_isoChainComplete L _ _ h)
    fun _ => ok_doIf L fun _ => L.bind (ok_takePid L c h.1) fun _ => ok_channelChunkDone L c h g

theorem ok_evtChChhltd (c : Fin 16) (h : CanX can (.ch c)) (g : CanGlob can) : ok (evtChChhltd c) := by
  unfold evtChChhltd
  refine L.bind (L.wr _ h.1.hcint) fun _ => L.asks fun s _ => ?_
  split
  · exact L.pure _
  · exact ok_doIf L fun _ => ok_ite L (fun _ => ok_confirmHalt L c _ h g) fun _ => ok_modCh L _ _

theorem ok_evtChNak (c : Fin 16) (h : CanX can (.ch c)) (g : CanGlob can) : ok (evtChNak c) :=
  ok_channelEvent L c 4 h.1 <| L.asks fun _ _ => ok_ite L
    (fun _ => L.bind (ok_modCh L _ _) fun _ => ok_halt L c _ h g) fun _ => ok_doIf L fun _ => ok_halt L c _ h g

theorem ok_evtChAck (c : Fin 16) (h : CanX can (.ch c)) (g : CanGlob can) : ok (evtChAck c) :=
  ok_channelEvent L c 5 h.1 <| L.asks fun _ _ => L.bind (ok_doIf L fun _ => L.bind (ok_modCh L _ _) fun _ =>
    L.asks fun _ _ => ok_update L _ h.1.hcintmsk) fun _ => ok_doIf L fun _ => ok_halt L c _ h g

theorem ok_evtChNyet (c : Fin 16) (h : CanX can (.ch c)) : ok (evtChNyet c) :=
  ok_channelEvent L c 6 h.1 <| L.asks fun _ _ => ok_doIf L fun _ => ok_requestAgain L c h.1 h.2

theorem ok_evtChXacterr (c : Fin 16) (h : CanX can (.ch c)) (g : CanGlob can) : ok (evtChXacterr c) :=
  ok_channelEvent L c 7 h.1 <| L.asks fun _ _ => L.bind (ok_modCh L _ _) fun _ => ok_halt L c _ h g

theorem ok_evtChBna (c : Fin 16) (h : CanX can (.ch c)) (g : CanGlob can) : ok (evtChBna c) :=
  L.bind (L.wr _ h.1.hcint) fun _ => L.asks fun _ _ => ok_ite L (fun _ => ok_isoChainComplete L _ _ h) fun _ =>
    ok_doIf L fun _ => ok_halt L c _ h g

theorem serviceList_lt {s : State} {b : Bool} {c : Fin 16} (h : c ∈ s.serviceList b) : c.val < s.core.caps.nCh := by
  have := (List.mem_filter.mp h).1
  simpa [State.channels] using this

theorem nextServed_mem {last : Option (Fin 16)} {l : List (Fin 16)} {c : Fin 16} (h : nextServed last l = some c) :
    c ∈ l := by
  unfold nextServed at h
  cases last with
  | none => exact List.mem_of_head? h
  | some p =>
    dsimp only at h
    cases hf : l.find? fun c => decide (p < c) with
    | none =>
      rw [hf] at h
      exact List.mem_of_head? h
    | some d =>
      rw [hf] at h
      cases h
      exact List.mem_of_find?_eq_some hf

theorem ok_serveFifoEmpty (b : Bool) (R : HostRole I can) : ok (serveFifoEmpty b) := by
  unfold serveFifoEmpty
  refine L.asks fun s hs => ?_
  split
  · exact ok_update L _ R.glob.gintmsk
  · next c hc =>
    have hx : CanX can (.ch c) := ⟨R.chs s hs c (serviceList_lt L (nextServed_mem L hc)), R.host⟩
    refine L.bind (ok_rec L fun t => ?_) fun _ => L.bind (ok_continueTransfer L _ hx R.glob) fun _ => L.asks fun _ _ =>
      ok_doIf L fun _ => ok_update L _ R.glob.gintmsk
    cases b <;> constructor <;> rfl

/-! The routes. -/

theorem ok_leafIn (n : Fin 16) (k : Fin 32) (h : CanEp can n) (R : DevRole I can) : ok (leafIn n k) := by
  unfold leafIn
  split
  · exact ok_evtInXfercompl L n h R
  · exact ok_evtInEpdisbld L n h R
  · exact ok_evtInAhberr L n h R
  · exact ok_evtInTimeout L n h
  · exact ok_evtInTxfemp L n h R
  · exact ok_evtInBna L n h R
  · exact ok_unhandledIn L n k h R.dev

theorem ok_leafOut (n : Fin 16) (k : Fin 32) (h : CanEp can n) (R : DevRole I can) : ok (leafOut n k) := by
  unfold leafOut
  split
  · exact ok_evtOutXfercompl L n h R
  · exact ok_evtOutEpdisbld L n h R
  · exact ok_evtOutAhberr L n h R
  · exact ok_evtOutSetup L n h R
  · exact ok_evtOutOutpkterr L n h R
  · exact ok_evtOutBna L n h R
  · exact ok_evtOutBbleerr L n h R
  · exact ok_unhandledOut L n k h R.dev

theorem ok_leafCh (c : Fin 16) (k : Fin 32) (h : CanX can (.ch c)) (g : CanGlob can) : ok (leafCh c k) := by
  unfold leafCh
  split
  · exact ok_evtChXfercompl L c h g
  · exact ok_evtChChhltd L c h g
  · exact ok_channelEvent L c 2 h.1 (ok_halt L c _ h g)
  · exact ok_channelEvent L c 3 h.1 (ok_halt L c _ h g)
  · exact ok_evtChNak L c h g
  · exact ok_evtChAck L c h g
  · exact ok_evtChNyet L c h
  · exact ok_evtChXacterr L c h g
  · exact ok_channelEvent L c 8 h.1 (ok_halt L c _ h g)
  · exact ok_evtChBna L c h g
  · exact ok_unhandledCh L c k h.1

theorem ok_handleFirst (o : List Nat) (w : Word) {leaf : Fin 32 → M Unit} (h : ∀ k, ok (leaf k)) :
    ok (handleFirst o w leaf) := by
  unfold handleFirst
  split
  · exact L.pure _
  · exact h _

end

end Sys2Proof.Machine
end

