-- ==== Sys2Proof/Laws/PerInstr.lean ====
section
/-! SUPPORT. A law stated per instruction: the length of its encoding is the length of its format (R140, R142). -/

namespace Sys2Proof.Laws

open Sys2Proof

/-- The bytes of the fixed-length formats: an event word and an Rx status entry have 4, a SETUP packet has 8. -/
def formatBytes : Port → Option Nat
  | .cmd => none
  | .setup => some 8
  | .gintsts | .gotgint | .diepint _ | .doepint _ | .hcint _ | .rxsDevice | .rxsHost => some 4

/-- A well-formed instruction's encoding has its format's length and is never longer than the longest instruction. -/
def F.Statement (i : Instr) : Prop :=
  i.wf = true → 1 ≤ (encode i).length ∧ (encode i).length ≤ maxInstrBytes ∧
    ∀ n, formatBytes (portOf i) = some n → (encode i).length = n

theorem encHalf_length (h : BitVec 16) : (encHalf h).length = 2 := rfl
theorem encWord_length (w : Word) : (encWord w).length = 4 := rfl
theorem encWords_length (ws : List Word) : (encWords ws).length = 4 * ws.length := by
  induction ws with
  | nil => rfl
  | cons w ws ih => simp [encWords, encWord_length, ih]; omega
theorem encCbId_length (c : CbId) : (encCbId c).length = 8 := rfl
theorem encXRef_length (x : XRef) : (encXRef x).length = 2 := by cases x <;> rfl
theorem encTarget_length (t : Target) : (encTarget t).length ≤ 13 := by cases t <;> exact Nat.le_of_ble_eq_true rfl

/-- A format of fixed length. -/
theorem F.fixed {i : Instr} {n : Nat} (hf : formatBytes (portOf i) = some n) (hl : (encode i).length = n)
    (h1 : 1 ≤ n) (h2 : n ≤ 84) : F.Statement i :=
  fun _ => ⟨hl ▸ h1, hl ▸ h2, fun m h => by rw [hf] at h; cases h; exact hl⟩

/-- A command without variable operands. -/
theorem F.command {i : Instr} (hf : formatBytes (portOf i) = none) (h1 : 1 ≤ (encode i).length)
    (h2 : (encode i).length ≤ 84) : F.Statement i :=
  fun _ => ⟨h1, h2, fun m h => by rw [hf] at h; cases h⟩

theorem F.coreInit (base : Word) (params : InitParams) : F.Statement (.coreInit base params) := by
  intro h
  have h : params.epTx.length = 15 := by simpa [Instr.wf, InitParams.wf] using h
  refine ⟨by simp [encode], ?_, by simp [portOf, formatBytes]⟩
  simp [encode, encInitParams, encWord_length, encWords_length, h, maxInstrBytes]
theorem F.coreDeinit : F.Statement .coreDeinit :=
  F.command rfl (Nat.le_of_ble_eq_true rfl) (Nat.le_of_ble_eq_true rfl)
theorem F.coreReset : F.Statement .coreReset := F.command rfl (Nat.le_of_ble_eq_true rfl) (Nat.le_of_ble_eq_true rfl)
theorem F.flushTxFifo (num : BitVec 8) : F.Statement (.flushTxFifo num) :=
  F.command rfl (Nat.le_of_ble_eq_true rfl) (Nat.le_of_ble_eq_true rfl)
theorem F.flushRxFifo : F.Statement .flushRxFifo :=
  F.command rfl (Nat.le_of_ble_eq_true rfl) (Nat.le_of_ble_eq_true rfl)
theorem F.enableGint : F.Statement .enableGint :=
  F.command rfl (Nat.le_of_ble_eq_true rfl) (Nat.le_of_ble_eq_true rfl)
theorem F.disableGint : F.Statement .disableGint :=
  F.command rfl (Nat.le_of_ble_eq_true rfl) (Nat.le_of_ble_eq_true rfl)
theorem F.regRead (off : Word) : F.Statement (.regRead off) :=
  F.command rfl (Nat.le_of_ble_eq_true rfl) (Nat.le_of_ble_eq_true rfl)
theorem F.regWrite (off : Word) (v : Word) : F.Statement (.regWrite off v) :=
  F.command rfl (Nat.le_of_ble_eq_true rfl) (Nat.le_of_ble_eq_true rfl)
theorem F.regModify (off : Word) (clear : Word) (set : Word) : F.Statement (.regModify off clear set) :=
  F.command rfl (Nat.le_of_ble_eq_true rfl) (Nat.le_of_ble_eq_true rfl)
theorem F.poolAlloc : F.Statement .poolAlloc := F.command rfl (Nat.le_of_ble_eq_true rfl) (Nat.le_of_ble_eq_true rfl)
theorem F.poolFree (h : BitVec 16) : F.Statement (.poolFree h) :=
  F.command rfl (Nat.le_of_ble_eq_true rfl) (Nat.le_of_ble_eq_true rfl)
theorem F.submit (t : Target) (buf : Word) (len : Word) (zeroFlag : Bool) (cb : CbId) : F.Statement (.submit t buf len zeroFlag cb) := by
  intro _
  have h := encTarget_length t
  refine ⟨by simp [encode], ?_, by simp [portOf, formatBytes]⟩
  simp [encode, encWord_length, encHalf_length, encCbId_length, maxInstrBytes]
  omega
theorem F.cancel (h : BitVec 16) : F.Statement (.cancel h) :=
  F.command rfl (Nat.le_of_ble_eq_true rfl) (Nat.le_of_ble_eq_true rfl)
theorem F.startTransfer (x : XRef) (h : BitVec 16) : F.Statement (.startTransfer x h) := fun _ =>
  ⟨by simp [encode], by simp [encode, encXRef_length, encHalf_length, maxInstrBytes], by simp [portOf, formatBytes]⟩
theorem F.continueTransfer (x : XRef) : F.Statement (.continueTransfer x) := fun _ =>
  ⟨by simp [encode], by simp [encode, encXRef_length, encHalf_length, maxInstrBytes], by simp [portOf, formatBytes]⟩
theorem F.enableEndpoint (d : Epd) : F.Statement (.enableEndpoint d) :=
  F.command rfl (Nat.le_of_ble_eq_true rfl) (Nat.le_of_ble_eq_true rfl)
theorem F.disableEndpoint (e : EpRef) : F.Statement (.disableEndpoint e) :=
  F.command rfl (Nat.le_of_ble_eq_true rfl) (Nat.le_of_ble_eq_true rfl)
theorem F.halt (c : Fin 16) (r : HaltReason) : F.Statement (.halt c r) :=
  F.command rfl (Nat.le_of_ble_eq_true rfl) (Nat.le_of_ble_eq_true rfl)
theorem F.isoStart (t : Target) (buf0 : Word) (buf1 : Word) (pktLen : BitVec 16) (pktPerBuf : BitVec 16) (cb : CbId) : F.Statement (.isoStart t buf0 buf1 pktLen pktPerBuf cb) := by
  intro _
  have h := encTarget_length t
  refine ⟨by simp [encode], ?_, by simp [portOf, formatBytes]⟩
  simp [encode, encWord_length, encHalf_length, encCbId_length, maxInstrBytes]
  omega
theorem F.isoStop (x : XRef) : F.Statement (.isoStop x) := fun _ =>
  ⟨by simp [encode], by simp [encode, encXRef_length, encHalf_length, maxInstrBytes], by simp [portOf, formatBytes]⟩
theorem F.isr : F.Statement .isr := F.command rfl (Nat.le_of_ble_eq_true rfl) (Nat.le_of_ble_eq_true rfl)
theorem F.topOtgint : F.Statement .topOtgint :=
  F.fixed rfl rfl (Nat.le_of_ble_eq_true rfl) (Nat.le_of_ble_eq_true rfl)
theorem F.topRxflvl : F.Statement .topRxflvl :=
  F.fixed rfl rfl (Nat.le_of_ble_eq_true rfl) (Nat.le_of_ble_eq_true rfl)
theorem F.topNptxfemp : F.Statement .topNptxfemp :=
  F.fixed rfl rfl (Nat.le_of_ble_eq_true rfl) (Nat.le_of_ble_eq_true rfl)
theorem F.topUsbsusp : F.Statement .topUsbsusp :=
  F.fixed rfl rfl (Nat.le_of_ble_eq_true rfl) (Nat.le_of_ble_eq_true rfl)
theorem F.topUsbrst : F.Statement .topUsbrst :=
  F.fixed rfl rfl (Nat.le_of_ble_eq_true rfl) (Nat.le_of_ble_eq_true rfl)
theorem F.topEnumdone : F.Statement .topEnumdone :=
  F.fixed rfl rfl (Nat.le_of_ble_eq_true rfl) (Nat.le_of_ble_eq_true rfl)
theorem F.topIsooutdrop : F.Statement .topIsooutdrop :=
  F.fixed rfl rfl (Nat.le_of_ble_eq_true rfl) (Nat.le_of_ble_eq_true rfl)
theorem F.topIepint : F.Statement .topIepint :=
  F.fixed rfl rfl (Nat.le_of_ble_eq_true rfl) (Nat.le_of_ble_eq_true rfl)
theorem F.topOepint : F.Statement .topOepint :=
  F.fixed rfl rfl (Nat.le_of_ble_eq_true rfl) (Nat.le_of_ble_eq_true rfl)
theorem F.topHchint : F.Statement .topHchint :=
  F.fixed rfl rfl (Nat.le_of_ble_eq_true rfl) (Nat.le_of_ble_eq_true rfl)
theorem F.topPtxfemp : F.Statement .topPtxfemp :=
  F.fixed rfl rfl (Nat.le_of_ble_eq_true rfl) (Nat.le_of_ble_eq_true rfl)
theorem F.topConidstschng : F.Statement .topConidstschng :=
  F.fixed rfl rfl (Nat.le_of_ble_eq_true rfl) (Nat.le_of_ble_eq_true rfl)
theorem F.topDisconnint : F.Statement .topDisconnint :=
  F.fixed rfl rfl (Nat.le_of_ble_eq_true rfl) (Nat.le_of_ble_eq_true rfl)
theorem F.topWkupint : F.Statement .topWkupint :=
  F.fixed rfl rfl (Nat.le_of_ble_eq_true rfl) (Nat.le_of_ble_eq_true rfl)
theorem F.topUnassigned (k : Fin 32) : F.Statement (.topUnassigned k) :=
  F.fixed rfl rfl (Nat.le_of_ble_eq_true rfl) (Nat.le_of_ble_eq_true rfl)
theorem F.otgSesenddet : F.Statement .otgSesenddet :=
  F.fixed rfl rfl (Nat.le_of_ble_eq_true rfl) (Nat.le_of_ble_eq_true rfl)
theorem F.otgSesreqsucstschng : F.Statement .otgSesreqsucstschng :=
  F.fixed rfl rfl (Nat.le_of_ble_eq_true rfl) (Nat.le_of_ble_eq_true rfl)
theorem F.otgHstnegsucstschng : F.Statement .otgHstnegsucstschng :=
  F.fixed rfl rfl (Nat.le_of_ble_eq_true rfl) (Nat.le_of_ble_eq_true rfl)
theorem F.otgUnassigned (k : Fin 32) : F.Statement (.otgUnassigned k) :=
  F.fixed rfl rfl (Nat.le_of_ble_eq_true rfl) (Nat.le_of_ble_eq_true rfl)
theorem F.inXfercompl (n : Fin 16) : F.Statement (.inXfercompl n) :=
  F.fixed rfl rfl (Nat.le_of_ble_eq_true rfl) (Nat.le_of_ble_eq_true rfl)
theorem F.inEpdisbld (n : Fin 16) : F.Statement (.inEpdisbld n) :=
  F.fixed rfl rfl (Nat.le_of_ble_eq_true rfl) (Nat.le_of_ble_eq_true rfl)
theorem F.inAhberr (n : Fin 16) : F.Statement (.inAhberr n) :=
  F.fixed rfl rfl (Nat.le_of_ble_eq_true rfl) (Nat.le_of_ble_eq_true rfl)
theorem F.inTimeout (n : Fin 16) : F.Statement (.inTimeout n) :=
  F.fixed rfl rfl (Nat.le_of_ble_eq_true rfl) (Nat.le_of_ble_eq_true rfl)
theorem F.inTxfemp (n : Fin 16) : F.Statement (.inTxfemp n) :=
  F.fixed rfl rfl (Nat.le_of_ble_eq_true rfl) (Nat.le_of_ble_eq_true rfl)
theorem F.inBna (n : Fin 16) : F.Statement (.inBna n) :=
  F.fixed rfl rfl (Nat.le_of_ble_eq_true rfl) (Nat.le_of_ble_eq_true rfl)
theorem F.inUnassigned (n : Fin 16) (k : Fin 32) : F.Statement (.inUnassigned n k) :=
  F.fixed rfl rfl (Nat.le_of_ble_eq_true rfl) (Nat.le_of_ble_eq_true rfl)
theorem F.outXfercompl (n : Fin 16) : F.Statement (.outXfercompl n) :=
  F.fixed rfl rfl (Nat.le_of_ble_eq_true rfl) (Nat.le_of_ble_eq_true rfl)
theorem F.outEpdisbld (n : Fin 16) : F.Statement (.outEpdisbld n) :=
  F.fixed rfl rfl (Nat.le_of_ble_eq_true rfl) (Nat.le_of_ble_eq_true rfl)
theorem F.outAhberr (n : Fin 16) : F.Statement (.outAhberr n) :=
  F.fixed rfl rfl (Nat.le_of_ble_eq_true rfl) (Nat.le_of_ble_eq_true rfl)
theorem F.outSetup (n : Fin 16) : F.Statement (.outSetup n) :=
  F.fixed rfl rfl (Nat.le_of_ble_eq_true rfl) (Nat.le_of_ble_eq_true rfl)
theorem F.outOutpkterr (n : Fin 16) : F.Statement (.outOutpkterr n) :=
  F.fixed rfl rfl (Nat.le_of_ble_eq_true rfl) (Nat.le_of_ble_eq_true rfl)
theorem F.outBna (n : Fin 16) : F.Statement (.outBna n) :=
  F.fixed rfl rfl (Nat.le_of_ble_eq_true rfl) (Nat.le_of_ble_eq_true rfl)
theorem F.outBbleerr (n : Fin 16) : F.Statement (.outBbleerr n) :=
  F.fixed rfl rfl (Nat.le_of_ble_eq_true rfl) (Nat.le_of_ble_eq_true rfl)
theorem F.outUnassigned (n : Fin 16) (k : Fin 32) : F.Statement (.outUnassigned n k) :=
  F.fixed rfl rfl (Nat.le_of_ble_eq_true rfl) (Nat.le_of_ble_eq_true rfl)
theorem F.chXfercompl (c : Fin 16) : F.Statement (.chXfercompl c) :=
  F.fixed rfl rfl (Nat.le_of_ble_eq_true rfl) (Nat.le_of_ble_eq_true rfl)
theorem F.chChhltd (c : Fin 16) : F.Statement (.chChhltd c) :=
  F.fixed rfl rfl (Nat.le_of_ble_eq_true rfl) (Nat.le_of_ble_eq_true rfl)
theorem F.chAhberr (c : Fin 16) : F.Statement (.chAhberr c) :=
  F.fixed rfl rfl (Nat.le_of_ble_eq_true rfl) (Nat.le_of_ble_eq_true rfl)
theorem F.chStall (c : Fin 16) : F.Statement (.chStall c) :=
  F.fixed rfl rfl (Nat.le_of_ble_eq_true rfl) (Nat.le_of_ble_eq_true rfl)
theorem F.chNak (c : Fin 16) : F.Statement (.chNak c) :=
  F.fixed rfl rfl (Nat.le_of_ble_eq_true rfl) (Nat.le_of_ble_eq_true rfl)
theorem F.chAck (c : Fin 16) : F.Statement (.chAck c) :=
  F.fixed rfl rfl (Nat.le_of_ble_eq_true rfl) (Nat.le_of_ble_eq_true rfl)
theorem F.chNyet (c : Fin 16) : F.Statement (.chNyet c) :=
  F.fixed rfl rfl (Nat.le_of_ble_eq_true rfl) (Nat.le_of_ble_eq_true rfl)
theorem F.chXacterr (c : Fin 16) : F.Statement (.chXacterr c) :=
  F.fixed rfl rfl (Nat.le_of_ble_eq_true rfl) (Nat.le_of_ble_eq_true rfl)
theorem F.chBblerr (c : Fin 16) : F.Statement (.chBblerr c) :=
  F.fixed rfl rfl (Nat.le_of_ble_eq_true rfl) (Nat.le_of_ble_eq_true rfl)
theorem F.chBna (c : Fin 16) : F.Statement (.chBna c) :=
  F.fixed rfl rfl (Nat.le_of_ble_eq_true rfl) (Nat.le_of_ble_eq_true rfl)
theorem F.chUnassigned (c : Fin 16) (k : Fin 32) : F.Statement (.chUnassigned c k) :=
  F.fixed rfl rfl (Nat.le_of_ble_eq_true rfl) (Nat.le_of_ble_eq_true rfl)
theorem F.getStatus (f : SetupFields) : F.Statement (.getStatus f) :=
  F.fixed rfl rfl (Nat.le_of_ble_eq_true rfl) (Nat.le_of_ble_eq_true rfl)
theorem F.clearFeature (f : SetupFields) : F.Statement (.clearFeature f) :=
  F.fixed rfl rfl (Nat.le_of_ble_eq_true rfl) (Nat.le_of_ble_eq_true rfl)
theorem F.setFeature (f : SetupFields) : F.Statement (.setFeature f) :=
  F.fixed rfl rfl (Nat.le_of_ble_eq_true rfl) (Nat.le_of_ble_eq_true rfl)
theorem F.setAddress (f : SetupFields) : F.Statement (.setAddress f) :=
  F.fixed rfl rfl (Nat.le_of_ble_eq_true rfl) (Nat.le_of_ble_eq_true rfl)
theorem F.getDescriptor (f : SetupFields) : F.Statement (.getDescriptor f) :=
  F.fixed rfl rfl (Nat.le_of_ble_eq_true rfl) (Nat.le_of_ble_eq_true rfl)
theorem F.setConfiguration (f : SetupFields) : F.Statement (.setConfiguration f) :=
  F.fixed rfl rfl (Nat.le_of_ble_eq_true rfl) (Nat.le_of_ble_eq_true rfl)
theorem F.setInterface (f : SetupFields) : F.Statement (.setInterface f) :=
  F.fixed rfl rfl (Nat.le_of_ble_eq_true rfl) (Nat.le_of_ble_eq_true rfl)
theorem F.delegatedRequest (p : SetupPkt) : F.Statement (.delegatedRequest p) :=
  F.fixed rfl rfl (Nat.le_of_ble_eq_true rfl) (Nat.le_of_ble_eq_true rfl)
theorem F.rxsOutData (e : RxEntry) : F.Statement (.rxsOutData e) :=
  F.fixed rfl rfl (Nat.le_of_ble_eq_true rfl) (Nat.le_of_ble_eq_true rfl)
theorem F.rxsOutComplete (e : RxEntry) : F.Statement (.rxsOutComplete e) :=
  F.fixed rfl rfl (Nat.le_of_ble_eq_true rfl) (Nat.le_of_ble_eq_true rfl)
theorem F.rxsSetupComplete (e : RxEntry) : F.Statement (.rxsSetupComplete e) :=
  F.fixed rfl rfl (Nat.le_of_ble_eq_true rfl) (Nat.le_of_ble_eq_true rfl)
theorem F.rxsSetupData (e : RxEntry) : F.Statement (.rxsSetupData e) :=
  F.fixed rfl rfl (Nat.le_of_ble_eq_true rfl) (Nat.le_of_ble_eq_true rfl)
theorem F.rxsInData (e : RxEntry) : F.Statement (.rxsInData e) :=
  F.fixed rfl rfl (Nat.le_of_ble_eq_true rfl) (Nat.le_of_ble_eq_true rfl)
theorem F.rxsInComplete (e : RxEntry) : F.Statement (.rxsInComplete e) :=
  F.fixed rfl rfl (Nat.le_of_ble_eq_true rfl) (Nat.le_of_ble_eq_true rfl)
theorem F.rxsChannelHalted (e : RxEntry) : F.Statement (.rxsChannelHalted e) :=
  F.fixed rfl rfl (Nat.le_of_ble_eq_true rfl) (Nat.le_of_ble_eq_true rfl)

end Sys2Proof.Laws
end

