-- ==== Sys2Proof/Tests/Slice0.lean ====
section
/-! SUPPORT. Small tests: refusals of ill-formed terms, words written out from the spec's encodings, one step on a small
state with the result the spec's vectors give, and a witness for the hypotheses of every statement. -/

namespace Sys2Proof.Tests

open Sys2Proof Sys2Proof.Machine

set_option Elab.async false

/-! Well-formedness: an ill-formed term for each check. -/

/-- A pipe within the ranges of R350. -/
def pipe : HcParams :=
  { devAddr := 5, epNum := 1, epDir := .OUT, epType := .bulk, mps := 512, speed := .high, doSplit := false, hubAddr := 0
    portAddr := 0, interval := 1, multiCount := 1, pid := none }

/-- The parameters of the spec's program 1. -/
def params : InitParams :=
  { dmaMode := .bufferDma, phyType := .utmi, phyWidth16 := true, fullSpeed := false, burst := 3, rxFifo := 512
    nptxFifo := 256, epTx := 256 :: List.replicate 14 0, hptxFifo := 0, dedicatedFifo := true, otgCap := .hnpSrp }

theorem test_wf_accepts : params.wf = true ∧ pipe.wf = true ∧ { pipe with mps := 1024, multiCount := 3 }.wf = true := by
  decide

theorem test_wf_fifo_requests : (Instr.coreInit 0 { params with epTx := [256] }).wf = false := by decide

theorem test_wf_pipe :
    [{ pipe with mps := 0 }, { pipe with mps := 1025 }, { pipe with interval := 0 }, { pipe with multiCount := 0 }].all
      (fun t => !(Instr.submit (.pipe t) 0 0 false ⟨0, 0⟩).wf && !(Instr.isoStart (.pipe t) 0 0 0 0 ⟨0, 0⟩).wf) = true := by
  decide

theorem test_wf_unassigned :
    [Instr.topUnassigned 2, .topUnassigned 0, .otgUnassigned 2, .inUnassigned 1 7, .outUnassigned 1 12,
      .chUnassigned 1 11].all (fun i => !i.wf) = true := by decide

theorem test_wf_delegated : (Instr.delegatedRequest ⟨0x80, 0x06, 0x100, 0, 18⟩).wf = false := by decide

/-! Decoding: words written out from R143, R151 to R154, R165, R31 and the vectors V30-1, V30-2. -/

/-- The decoder reads exactly this instruction. -/
def reads (p : Port) (bs : List Byte) (i : Instr) : Bool :=
  match decode p bs with
  | .ok (j, rest) => decide (j = i) && rest.isEmpty
  | .error _ => false

theorem test_decode_interface_commands :
    [([0x02], Instr.coreDeinit), ([0x03], .coreReset), ([0x04, 0x10], .flushTxFifo 16), ([0x05], .flushRxFifo),
      ([0x06], .enableGint), ([0x07], .disableGint), ([0x08, 0x14, 0, 0, 0], .regRead 0x14),
      ([0x09, 0x18, 0, 0, 0, 0x0C, 0x78, 0x0C, 0xB0], .regWrite 0x18 0xB00C780C),
      ([0x0A, 0x08, 0, 0, 0, 1, 0, 0, 0, 0, 0, 0, 0], .regModify 0x8 0x1 0x0),
      ([0x38], .isr)].all (fun p => reads .cmd p.1 p.2) = true := by decide

theorem test_decode_core_init :
    reads .cmd ([0x01, 0, 0, 0, 0x40, 1, 0, 1, 0, 3, 0x00, 0x02, 0, 0, 0x00, 0x01, 0, 0, 0x00, 0x01, 0, 0] ++
      List.replicate 60 0 ++ [1, 0]) (.coreInit 0x40000000 params) = true := by decide

theorem test_decode_transfer_commands :
    [([0x10], Instr.poolAlloc), ([0x11, 0x03, 0x01], .poolFree 0x103),
      ([0x12, 0, 0x81, 0x00, 0x10, 0x00, 0x20, 0x00, 0x04, 0, 0, 1, 7, 0, 0, 0, 9, 0, 0, 0],
        .submit (.ep ⟨1, .IN⟩) 0x20001000 1024 true ⟨7, 9⟩),
      ([0x12, 1, 5, 1, 2, 0, 2, 0, 0, 0, 0, 1, 1, 0, 0, 0x20, 0, 0x20, 0, 4, 0, 0, 0, 3, 0, 0, 0, 0, 0, 0, 0],
        .submit (.pipe pipe) 0x20002000 1024 false ⟨3, 0⟩),
      ([0x13, 2, 0], .cancel 2), ([0x14, 0, 0x02, 4, 0], .startTransfer (.ep ⟨2, .OUT⟩) 4),
      ([0x15, 1, 0x0F], .continueTransfer (.ch 15)),
      ([0x16, 7, 5, 0x81, 2, 0, 2, 0], .enableEndpoint ⟨7, 5, 0x81, 2, 512, 0⟩),
      ([0x17, 0x8F], .disableEndpoint ⟨15, .IN⟩), ([0x20, 2, 8], .halt 2 .cancelled),
      ([0x30, 0, 0x83, 0, 0, 2, 0x20, 0, 0x10, 2, 0x20, 0, 4, 4, 0, 7, 0, 0, 0, 0, 0, 0, 0],
        .isoStart (.ep ⟨3, .IN⟩) 0x20020000 0x20021000 1024 4 ⟨7, 0⟩),
      ([0x31, 0, 0x83], .isoStop (.ep ⟨3, .IN⟩))].all (fun p => reads .cmd p.1 p.2) = true := by decide

theorem test_decode_refuses_unknown_commands :
    [0x0B, 0x18, 0x21, 0x39, 0xFF, 0x00].all (fun op => decide (decode .cmd [op] = .error (.unknownOp op))) = true := by
  decide

theorem test_decode_top_events :
    [([0x04, 0, 0, 0], Instr.topOtgint), ([0x10, 0, 0, 0], .topRxflvl), ([0x20, 0, 0, 0], .topNptxfemp),
      ([0, 0x08, 0, 0], .topUsbsusp), ([0, 0x10, 0, 0], .topUsbrst), ([0, 0x20, 0, 0], .topEnumdone),
      ([0, 0x40, 0, 0], .topIsooutdrop), ([0, 0, 0x04, 0], .topIepint), ([0, 0, 0x08, 0], .topOepint),
      ([0, 0, 0, 0x02], .topHchint), ([0, 0, 0, 0x04], .topPtxfemp), ([0, 0, 0, 0x10], .topConidstschng),
      ([0, 0, 0, 0x20], .topDisconnint), ([0, 0, 0, 0x80], .topWkupint), ([0x08, 0, 0, 0], .topUnassigned 3),
      ([0, 0x10, 0x08, 0], .topUsbrst), ([0, 0x10, 0, 0x10], .topConidstschng),
      ([0, 0, 0x0C, 0], .topOepint)].all (fun p => reads .gintsts p.1 p.2) = true := by decide

theorem test_decode_otg_events :
    [([0x04, 0, 0, 0], Instr.otgSesenddet), ([0, 1, 0, 0], .otgSesreqsucstschng), ([0, 2, 0, 0], .otgHstnegsucstschng),
      ([0, 4, 0, 0], .otgUnassigned 10)].all (fun p => reads .gotgint p.1 p.2) = true := by decide

theorem test_decode_in_events :
    [([0x01, 0, 0, 0], Instr.inXfercompl 3), ([0x02, 0, 0, 0], .inEpdisbld 3), ([0x04, 0, 0, 0], .inAhberr 3),
      ([0x08, 0, 0, 0], .inTimeout 3), ([0x80, 0, 0, 0], .inTxfemp 3), ([0, 2, 0, 0], .inBna 3),
      ([0x10, 0, 0, 0], .inUnassigned 3 4)].all (fun p => reads (.diepint 3) p.1 p.2) = true := by decide

theorem test_decode_out_events :
    [([0x01, 0, 0, 0], Instr.outXfercompl 0), ([0x02, 0, 0, 0], .outEpdisbld 0), ([0x04, 0, 0, 0], .outAhberr 0),
      ([0x08, 0, 0, 0], .outSetup 0), ([0, 1, 0, 0], .outOutpkterr 0), ([0, 2, 0, 0], .outBna 0),
      ([0, 0x10, 0, 0], .outBbleerr 0), ([0x10, 0, 0, 0], .outUnassigned 0 4),
      ([0x09, 0, 0, 0], .outXfercompl 0)].all (fun p => reads (.doepint 0) p.1 p.2) = true := by decide

theorem test_decode_channel_events :
    [([0x01, 0, 0, 0], Instr.chXfercompl 15), ([0x02, 0, 0, 0], .chChhltd 15), ([0x04, 0, 0, 0], .chAhberr 15),
      ([0x08, 0, 0, 0], .chStall 15), ([0x10, 0, 0, 0], .chNak 15), ([0x20, 0, 0, 0], .chAck 15),
      ([0x40, 0, 0, 0], .chNyet 15), ([0x80, 0, 0, 0], .chXacterr 15), ([0, 1, 0, 0], .chBblerr 15),
      ([0, 8, 0, 0], .chBna 15), ([0, 2, 0, 0], .chUnassigned 15 9), ([0x03, 0, 0, 0], .chXfercompl 15),
      ([0x82, 0, 0, 0], .chXacterr 15), ([0x12, 0, 0, 0], .chNak 15)].all
      (fun p => reads (.hcint 15) p.1 p.2) = true := by decide

theorem test_decode_setup_packets :
    [([0x80, 0x06, 0, 1, 0, 0, 0x12, 0], Instr.getDescriptor ⟨.IN, 0, 0x100, 0, 18⟩),
      ([0, 0x09, 1, 0, 0, 0, 0, 0], .setConfiguration ⟨.OUT, 0, 1, 0, 0⟩),
      ([0, 0x05, 7, 0, 0, 0, 0, 0], .setAddress ⟨.OUT, 0, 7, 0, 0⟩),
      ([0x82, 0, 0, 0, 0x81, 0, 2, 0], .getStatus ⟨.IN, 2, 0, 0x81, 2⟩),
      ([2, 1, 0, 0, 0x81, 0, 0, 0], .clearFeature ⟨.OUT, 2, 0, 0x81, 0⟩),
      ([2, 3, 0, 0, 1, 0, 0, 0], .setFeature ⟨.OUT, 2, 0, 1, 0⟩),
      ([1, 0x0B, 1, 0, 2, 0, 0, 0], .setInterface ⟨.OUT, 1, 1, 2, 0⟩),
      ([0xA1, 0xFE, 0, 0, 0, 0, 1, 0], .delegatedRequest ⟨0xA1, 0xFE, 0, 0, 1⟩),
      ([0x80, 0x08, 0, 0, 0, 0, 1, 0], .delegatedRequest ⟨0x80, 0x08, 0, 0, 1⟩),
      ([0xC0, 0x01, 0, 0, 0, 0, 0, 0], .delegatedRequest ⟨0xC0, 0x01, 0, 0, 0⟩)].all
      (fun p => reads .setup p.1 p.2) = true := by decide

theorem test_decode_device_entries :
    [([0x01, 0x04, 0x04, 0], Instr.rxsOutData ⟨1, 64, 0⟩), ([0x80, 0, 0x0C, 0], .rxsSetupData ⟨0, 8, 0⟩),
      ([0, 0, 0x08, 0], .rxsSetupComplete ⟨0, 0, 0⟩), ([1, 0, 0x06, 0], .rxsOutComplete ⟨1, 0, 0⟩)].all
      (fun p => reads .rxsDevice p.1 p.2) = true := by decide

theorem test_decode_host_entries :
    [([0x82, 0, 0x05, 0], Instr.rxsInData ⟨2, 8, 2⟩), ([2, 0, 0x06, 0], .rxsInComplete ⟨2, 0, 0⟩),
      ([2, 0, 0x0E, 0], .rxsChannelHalted ⟨2, 0, 0⟩)].all (fun p => reads .rxsHost p.1 p.2) = true := by decide

/-- PKTSTS 9 has no row (V41-10). -/
theorem test_decode_refuses_reserved_entry : decode .rxsDevice [0, 0, 0x12, 0] = .error (.reservedEntry 9) := by decide

/-- An entry with a reserved code is popped and ignored (V41-10, U20). -/
theorem test_reserved_entry_is_ignored :
    step (State.reset.place .rxsDevice [0, 0, 0x12, 0]) = .next State.reset := by rfl

/-! The register map (R22): the offsets of the first and the last register of each group. -/

theorem test_register_offsets :
    [(Reg.GOTGCTL, 0x000), (.GINTSTS, 0x014), (.GRXSTSP, 0x020), (.GNPTXSTS, 0x02C), (.GHWCFG4, 0x050),
      (.HPTXFSIZ, 0x100), (.DIEPTXF 1, 0x104), (.DIEPTXF 15, 0x13C), (.HCFG, 0x400), (.HCCHAR 0, 0x500),
      (.HCDMA 15, 0x6F4), (.DCFG, 0x800), (.DIEPEMPMSK, 0x834), (.DIEPCTL 0, 0x900), (.DTXFSTS 15, 0xAF8),
      (.DOEPCTL 0, 0xB00), (.DOEPDMA 15, 0xCF4), (.PCGCCTL, 0xE00), (.FIFO 0, 0x1000), (.FIFO 15, 0x10000)].all
      (fun p => decide (p.1.offset = p.2) && decide (Reg.ofOffset p.2 = some p.1)) = true := by decide

/-- The map is one to one on its registers. -/
theorem test_register_map : (plainRegs ++ (List.finRange 16).flatMap bankRegs ++
    ((List.finRange 16).filter (fun n => n ≠ 0)).map Reg.DIEPTXF).all
      (fun r => decide (Reg.ofOffset r.offset = some r)) = true := by decide +kernel

/-! Small states. -/

/-- A state with some stored words. -/
def withWords (s : State) (l : List (Reg × Word)) : State := l.foldl (fun t p => t.setRaw p.1 p.2) s

/-- A bulk endpoint that UPPER has enabled. -/
def bulkEp : EpRec := { blankEp with type := .bulk, mps := 512, enabled := true, txFifo := 1 }

/-- A running device in buffer-DMA mode with the gate closed: the end of program 1, endpoint 0 in use, endpoint 1 enabled
in both directions. -/
def dev : State :=
  withWords
    { State.reset with
      prompt := false
      recordsExist := true
      core := { blankCore with
        functional := true
        dmaMode := .bufferDma
        deviceEngine := true
        fifo := { blankFifoTable with epTx := (Vector.replicate 16 (0, 0)).set 1 (768, 256) } }
      epIn := (Vector.replicate 16 blankEp).set 1 bulkEp
      epOut := (Vector.replicate 16 blankEp).set 1 bulkEp
      ep0 := { blankEp0 with state := .idle }
      pool := [none, none, none, none] }
    [(.GAHBCFG, 0x26), (.GINTMSK, 0xB00C7804), (.DIEPMSK, 0xF), (.DOEPMSK, 0x110F), (.DAINTMSK, 0x00030003),
      (.DIEPCTL 0, 0x8040), (.DOEPCTL 0, 0x8040), (.DIEPCTL 1, 0x00488200), (.DOEPCTL 1, 0x00088200),
      (.DIEPTXF 1, 0x01000300)]

/-- The same device in slave mode, with its Tx FIFO registers. -/
def devSlave : State :=
  withWords { dev with core := { dev.core with dmaMode := .slave } } [(.GAHBCFG, 0x06), (.GINTMSK, 0xB00C7814)]

/-- The same device in descriptor-DMA mode, with descriptor arrays for endpoint 0 and 3. -/
def devDesc : State :=
  withWords
    { dev with
      core := { dev.core with dmaMode := .descDma }
      plat := { resetPlatform with
        descArrays := [((.ep ⟨0, .OUT⟩, false), 0x20000100), ((.ep ⟨3, .IN⟩, false), 0x20000400),
          ((.ep ⟨3, .IN⟩, true), 0x20000420)] }
      epIn := dev.epIn.set 3
        { bulkEp with type := .isochronous, mps := 1024, txFifo := 3, x := { blankXfer with desc := some 0x20000400 } } }
    [(.DCFG, 0x00800000), (.DIEPCTL 3, 0x00C48400)]

/-- A request of `n` bytes at 0x20001000 for an owner. -/
def request (x : XRef) (n : Nat) (z : Bool) : Req :=
  { buf := 0x20001000, length := n, done := 0, zeroFlag := z, cb := 7, ctx := 9, status := .pending, owner := some x }

/-- A device whose endpoint 1 OUT has request 0 under way; `ctl` and `siz` are DOEPCTL1 and DOEPTSIZ1. -/
def devOut (n : Nat) (ctl siz : Word) : State :=
  withWords
    { dev with
      epOut := dev.epOut.set 1
        { bulkEp with state := .active, x := { blankXfer with active := some (.pool 0), chunkLen := n } }
      pool := [some (request (.ep ⟨1, .OUT⟩) n false), none, none, none] }
    [(.DOEPCTL 1, ctl), (.DOEPTSIZ 1, siz)]

/-- A running host in buffer-DMA mode with the gate closed: the start of program 5. -/
def host : State :=
  withWords
    { State.reset with
      prompt := false
      recordsExist := true
      core := { blankCore with functional := true, dmaMode := .bufferDma, opState := .aHost, hostEngine := true }
      pool := [none, none, none, none] }
    [(.GAHBCFG, 0x26), (.GINTSTS, 0x1), (.GINTMSK, 0xB2000004), (.GOTGCTL, 0)]

/-- The same host in slave mode. -/
def hostSlave : State :=
  withWords { host with core := { host.core with dmaMode := .slave } } [(.GAHBCFG, 0x06), (.GNPTXFSIZ, 0x01000200)]

/-- The record of channel 0 with request 0 of `n` bytes under way. -/
def runningCh (n : Nat) : ChRec :=
  { blankCh with allocated := true, params := pipe, x := { blankXfer with active := some (.pool 0), chunkLen := n } }

/-- A host whose channel 0 has a record `r`; `siz` is HCTSIZ0. -/
def hostRun (r : ChRec) (siz : Word) : State :=
  withWords
    { host with
      ch := (Vector.replicate 16 blankCh).set 0 r
      pool := [some (request (.ch 0) 1024 false), none, none, none] }
    [(.HCCHAR 0, 0x81580A00), (.HCINTMSK 0, 0x18F), (.HAINTMSK, 0x1), (.HCTSIZ 0, siz)]

/-- A check of the next state; a stop fails it. -/
def after (o : Host.Outcome State Fault Refusal) (p : State → Bool) : Bool :=
  match o with
  | .next t => p t
  | .fault _ | .refused _ => false

/-- The accesses a command made, oldest first, as offset, word and whether it is a write. -/
def accesses (t : State) : List (Nat × Word × Bool) :=
  t.trace.reverse.filterMap fun
    | .rd o v => some (o, v, false)
    | .wr o v => some (o, v, true)
    | _ => none

/-! One step each; the expected words are those of the vectors of 95_test_vectors.md. -/

/-- An instruction makes exactly these accesses: offset, word, whether it is a write. -/
def makes (i : Instr) (s : State) (l : List (Nat × Word × Bool)) : Bool :=
  after (exec i s) fun t => decide (accesses t = l)

/-- The gate of a state is open. -/
def opened (s : State) : State := withWords s [(.GAHBCFG, s.raw .GAHBCFG ||| 1)]

/-- The accesses of `critical` in task context with the gate open (R245), around those of its body. -/
def locked (l : List (Nat × Word × Bool)) : List (Nat × Word × Bool) :=
  [(0x008, 0x27, false), (0x008, 0x27, false), (0x008, 0x26, true)] ++ l ++ [(0x008, 0x26, false), (0x008, 0x27, true)]

/-- Program 1: the 24 writes of `core_init`; LINK finishes the reset and the flushes after one poll. -/
theorem test_core_init : after
    (exec (.coreInit 0x40000000 params) { State.reset with
      prompt := false
      env := List.replicate 5 [] ++ [[.softResetDone]] ++ List.replicate 20 [] ++ [[.txFlushDone], [], [.rxFlushDone]] })
    (fun t => decide ((accesses t).filter (fun a => a.2.2) = [(0x008, 0, true), (0x010, 1, true), (0x008, 0x26, true),
      (0x00C, 0x308, true), (0x000, 0, true), (0x018, 0, true), (0x004, 0xFFFFFFFF, true), (0x014, 0xFFFFFFFF, true),
      (0x018, 0xB0000004, true), (0x024, 0x200, true), (0x028, 0x01000200, true), (0x104, 0x01000300, true),
      (0x108, 0x400, true), (0x10C, 0x400, true), (0x010, 0x420, true), (0x010, 0x10, true), (0x800, 0, true),
      (0x810, 0xF, true), (0x814, 0x110F, true), (0x900, 0x08000000, true), (0xB00, 0x08000000, true),
      (0x81C, 0x00010001, true), (0x834, 0, true), (0x018, 0xB00C7804, true)] ∧ (accesses t).length = 39 ∧
      t.result = .status .ok)) = true := by decide +kernel

/-- V40-4: the partition of the example of R206. -/
theorem test_core_init_partition : after
    (exec (.coreInit 0x40000000 { params with epTx := 256 :: 256 :: List.replicate 13 0 }) State.reset) (fun t =>
      decide (t.raw .GRXFSIZ = 0x200 ∧ t.raw .GNPTXFSIZ = 0x01000200 ∧ t.raw (.DIEPTXF 1) = 0x01000300 ∧
        t.raw (.DIEPTXF 2) = 0x400 ∧ t.result = .status .configError)) = true := by decide +kernel

/-- V40-16: the disable and the callback of an active request. -/
theorem test_core_deinit : after (exec .coreDeinit (devOut 512 0x80088200 0)) (fun t =>
    decide ((0xB20, 0xC8088200, true) ∈ accesses t ∧ (0xB20, 0x08000000, true) ∈ accesses t ∧
      TraceEv.cb (.transferComplete 7 9 .cancelled 0) ∈ t.trace ∧ t.core.functional = false)) = true := by decide +kernel

/-- V40-3b with the limit 4: AHBIDLE never reads 1. -/
theorem test_core_reset_no_idle : after (exec .coreReset (withWords dev [(.GRSTCTL, 0)])) (fun t =>
    decide (accesses t = List.replicate 4 (0x010, 0, false) ∧ t.result = .status .initTimeoutAhbIdle)) = true := by
  decide +kernel

/-- V40-1: a reset that takes one more poll. -/
theorem test_core_reset : makes .coreReset { dev with env := [[], [], [], [], [.softResetDone]] }
    [(0x010, 0x80000000, false), (0x010, 1, true), (0x010, 0x80000001, false), (0x010, 0x80000001, false),
      (0x010, 0x80000000, false)] = true := by decide +kernel

/-- V40-12. -/
theorem test_flush_tx : makes (.flushTxFifo 0x10) { dev with env := [[], [], [.txFlushDone]] }
    [(0x010, 0x420, true), (0x010, 0x80000420, false), (0x010, 0x80000400, false)] = true := by decide +kernel

/-- V40-12. -/
theorem test_flush_rx : makes .flushRxFifo { dev with env := [[], [.rxFlushDone]] }
    [(0x010, 0x10, true), (0x010, 0x80000000, false)] = true := by decide +kernel

/-- V40-13. -/
theorem test_enable_gint : makes .enableGint dev [(0x008, 0x26, false), (0x008, 0x27, true)] = true := by decide +kernel

/-- V40-13. -/
theorem test_disable_gint : makes .disableGint (opened dev) [(0x008, 0x27, false), (0x008, 0x26, true)] = true := by
  decide +kernel

/-- V40-14: a misaligned and a host-mode offset are refused. -/
theorem test_reg_read_refused : [0x016, 0x030, 0x500].all (fun o =>
    after (exec (.regRead o) dev) fun t => decide (accesses t = [] ∧ t.result = .status .badParam)) = true := by
  decide +kernel

/-- V70-1's capability word is legal to read at once. -/
theorem test_reg_read : after (exec (.regRead 0x4C) State.reset) (fun t => decide (t.result = .value 0x04000068)) = true := by
  decide +kernel

/-- V40-14. -/
theorem test_reg_write : after (exec (.regWrite 0x18 0xB00C780C) dev) (fun t =>
    decide (t.raw .GINTMSK = 0xB00C780C)) = true := by decide +kernel

/-- V40-14. -/
theorem test_reg_modify : makes (.regModify 0x8 0x1 0x0) (opened dev) [(0x008, 0x27, false), (0x008, 0x26, true)] = true := by
  decide +kernel

/-- R240's example: slots 0 and 2 free. -/
theorem test_pool_alloc : after (exec .poolAlloc { dev with pool := [none, some blankReq, none] }) (fun t =>
    decide (t.result = .handle 0 ∨ t.result = .handle 2)) = true := by decide +kernel

theorem test_pool_free : after (exec (.poolFree 1) { dev with pool := [none, some blankReq, none] }) (fun t =>
    decide (t.pool = [none, none, none])) = true := by decide +kernel

/-- V41-3. -/
theorem test_submit_endpoint : makes (.submit (.ep ⟨1, .OUT⟩) 0x20001000 1536 false ⟨7, 9⟩) (opened dev)
    (locked [(0xB30, 0x00180600, true), (0xB34, 0x20001000, true), (0xB20, 0x00088200, false),
      (0xB20, 0x84088200, true)]) = true := by decide +kernel

/-- Program 5. -/
theorem test_submit_channel : makes (.submit (.pipe pipe) 0x20002000 1024 false ⟨3, 0⟩) (opened host)
    (locked [(0x508, 0xFFFFFFFF, true), (0x50C, 0x18F, true), (0x418, 0, false), (0x418, 1, true), (0x504, 0, true),
      (0x510, 0x00100400, true), (0x514, 0x20002000, true), (0x500, 0x81580A00, true)]) = true := by decide +kernel

/-- V41-14. -/
theorem test_cancel_endpoint : makes (.cancel 0) (opened (devOut 512 0x80088200 0))
    (locked [(0xB20, 0x80088200, false), (0xB20, 0x80088200, false), (0xB20, 0xC8088200, true), (0x814, 0x110F, false),
      (0x814, 0x110F, true)]) = true := by decide +kernel

/-- Program 5. -/
theorem test_cancel_channel : makes (.cancel 0) (opened (hostRun (runningCh 1024) 0x00100400))
    (locked [(0x500, 0x81580A00, false), (0x02C, 0x00080000, false), (0x50C, 0x18F, false), (0x50C, 0x18F, true),
      (0x500, 0xC1580A00, true)]) = true := by decide +kernel

/-- V41-1's 513 bytes at 512. -/
theorem test_start_transfer : after (exec (.startTransfer (.ep ⟨1, .IN⟩) 0)
      { dev with pool := [some (request (.ep ⟨1, .IN⟩) 513 false)] }) (fun t =>
    decide (t.raw (.DIEPTSIZ 1) = 0x20100201 ∧ t.raw (.DIEPCTL 1) = 0x80488200)) = true := by decide +kernel

/-- V41-9: the bytes 11 22 33 44 55 as two words. -/
theorem test_continue_transfer : makes (.continueTransfer (.ep ⟨1, .IN⟩))
    ({ devSlave with
      epIn := devSlave.epIn.set 1
        { bulkEp with state := .active, x := { blankXfer with active := some (.pool 0), chunkLen := 5 } }
      pool := [some (request (.ep ⟨1, .IN⟩) 5 false)] }.setBytes 0x20001000 [0x11, 0x22, 0x33, 0x44, 0x55])
    [(0x938, 0x100, false), (0x2000, 0x44332211, true), (0x2000, 0x55, true)] = true := by decide +kernel

/-- V30-3. -/
theorem test_enable_endpoint :
    [(({ blankEp with enabled := false } : EpRec), (⟨7, 5, 0x81, 2, 512, 0⟩ : Epd), (0x920 : Nat), (0x18488200 : Word)),
      (blankEp, ⟨7, 5, 0x01, 2, 512, 0⟩, 0xB20, 0x18088200)].all (fun p =>
      after (exec (.enableEndpoint p.2.1)
        { dev with epIn := dev.epIn.set 1 p.1, epOut := dev.epOut.set 1 p.1 }) fun t =>
          decide ((p.2.2.1, p.2.2.2, true) ∈ accesses t ∧ t.result = .status .ok)) = true := by decide +kernel

/-- V30-3: the refused descriptors. -/
theorem test_enable_endpoint_refused :
    [(⟨9, 5, 0x81, 2, 512, 0⟩ : Epd), ⟨7, 5, 0x80, 2, 64, 0⟩, ⟨7, 5, 0x81, 2, 0, 0⟩, ⟨7, 5, 0x81, 2, 0x401, 0⟩,
      ⟨7, 5, 0x85, 2, 64, 0⟩].all (fun d =>
      after (exec (.enableEndpoint d) dev) fun t =>
        decide (accesses t = [] ∧ t.result = .status .badParam)) = true := by decide +kernel

/-- V41-18. -/
theorem test_disable_endpoint : makes (.disableEndpoint ⟨1, .OUT⟩) (opened dev)
    (locked [(0xB20, 0x08000000, true), (0x81C, 0x00030003, false), (0x81C, 0x00010003, true)]) = true := by decide +kernel

/-- V43-3, and the second halt, which touches nothing. -/
theorem test_halt : makes (.halt 0 .cancelled) { hostRun (runningCh 1024) 0x00100400 with ctx := .isr }
      [(0x500, 0x81580A00, false), (0x02C, 0x00080000, false), (0x50C, 0x18F, false), (0x50C, 0x18F, true),
        (0x500, 0xC1580A00, true)] = true ∧
    makes (.halt 0 .nak) { hostRun { runningCh 1024 with haltStatus := .haltPending } 0 with ctx := .isr } [] = true := by
  decide +kernel

/-- V45-1: the status words of both chains. -/
theorem test_iso_start : after (exec (.isoStart (.ep ⟨3, .IN⟩) 0x20020000 0x20021000 1024 4 ⟨7, 0⟩)
      (withWords devDesc [(.DSTS, 0x00010000)])) (fun t =>
    decide ([0x20000400, 0x20000408, 0x20000410, 0x20000418, 0x20000420, 0x20000428, 0x20000430, 0x20000438].map t.word =
      [0x00901400, 0x00902400, 0x00903400, 0x0A904400, 0x00905400, 0x00906400, 0x00907400, 0x0A908400] ∧
      t.raw (.DIEPDMA 3) = 0x20000400 ∧ t.raw (.DIEPCTL 3) = 0x80C48400 ∧ t.iso.map IsoRec.nextFrame = [0x109])) = true := by
  decide +kernel

/-- V45-8. -/
theorem test_iso_stop : after (exec (.isoStop (.ep ⟨1, .IN⟩)) dev) (fun t =>
    decide (t.result = .status .badHandle)) = true := by decide +kernel

/-- Program 2: the handler serves USBSUSP as V60-6 says and ends. -/
theorem test_isr : makes .isr (opened (withWords dev [(.GINTSTS, 0x800)]))
    [(0x014, 0x800, false), (0x018, 0xB00C7804, false), (0x014, 0x800, true), (0x014, 0, false),
      (0x018, 0xB00C7804, false)] = true := by decide +kernel

/-- V60-6. -/
theorem test_suspend_resume : makes .topUsbsusp (withWords dev [(.GINTSTS, 0x800)]) [(0x014, 0x800, true)] = true ∧
    makes .topWkupint (withWords dev [(.GINTSTS, 0x80000000)]) [(0x014, 0x80000000, true)] = true := by decide +kernel

/-- Program 2. -/
theorem test_bus_reset : makes .topUsbrst (withWords
      { dev with epIn := Vector.replicate 16 blankEp, epOut := Vector.replicate 16 blankEp } [(.GINTSTS, 0x1000)])
    [(0x014, 0x1000, true), (0x900, 0x8040, false), (0x800, 0, false), (0x800, 0, true)] = true := by decide +kernel

/-- Program 2 and V42-1: ENUMDONE in buffer-DMA and in descriptor-DMA mode. NAKSTS reads 1 here, which the vectors show as
0 because no rule reads it. -/
theorem test_enumeration : makes .topEnumdone (withWords dev [(.GINTSTS, 0x2000)])
      [(0x014, 0x2000, true), (0x900, 0x08008040, true), (0xB00, 0x08008040, true), (0xB10, 0x20080008, true),
        (0xB14, 0x20000F00, true), (0xB00, 0x00028040, false), (0xB00, 0x80028040, true)] = true ∧
    after (exec .topEnumdone (withWords devDesc [(.GINTSTS, 0x2000)])) (fun t =>
      decide (t.word 0x20000100 = 0x0A000040 ∧ t.word 0x20000104 = 0x20000F00)) = true := by decide +kernel

/-- V60-5. -/
theorem test_unhandled_top : makes (.topUnassigned 3) (withWords dev [(.GINTSTS, 0x8)])
    [(0x014, 0x8, true), (0x014, 0, false)] = true := by decide +kernel

/-- V60-5: a SESREQSUCSTSCHNG is only cleared. -/
theorem test_unhandled_otg : makes .otgSesreqsucstschng (withWords dev [(.GOTGINT, 0x100)]) [(0x004, 0x100, true)] = true := by
  decide +kernel

/-- V44-2: the route of OTGINT reads GOTGINT, then runs the leaf. -/
theorem test_route_otg : after (exec .topOtgint (withWords host [(.GOTGINT, 0x4)])) (fun t =>
    decide (accesses t = [(0x004, 0x4, false), (0x004, 0x4, true)])) = true := by decide +kernel

/-- V44-1: a session end in A_HOST changes nothing; with the device engine stopped UPPER gets the disconnect. -/
theorem test_session_end : makes .otgSesenddet (withWords host [(.GOTGINT, 0x4)]) [(0x004, 0x4, true)] = true ∧
    after (exec .otgSesenddet { dev with core := { dev.core with deviceEngine := false } }) (fun t =>
      decide (t.trace.head? = some (.cb .disconnect))) = true := by decide +kernel

/-- V44-3. -/
theorem test_negotiation_failed : makes .otgHstnegsucstschng (withWords dev [(.GOTGCTL, 0x00010000), (.GOTGINT, 0x200)])
    [(0x004, 0x200, true), (0x000, 0x00010000, false), (0x000, 0x00010000, false), (0x000, 0x00010A00, true)] = true := by
  decide +kernel

/-- V44-1, V44-2. -/
theorem test_disconnect : makes .topDisconnint (withWords host [(.GINTSTS, 0x20000001)]) [(0x014, 0x20000000, true)] = true ∧
    makes .topDisconnint (withWords dev [(.GINTSTS, 0x20000000)]) [(0x014, 0x20000000, true)] = true := by decide +kernel

/-- V44-4: the mode bit never follows the plug. -/
theorem test_connector_change : (match exec .topConidstschng (withWords host [(.GOTGCTL, 0x00010000)]) with
    | .fault f => decide (f = .modeWait)
    | .next _ | .refused _ => false) = true := by decide +kernel

/-- V41-3, and V41-5's short packet: 512 and 100 of 1536 bytes. -/
theorem test_out_complete : [((0 : Word), 1536), (0x0008039C, 612)].all (fun p =>
    after (exec (.outXfercompl 1) (withWords (devOut 1536 0x00088200 p.1) [(.DOEPINT 1, 1)])) fun t =>
      decide (accesses t = [(0xB28, 1, true), (0xB30, p.1, false)] ∧
        t.trace.head? = some (.cb (.transferComplete 7 9 .ok p.2)) ∧ t.pool.head? = some none)) = true := by decide +kernel

/-- V41-16: AHBERR of an endpoint the hardware has already stopped ends the request. -/
theorem test_out_ahberr : after (exec (.outAhberr 1) (withWords (devOut 512 0x00088200 0) [(.DOEPINT 1, 4)])) (fun t =>
    decide (accesses t = [(0xB28, 4, true), (0xB20, 0x00088200, false)] ∧
      t.trace.head? = some (.cb (.transferComplete 7 9 .ahbError 0)))) = true := by decide +kernel

/-- V41-14: a confirmed disable. -/
theorem test_out_disabled : after (exec (.outEpdisbld 1)
      (withWords { devOut 512 0x00088200 0 with
        epOut := (devOut 512 0 0).epOut.set 1 { ((devOut 512 0 0).ep ⟨1, .OUT⟩) with
          state := .haltedPendingDisable
          pendingStatus := .cancelled } } [(.DOEPINT 1, 2)])) (fun t =>
    decide (accesses t = [(0xB28, 2, true)] ∧ t.trace.head? = some (.cb (.transferComplete 7 9 .cancelled 0)) ∧
      (t.ep ⟨1, .OUT⟩).state = .idle)) = true := by decide +kernel

/-- V41-16. -/
theorem test_in_timeout : makes (.inTimeout 1) dev [(0x928, 8, true)] = true := by decide +kernel

/-- Program 2: a SETUP packet in buffer-DMA mode; the request it selects answers with 18 bytes. -/
theorem test_setup : makes (.outSetup 0)
    (({ dev with plat := { resetPlatform with descTable := [((1, 0, 0), List.replicate 18 0xAA)] } }).setBytes 0x20000F00
      [0x80, 0x06, 0x00, 0x01, 0x00, 0x00, 0x12, 0x00])
    [(0xB08, 8, true), (0x900, 0x8040, false), (0x910, 0x20080012, true), (0x914, 0x20000E00, true),
      (0x900, 0x8040, false), (0x900, 0x84008040, true)] = true := by decide +kernel

/-- Endpoint 0 in the status phase of an accepted request. -/
def devStatus : State := { dev with ep0 := { dev.ep0 with state := .inStatus } }

/-- The accesses of the IN status phase (V42-2). -/
def statusIn : List (Nat × Word × Bool) :=
  [(0x910, 0x20080000, true), (0x914, 0x20000E00, true), (0x900, 0x8040, false), (0x900, 0x84008040, true)]

/-- The accesses of `ep0_stall` and the arming that follows (V42-9, V42-1). -/
def stalled : List (Nat × Word × Bool) :=
  [(0x900, 0x8040, false), (0x900, 0x8040, false), (0x900, 0x00208040, true), (0xB00, 0x8040, false),
    (0xB00, 0x00208040, true), (0xB10, 0x20080008, true), (0xB14, 0x20000F00, true), (0xB00, 0x00208040, false),
    (0xB00, 0x80208040, true)]

/-- V42-2 and V42-6. -/
theorem test_set_address :
    makes (.setAddress ⟨.OUT, 0, 7, 0, 0⟩) devStatus ([(0x800, 0, false), (0x800, 0x70, true)] ++ statusIn) = true ∧
    makes (.setAddress ⟨.OUT, 0, 128, 0, 0⟩) devStatus stalled = true := by decide +kernel

/-- V42-8. -/
theorem test_set_configuration : makes (.setConfiguration ⟨.OUT, 0, 1, 0, 0⟩)
    (withWords { devStatus with
      epIn := Vector.replicate 16 blankEp
      epOut := Vector.replicate 16 blankEp
      plat := { resetPlatform with configs := [(1, [⟨7, 5, 0x81, 2, 512, 0⟩, ⟨7, 5, 0x01, 2, 512, 0⟩])] }
      ctx := .isr } [(.DAINTMSK, 0x00010001)])
    ([(0x920, 0x18488200, true), (0x81C, 0x00010001, false), (0x81C, 0x00010003, true), (0xB20, 0x18088200, true),
      (0x81C, 0x00010003, false), (0x81C, 0x00030003, true)] ++ statusIn) = true := by decide +kernel

/-- V42-4: GET_STATUS of a halted endpoint answers 01 00; with DIR = 0 it stalls. -/
theorem test_get_status : after (exec (.getStatus ⟨.IN, 2, 0, 0x81, 2⟩)
      { dev with
        ep0 := { dev.ep0 with state := .inData }
        epIn := dev.epIn.set 1 { bulkEp with state := .stalled } }) (fun t =>
      decide (t.bytes 0x20000E00 2 = [1, 0] ∧ t.raw (.DIEPTSIZ 0) = 0x20080002)) = true ∧
    makes (.getStatus ⟨.OUT, 0, 0, 0, 0⟩) devStatus stalled = true := by decide +kernel

/-- V42-5 and V41-15: set and clear of an endpoint halt. -/
theorem test_endpoint_halt :
    makes (.setFeature ⟨.OUT, 2, 0, 1, 0⟩) devStatus
      ([(0xB20, 0x00088200, false), (0xB20, 0x00288200, true)] ++ statusIn) = true ∧
    makes (.clearFeature ⟨.OUT, 2, 0, 1, 0⟩) (withWords { devStatus with
        epOut := dev.epOut.set 1 { bulkEp with state := .stalled } } [(.DOEPCTL 1, 0x00288200)])
      ([(0xB20, 0x00288200, false), (0xB20, 0x10088200, true)] ++ statusIn) = true := by decide +kernel

/-- V42-7: a truncated and a whole descriptor. -/
theorem test_get_descriptor : [(8, (0x20080008 : Word)), (18, 0x20080012), (64, 0x20080012)].all (fun p =>
    after (exec (.getDescriptor ⟨.IN, 0, 0x100, 0, BitVec.ofNat 16 p.1⟩)
      { dev with
        ep0 := { dev.ep0 with state := .inData }
        plat := { resetPlatform with descTable := [((1, 0, 0), List.replicate 18 0xAA)] } }) fun t =>
      decide (t.raw (.DIEPTSIZ 0) = p.2 ∧ t.ep0.request.zeroFlag = decide (p.1 = 64))) = true := by decide +kernel

/-- V42-3. -/
theorem test_delegated : makes (.delegatedRequest ⟨0xC0, 1, 0, 0, 0⟩)
    { devStatus with plat := { resetPlatform with answers := [.value []] } } statusIn = true := by decide +kernel

/-- R315's SET_INTERFACE without a configuration stalls. -/
theorem test_set_interface : makes (.setInterface ⟨.OUT, 1, 1, 2, 0⟩) devStatus stalled = true := by decide +kernel

/-- V43-11: PID code 2 in HCTSIZ is DATA1, and it is remembered for the pipe. -/
theorem test_channel_complete : after (exec (.chXfercompl 0) (hostRun (runningCh 1024) 0x40000000)) (fun t =>
    decide (accesses t = [(0x508, 1, true), (0x510, 0x40000000, false), (0x510, 0x40000000, false), (0x50C, 0, true),
        (0x418, 1, false), (0x418, 0, true), (0x508, 0xFFFFFFFF, true)] ∧
      t.trace.head? = some (.cb (.transferComplete 7 9 .ok 1024)) ∧ (t.chan 0).dataPid = .data1 ∧
      SMap.get false t.htog (pipeKey pipe) = true)) = true := by decide +kernel

/-- V43-9: the third transaction error ends the request. -/
theorem test_channel_xacterr : after
    (exec (.chXacterr 0) (withWords (hostRun { runningCh 1024 with errorCount := 2 } 0) [(.HCCHAR 0, 0x01580A00)])) (fun t =>
      decide (t.trace.head? = some (.cb (.transferComplete 7 9 .xactError 0)) ∧ (t.chan 0).allocated = false)) = true := by
  decide +kernel

/-- V43-7: NYET in the complete-split phase, and outside it. -/
theorem test_channel_nyet :
    makes (.chNyet 0) (withWords (hostRun { runningCh 8 with
        completeSplit := true
        params := { pipe with
          devAddr := 3
          epDir := .IN
          epType := .interrupt
          mps := 8
          speed := .full
          doSplit := true } } 0) [(.HFNUM, 0x124)])
      [(0x508, 0x40, true), (0x408, 0x124, false), (0x500, 0xA0DC8808, true)] = true ∧
    makes (.chNyet 0) (hostRun (runningCh 8) 0) [(0x508, 0x40, true)] = true := by decide +kernel

/-- V43-9: an ACK ends the error state and writes the mask back. -/
theorem test_channel_ack : makes (.chAck 0) (withWords
      (hostRun { runningCh 8 with errorState := true, errorCount := 1 } 0) [(.HCINTMSK 0, 0x1AF)])
    [(0x508, 0x20, true), (0x50C, 0x1AF, false), (0x50C, 0x18F, true)] = true := by decide +kernel

/-- Program 5: the confirmed halt ends the cancelled request. -/
theorem test_channel_halted : after (exec (.chChhltd 0) (withWords
      (hostRun { runningCh 1024 with haltStatus := .haltPending, haltReason := some .cancelled } 0)
      [(.HCCHAR 0, 0x01580A00)])) (fun t =>
    decide (accesses t = [(0x508, 2, true), (0x50C, 0, true), (0x418, 1, false), (0x418, 0, true),
        (0x508, 0xFFFFFFFF, true)] ∧
      t.trace.head? = some (.cb (.transferComplete 7 9 .cancelled 0)))) = true := by decide +kernel

/-- V41-10: 64 bytes of an OUT packet move from the FIFO to the request. -/
theorem test_rx_out_data : after (exec (.rxsOutData ⟨1, 64, 0⟩)
      { devOut 512 0x80088200 0 with
        core := devSlave.core
        fifo := { emptyFifo with rxData := List.replicate 16 0x44332211 } }) (fun t =>
    decide (t.fifo.rxData = [] ∧ t.bytes 0x20001000 4 = [0x11, 0x22, 0x33, 0x44] ∧
      (t.reqAt (.pool 0)).done = 64 ∧ (accesses t).length = 16)) = true := by decide +kernel

/-- V41-10: the SETUP entry fills `ep0.setup`. -/
theorem test_rx_setup : after (exec (.rxsSetupData ⟨0, 8, 0⟩)
      { devSlave with fifo := { emptyFifo with rxData := [0x01000680, 0x00120000] } }) (fun t =>
    decide (t.ep0.setup = ⟨0x80, 0x06, 0x0100, 0, 18⟩)) = true := by decide +kernel

/-! Witnesses: for every statement with hypotheses a state and operands that meet them, clause by clause. The checks below
stand for the premises of Safety.lean. -/

def alone (s : State) : Bool :=
  decide (s.env = [] ∧ s.prompt = false ∧ s.replies = [] ∧ s.hw.debug = false ∧ s.unsettled = false ∧ s.hold = false)
def shut (s : State) : Bool := decide (s.ctx = .isr ∨ bitOf (s.raw .GAHBCFG) 0 = false)
def inDevice (s : State) : Bool :=
  decide (s.hostMode = false ∧ s.peripheral = true ∧ s.core.functional = true ∧ s.core.caps = s.hw.caps)
def inHost (s : State) : Bool :=
  decide (s.hostMode = true ∧ s.peripheral = false ∧ s.core.functional = true ∧ s.core.caps = s.hw.caps)
def fits (c : Caps) : Bool :=
  decide (1 ≤ c.nEp ∧ c.nEp ≤ 16 ∧ 1 ≤ c.nCh ∧ c.nCh ≤ 16 ∧ 11 ≤ c.xw ∧ c.xw ≤ 19 ∧ 4 ≤ c.pw ∧ c.pw ≤ 10 ∧
    c.fifoDepth < 65536)
def low (s : State) : Bool :=
  decide (∀ n : Fin 16, s.raw (.DIEPCTL n) &&& 0x3C000000 = 0 ∧ s.raw (.DOEPCTL n) &&& 0x3C000000 = 0 ∧
    (∀ r ∈ [Reg.DIEPTSIZ n, .DOEPTSIZ n, .HCTSIZ n], s.raw r &&& 0x1FFFFFFF &&& ~~~(rwMask s.hw r) = 0) ∧
    (∀ r ∈ [Reg.DIEPMSK, .DOEPMSK, .HCINTMSK n, .HCSPLT n], s.raw r &&& ~~~(rwMask s.hw r) = 0))
def ready (s : State) : Bool :=
  decide (s.hostMode = false ∧ s.core.caps = s.hw.caps ∧ (1 ≤ s.hw.caps.nEp ∧ s.hw.caps.nEp ≤ 16) ∧
    (7 ≤ s.hw.ep0Xw ∧ s.hw.ep0Xw ≤ 19) ∧ (1 ≤ s.hw.ep0Pw ∧ s.hw.ep0Pw ≤ 10) ∧ s.isDesc = false ∧
    (s.ep ⟨0, .IN⟩).mps = 64 ∧ (s.ep ⟨0, .IN⟩).type = .control)
def fromTask (s : State) : Bool := decide ((s.ctx = .task ∧ s.inCb = false) ∨ s.hw.debug = false)
def spared (s : State) (a : Word) : Bool :=
  s.plat.descArrays.all fun p => !s.walking p.1.1 || decide (s.hw.maxDesc ≤ (a - p.2).toNat / 8)
def everyEp (p : EpRef → Bool) : Bool := decide (∀ n : Fin 16, p ⟨n, .IN⟩ = true ∧ p ⟨n, .OUT⟩ = true)

theorem alone_of {s : State} (h : alone s = true) : s.Alone := by
  obtain ⟨a, b, c, d, e, f⟩ := of_decide_eq_true h
  exact ⟨a, b, c, d, e, f⟩
theorem shut_of {s : State} (h : shut s = true) : s.Shut := by
  unfold State.Shut
  exact of_decide_eq_true h
theorem fromTask_of {s : State} (h : fromTask s = true) : s.FromTask := by
  unfold State.FromTask
  exact of_decide_eq_true h
theorem spared_of {s : State} {a : Word} (h : spared s a = true) : s.Spared a := by
  intro p hp hw
  have := List.all_eq_true.mp h p hp
  simpa [hw] using this
theorem inDevice_of {s : State} (h : inDevice s = true) : s.InDeviceRole := by
  obtain ⟨a, b, c, d⟩ := of_decide_eq_true h
  exact ⟨a, b, c, d⟩
theorem inHost_of {s : State} (h : inHost s = true) : s.InHostRole := by
  obtain ⟨a, b, c, d⟩ := of_decide_eq_true h
  exact ⟨a, b, c, d⟩
theorem fits_of {c : Caps} (h : fits c = true) : c.fits := by
  unfold Caps.fits
  exact of_decide_eq_true h
theorem low_of {s : State} (h : low s = true) : s.reservedLow := by
  unfold State.reservedLow
  exact of_decide_eq_true h
theorem ready_of {s : State} (h : ready s = true) : s.ControlReady := by
  obtain ⟨a, b, c, d, e, f, g, i⟩ := of_decide_eq_true h
  exact ⟨a, b, c, d, e, f, g, i⟩
theorem everyEp_of {p : EpRef → Bool} (h : everyEp p = true) (e : EpRef) : p e = true := by
  rcases e with ⟨n, d⟩
  cases d
  · exact (of_decide_eq_true h n).2
  · exact (of_decide_eq_true h n).1
theorem after_next {o : Host.Outcome State Fault Refusal} {p : State → Bool} (h : after o p = true) :
    ∃ t, o = .next t ∧ p t = true := by
  cases o with
  | next t => exact ⟨t, rfl, h⟩
  | fault f => simp [after] at h
  | refused r => simp [after] at h

/-- The premises shared by the statements about LINK that is prompt: nothing scripted, and it has nothing to do. -/
def promptly (s : State) : Bool :=
  decide (s.env = [] ∧ s.replies = [] ∧ s.prompt = true ∧ s.tick = s ∧ s.unsettled = false)

/-- For StepRunsTheDecodedInstruction, StepTakesTheInterrupt. -/
theorem test_witness_step :
    decide (decode .gintsts [0, 0x10, 0, 0] = .ok (.topUsbrst, []) ∧ decode .cmd [0x06] = .ok (.enableGint, []) ∧
      dev.ctx = .task ∧ dev.irqDue = false ∧ dev.inbox = [] ∧
      (opened (withWords dev [(.GINTSTS, 0x1000)])).irqDue = true) = true := by decide +kernel

/-- For DecodeReadsEveryEncoding. -/
theorem test_witness_encodings :
    [Instr.coreInit 0xFFFFFFFF params, .submit (.pipe { pipe with mps := 1024, multiCount := 3 }) 0 0 true ⟨0, 0⟩,
      .topUnassigned 30, .chUnassigned 15 31, .delegatedRequest ⟨0x80, 0x08, 0, 0, 1⟩].all Instr.wf = true := by decide

/-- For StepKeepsTheInvariants, StepKeepsTheParametersAndTheMode. A step from a state of the invariants, for the
statements about every step. -/
theorem test_witness_steps :
    after (step dev) (fun _ => decide (Memory.wf dev.mem = true ∧ SMap.wf (0 : Word) dev.regs = true ∧
      SMap.wf false dev.htog = true ∧ dev.env = []) && low dev) = true := by decide +kernel

/-- For RegReadReturnsTheWord, RegReadPopsTheQueues, RegWriteFollowsTheAccessTypes, RegModifyClearsAndSets. The last
register of a group that exists, and each kind of register. -/
theorem test_witness_accessors :
    (decide (dev.env = [] ∧ dev.prompt = false ∧ dev.irqDue = false ∧ dev.unsettled = false) &&
      [(0x014, Reg.GINTSTS), (0xB74, .DOEPDMA 3), (0x920, .DIEPCTL 1), (0x018, .GINTMSK), (0x010, .GRSTCTL)].all (fun p =>
        decide (Reg.ofOffset p.1 = some p.2) && dev.accessible p.2 && p.2.steady) &&
      [(0x01C, Reg.GRXSTSR), (0x020, .GRXSTSP), (0x1000, .FIFO 0), (0x10FFC, .FIFO 15)].all (fun p =>
        decide (Reg.ofOffset p.1 = some p.2) && !p.2.steady)) = true := by decide +kernel

/-- For RegReadPopsTheQueues, RegWriteFeedsTheQueues. -/
theorem test_witness_queues :
    decide (devSlave.fifo.rxStatus = [] ∧ devSlave.slaveHw = true ∧ dev.slaveHw = false ∧ dev.hold = false ∧
      [0x00060001, 0x00080000, 0x000E0000].map (fun v : Word => field v 17 4) = [3, 4, 7] ∧
      0 < devSlave.roomIn (devSlave.txDepth (devSlave.txFifoOf 1)) (devSlave.fifo.tx[(devSlave.txFifoOf 1).val]).length ∧
      devSlave.roomIn (devSlave.txDepth 2) 0 = 0 ∧ hostSlave.hostMode = true ∧ hostSlave.slaveHw = true ∧
      Reg.ofOffset 0x5E0 = some (.HCCHAR 7) ∧ hostSlave.accessible (.HCCHAR 7) = true ∧
      periodicCode (field ((withWords hostSlave [(.HCCHAR 7, 0x000C0000)]).raw (.HCCHAR 7)) 18 2) = true ∧
      periodicCode (field (hostSlave.raw (.HCCHAR 0)) 18 2) = false ∧ hostSlave.irqDue = false ∧ host.slaveHw = false ∧
      hostSlave.env = [] ∧ hostSlave.prompt = false) = true := by decide +kernel

/-- For RefusedCommandsChangeNothing. -/
theorem test_witness_refused :
    (∀ r, Reg.ofOffset 0x016 = some r → dev.accessible r = false) ∧
    (∀ r, Reg.ofOffset 0x500 = some r → dev.accessible r = false) ∧
    decode .cmd [0x0B] = .error (.unknownOp 0x0B) ∧
    (fromTask dev = true ∧ { params with dedicatedFifo := false }.dedicatedFifo = false ∧
      ({ resetCaps with dedFifo := false }).dedFifo = false) := by
  refine ⟨fun r h => ?_, fun r h => ?_, by decide, by decide +kernel, rfl, rfl⟩
  · exact absurd h (by simp [show Reg.ofOffset 0x016 = none by decide])
  · rw [show Reg.ofOffset 0x500 = some (.HCCHAR 0) by decide] at h
    cases h
    decide +kernel

/-- For GateCommandsToggleOneBit, NonFunctionalCoreRefusesCommands. -/
theorem test_witness_gate : decide (dev.env = [] ∧ dev.prompt = false ∧ dev.irqDue = false ∧ dev.unsettled = false ∧
    dev.core.functional = true ∧ dev.ctx = .task ∧ dev.recordsExist = true ∧ fromTask dev = true ∧
    State.reset.core.functional = false ∧ State.reset.recordsExist = false ∧ State.reset.ctx = .task) = true := by
  decide +kernel

/-- For CoreResetOutcomes, FlushCommands. -/
theorem test_witness_core_reset :
    (let p := { dev with prompt := true }
     promptly p && shut p && fromTask p && decide (p.core.functional = true ∧ bitOf (p.raw .GRSTCTL) 31 = true ∧
       1 ≤ p.hw.resetPollLimit ∧ 1 ≤ p.hw.flushPollLimit) &&
     shut dev && decide (dev.prompt = false ∧ dev.ctx = .task ∧ bitOf ((withWords dev [(.GRSTCTL, 0)]).raw .GRSTCTL) 31 = false ∧
       ({ dev.hw with resetPollLimit := 0 }).resetPollLimit = 0) &&
     [(0x00 : BitVec 8), 0x10].all (fun n => decide (n.toNat ≤ 16)) && decide (16 < (0x11 : BitVec 8).toNat)) = true := by
  decide +kernel

/-- For CoreInitStartsTheDevice, CoreInitStartsTheHost, FifoPartitionFits. The power-on state for both plugs. -/
theorem test_witness_core_init :
    ([State.reset, withWords State.reset [(.GINTSTS, 1), (.GOTGCTL, 0)]].all (fun s =>
        promptly s && shut s && fromTask s && fits s.hw.caps && decide (s.hw.caps.dedFifo = true ∧
          bitOf (s.raw .GRSTCTL) 31 = true ∧ 1 ≤ s.hw.resetPollLimit ∧ 1 ≤ s.hw.flushPollLimit ∧ 1 ≤ s.hw.modeWaitLimit ∧
          bitOf (s.raw .GOTGCTL) 16 = !s.hostMode)) &&
      params.dedicatedFifo && [(params, true), ({ params with rxFifo := 2000 }, false),
        ({ params with epTx := 256 :: 1 :: List.replicate 13 0 }, false),
        ({ params with epTx := List.replicate 14 0 ++ [1] }, false)].all (fun p =>
        after (exec (.coreInit 0 p.1) State.reset) fun t =>
          decide (t.result = .status (if p.2 then .ok else .configError)))) = true := by decide +kernel

/-- A device without an enabled data endpoint. -/
def quiet : State := { dev with epIn := Vector.replicate 16 blankEp, epOut := Vector.replicate 16 blankEp }

/-- For CoreDeinitTearsDown. -/
theorem test_witness_deinit :
    (alone dev && shut dev && low dev && alone quiet && shut quiet && low quiet && low host && alone host && shut host &&
      low (hostRun (runningCh 512) 0) && decide (host.ctx = .task ∧ host.recordsExist = true ∧
      host.core.hostEngine = true ∧ host.core.deviceEngine = false ∧ host.core.caps = host.hw.caps ∧
      (∀ c, (host.chan c).allocated = false) ∧ (∀ c, c ≠ 0 → ((hostRun (runningCh 512) 0).chan c).allocated = false) ∧
      ((hostRun (runningCh 512) 0).chan 0).x.active = some (.pool 0) ∧ (hostRun (runningCh 512) 0).slotUsed 0 = true) &&
      decide (quiet.ctx = .task ∧ quiet.recordsExist = true ∧ quiet.core.deviceEngine = true ∧
      quiet.core.hostEngine = false ∧ quiet.hostMode = false ∧ 1 ≤ quiet.hw.caps.nEp ∧
      bitOf (quiet.raw (.DIEPCTL 0)) 31 = false ∧ ({ dev.core with deviceEngine := false }).deviceEngine = false) &&
      everyEp (fun e => decide ((quiet.ep e).enabled = false ∧ (quiet.ep e).x.active = none ∧ (quiet.ep e).x.queue = []))) = true := by decide +kernel

/-- For PoolSlotsAreHandedOutAndFreed. -/
theorem test_witness_pool :
    decide (dev.freeSlots ≠ [] ∧ ({ dev with pool := [] }).freeSlots = [] ∧
      ({ dev with pool := [none, some blankReq] }).slotUsed 1 = true ∧
      ({ dev with pool := [none, some blankReq] }).inUse 1 = false ∧ dev.pool.length ≤ (4 : BitVec 16).toNat) = true := by
  decide +kernel

/-- For SubmitQueuesOrFails. -/
theorem test_witness_submit_device :
    (let s := devOut 512 0x80088200 0
     alone s && inDevice s && decide (s.irqDue = false ∧ s.submitCheck ⟨1, .OUT⟩ = .ok ∧
       (s.ep ⟨1, .OUT⟩).x.active ≠ none ∧ s.freeSlots ≠ [] ∧ (0x20001000 : Word).toNat % 4 = 0 ∧
       (0x20001002 : Word).toNat % 4 ≠ 0 ∧ dev.isSlave = false ∧ devSlave.isSlave = true) &&
     [(⟨0, .OUT⟩ : EpRef), ⟨4, .IN⟩, ⟨2, .IN⟩].all (fun e => decide (dev.submitCheck e = .notEnabled)) &&
     [EpState.stalled, .haltedPendingDisable].all (fun x =>
       decide (({ dev with epIn := dev.epIn.set 1 { bulkEp with state := x } }).submitCheck ⟨1, .IN⟩ = .busy)) &&
     decide (({ dev with pool := [] }).freeSlots = [])) = true := by decide +kernel

/-- For SubmitStartsAChannel, SubmitQueuesOrFails. -/
theorem test_witness_submit_host :
    (alone host && shut host && inHost host && low host && fits host.hw.caps && decide (host.pipeChannel pipe = none ∧ host.freeChannel = some 0 ∧
      pipe.wf = true ∧ host.core.dmaMode = .bufferDma ∧ host.freeSlots ≠ [] ∧
      ({ host with ch := Vector.replicate 16 { blankCh with allocated := true } }).freeChannel = none ∧
      (hostRun (runningCh 512) 0).pipeChannel pipe = some 0 ∧
      (hostRun (runningCh 512) 0).pipeChannel { pipe with pid := some .data0 } = some 0)) = true := by decide +kernel

/-- For StartTransferProgramsTheEndpoint, StartTransferBuildsTheChain. An endpoint's START_TRANSFER at the bounds of
its premises, in the three modes. -/
theorem test_witness_start_transfer :
    ([(dev, 1), (dev, 1024), (devSlave, 512)].all (fun p =>
        let s := { p.1 with
          epIn := p.1.epIn.set 3 { bulkEp with mps := p.2 }
          pool := [some (request (.ep ⟨3, .IN⟩) 2048 true)] }
        alone s && shut s && low s && inDevice s && fits s.hw.caps && decide (s.isDesc = false ∧ (3 : Fin 16) ≠ 0 ∧
          (s.ep ⟨3, .IN⟩).state = .idle ∧ (s.ep ⟨3, .IN⟩).x.active = none ∧ 1 ≤ (s.ep ⟨3, .IN⟩).multiCount ∧
          (s.ep ⟨3, .IN⟩).type ≠ .isochronous ∧ s.slotUsed 0 = true ∧ (s.reqAt (.pool 0)).owner = some (.ep ⟨3, .IN⟩) ∧
          (s.reqAt (.pool 0)).status = .pending ∧ (s.reqAt (.pool 0)).done = 0 ∧ (s.ep ⟨3, .IN⟩).disabling = false ∧
          ((s.modX (.ep ⟨3, .IN⟩) fun t => { t with active := some (.pool 0) }).ep ⟨3, .IN⟩).x.active ≠ none ∧
          ((s.modEp ⟨3, .IN⟩ fun r => { r with disabling := true }).ep ⟨3, .IN⟩).disabling = true)) &&
      [(XferType.isochronous, 1024), (.bulk, 1024), (.bulk, 1)].all fun p =>
        let s := { devDesc with
          epIn := devDesc.epIn.set 3 { devDesc.ep ⟨3, .IN⟩ with type := p.1, mps := p.2 }
          pool := [some (request (.ep ⟨3, .IN⟩) 2048 false)] }
        alone s && shut s && inDevice s && decide (s.isDesc = true ∧ (s.ep ⟨3, .IN⟩).state = .idle ∧
          (s.ep ⟨3, .IN⟩).x.active = none ∧ (s.ep ⟨3, .IN⟩).x.desc = some 0x20000400 ∧ (s.ep ⟨3, .IN⟩).mps = p.2 ∧
          (s.ep ⟨3, .IN⟩).disabling = false ∧ 1 ≤ s.hw.maxDesc ∧ s.hw.maxDesc < 2 ^ 20 ∧ s.slotUsed 0 = true ∧
          (s.reqAt (.pool 0)).owner = some (.ep ⟨3, .IN⟩) ∧ (s.reqAt (.pool 0)).status = .pending ∧
          (withWords s [(.DIEPCTL 3, 0x80C48400)]).owned 0x20000400 = true) &&
          (List.range 64).all fun k => spared s (0x20000400 + BitVec.ofNat 32 k)) = true := by decide +kernel

/-- A slave-mode IN endpoint with `n` of 130 bytes pushed and a Tx FIFO of `depth` words. -/
def feeding (n : Nat) (depth : Word) : State :=
  withWords { devSlave with
    epIn := devSlave.epIn.set 1
      { bulkEp with mps := 64, state := .active, x := { blankXfer with active := some (.pool 0), chunkLen := 130, chunkDone := n } }
    pool := [some (request (.ep ⟨1, .IN⟩) 130 false)] } [(.DIEPTXF 1, depth <<< 16)]

/-- A slave-mode host whose channel 0 has `n` of 1024 bytes pushed. -/
def pushing (p : HcParams) (n : Nat) : State :=
  { withWords hostSlave [(.HCCHAR 0, 0x81580A00), (.GNPTXFSIZ, 0x01000200)] with
    ch := (Vector.replicate 16 blankCh).set 0
      { blankCh with
        allocated := true
        params := p
        x := { blankXfer with active := some (.pool 0), chunkLen := 1024, chunkDone := n } }
    pool := [some (request (.ch 0) 1024 false)] }

/-- For ContinueTransferPushesOrDoesNothing. The forms of a slave-mode channel: an IN and an OUT, a split of each, an OUT
with all its data pushed, a queue without room and a halt that waits for it. -/
theorem test_witness_continue_channel :
    ([(pipe, 0), (pipe, 512), (pipe, 1024), ({ pipe with epDir := .IN }, 0), ({ pipe with epDir := .IN, doSplit := true }, 0),
        ({ pipe with doSplit := true }, 512)].all (fun p =>
        let s := pushing p.1 p.2
        alone s && shut s && inHost s && decide (s.isSlave = true ∧ (s.chan 0).x.active ≠ none ∧
          (s.chan 0).haltStatus = .noHalt ∧ (s.chan 0).haltDeferred = none ∧ s.queueRoom 0 ≠ 0 ∧
          128 ≤ s.npSpace % 65536 ∧ 128 ≤ s.roomIn (field (s.raw .GNPTXFSIZ) 16 16) (s.fifo.tx[0]).length ∧
          periodicCode (field (s.raw (.HCCHAR 0)) 18 2) = typePeriodic p.1.epType ∧ bitOf (s.raw (.HCCHAR 0)) 31 = true ∧
          (({ s with fifo := { emptyFifo with npReq := List.replicate 8 0 } } : State).queueRoom 0 = 0))) &&
      decide ((((pushing pipe 0).modCh 0 fun r => { r with haltDeferred := some .nak }).chan 0).haltDeferred =
        some .nak)) = true := by
  decide +kernel

/-- For ContinueTransferPushesOrDoesNothing, TxFifoEmptyPushesOrSilences. -/
theorem test_witness_continue :
    (alone (feeding 0 16) && shut (feeding 0 16) && inDevice (feeding 0 16) &&
      decide ((feeding 0 16).isSlave = true ∧ (feeding 0 16).inSpace 1 = 16 ∧ (feeding 0 15).inSpace 1 < 16 ∧
        (feeding 0 16).slaveHw = true ∧ (feeding 0 16).hostMode = false ∧
        (feeding 0 16).roomIn ((feeding 0 16).txDepth 1) ((feeding 0 16).fifo.tx[1]).length = 16 ∧
        ((feeding 0 16).ep ⟨1, .IN⟩).x.active ≠ none ∧ ((feeding 130 16).ep ⟨1, .IN⟩).x.chunkLen = 130 ∧
        dev.isSlave = false ∧ (dev.xfer (.ch 0)).active = none ∧ dev.hw.debug = false ∧ dev.core.functional = true ∧ dev.validX (.ep ⟨1, .IN⟩) = true)) = true := by
  decide +kernel

/-- For CancelEntersTheHaltPath. -/
theorem test_witness_cancel :
    (let s := devOut 512 0x80088200 0
     let c := hostRun { runningCh 512 with haltStatus := .haltPending } 0
     let r := hostRun (runningCh 512) 0
     let w := s.modEp ⟨1, .OUT⟩ fun r => { r with disabling := true }
     let z := (devOut 512 0x00088200 0).modEp ⟨1, .OUT⟩ fun r => { r with disabling := true }
     alone z && shut z && decide (bitOf (z.raw (.DOEPCTL 1)) 31 = false ∧ (z.ep ⟨1, .OUT⟩).x.active = some (.pool 0) ∧
       (z.ep ⟨1, .OUT⟩).x.queue = [] ∧ (z.ep ⟨1, .OUT⟩).enabled = true ∧ z.slotUsed 0 = true ∧
       (z.reqAt (.pool 0)).owner = some (.ep ⟨1, .OUT⟩) ∧ (z.ep ⟨1, .OUT⟩).state = .active) &&
     decide ((s.ep ⟨1, .OUT⟩).disabling = false ∧ (w.ep ⟨1, .OUT⟩).disabling = true ∧
       (w.ep ⟨1, .OUT⟩).state ≠ .haltedPendingDisable) &&
     alone r && shut r && decide (r.ctx = .task ∧ r.core.functional = true ∧ r.hostMode = true ∧
       (r.reqAt (.pool 0)).owner = some (.ch 0) ∧ (r.chan 0).haltStatus = .noHalt ∧
       bitOf (r.raw (.HCCHAR 0)) 31 = true ∧ r.queueRoom 0 ≠ 0) &&
     alone s && shut s && decide (s.ctx = .task ∧ s.core.functional = true ∧ s.slotUsed 0 = true ∧
       (s.reqAt (.pool 0)).owner = some (.ep ⟨1, .OUT⟩) ∧ s.hostMode = false ∧
       (s.ep ⟨1, .OUT⟩).state ≠ .haltedPendingDisable ∧ bitOf (s.raw (.DOEPCTL 1)) 31 = true ∧ s.slotUsed 3 = false) &&
     alone c && shut c && decide (c.slotUsed 0 = true ∧ (c.reqAt (.pool 0)).owner = some (.ch 0) ∧
       (c.chan 0).haltStatus = .haltPending)) = true := by decide +kernel

/-- For EnableEndpointActivatesIt, DisableEndpointOutcomes. -/
theorem test_witness_endpoints :
    (alone dev && shut dev && inDevice dev && decide (dev.enableCheck ⟨7, 5, 0x01, 2, 512, 0⟩ = .alreadyEnabled ∧
      quiet.enableCheck ⟨7, 5, 0x01, 2, 0x400, 0⟩ = .ok ∧ quiet.enableCheck ⟨7, 5, 0x81, 2, 0x400, 0⟩ = .ok ∧
      quiet.enableCheck ⟨7, 5, 0x82, 2, 1, 0⟩ = .noFifo ∧ quiet.enableCheck ⟨7, 5, 0x84, 2, 64, 0⟩ = .badParam ∧
      ({ quiet with core := devDesc.core }).enableCheck ⟨7, 5, 0x01, 2, 64, 0⟩ = .noFreeIoBlock ∧
      (dev.ep ⟨1, .IN⟩).enabled = true ∧ (dev.ep ⟨1, .IN⟩).state = .idle ∧ (dev.ep ⟨1, .IN⟩).x.active = none ∧
      (dev.ep ⟨1, .IN⟩).x.queue = [] ∧ (dev.ep ⟨1, .IN⟩).disabling = false ∧ (dev.ep ⟨3, .IN⟩).enabled = false ∧
      ((dev.modEp ⟨1, .IN⟩ fun r => { r with disabling := true, state := .stalled }).ep ⟨1, .IN⟩).disabling = true ∧
      ((devOut 512 0x80088200 0).ep ⟨1, .OUT⟩).x.active ≠ none ∧ ((devOut 512 0x80088200 0).ep ⟨1, .OUT⟩).enabled = true ∧
      bitOf ((devOut 512 0x80088200 0).raw (.DOEPCTL 1)) 31 = true) &&
      (let s := quiet.modEp ⟨1, .OUT⟩ fun r => { r with disabling := true }
       decide ((s.ep ⟨1, .OUT⟩).disabling = true ∧ (quiet.ep ⟨1, .OUT⟩).disabling = false) && alone s && shut s && inDevice s &&
       decide (s.enableCheck ⟨7, 5, 0x01, 2, 0x200, 0⟩ = .ok) &&
       after (exec (.enableEndpoint ⟨7, 5, 0x01, 2, 0x200, 0⟩) s) fun t => decide ((t.ep ⟨1, .OUT⟩).enabling ≠ none ∧
         t.raw (.DOEPCTL 1) = s.raw (.DOEPCTL 1)))) = true := by decide +kernel

/-- For HaltIsTwoPhaseAndIdempotent. -/
theorem test_witness_halt :
    (let s := hostRun (runningCh 512) 0
     let f := { s with fifo := { emptyFifo with npReq := List.replicate 8 0 } }
     let n := withWords s [(.HCCHAR 0, 0x01580A00)]
     alone n && shut n && inHost n && low n && fits n.hw.caps && decide (bitOf (n.raw (.HCCHAR 0)) 31 = false ∧
       (n.chan 0).haltStatus = .noHalt ∧ (n.chan 0).x.active = some (.pool 0) ∧ (n.chan 0).x.queue = [] ∧
       n.slotUsed 0 = true ∧ n.core.dmaMode = .bufferDma ∧ (n.chan 0).params.wf = true) &&
     alone s && shut s && inHost s && decide ((s.chan 0).haltStatus = .noHalt ∧ bitOf (s.raw (.HCCHAR 0)) 31 = true ∧
       s.queueRoom 0 ≠ 0 ∧ f.queueRoom 0 = 0 ∧
       ((hostRun { runningCh 8 with haltStatus := .halted .nak } 0).chan 0).haltStatus ≠ .noHalt)) = true := by
  decide +kernel

/-- The record of an isochronous owner with two packets a buffer. -/
def isoRec (x : XRef) : IsoRec := isoRecord x 0x20020000 0x20021000 0x20000400 0x20000420 192 2 ⟨7, 0⟩ 0x105

/-- A device whose isochronous endpoint runs. -/
def isoRun (e : EpRef) : State := { devDesc with iso := [isoRec (.ep e)] }

/-- For IsoStartBuildsBothChains. -/
theorem test_witness_iso_start :
    (let s := devDesc
     alone s && shut s && low s && inDevice s && fits s.hw.caps && decide (s.isDesc = true ∧
       s.isoCheckEp ⟨3, .IN⟩ 1024 = .ok ∧ s.descArray (.ep ⟨3, .IN⟩) false = some 0x20000400 ∧
       s.descArray (.ep ⟨3, .IN⟩) true = some 0x20000420 ∧ 4 ≤ s.hw.maxDesc ∧ (s.ep ⟨3, .IN⟩).disabling = false ∧
       (s.modEp ⟨3, .IN⟩ fun r => { r with disabling := true }).isoCheckEp ⟨3, .IN⟩ 1024 = .ok) &&
       (List.range 32).all (fun i => spared s (0x20000400 + BitVec.ofNat 32 i) && spared s (0x20000420 + BitVec.ofNat 32 i) &&
         (List.range 32).all fun j =>
         decide ((0x20000400 : Word) + BitVec.ofNat 32 i ≠ 0x20000420 + BitVec.ofNat 32 j))) = true := by
  decide +kernel

/-- For IsoStopDropsTheRecord, IsoOutDropGoesOnWithTheOtherBuffer, FinishedChainSwapsTheBuffers. -/
theorem test_witness_iso_run :
    ([(⟨3, .IN⟩ : EpRef), ⟨3, .OUT⟩].all (fun e =>
        let s := withWords (isoRun e) [(epCtl e, 0x80048000)]
        alone s && shut s && low s && inDevice s && fits s.hw.caps && s.scheduled (.ep e) &&
          (List.range 16).all (fun k => spared (isoRun e) (0x20000400 + BitVec.ofNat 32 k)) &&
          decide (s.ctx = .task ∧ s.isoOf (.ep e) = some (isoRec (.ep e)) ∧ (isoRec (.ep e)).pktPerBuf < 2 ^ s.hw.caps.pw ∧
            (s.ep e).state ≠ .haltedPendingDisable ∧ bitOf (s.raw (epCtl e)) 31 = true ∧ dev.scheduled (.ep e) = false ∧
            (s.ep e).disabling = false ∧ ((s.modEp e fun r => { r with disabling := true }).ep e).disabling = true)) &&
      (let s := withWords (isoRun ⟨3, .OUT⟩) [(.DOEPTSIZ 3, 0x00080000)]
       decide (bitOf (s.raw (.DOEPCTL 3)) 31 = false ∧ field (s.raw (.DOEPTSIZ 3)) 19 10 = 1 ∧
         ∀ m : Fin 16, m ≠ 3 → s.scheduled (.ep ⟨m, .OUT⟩) = false)) &&
      (let s := { hostRun (runningCh 0) 0 with iso := [isoRec (.ch 0)] }
       s.scheduled (.ch 0) && alone s && shut s && decide ((s.chan 0).haltStatus = .noHalt ∧ s.queueRoom 0 ≠ 0))) = true := by
  decide +kernel

/-- For HandlerServesOneEventAndReturns, HandlerLeavesNothingPending. -/
theorem test_witness_handler :
    (let s := opened (withWords dev [(.GINTSTS, 0x800)])
     alone s && decide (s.ctx = .task ∧ s.recordsExist = true ∧ s.core.functional = true ∧ s.hostMode = false ∧ bitOf (s.raw .GAHBCFG) 0 = true ∧
       s.gintsts &&& s.raw .GINTMSK &&& 0xFFFFFFFE = bit1 11) &&
     after (exec .isr s) (fun t => decide (t.ctx = .task ∧ t.unsettled = false ∧ t.patience = s.patience ∧
       t.recordsExist = true ∧ t.core.functional = true)) &&
     decide (firstEvent topOrder (s.gintsts &&& s.raw .GINTMSK &&& 0xFFFFFFFE) = some 11) &&
     after (exec (topEvent 11) ((s.enterHandler.note (.rd 0x014 s.gintsts)).note (.rd 0x018 (s.raw .GINTMSK)))) (fun u =>
       decide (u.patience = s.patience ∧ u.env = [] ∧ u.prompt = false ∧ u.unsettled = false ∧
         u.gintsts &&& u.raw .GINTMSK &&& 0xFFFFFFFE = 0)) &&
     decide (dev.gintsts &&& dev.raw .GINTMSK &&& 0xFFFFFFFE = 0)) = true := by decide +kernel

/-- For SuspendAndResumeReachUpper, BusResetDisablesTheEndpoints, EnumerationArmsEndpointZero. -/
theorem test_witness_bus_events :
    (alone dev && inDevice dev && low dev && decide (dev.hw.caps.nEp ≤ 16 ∧ bitOf (dev.raw (.DIEPCTL 0)) 31 = false ∧
      4 ≤ dev.hw.ep0Xw ∧ 1 ≤ dev.hw.ep0Pw ∧ dev.isDesc = false ∧ devDesc.isDesc = true ∧
      spared devDesc 0x20000100 = true ∧ spared devDesc 0x20000104 = true ∧
      (devDesc.ep ⟨0, .OUT⟩).x.desc = none ∧ devDesc.descArray (.ep ⟨0, .OUT⟩) false = some 0x20000100) &&
      everyEp (fun e => decide ((dev.ep e).state ≠ .haltedPendingDisable ∧
        (dev.ep e).x.active = none ∧ (dev.ep e).x.queue = []))) = true := by decide +kernel

/-- For RoutesRunTheFirstPendingEvent. Each route with an event that its statement runs and one that it completes. -/
theorem test_witness_routes :
    (let o := withWords dev [(.GOTGINT, 0x100)]
     let i := withWords dev [(.DIEPINT 1, 0x8)]
     let u := withWords dev [(.DOEPINT 1, 0x2)]
     let c := withWords host [(.HCINT 7, 0x10), (.HCINTMSK 7, 0x10), (.HAINTMSK, 0x80)]
     alone o && alone i && alone u && alone c && decide (firstEvent otgOrder (o.raw .GOTGINT) = some 8 ∧
       o.raw .GOTGINT = bit1 8 ∧ i.daint &&& i.raw .DAINTMSK = bit1 1 ∧
       lowestNum (i.daint &&& i.raw .DAINTMSK &&& 0x0000FFFF) = some 1 ∧
       i.diepint 1 &&& (i.raw .DIEPMSK ||| bitIf (bitOf (i.raw .DIEPEMPMSK) 1) 7) = bit1 3 ∧
       firstEvent inOrder (bit1 3) = some 3 ∧ u.daint &&& u.raw .DAINTMSK = bit1 17 ∧
       lowestNum ((u.daint &&& u.raw .DAINTMSK) >>> 16) = some 1 ∧ u.raw (.DOEPINT 1) &&& u.raw .DOEPMSK = bit1 1 ∧
       firstEvent outOrder (bit1 1) = some 1 ∧ (u.ep ⟨1, .OUT⟩).state ≠ .haltedPendingDisable ∧
       (u.ep ⟨1, .OUT⟩).disabling = false ∧ (u.ep ⟨1, .OUT⟩).rearm = false ∧ (u.ep ⟨1, .OUT⟩).waits = false ∧
       (u.ep ⟨1, .OUT⟩).enabling = none ∧
       c.hostMode = true ∧ c.haint &&& c.raw .HAINTMSK = bit1 7 ∧ lowestNum (bit1 7) = some 7 ∧
       firstEvent chOrder (bit1 4) = some 4 ∧
       c.raw (.HCINT 7) &&& c.raw (.HCINTMSK 7) = bit1 4 ∧ (c.chan 7).allocated = false)) = true := by decide +kernel

/-- For ReceiveEventPopsAndHandlesOneEntry, ReceiveEntriesMoveTheData. Entries with and without data, at BCNT 0 and 5,
with a request and without. -/
theorem test_witness_receive :
    (let s := { withWords (devOut 512 0x80088200 0) [(.GAHBCFG, devSlave.raw .GAHBCFG)] with
      core := devSlave.core
      fifo := { emptyFifo with rxStatus := [0x00060001], rxData := [1, 2] } }
     let h := { hostRun (runningCh 512) 0 with fifo := { emptyFifo with rxData := [1, 2] } }
     alone s && alone h && decide (s.isSlave = true ∧ s.slaveHw = true ∧ s.hostMode = false ∧ s.takesData (.ep ⟨1, .OUT⟩) = true ∧
       (s.xfer (.ep ⟨1, .OUT⟩)).active = some (.pool 0) ∧ s.pool[0]? = some (some (request (.ep ⟨1, .OUT⟩) 512 false)) ∧
       dev.takesData (.ep ⟨2, .OUT⟩) = false ∧ decodeRxDevice 0x00060001 = some (.rxsOutComplete ⟨1, 0, 0⟩) ∧
       decodeRxDevice 0x00120000 = none ∧ s.fifo.rxData = [1, 2] ++ [] ∧
       ((5 : BitVec 11).toNat + 3) / 4 = 2 ∧ ((0 : BitVec 11).toNat + 3) / 4 = 0 ∧
       (h.xfer (.ch 0)).active = some (.pool 0)) &&
     [Reg.DOEPINT 3, .HCINT 7].all (fun r => r.inRange s.hw.caps)) = true := by decide +kernel

/-- A slave-mode host whose channel 0 receives. -/
def receiving (t : XferType) : State :=
  { hostSlave with
    ch := (Vector.replicate 16 blankCh).set 0
      { runningCh 512 with params := { pipe with epDir := .IN, epType := t } } }

/-- For FifoEmptyEventsServeTheNextChannel. -/
theorem test_witness_fifo_empty :
    ([(false, XferType.bulk), (true, .interrupt)].all (fun p =>
        let s := withWords (receiving p.2) [(.HPTXFSIZ, 0x01000300)]
        alone s && inHost s && s.isSlave && decide (hostSlave.serviceList p.1 = [] ∧
          nextServed (s.lastServed p.1) (s.serviceList p.1) = some 0 ∧ (s.chan 0).haltDeferred = none ∧
          s.queueRoom 0 ≠ 0)) && decide (dev.hostSlave = false)) = true := by decide +kernel

/-- For UnhandledBitsAreClearedOrMasked. -/
theorem test_witness_unhandled :
    ([Instr.topUnassigned 1, .topUnassigned 30, .inUnassigned 3 4, .inUnassigned 3 31].all Instr.wf && alone dev && alone host &&
      decide (dev.hostMode = false ∧ host.hostMode = true ∧ (3 : Fin 16).val < dev.hw.caps.nEp ∧
        (7 : Fin 16).val < host.hw.caps.nCh)) = true := by decide +kernel

/-- For SessionAndNegotiationEvents. -/
theorem test_witness_session :
    (alone quiet && alone host && decide (quiet.peripheral = true ∧ quiet.core.deviceEngine = true ∧
      quiet.hostMode = false ∧ 1 ≤ quiet.hw.caps.nEp ∧ bitOf (quiet.raw (.DIEPCTL 0)) 31 = false ∧
      host.core.opState = .aHost ∧ quiet.core.opState ≠ .aHost ∧ quiet.core.opState ≠ .bHost ∧
      bitOf (quiet.raw .GOTGCTL) 8 = false ∧ bitOf ((withWords host [(.GOTGCTL, 0x100)]).raw .GOTGCTL) 8 = true) &&
      everyEp (fun e => decide ((quiet.ep e).enabled = false ∧ (quiet.ep e).x.active = none ∧ (quiet.ep e).x.queue = []))) = true := by decide +kernel

/-- For ConnectorChangeInitialisesAgain. -/
theorem test_witness_connector :
    (let s := { dev with core := { dev.core with deviceEngine := false, params := params }, prompt := true }
     let h := withWords s [(.GINTSTS, 1)]
     promptly s && fits s.hw.caps && decide (s.core.hostEngine = false ∧ bitOf (s.raw .GOTGCTL) 16 = true ∧
       s.hw.caps.dedFifo = true ∧ s.core.params.dedicatedFifo = true ∧ bitOf (s.raw .GRSTCTL) 31 = true ∧
       1 ≤ s.hw.modeWaitLimit ∧ s.hostMode = false ∧ h.hostMode = true ∧ h.tick = h)) = true := by decide +kernel

/-- For TransferCompletionCountsAndFinishes. XFERCOMPL of endpoint 1 OUT with 1024 bytes moved, in each of its outcomes: more
data, the zero-length packet asked for or not, and that packet itself. -/
theorem test_witness_completion :
    (let s := devOut 1024 0x00088200 0
     let q := request (.ep ⟨1, .OUT⟩) 1024 false
     alone s && low s && inDevice s && fits s.hw.caps && decide (s.isDesc = false ∧ s.scheduled (.ep ⟨1, .OUT⟩) = false ∧
       (s.ep ⟨1, .OUT⟩).state = .active ∧ (s.ep ⟨1, .OUT⟩).waits = false ∧ (s.ep ⟨1, .OUT⟩).x.active = some (.pool 0) ∧ s.pool[0]? = some (some q) ∧
       (s.ep ⟨1, .OUT⟩).x.zlpPhase = false ∧ (s.ep ⟨1, .OUT⟩).x.queue = [] ∧ (s.ep ⟨1, .OUT⟩).mps = 512 ∧ 1 ≤ (s.ep ⟨1, .OUT⟩).multiCount ∧
       (s.ep ⟨1, .OUT⟩).x.chunkLen = 1024 ∧ max 1 ((1024 + 511) / 512) * 512 - field (s.raw (.DOEPTSIZ 1)) 0 19 = 1024) &&
     [(1024, false), (2048, false), (1024, true)].all (fun p => [false, true].all fun z =>
       let t := { s with
         pool := [some (request (.ep ⟨1, .OUT⟩) p.1 p.2)]
         epOut := s.epOut.set 1 { s.ep ⟨1, .OUT⟩ with x := { (s.ep ⟨1, .OUT⟩).x with zlpPhase := z } } }
       alone t && low t && inDevice t && after (exec (.outXfercompl 1) t) fun u =>
         decide ((u.ep ⟨1, .OUT⟩).state = (if z = false ∧ (p.1 = 2048 ∨ p.2 = true) then .active else .idle)))) = true := by
  decide +kernel

/-- For FatalErrorDisablesTheEndpoint, ConfirmedDisableEndsTheRequest. -/
theorem test_witness_disable :
    (let s := devOut 512 0x80088200 0
     let w : State := { devOut 512 0x00088200 0 with
       prompt := true
       epOut := dev.epOut.set 1 { bulkEp with
         state := .haltedPendingDisable
         pendingStatus := .cancelled
         x := { blankXfer with active := some (.pool 0) } } }
     let v : State := { w with
       epOut := dev.epOut.set 1 { ({ bulkEp with disabling := true } : EpRec).waiting 0 with type := .bulk } }
     let b : State := { w with
       epOut := dev.epOut.set 1 { bulkEp with disabling := true, x := { blankXfer with queue := [0] } } }
     let i : State := { isoRun ⟨3, .OUT⟩ with
       prompt := true
       epOut := dev.epOut.set 3 { bulkEp with state := .active, disabling := true, rearm := true } }
     let l : State := { i with
       epOut := dev.epOut.set 3 { bulkEp with state := .stalled, disabling := true, rearm := true } }
     let d : Epd := ⟨7, 5, 0x01, 2, 512, 0⟩
     let n : State := { w with
       epOut := dev.epOut.set 1 { bulkEp with disabling := true, enabling := some (enableWord d) } }
     decide ((l.ep ⟨3, .OUT⟩).state = .stalled ∧ (l.ep ⟨3, .OUT⟩).enabling = none ∧ epdRef d = ⟨1, .OUT⟩ ∧ epdMps d ≤ 1024 ∧
       (n.ep ⟨1, .OUT⟩).enabling = some (enableWord d) ∧ (n.ep ⟨1, .OUT⟩).state = .idle ∧
       (n.ep ⟨1, .OUT⟩).waits = false ∧ (n.ep ⟨1, .OUT⟩).rearm = false ∧ (w.ep ⟨1, .OUT⟩).enabling = none ∧
       (i.ep ⟨3, .OUT⟩).state = .active) &&
     after (exec (.outEpdisbld 3) l) (fun t => decide ((t.ep ⟨3, .OUT⟩).state = .stalled ∧ (t.ep ⟨3, .OUT⟩).rearm = true)) &&
     after (exec (.outEpdisbld 1) v) (fun t => decide (t.raw (.DOEPTSIZ 1) = 0x00080200 ∧ bitOf (t.raw (.DOEPCTL 1)) 31 = true)) &&
     after (exec (.outEpdisbld 1) b) (fun t => decide ((t.ep ⟨1, .OUT⟩).x.queue = [0] ∧ (t.ep ⟨1, .OUT⟩).state = .idle)) &&
     after (exec (.outEpdisbld 1) n) (fun t => decide (t.raw (.DOEPCTL 1) = 0x000A8200)) &&
     [(w, ⟨1, .OUT⟩), (v, ⟨1, .OUT⟩), (b, ⟨1, .OUT⟩), (i, (⟨3, .OUT⟩ : EpRef)), (l, ⟨3, .OUT⟩), (n, ⟨1, .OUT⟩)].all (fun p => promptly p.1 && low p.1 &&
       decide (p.1.hw.debug = false ∧ p.1.hostMode = false ∧ (p.1.ep p.2).enabled = true ∧ 1 ≤ p.1.hw.flushPollLimit)) &&
     decide (v.scheduled (.ep ⟨1, .OUT⟩) = false ∧ v.isDesc = false ∧ (v.ep ⟨1, .OUT⟩).waits = true ∧
       (v.ep ⟨1, .OUT⟩).state = .active ∧ (v.ep ⟨1, .OUT⟩).x.active = some (.pool 0) ∧
       (b.ep ⟨1, .OUT⟩).state ≠ .haltedPendingDisable ∧ (b.ep ⟨1, .OUT⟩).waits = false ∧ (b.ep ⟨1, .OUT⟩).rearm = false ∧
       (b.ep ⟨1, .OUT⟩).enabling = none ∧
       i.isoOf (.ep ⟨3, .OUT⟩) = some (isoRec (.ep ⟨3, .OUT⟩)) ∧ (i.ep ⟨3, .OUT⟩).rearm = true ∧
       (i.ep ⟨3, .OUT⟩).waits = false ∧ (s.ep ⟨1, .OUT⟩).disabling = false) &&
     alone s && low s && decide (s.hostMode = false ∧ (s.ep ⟨1, .OUT⟩).state ≠ .haltedPendingDisable ∧
       bitOf (s.raw (.DOEPCTL 1)) 31 = true ∧ (s.ep ⟨1, .OUT⟩).x.active ≠ none ∧ (dev.ep ⟨1, .OUT⟩).x.active = none ∧
       dev.scheduled (.ep ⟨1, .OUT⟩) = false ∧ s.scheduled (.ep ⟨1, .OUT⟩) = false) &&
     promptly w && decide (w.hw.debug = false ∧ (w.ep ⟨1, .OUT⟩).state = .haltedPendingDisable ∧
       (w.ep ⟨1, .OUT⟩).enabled = true ∧ (w.ep ⟨1, .OUT⟩).x.active = some (.pool 0) ∧ (w.ep ⟨1, .OUT⟩).x.queue = [] ∧
       w.pool[0]? = some (some (request (.ep ⟨1, .OUT⟩) 512 false)) ∧ 1 ≤ w.hw.flushPollLimit)) = true := by decide +kernel

/-- For ChannelErrorsAskForTheHalt, ChannelEventsThatOnlyClear. -/
theorem test_witness_channel_events :
    ([runningCh 512, { runningCh 512 with params := { pipe with doSplit := true } },
        { runningCh 512 with params := { pipe with doSplit := true }, completeSplit := true },
        { runningCh 512 with params := { pipe with epType := .interrupt }, errorState := true }].all (fun r =>
        let s := hostRun r 0
        alone s && low s && decide (s.hostMode = true ∧ (s.chan 0).allocated = true ∧ (s.chan 0).x.active ≠ none ∧
          (s.chan 0).haltStatus = .noHalt ∧ bitOf (s.raw (.HCCHAR 0)) 31 = true ∧ s.queueRoom 0 ≠ 0 ∧
          s.scheduled (.ch 0) = false)) && decide ((host.chan 7).allocated = false ∧
        ((hostRun { runningCh 8 with haltStatus := .haltPending } 0).chan 0).haltStatus ≠ .noHalt)) = true := by decide +kernel

/-- For ChannelCompletionReleasesTheChannel. A channel with 1024 bytes moved, of as many or of 2048, running and with a halt
pending; which clause each meets is told by what the completion leaves. -/
theorem test_witness_channel_completion :
    [(1024, HaltStatus.noHalt), (2048, .noHalt), (1024, .haltPending), (2048, .haltPending)].all (fun p =>
      let s := { hostRun { runningCh 1024 with haltStatus := p.2 } 0x40000000 with
        pool := [some (request (.ch 0) p.1 false)] }
      alone s && low s && fits s.hw.caps && decide (s.hostMode = true ∧ s.core.dmaMode = .bufferDma ∧
        s.core.caps = s.hw.caps ∧ s.scheduled (.ch 0) = false ∧ (s.chan 0).allocated = true ∧
        (s.chan 0).params.doSplit = false ∧ (s.chan 0).params.wf = true ∧ (s.chan 0).x.active = some (.pool 0) ∧
        (s.chan 0).x.zlpPhase = false ∧ (s.chan 0).x.queue = [] ∧ s.slotUsed 0 = true) &&
      after (exec (.chXfercompl 0) s) fun t => decide (t.slotUsed 0 = decide (p.1 = 2048) ∧
        ((t.chan 0).allocated = false ↔ p.1 = 1024 ∧ p.2 = .noHalt) ∧
        (t.chan 0).ended = (if p.2 = .noHalt then none else if p.1 = 1024 then some .request else some (.chunk false)))) =
    true := by decide +kernel

/-- For ConfirmedHaltEndsTheTransfer. A halt that nothing waits for, one that ends the request, the last transaction error, a
request that ended before the halt was confirmed, a NAK, a chunk that ended before, and a channel that an engine stop has
released. -/
theorem test_witness_channel_halted :
    (let pend := fun (r : HaltReason) (o : Option Ended) =>
       hostRun { runningCh 1024 with haltStatus := .haltPending, haltReason := some r, ended := o } 0
     let idle := fun s : State => { s with ch := s.ch.set 0 { s.chan 0 with x := blankXfer }, pool := [none] }
     let last := { pend .xactErr none with
       ch := (Vector.replicate 16 blankCh).set 0 { (pend .xactErr none).chan 0 with errorCount := 3 } }
     [(pend .stall none, false), (last, false), (idle (pend .nak (some .request)), false), (pend .nak none, true),
         (pend .nak (some (.chunk false)), true)].all (fun p =>
       let s := p.1
       alone s && low s && fits s.hw.caps && decide (s.hostMode = true ∧ (s.chan 0).allocated = true ∧
         (s.chan 0).haltStatus = .haltPending ∧ (s.chan 0).x.queue = [] ∧ s.core.dmaMode = .bufferDma ∧
         s.core.caps = s.hw.caps ∧ (s.chan 0).params.wf = true ∧ (s.chan 0).x.zlpPhase = false) &&
       after (exec (.chChhltd 0) s) fun t => decide ((t.chan 0).allocated = p.2)) &&
     (let s := hostRun { blankCh with haltStatus := .haltPending, haltReason := some .cancelled } 0
      alone s && low s && fits s.hw.caps && decide (s.hostMode = true ∧ (s.chan 0).allocated = false) &&
      after (exec (.chChhltd 0) s) fun t => decide ((t.chan 0).haltStatus = .halted .cancelled)) &&
     decide (last.hw.errLimit ≤ (last.chan 0).errorCount ∧ ((hostRun (runningCh 8) 0).chan 0).haltStatus ≠ .haltPending ∧
       ((pend .nak (some (.chunk false))).reqAt (.pool 0)).done < 1024)) = true := by decide +kernel

/-- For SetupPacketSelectsThePhase. The three phases of a SETUP packet, and the disconnected state. -/
theorem test_witness_setup :
    (alone dev && low dev && ready dev && decide (bitOf (dev.raw (.DIEPCTL 0)) 31 = false ∧ dev.ep0.state ≠ .disconnected ∧
      (dev.ep ⟨0, .OUT⟩).mps = 64 ∧ (dev.ep ⟨0, .OUT⟩).type = .control ∧ (dev.ep ⟨0, .OUT⟩).x.zlpPhase = false ∧
      blankEp0.state = .disconnected) &&
      [([0x80, 6, 0, 1, 0, 0, 18, 0], true, false), ([0, 5, 7, 0, 0, 0, 0, 0], false, true),
        ([0x40, 1, 0, 0, 0, 0, 0, 1], false, false)].all (fun p =>
        let q := setupOfBytes ((dev.setBytes 0x20000F00 p.1).bytes 0x20000F00 8)
        decide (q.bmRequestType.getLsbD 7 = p.2.1 ∧ (q.wLength = 0 ↔ p.2.2 = true) ∧ q.wLength.toNat ≤ dev.ep0.replyCap))) =
      true := by decide +kernel

/-- A platform that answers each request of the witness below. -/
def answering : Platform :=
  { resetPlatform with
    descTable := [((1, 0, 0), List.replicate 18 0xAA)]
    answers := [.value [1, 2, 3]]
    configs := [(1, [⟨7, 5, 0x01, 2, 64, 0⟩])]
    ifaces := [((2, 1), [⟨7, 5, 0x01, 2, 64, 0⟩])] }

/-- For RepliesAreSentToTheHost, RequestsAreAcknowledged, RefusedRequestsStallEndpointZero. -/
theorem test_witness_requests :
    (let d : State := { dev with plat := answering, ep0 := { dev.ep0 with state := .inData } }
     let t : State := { quiet with plat := answering, ep0 := { dev.ep0 with state := .inStatus } }
     alone d && low d && ready d && ready t && alone t && low t && decide (d.descLookup 0x100 0 =
         some (List.replicate 18 0xAA) ∧ 18 ≤ d.ep0Room ∧ 3 ≤ d.ep0.replyCap ∧
       t.enableCheck ⟨7, 5, 0x01, 2, 64, 0⟩ = .ok ∧ t.ep0.config = 0 ∧
       t.configEndpoints 1 = some [⟨7, 5, 0x01, 2, 64, 0⟩] ∧ t.ifaceEndpoints 2 1 = some [⟨7, 5, 0x01, 2, 64, 0⟩] ∧
       bitOf (t.raw (.DIEPCTL 0)) 31 = false) &&
     everyEp (fun e => decide ((t.ep e).enabled = false)) &&
     (let r := { devOut 512 0x80088200 0 with ep0 := devStatus.ep0 }
      let i := withWords devStatus [(.DIEPCTL 1, 0x80488200)]
      let c := { devStatus with epOut := dev.epOut.set 1 { bulkEp with state := .stalled } }
      alone r && low r && ready r && alone i && low i && ready i && alone c && low c && ready c &&
      decide (indexEp 1 = ⟨1, .OUT⟩ ∧ indexEp 0x81 = ⟨1, .IN⟩ ∧ (indexEp 0x80).num = 0 ∧ (1 : Fin 16).val < r.hw.caps.nEp ∧
        (r.ep ⟨1, .OUT⟩).enabled = true ∧ (r.ep ⟨1, .OUT⟩).x.active = some (.pool 0) ∧ r.slotUsed 0 = true ∧
        (i.ep ⟨1, .IN⟩).x.active = none ∧ bitOf (i.raw (.DIEPCTL 1)) 31 = true ∧ (c.ep ⟨1, .OUT⟩).state = .stalled ∧
        (c.ep ⟨1, .OUT⟩).x.active = none ∧ (c.ep ⟨1, .OUT⟩).x.queue = [] ∧ (c.ep ⟨1, .OUT⟩).waits = false ∧
        (c.ep ⟨1, .OUT⟩).rearm = false ∧ (c.ep ⟨1, .OUT⟩).enabled = true ∧
        (devStatus.ep ⟨1, .OUT⟩).state ≠ .stalled ∧ dev.ep0.state ≠ .disconnected ∧ blankEp0.state = .disconnected ∧
        ((c.modEp ⟨1, .OUT⟩ fun r => { r with disabling := true, x := { r.x with queue := [0] } }).ep
          ⟨1, .OUT⟩).disabling = true)) &&
     (let w : State := { devStatus with
        iso := [isoRec (.ep ⟨3, .OUT⟩)]
        epOut := dev.epOut.set 3 { bulkEp with type := .isochronous, state := .stalled, rearm := true } }
      alone w && low w && ready w && decide (indexEp 3 = ⟨3, .OUT⟩ ∧ (w.ep ⟨3, .OUT⟩).enabled = true ∧
        (w.ep ⟨3, .OUT⟩).state = .stalled ∧ (w.ep ⟨3, .OUT⟩).x.active = none ∧ (w.ep ⟨3, .OUT⟩).x.queue = [] ∧
        (w.ep ⟨3, .OUT⟩).waits = false ∧ (w.ep ⟨3, .OUT⟩).rearm = true ∧ (w.ep ⟨3, .OUT⟩).disabling = false ∧
        w.isoOf (.ep ⟨3, .OUT⟩) = some (isoRec (.ep ⟨3, .OUT⟩))) &&
      after (exec (.clearFeature ⟨.OUT, 2, 0, 3, 0⟩) w) fun t => decide ((t.ep ⟨3, .OUT⟩).state = .active ∧
        t.raw (.DOEPDMA 3) = 0x20000400))) = true := by decide +kernel

/-- Endpoint 0 in a phase, with a request of `n` bytes of which `done` are moved and a chunk of `len` under way in one
direction. -/
def ep0Run (d : Dir) (p : Ep0State) (n done len : Nat) (z : Bool) : State :=
  let r := { blankEp with type := .control, mps := 64, enabled := true, x := { blankXfer with active := some .ep0, chunkLen := len } }
  let q := { dev.ep0 with
    state := p
    totalLength := n
    request := { blankReq with
      buf := dev.ep0.reply
      length := n
      done := done
      zeroFlag := z } }
  match d with
  | .IN => { dev with ep0 := q, epIn := dev.epIn.set 0 r }
  | .OUT => { dev with ep0 := q, epOut := dev.epOut.set 0 r }

/-- For EndpointZeroCompletionsAdvanceThePhases. Each phase with what decides how it goes on. -/
theorem test_witness_ep0_completions :
    ([(Dir.IN, Ep0State.inData), (.IN, .inStatus), (.OUT, .outData), (.OUT, .outStatus)].all (fun p =>
        let s := ep0Run p.1 p.2 128 64 64 false
        alone s && low s && ready s && decide ((s.ep ⟨0, p.1⟩).x.active = some .ep0 ∧ s.ep0.state = p.2)) &&
      [(64, true, false, true), (128, false, false, true), (64, false, false, false), (64, true, true, false)].all (fun p =>
        let s := ep0Run .IN .inData p.1 0 64 p.2.1
        let t := { s with epIn := s.epIn.set 0 { s.ep ⟨0, .IN⟩ with x := { (s.ep ⟨0, .IN⟩).x with zlpPhase := p.2.2.1 } } }
        alone t && low t && ready t && after (exec (.inXfercompl 0) t) fun u =>
          decide (u.ep0.state = (if p.2.2.2 then .inData else .outStatus))) &&
      decide ((dev.ep ⟨0, .OUT⟩).mps = 64 ∧ (dev.ep ⟨0, .OUT⟩).type = .control ∧ (dev.ep ⟨0, .IN⟩).x.active = none ∧
        bitOf (dev.raw (.DIEPCTL 0)) 31 = false)) = true := by
  decide +kernel

/-- V42-12: 4 bytes of a vendor request arrive whole, then with one missing; V42-7's 64-byte descriptor ends with a
zero-length packet. -/
theorem test_ep0_data :
    [((0x2000003C : Word), Ep0State.inStatus, true), (0x2000003D, .stall, false)].all (fun p =>
      after (exec (.outXfercompl 0) (withWords { ep0Run .OUT .outData 4 0 4 false with
          plat := { resetPlatform with answers := [.value []] }
          ep0 := { (ep0Run .OUT .outData 4 0 4 false).ep0 with setup := ⟨0x40, 1, 0, 0, 4⟩ } } [(.DOEPTSIZ 0, p.1)]))
        fun t => decide (t.ep0.state = p.2.1 ∧
          (TraceEv.cb (.classRequest ⟨0x40, 1, 0, 0, 4⟩ 0x20000E00) ∈ t.trace ↔ p.2.2 = true))) = true ∧
    after (exec (.inXfercompl 0) (ep0Run .IN .inData 64 0 64 true)) (fun t =>
      decide ((0x910, 0x20080000, true) ∈ accesses t ∧ t.ep0.state = .inData)) = true := by decide +kernel

/-- The environment of a role switch: nothing for `n` accesses, then LINK changes the mode (R410). -/
def switching (s : State) (n : Nat) (h : Bool) : State :=
  { s with prompt := true, env := List.replicate n [] ++ [[.curmod h]] }

/-- For SessionAndNegotiationEvents. The role switches of V44-1, and the mode wait that never ends. -/
theorem test_witness_role_switch : [DmaMode.slave, .bufferDma].all (fun m =>
    let h := { host with core := { host.core with dmaMode := m, opState := .bHost } }
    let d := withWords { quiet with core := { quiet.core with dmaMode := m } } [(.GOTGCTL, 0x00010100)]
    let waits := fun (i : Instr) (s : State) => match exec i s with
      | .fault f => decide (f = .modeWait)
      | .next _ | .refused _ => false
    [Instr.otgSesenddet, .topDisconnint].all (fun i => waits i h && after (exec i (switching h 4 false)) fun t =>
      decide (t.core.opState = .bPeripheral ∧ t.raw .DAINTMSK = 0x00010001 ∧ t.env = [] ∧
        t.trace.head? = some (.cb .deviceRoleStart))) &&
    waits .otgHstnegsucstschng d &&
    after (exec .otgHstnegsucstschng (switching d (if d.isSlave then 12 else 10) true)) (fun t =>
      decide (t.core.opState = .bHost ∧ t.raw .DAINTMSK = 0 ∧ t.env = [] ∧ t.trace.head? = some (.cb .hostRoleStart)))) =
    true := by decide +kernel

/-- R255, R275: the DMA address goes past a packet that is not acknowledged, or not, as the script says. -/
theorem test_unacknowledged_packet :
    (let s := hostRun (runningCh 512) 0x00080200
     decide ((linkHandshake 0 .nak true s).raw (.HCDMA 0) = 0x200 ∧ (linkHandshake 0 .nak false s).raw (.HCDMA 0) = 0 ∧
       (linkHandshake 0 .nak true s).raw (.HCTSIZ 0) = 0x00080200)) = true := by decide +kernel

/-- R550: START_TRANSFER on a channel whose halt is pending only queues. -/
theorem test_start_waits_for_the_halt :
    (let s := hostRun { runningCh 512 with haltStatus := .haltPending, x := blankXfer } 0
     after (exec (.startTransfer (.ch 0) 0) s) fun t => decide ((t.chan 0).x.queue = [0] ∧ (t.chan 0).x.active = none ∧
       t.raw (.HCTSIZ 0) = 0)) = true := by decide +kernel

/-- R246, R68, U1: a second START_TRANSFER while the first waits for the halt is one on an active transfer, DEBUG or not. -/
theorem test_start_waits_once :
    ([(false, Fault.stuckTransferActive), (true, .assertion .transferActive)].all fun p =>
      let s := hostRun { runningCh 512 with haltStatus := .haltPending, x := { blankXfer with queue := [0] } } 0
      match exec (.startTransfer (.ch 0) 0) { s with hw := { s.hw with debug := p.1 } } with
      | .fault f => decide (f = p.2)
      | .next _ | .refused _ => false) = true := by decide +kernel

/-- R246, R550: START_TRANSFER on an endpoint between EPDIS and EPDISBLD makes the request active and programs nothing. -/
theorem test_start_waits_for_the_disable :
    (let s := (devOut 512 0x80088200 0).modEp ⟨1, .OUT⟩ fun r => { r with disabling := true, state := .idle, x := blankXfer }
     after (exec (.startTransfer (.ep ⟨1, .OUT⟩) 0) s) fun t => decide ((t.ep ⟨1, .OUT⟩).x.active = some (.pool 0) ∧
       (t.ep ⟨1, .OUT⟩).state = .active ∧ t.raw (.DOEPTSIZ 1) = 0)) = true := by decide +kernel

/-- R284: an error event of a Stalled endpoint whose EPENA is 0 already keeps the endpoint Stalled and its queue waiting. -/
theorem test_abort_of_stalled_endpoint :
    (let s := withWords ((devOut 512 0x00288200 0).modEp ⟨1, .OUT⟩ fun r =>
       { r with disabling := true, state := .stalled, x := { blankXfer with queue := [0] } }) [(.DOEPINT 1, 4)]
     after (exec (.outAhberr 1) s) fun t => decide ((t.ep ⟨1, .OUT⟩).state = .stalled ∧ (t.ep ⟨1, .OUT⟩).x.queue = [0] ∧
       (t.ep ⟨1, .OUT⟩).x.active = none)) = true := by decide +kernel

/-- R412, R81: an engine stop cancels the request of an endpoint that is not enabled and has it queued only. -/
theorem test_stop_of_a_queue : after (runEvt .coreDeinit (stopEndpoint ⟨1, .OUT⟩)
    ((devOut 512 0x00088200 0).modEp ⟨1, .OUT⟩ fun r => { r with enabled := false, x := { blankXfer with queue := [0] } }))
    (fun t => decide (t.pool[0]? = some none ∧ (t.ep ⟨1, .OUT⟩).x.queue = [] ∧
      .cb (.transferComplete 7 9 .cancelled 0) ∈ t.trace)) = true := by decide +kernel

/-- R31: GRXSTSP, while DMAEN hides the queue, pops nothing. -/
theorem test_hidden_queue :
    (let s := { dev with fifo := { emptyFifo with rxStatus := [0x00060001] } }
     after (exec (.regRead 0x020) s) fun t => decide (t.fifo = s.fifo)) = true := by decide +kernel

/-- R51: a SETUP packet that counts leaves XFERSIZE 0 and PKTCNT 0. -/
theorem test_setup_counts :
    (let s := withWords devSlave [(.GRXFSIZ, 0x200), (.DOEPCTL 0, 0x80008000), (.DOEPTSIZ 0, 0x20080008)]
     let p := setupOfBytes [0x80, 6, 0, 1, 0, 0, 18, 0]
     decide ((envAct (.setupPacket 0 p true) s).raw (.DOEPTSIZ 0) = 0x20000000 ∧
       (envAct (.setupPacket 0 p false) s).raw (.DOEPTSIZ 0) = 0x20080008)) = true := by decide +kernel

/-- R49: a SETUP packet ends the STALL answers of a control endpoint other than 0, and of no bulk endpoint. -/
theorem test_setup_ends_stall :
    (let s := fun type : Word => withWords devSlave [(.GRXFSIZ, 0x200), (.DOEPCTL 1, 0x00208200 ||| type), (.DIEPCTL 1, 0x00608200 ||| type)]
     let p := setupOfBytes [0x80, 6, 0, 1, 0, 0, 18, 0]
     [(0x00000000, 0x00008200), (0x00080000, 0x00288200)].all fun w =>
       [EnvAct.setupPacket 1 p false, .raiseOut 1 3].all fun a => decide ((envAct a (s w.1)).raw (.DOEPCTL 1) = w.2 ∧
         bitOf ((envAct a (s w.1)).raw (.DIEPCTL 1)) 21 = bitOf w.2 21) &&
     decide ((envAct (.setupPacket 1 p false) (s 0)).fifo.rxStatus = [0x000C0081, 0x00080001])) = true := by decide +kernel

/-- V43-8: a NAK of an interrupt channel that LINK has stopped programs the same chunk again. -/
theorem test_channel_nak : after (exec (.chNak 0) (withWords
      (hostRun { runningCh 512 with params := { pipe with epType := .interrupt } } 0) [(.HCCHAR 0, 0x015C0A00)])) (fun t =>
    decide ((0x500, 0x015C0A00, false) ∈ accesses t ∧ (t.chan 0).haltStatus = .noHalt ∧ bitOf (t.raw (.HCCHAR 0)) 31 = true ∧
      (t.chan 0).errorCount = 0)) = true := by decide +kernel

/-- V70-2: commands before the first CORE_INIT. -/
theorem test_before_init : [Instr.coreDeinit, .submit (.ep ⟨1, .OUT⟩) 0x20001000 512 false ⟨0, 0⟩].all (fun i =>
    after (exec i State.reset) fun t => decide (accesses t = [] ∧ t.result = .status .notFunctional)) = true := by
  decide +kernel

/-- R117: a chain is not rebuilt while DMA owns it. -/
theorem test_owned_descriptor : (match exec (.startTransfer (.ep ⟨3, .IN⟩) 0)
      (withWords { devDesc with
        epIn := devDesc.epIn.set 3 { bulkEp with txFifo := 3, x := { blankXfer with desc := some 0x20000400 } }
        pool := [some (request (.ep ⟨3, .IN⟩) 512 false)] } [(.DIEPCTL 3, 0x80C88200)]) with
    | .fault f => decide (f = .stuckOwnedDescriptor)
    | .next _ | .refused _ => false) = true := by decide +kernel

/-- R161's isochronous form: two packets of 1024 bytes for frame 5, the last of its chain. -/
theorem test_isochronous_word : descWord true 5 false 1024 2048 0 = 0x0B005800 ∧
    descWord true 5 true 1024 2048 0 = 0x0A005800 := by decide

/-- R106, and V40-16's disable of a running endpoint: the write-one bits 29:26 are not written back as read. -/
theorem test_control_words : keepControl 0xFFFFFFFF = 0x03FFFFFF ∧ haltWord 0xB4088200 = 0xC8088200 := by decide

/-- R255: LINK takes the request of a host OUT before its words come, and its queue space frees. -/
theorem test_request_in_hand :
    (let s := { pushing pipe 0 with fifo := { emptyFifo with npReq := [0], pReq := [0] } }
     let t := envAct (.takeRequest 0 false) s
     let u := envAct (.takeRequest 0 true) t
     let one := fun u : State => decide (u.fifo.npReq.length + u.fifo.pReq.length + u.fifo.inHand.length = 1)
     decide (t.fifo.npReq = [] ∧ t.fifo.pReq = [0] ∧ t.fifo.inHand = [0] ∧
       field (s.peek .GNPTXSTS) 16 8 + 1 = field (t.peek .GNPTXSTS) 16 8) &&
     one (s.takeRequest 0) && one (t.takeRequest 0) && decide (u.fifo.inHand = [0, 0] ∧ u.fifo.pReq = [])) = true := by decide +kernel

/-- R31, U20: an Rx entry with the reserved code 9. -/
theorem test_reserved_entry : (envAct (.rxReserved 2 0 0 9) (withWords devSlave [(.GRXFSIZ, 0x200)])).fifo.rxStatus = [0x00120002] := by decide +kernel

/-- R105, R109: accesses of DMA that are well formed, misaligned, and out of reach. -/
theorem test_dma_reach :
    (let s := { dev with plat := { dev.plat with holes := [(0x20002000, 0x100)] } }
     [(0x20001000, 64, true), (0x20001002, 64, false), (0x20001FC0, 64, true), (0x20001FC4, 64, false),
       (0x20002100, 64, true), (0x200020FC, 4, false)].all fun p =>
         decide (s.dmaFine 4 p.1 p.1 p.2.1 = p.2.2)) = true := by decide +kernel

/-- R411, R550: a channel whose disable is under way is not given to another transfer. -/
theorem test_stopped_channel : after (runEvt .coreDeinit hostEngineStop (hostRun (runningCh 1024) 0)) (fun t =>
    decide ((t.chan 0).haltStatus = .haltPending ∧ (t.chan 0).allocated = false ∧ t.freeChannel = some 1)) = true := by
  decide +kernel

/-- R442: ISO_STOP of a channel whose halt for another try is pending: the halt cancels. -/
theorem test_stop_of_halting_channel : after (exec (.isoStop (.ch 0))
    { hostRun { runningCh 1024 with haltStatus := .haltPending, haltReason := some .nak } 0 with iso := [isoRec (.ch 0)] })
    (fun t => decide (t.iso = [] ∧ (t.chan 0).haltReason = some .cancelled)) = true := by decide +kernel

end Sys2Proof.Tests
end

/-! PROOF. TXFEMP of an IN endpoint in slave mode (R260 to R262): what a packet leaves in the endpoint's Tx FIFO, the three
ways `continue_transfer` ends, and the silencing of the level bit by its mask. -/

namespace Sys2Proof.Machine

open Sys2Proof

/-! Words. -/

theorem withBit_false (w : Word) (k : Nat) : withBit w k false = w &&& ~~~(bit1 k) := by
  simp [withBit, mergeBits, bitIf]

theorem bitOf_or_bitIf {w : Word} {k : Nat} (hk : k < 32) (hw : bitOf w k = false) (c : Bool) :
    bitOf (w ||| bitIf c k) k = c := by
  unfold bitOf at *
  rw [BitVec.getLsbD_or, hw, Bool.false_or]
  cases c <;> simp [bitIf, bit1, hk]

theorem field_fld_low {v : Nat} (h : v < 2 ^ 16) : field (fld 0 16 v) 0 16 = v := by
  simp [field, fld]
  omega

/-- Taking the bits of a mask from a word that agrees outside the mask gives that word. -/
theorem mergeBits_of_agree {w m v : Word} (h : v &&& ~~~m = w &&& ~~~m) : mergeBits w m v = v := by
  rw [mergeBits, ← h, ← BitVec.and_or_distrib_left, BitVec.or_comm, BitVec.or_not_self, BitVec.and_allOnes]

/-- DIEPEMPMSK has the mask bit of every IN endpoint, so that a write that clears one stores the word as written (R48). -/
theorem State.stored_clearEmptyMask (s : State) (n : Fin 16) :
    s.stored .DIEPEMPMSK (s.raw .DIEPEMPMSK &&& ~~~(bit1 n.val)) = s.raw .DIEPEMPMSK &&& ~~~(bit1 n.val) := by
  have hb : ~~~(bit1 n.val) &&& ~~~(0x0000FFFF : Word) = ~~~0x0000FFFF := by
    revert n
    decide
  have hmerge : mergeBits (s.raw .DIEPEMPMSK) 0x0000FFFF (s.raw .DIEPEMPMSK &&& ~~~(bit1 n.val)) = _ :=
    mergeBits_of_agree (by rw [BitVec.and_assoc, hb])
  simp only [State.stored, writeWord, rwMask, w1cMask, w1sMask]
  rw [hmerge]
  show _ &&& ~~~(_ &&& 0#32) ||| (_ &&& 0#32) = _
  rw [BitVec.and_zero, BitVec.or_zero]
  exact BitVec.and_allOnes

/-! The level bit (R50, R262). -/

/-- TXFEMP reads whether the endpoint's Tx FIFO is empty, whatever is stored in its place. -/
theorem State.txfemp_eq_isEmpty {s : State} (hs : s.slaveHw = true) (n : Fin 16) :
    bitOf (s.peek (.DIEPINT n)) 7 = (s.fifo.tx[(s.txFifoOf n).val]).isEmpty := by
  have hkeep : bitOf (s.raw (.DIEPINT n) &&& 0xFFFFFF7F) 7 = false := by simp [bitOf]
  show bitOf (s.diepint n) 7 = _
  rw [State.diepint, bitOf_or_bitIf (by decide) hkeep, hs, Bool.true_and]

/-- No write to DIEPINT changes the level. -/
theorem State.txfemp_writeReg {s : State} (hs : s.slaveHw = true) (n : Fin 16) (v : Word) :
    bitOf ((s.writeReg (.DIEPINT n) v).peek (.DIEPINT n)) 7 = (s.fifo.tx[(s.txFifoOf n).val]).isEmpty := by
  have hslave : (s.writeReg (.DIEPINT n) v).slaveHw = true := by
    rw [State.slaveHw, State.raw_writeReg_ne s v (by simp [Reg.offset, bankOffset]; omega)]
    exact hs
  have hnum : (s.writeReg (.DIEPINT n) v).txFifoOf n = s.txFifoOf n := by
    rw [State.txFifoOf, State.raw_writeReg_ne s v (by simp [Reg.offset, bankOffset])]
    rfl
  simp only [State.txfemp_eq_isEmpty hslave, hnum, State.writeReg_fifo s (r := .DIEPINT n) v trivial]

/-! Pushing words into a FIFO window (R55, R261). -/

/-- One word more in a Tx FIFO is one word more in the FIFO RAM. -/
theorem Fifo.words_append (f : Fifo) (k : Fin 16) (v : Word) :
    ({ f with tx := f.tx.set k.val (f.tx[k.val] ++ [v]) } : Fifo).words = f.words + 1 := by
  have hk : k.val < (f.tx.toList.map List.length).length := by simp
  have hsplit := List.sum_take_add_sum_drop (f.tx.toList.map List.length) k.val
  rw [List.drop_eq_getElem_cons hk] at hsplit
  simp only [Fifo.words, Vector.toList_set, List.map_set, List.sum_set, hk, if_true, List.length_append,
    List.length_singleton]
  simp only [List.sum_cons, List.getElem_map, Vector.getElem_toList] at hsplit
  omega

/-- A window write in device mode with room in the endpoint's FIFO puts the word at its end. -/
theorem State.writeReg_fifo_room {s : State} {n : Fin 16} (hm : s.hostMode = false)
    (hr : 0 < s.roomIn (s.txDepth (s.txFifoOf n)) (s.fifo.tx[(s.txFifoOf n).val]).length) (v : Word) :
    s.writeReg (.FIFO n) v = s.withFifo { s.fifo with
      tx := s.fifo.tx.set (s.txFifoOf n).val (s.fifo.tx[(s.txFifoOf n).val] ++ [v]) } := by
  simp only [State.writeReg, State.pushFifo, hm, State.pushTx, State.appendTo_room hr]
  rfl

/-- The state after the words have been written, one after the other, to the FIFO window `n`. -/
def State.pushWords (s : State) (n : Fin 16) : List Word → State
  | [] => s
  | w :: ws => State.pushWords ((s.writeReg (.FIFO n) w).note (.wr (Reg.FIFO n).offset w)) n ws

/-- Window writes reach the FIFOs and the trace only. -/
theorem State.pushWords_only (n : Fin 16) (ws : List Word) : ∀ s : State,
    s.pushWords n ws = { s with fifo := (s.pushWords n ws).fifo, trace := (s.pushWords n ws).trace } := by
  induction ws with
  | nil => exact fun _ => rfl
  | cons w ws ih =>
    intro s
    have hw : (s.writeReg (.FIFO n) w) = { s with fifo := (s.writeReg (.FIFO n) w).fifo } := by
      simp only [State.writeReg, State.pushFifo]
      split
      · split <;> rfl
      · rfl
    rw [State.pushWords, ih, hw]
    rfl

theorem State.pushWords_regs (s : State) (n : Fin 16) (ws : List Word) : (s.pushWords n ws).regs = s.regs := by
  rw [State.pushWords_only]

@[simp] theorem State.ep_pushWords (s : State) (n : Fin 16) (ws : List Word) (e : EpRef) :
    (s.pushWords n ws).ep e = s.ep e :=
  State.ep_congr (by rw [State.pushWords_only]) (by rw [State.pushWords_only]) e

/-- Words that all find room stand at the end of the endpoint's Tx FIFO, in order. -/
theorem State.pushWords_fifo (n : Fin 16) (ws : List Word) : ∀ s : State, s.hostMode = false →
    ws.length ≤ s.roomIn (s.txDepth (s.txFifoOf n)) (s.fifo.tx[(s.txFifoOf n).val]).length →
    (s.pushWords n ws).fifo = { s.fifo with
      tx := s.fifo.tx.set (s.txFifoOf n).val (s.fifo.tx[(s.txFifoOf n).val] ++ ws) } := by
  induction ws with
  | nil => intro s _ _; simp [State.pushWords]
  | cons w ws ih =>
    intro s hm hr
    have hone : 0 < s.roomIn (s.txDepth (s.txFifoOf n)) (s.fifo.tx[(s.txFifoOf n).val]).length := by
      rw [List.length_cons] at hr
      omega
    rw [State.pushWords, State.writeReg_fifo_room hm hone]
    set f : Fifo := { s.fifo with
      tx := s.fifo.tx.set (s.txFifoOf n).val (s.fifo.tx[(s.txFifoOf n).val] ++ [w]) } with hf
    have hwords : f.words = s.fifo.words + 1 := Fifo.words_append s.fifo (s.txFifoOf n) w
    have hlen : f.tx[(s.txFifoOf n).val] = s.fifo.tx[(s.txFifoOf n).val] ++ [w] := by simp [hf]
    rw [ih _ (by simpa using hm)]
    · simp [hf]
    · simp only [State.roomIn, freeOf, List.length_cons] at hr
      simp [State.roomIn, freeOf, State.txDepth, hlen, hwords] at hr ⊢
      omega

/-- The FIFO window takes the words one by one. -/
theorem forEach_writeFifo (n : Fin 16) (ws : List Word) (h : Hooks) : ∀ {s : State}, s.Quiet →
    forEach ws (regWrite (.FIFO n)) h s = .ok ((), s.pushWords n ws) := by
  induction ws with
  | nil => exact fun _ => rfl
  | cons w ws ih =>
    intro s q
    rw [forEach, run_bind_ok (regWrite_quiet q (accessible_global s rfl rfl fun _ => rfl) w h)]
    exact ih (((State.quiet_writeReg s w (by simp [Reg.offset]; omega)).2 q).note _)

/-! The packet of an IN endpoint (R261). -/

theorem State.bytes_length (s : State) (n : Nat) : ∀ a : Word, (s.bytes a n).length = n := by
  induction n with
  | zero => exact fun _ => rfl
  | succ n ih => exact fun a => congrArg (· + 1) (ih (a + 1))

theorem packWords_length (fill : Word) (bs : List Byte) : (packWords fill bs).length = (bs.length + 3) / 4 := by
  induction bs using packWords.induct with
  | case1 => rfl
  | case2 => simp [packWords]
  | case3 => simp [packWords]
  | case4 => simp [packWords]
  | case5 a b c d bs ih =>
    simp only [packWords, List.length_cons, ih]
    omega

/-- The words of the next `plen` bytes of an IN endpoint's chunk. -/
def State.packetWords (s : State) (n : Fin 16) (plen : Nat) : List Word :=
  packWords 0 (s.bytes (s.chunkAddr (.ep ⟨n, .IN⟩) + BitVec.ofNat 32 (s.ep ⟨n, .IN⟩).x.chunkDone) plen)

theorem State.packetWords_length (s : State) (n : Fin 16) (plen : Nat) :
    (s.packetWords n plen).length = (plen + 3) / 4 := by
  rw [State.packetWords, packWords_length, State.bytes_length]

/-- The state after a packet of `plen` bytes has been written: its words pushed, its bytes counted. -/
def State.packetWritten (s : State) (n : Fin 16) (plen : Nat) : State :=
  (s.pushWords n (s.packetWords n plen)).modX (.ep ⟨n, .IN⟩) fun t => { t with chunkDone := t.chunkDone + plen }

theorem writePacket_in {s : State} (q : s.Quiet) (n : Fin 16) (plen : Nat) (h : Hooks) :
    writePacket (.ep ⟨n, .IN⟩) plen h s = .ok ((), s.packetWritten n plen) := by
  simp only [writePacket, run_ask_bind]
  exact run_bind_ok (forEach_writeFifo n (s.packetWords n plen) h q)

theorem State.packetWritten_regs (s : State) (n : Fin 16) (plen : Nat) : (s.packetWritten n plen).regs = s.regs := by
  rw [State.packetWritten, State.modX_regs, State.pushWords_regs]

theorem State.ep_packetWritten (s : State) (n : Fin 16) (plen : Nat) :
    (s.packetWritten n plen).ep ⟨n, .IN⟩ = { s.ep ⟨n, .IN⟩ with
      x := { (s.ep ⟨n, .IN⟩).x with chunkDone := (s.ep ⟨n, .IN⟩).x.chunkDone + plen } } := by
  rw [State.packetWritten, State.modX, State.ep_modEp_same, State.ep_pushWords]

/-- Where the endpoint's FIFO and the FIFO RAM have room for the packet, the FIFO ends with its words. -/
theorem State.packetWritten_fifo {s : State} {n : Fin 16} {plen : Nat} (hm : s.hostMode = false)
    (hr : (plen + 3) / 4 ≤ s.roomIn (s.txDepth (s.txFifoOf n)) (s.fifo.tx[(s.txFifoOf n).val]).length) :
    (s.packetWritten n plen).fifo = { s.fifo with
      tx := s.fifo.tx.set (s.txFifoOf n).val (s.fifo.tx[(s.txFifoOf n).val] ++ s.packetWords n plen) } := by
  rw [State.packetWritten, State.modX_fifo, State.pushWords_fifo n _ s hm (by rwa [State.packetWords_length])]

theorem State.quiet_packetWritten {s : State} (q : s.Quiet) (n : Fin 16) (plen : Nat) : (s.packetWritten n plen).Quiet := by
  rw [State.packetWritten, State.quiet_modX, State.pushWords_only]
  exact q.of rfl rfl rfl rfl

theorem Frame.packetWritten {s t : State} {rs : List Reg} {ps : List Part} (f : Frame s t rs ps) {n : Fin 16}
    (hf : .fifo ∈ ps) (he : .ep ⟨n, .IN⟩ ∈ ps) (plen : Nat) : Frame s (t.packetWritten n plen) rs ps := by
  refine Frame.modX (x := .ep ⟨n, .IN⟩) ?_ _ he
  rw [State.pushWords_only]
  exact (f.fifo' hf (t.pushWords n (t.packetWords n plen)).fifo).of_eq rfl

/-! `continue_transfer` of an IN endpoint (R260). -/

theorem State.inSpace_lt (s : State) (n : Fin 16) : s.inSpace n < 2 ^ 16 := by
  have hd : s.txDepth (s.txFifoOf n) < 2 ^ 16 := by
    unfold State.txDepth
    split <;> exact BitVec.isLt _
  exact Nat.lt_of_le_of_lt (Nat.sub_le _ _) hd

/-- DTXFSTS reports the space of the endpoint's Tx FIFO (R53). -/
theorem State.field_dtxfsts (s : State) (n : Fin 16) : field (s.peek (.DTXFSTS n)) 0 16 = s.inSpace n :=
  field_fld_low (s.inSpace_lt n)

/-- With no request, or with every packet of the chunk pushed, nothing is done and no packet is left. -/
theorem continueIn_finished {s : State} {n : Fin 16}
    (hx : (s.ep ⟨n, .IN⟩).x.active = none ∨ (s.ep ⟨n, .IN⟩).x.chunkLen ≤ (s.ep ⟨n, .IN⟩).x.chunkDone) (h : Hooks) :
    continueIn n h s = .ok (false, s) := by
  have hdone : (s.xfer (.ep ⟨n, .IN⟩)).active = none ∨
      (s.xfer (.ep ⟨n, .IN⟩)).chunkLen ≤ (s.xfer (.ep ⟨n, .IN⟩)).chunkDone := hx
  simp only [continueIn, run_ask_bind, id_eq, if_pos hdone, run_pure]

/-- The state after a read of DTXFSTS: one line more in the trace. -/
def State.spaceRead (s : State) (n : Fin 16) : State :=
  s.note (.rd (Reg.DTXFSTS n).offset (s.peek (.DTXFSTS n)))

section
variable {s : State} {n : Fin 16} (q : s.Quiet) (hm : s.hostMode = false) (hn : n.val < s.hw.caps.nEp)
  (hu : s.unsettled = false) (ha : (s.ep ⟨n, .IN⟩).x.active ≠ none)
  (hl : (s.ep ⟨n, .IN⟩).x.chunkDone < (s.ep ⟨n, .IN⟩).x.chunkLen)
include q hm hn hu ha hl

/-- With a packet left the space is read, and the packet is written where it fits. -/
theorem continueIn_left {plen : Nat} (hp : nextPacket (s.ep ⟨n, .IN⟩).mps (s.ep ⟨n, .IN⟩).x = plen) (h : Hooks) :
    continueIn n h s = if s.inSpace n < (plen + 3) / 4 then .ok (true, s.spaceRead n) else
      .ok (decide ((s.ep ⟨n, .IN⟩).x.chunkDone + plen < (s.ep ⟨n, .IN⟩).x.chunkLen),
        (s.spaceRead n).packetWritten n plen) := by
  subst hp
  have hacc : s.accessible (.DTXFSTS n) = true := accessible_device hm rfl (by simpa [Reg.inRange] using hn)
  have hleft : ¬ ((s.xfer (.ep ⟨n, .IN⟩)).active = none ∨
      (s.xfer (.ep ⟨n, .IN⟩)).chunkLen ≤ (s.xfer (.ep ⟨n, .IN⟩)).chunkDone) := not_or.2 ⟨ha, Nat.not_le.2 hl⟩
  simp only [continueIn, run_ask_bind, id_eq, if_neg hleft]
  rw [run_bind_ok (regRead_quiet q hacc rfl hu h), State.field_dtxfsts]
  show (if s.inSpace n < (nextPacket (s.ep ⟨n, .IN⟩).mps (s.ep ⟨n, .IN⟩).x + 3) / 4 then _ else _ : M Bool) h _ = _
  split
  · rfl
  · refine (run_bind_ok (writePacket_in (q.note _) n _ h)).trans ?_
    show Except.ok (decide ((((s.spaceRead n).packetWritten n _).ep ⟨n, .IN⟩).x.chunkDone <
      (((s.spaceRead n).packetWritten n _).ep ⟨n, .IN⟩).x.chunkLen), _) = _
    rw [State.ep_packetWritten]
    rfl

end

/-! TXFEMP (R262). -/

/-- The state after the mask bit of an IN endpoint's level has been cleared by a read and a write. -/
def State.silenced (s : State) (n : Fin 16) : State :=
  let w := s.raw .DIEPEMPMSK
  ((s.note (.rd (Reg.offset .DIEPEMPMSK) w)).writeReg .DIEPEMPMSK (w &&& ~~~(bit1 n.val))).note
    (.wr (Reg.offset .DIEPEMPMSK) (w &&& ~~~(bit1 n.val)))

theorem setEmptyMask_false {s : State} (q : s.Quiet) (hm : s.hostMode = false) (hu : s.unsettled = false) (n : Fin 16)
    (h : Hooks) : setEmptyMask n false h s = .ok ((), s.silenced n) := by
  rw [setEmptyMask, regUpdate_quiet q (accessible_device hm rfl rfl) rfl hu, withBit_false]
  rfl

theorem State.raw_silenced (s : State) (n : Fin 16) :
    (s.silenced n).raw .DIEPEMPMSK = s.raw .DIEPEMPMSK &&& ~~~(bit1 n.val) := by
  rw [State.silenced, State.raw_of_note, State.raw_writeReg _ _ trivial]
  exact s.stored_clearEmptyMask n

theorem State.ep_silenced (s : State) (n : Fin 16) (e : EpRef) : (s.silenced n).ep e = s.ep e := rfl

theorem State.silenced_fifo (s : State) (n : Fin 16) : (s.silenced n).fifo = s.fifo := rfl

theorem Frame.silenced {s t : State} {rs : List Reg} {ps : List Part} (f : Frame s t rs ps) (n : Fin 16)
    (h : .DIEPEMPMSK ∈ rs) : Frame s (t.silenced n) rs ps :=
  ((f.note _).writeReg _ h (.inr rfl)).note _

theorem continueTransfer_in {s : State} (hs : s.isSlave = true) (n : Fin 16) (h : Hooks) :
    continueTransfer (.ep ⟨n, .IN⟩) h s = continueIn n h s := by
  simp only [continueTransfer, run_ask_bind, id_eq, hs, if_true]

/-- The event carries on the transfer, and silences the level where no packet is left. -/
theorem evtInTxfemp_eq {s t : State} {more : Bool} (hs : s.isSlave = true) {n : Fin 16} {h : Hooks}
    (hc : continueIn n h s = .ok (more, t)) (q : t.Quiet) (hm : t.hostMode = false) (hu : t.unsettled = false) :
    evtInTxfemp n h s = .ok ((), if more then t else t.silenced n) := by
  rw [evtInTxfemp, run_bind_ok ((continueTransfer_in hs n h).trans hc)]
  cases more with
  | true => rfl
  | false => exact setEmptyMask_false q hm hu n h

/-- TXFEMP as one step: what `continue_transfer` leaves in handler context decides the outcome. -/
theorem exec_inTxfemp {s t : State} {more : Bool} (hs : s.isSlave = true) {n : Fin 16}
    (hc : continueIn n (hooksAt s.level) (s.inCtx .isr) = .ok (more, t)) (q : t.Quiet) (hm : t.hostMode = false)
    (hu : t.unsettled = false) :
    exec (.inTxfemp n) s = .next ((if more then t else t.silenced n).inCtx s.ctx) :=
  runEvt_ok (evtInTxfemp_eq (by simpa using hs) hc q hm hu)

/-! The obligation. -/

section
variable {s : State} {n : Fin 16} (a : s.Alone) (hm : s.hostMode = false) (hs : s.isSlave = true)
include a hm hs

/-- No packet left before the event: the mask bit is cleared and nothing else changes. -/
theorem txfemp_finished
    (hx : (s.ep ⟨n, .IN⟩).x.active = none ∨ (s.ep ⟨n, .IN⟩).x.chunkLen ≤ (s.ep ⟨n, .IN⟩).x.chunkDone) :
    ∃ t, exec (.inTxfemp n) s = .next t ∧ t.raw .DIEPEMPMSK = s.raw .DIEPEMPMSK &&& ~~~(bit1 n.val) ∧
      Frame s t [.DIEPEMPMSK] [] := by
  have hc := continueIn_finished (s := s.inCtx .isr) (n := n) (by simpa using hx) (hooksAt s.level)
  refine ⟨_, exec_inTxfemp hs hc a.quiet (by simpa using hm) (by simpa using a.settled), ?_, ?_⟩
  · simpa using (s.inCtx .isr).raw_silenced n
  · exact ((Frame.refl _ _ _).silenced n (by simp)).event

variable (hn : n.val < s.hw.caps.nEp) (ha : (s.ep ⟨n, .IN⟩).x.active ≠ none)
  (hl : (s.ep ⟨n, .IN⟩).x.chunkDone < (s.ep ⟨n, .IN⟩).x.chunkLen) {plen : Nat}
  (hp : nextPacket (s.ep ⟨n, .IN⟩).mps (s.ep ⟨n, .IN⟩).x = plen)
include hn ha hl hp

/-- No space for the next packet: nothing changes and the mask bit stays set. -/
theorem txfemp_full (hsp : s.inSpace n < (plen + 3) / 4) :
    ∃ t, exec (.inTxfemp n) s = .next t ∧ Frame s t [] [] := by
  have hc := (continueIn_left (s := s.inCtx .isr) a.quiet hm hn a.settled ha hl hp (hooksAt s.level)).trans (if_pos hsp)
  refine ⟨_, exec_inTxfemp hs hc (a.quiet.note _) (by simpa [State.spaceRead] using hm)
    (by simpa [State.spaceRead] using a.settled), ?_⟩
  exact ((Frame.refl _ _ _).note _).event

/-- Space for the next packet: that packet is pushed, and the mask bit is cleared where it was the last. -/
theorem txfemp_pushes (hsp : (plen + 3) / 4 ≤ s.inSpace n) :
    ∃ t, exec (.inTxfemp n) s = .next t ∧
      ((plen + 3) / 4 ≤ s.roomIn (s.txDepth (s.txFifoOf n)) (s.fifo.tx[(s.txFifoOf n).val]).length →
        t.fifo = { s.fifo with
          tx := s.fifo.tx.set (s.txFifoOf n).val (s.fifo.tx[(s.txFifoOf n).val] ++ s.packetWords n plen) }) ∧
      t.ep ⟨n, .IN⟩ = { s.ep ⟨n, .IN⟩ with
        x := { (s.ep ⟨n, .IN⟩).x with chunkDone := (s.ep ⟨n, .IN⟩).x.chunkDone + plen } } ∧
      t.raw .DIEPEMPMSK = (if (s.ep ⟨n, .IN⟩).x.chunkDone + plen < (s.ep ⟨n, .IN⟩).x.chunkLen then s.raw .DIEPEMPMSK
        else s.raw .DIEPEMPMSK &&& ~~~(bit1 n.val)) ∧
      Frame s t [.DIEPEMPMSK] [.fifo, .ep ⟨n, .IN⟩] := by
  have hc : continueIn n (hooksAt s.level) (s.inCtx .isr) =
      .ok (decide ((s.ep ⟨n, .IN⟩).x.chunkDone + plen < (s.ep ⟨n, .IN⟩).x.chunkLen),
        ((s.inCtx .isr).spaceRead n).packetWritten n plen) :=
    (continueIn_left (s := s.inCtx .isr) a.quiet hm hn a.settled ha hl hp _).trans (if_neg (Nat.not_lt.2 hsp))
  set u := (s.inCtx .isr).spaceRead n with hu
  have hregs : (u.packetWritten n plen).regs = s.regs := u.packetWritten_regs n plen
  have hraw : (u.packetWritten n plen).raw .DIEPEMPMSK = s.raw .DIEPEMPMSK := State.raw_congr hregs _
  have hep := u.ep_packetWritten n plen
  have hfifo := State.packetWritten_fifo (s := u) (n := n) (plen := plen) (by simpa [hu, State.spaceRead] using hm)
  have hwords : u.packetWords n plen = s.packetWords n plen := by simp [hu, State.packetWords, State.spaceRead]
  rw [hwords] at hfifo
  have hframe : Frame (s.inCtx .isr) (u.packetWritten n plen) [.DIEPEMPMSK] [.fifo, .ep ⟨n, .IN⟩] :=
    ((Frame.refl _ _ _).note _).packetWritten (by simp) (by simp) plen
  refine ⟨_, exec_inTxfemp hs hc (State.quiet_packetWritten (a.quiet.note _) n plen)
    ((State.hostMode_congr hregs).trans hm) ((State.unsettled_congr hregs).trans a.settled), ?_⟩
  by_cases hmore : (s.ep ⟨n, .IN⟩).x.chunkDone + plen < (s.ep ⟨n, .IN⟩).x.chunkLen
  · simp only [hmore, decide_true, if_true]
    exact ⟨hfifo, hep, hraw, hframe.event⟩
  · simp only [hmore, decide_false, Bool.false_eq_true, if_false]
    exact ⟨fun hr => (State.silenced_fifo _ n).trans (hfifo hr), (State.ep_silenced _ n _).trans hep,
      ((u.packetWritten n plen).raw_silenced n).trans (by rw [hraw]),
      (hframe.silenced n (by simp)).event⟩

end

/-- Settles O51: a level bit that no write changes (R262), and one packet for each event by the outcomes of
`continue_transfer` (R260). -/
theorem txFifoEmptyPushesOrSilences : Obligations.TxFifoEmptyPushesOrSilences := by
  intro s n a hm hs hn
  exact ⟨fun hslave v => State.txfemp_writeReg hslave n v, txfemp_finished a hm hs,
    fun ha hl hsp => txfemp_full a hm hs hn ha hl rfl hsp,
    fun ha hl hsp => txfemp_pushes a hm hs hn ha hl rfl hsp⟩

end Sys2Proof.Machine

/-! PROOF. USBSUSP and WKUPINT (R480, R483): the event bit is cleared by writing it, and UPPER is told. -/

namespace Sys2Proof.Machine

open Sys2Proof

/-! Clearing events (R23, R24). -/

/-- A register with no RW and no W1S bit only loses, by a write, the W1C bits that are written. -/
theorem State.stored_status (s : State) {r : Reg} (hrw : rwMask s.hw r = 0#32) (hs : w1sMask r = 0#32) (v : Word) :
    s.stored r v = s.raw r &&& ~~~(v &&& w1cMask r) := by
  have hmerge : mergeBits (s.raw r) 0#32 v = s.raw r := by
    rw [mergeBits, BitVec.not_zero, BitVec.and_allOnes, BitVec.and_zero, BitVec.or_zero]
  rw [State.stored, writeWord, hrw, hs, hmerge, BitVec.and_zero, BitVec.or_zero]

/-- Writing the bit of a W1C event of GINTSTS clears that event and keeps the others (R30). -/
theorem State.raw_clearTop (s : State) {k : Fin 32} (hk : bitOf (w1cMask .GINTSTS) k = true) :
    (s.writeReg .GINTSTS (bit1 k)).raw .GINTSTS = s.raw .GINTSTS &&& ~~~(bit1 k) := by
  have hmask : bit1 k &&& w1cMask .GINTSTS = bit1 k := by
    revert k
    decide
  rw [State.raw_writeReg _ _ trivial, State.stored_status s rfl rfl, hmask]

/-- An event of one mode, in that mode, is its procedure (R151). -/
theorem inMode_same {s : State} {host : Bool} (hm : s.hostMode = host) (k : Fin 32) (p : M Unit) (h : Hooks) :
    inMode host k p h s = p h s := by
  simp only [inMode, run_ask_bind, hm, if_true]

/-! An event that is cleared and told to UPPER. -/

/-- The state after an event of GINTSTS has been cleared and its callback made. -/
def State.reported (s : State) (k : Fin 32) (c : Callback) : State :=
  ((s.writeReg .GINTSTS (bit1 k)).note (.wr (Reg.offset .GINTSTS) (bit1 k))).note (.cb c)

theorem State.raw_reported (s : State) {k : Fin 32} (hk : bitOf (w1cMask .GINTSTS) k = true) (c : Callback) :
    (s.reported k c).raw .GINTSTS = s.raw .GINTSTS &&& ~~~(bit1 k) :=
  s.raw_clearTop hk

theorem State.reported_trace (s : State) (k : Fin 32) (c : Callback) :
    (s.reported k c).trace = .cb c :: .wr 0x014 (bit1 k) :: s.trace := rfl

theorem Frame.reported {s t : State} {rs : List Reg} {ps : List Part} (f : Frame s t rs ps) (h : .GINTSTS ∈ rs)
    (k : Fin 32) (c : Callback) : Frame s (t.reported k c) rs ps :=
  ((f.writeReg _ h (.inr rfl)).note _).note _

/-- With nothing else acting, the write and the callback of such an event are all that happens. -/
theorem clearAndTell_quiet {s : State} (q : s.Quiet) (hr : s.replies = []) (k : Fin 32) (c : Callback) (n : Nat) :
    (do regWrite .GINTSTS (bit1 k); callback c : M Unit) (hooksAt n) s = .ok ((), s.reported k c) := by
  have ha : s.accessible .GINTSTS = true := accessible_global s rfl rfl fun _ => rfl
  rw [run_bind_ok (regWrite_quiet q ha _ _)]
  exact callback_idle n c (by simpa using hr)

/-- Such an event as one step: the bit is cleared, UPPER is told once, and nothing else changes. -/
theorem runEvt_reports {s : State} (a : s.Alone) {i : Instr} {p : M Unit} {k : Fin 32} {c : Callback}
    (hk : bitOf (w1cMask .GINTSTS) k = true)
    (hp : ∀ h, p h (s.inCtx .isr) = (do regWrite .GINTSTS (bit1 k); callback c : M Unit) h (s.inCtx .isr)) :
    ∃ t, runEvt i p s = .next t ∧ t.raw .GINTSTS = s.raw .GINTSTS &&& ~~~(bit1 k) ∧
      t.trace = .cb c :: .wr 0x014 (bit1 k) :: s.trace ∧ Frame s t [.GINTSTS] [] :=
  ⟨_, runEvt_ok ((hp _).trans (clearAndTell_quiet a.quiet a.replies k c _)), State.raw_reported (s.inCtx .isr) hk c,
    State.reported_trace (s.inCtx .isr) k c, ((Frame.refl _ _ _).reported (by simp) k c).event⟩

/-! The obligation. -/

/-- Settles O38: both events are a write of their bit and a callback; USBSUSP is one in device mode (R151). -/
theorem suspendAndResumeReachUpper : Obligations.SuspendAndResumeReachUpper := by
  intro s a
  have hsuspend (hm : s.hostMode = false) := runEvt_reports a (i := .topUsbsusp) (k := 11) (c := .suspend) (by decide)
    fun h => inMode_same (s := s.inCtx .isr) (by simpa using hm) 11 evtUsbsusp h
  have hresume := runEvt_reports a (i := .topWkupint) (p := evtWkupint) (k := 31) (c := .resume) (by decide) fun _ => rfl
  exact ⟨hsuspend, hresume⟩

end Sys2Proof.Machine

/-! PROOF. The decoder reads back the encodings (R140 to R168): what each parser reads from the bytes of its operand, put
together in the order of the operands. -/

namespace Sys2Proof

/-- The parser reads this value from these bytes and leaves what follows them. -/
def Parses {α : Type} (p : Parser α) (bs : List Byte) (a : α) : Prop := ∀ rest, p (bs ++ rest) = .ok (a, rest)

section
variable {α β : Type} {p : Parser α} {f : α → Parser β} {bs cs : List Byte} {a : α} {b : β}

theorem parses_pure (a : α) : Parses (pure a) [] a := fun _ => rfl

theorem Parses.bind (h : Parses p bs a) (h' : Parses (f a) cs b) : Parses (p >>= f) (bs ++ cs) b := by
  intro rest
  show (p (bs ++ cs ++ rest) >>= fun r => f r.1 r.2) = _
  rw [List.append_assoc, h]
  exact h' rest

/-- The last operand of an instruction: nothing is read after it. -/
theorem Parses.map (h : Parses p bs a) (g : α → β) : Parses (p >>= fun x => pure (g x)) bs (g a) := by
  have hbind : Parses (p >>= fun x => pure (g x)) (bs ++ []) (g a) := h.bind (parses_pure (g a))
  rwa [List.append_nil] at hbind

theorem Parses.of_eq (h : Parses p bs a) (hb : bs = cs) : Parses p cs a := hb ▸ h

theorem parses_pSome {o : Option α} (h : o = some a) : Parses (pSome o) [] a := by
  intro rest
  rw [h]
  rfl

end

/-! Operands. -/

theorem parses_pByte (b : Byte) : Parses pByte [b] b := fun _ => rfl

/-- A byte that a table or a range check accepts. -/
theorem parses_checked {α : Type} {g : Byte → Option α} {b : Byte} {a : α} (h : g b = some a) :
    Parses (pByte >>= fun b => pSome (g b)) [b] a :=
  (parses_pByte b).bind (parses_pSome h)

theorem parses_pHalf (v : BitVec 16) : Parses pHalf (encHalf v) v := by
  have hv : v.extractLsb' 8 8 ++ v.extractLsb' 0 8 = v := by
    ext i hi
    simp only [BitVec.getElem_append, BitVec.getElem_extractLsb']
    split
    · simp [BitVec.getLsbD_eq_getElem hi]
    · rw [BitVec.getLsbD_eq_getElem (by omega)]
      congr 1
      omega
  have hread : Parses pHalf (encHalf v) (v.extractLsb' 8 8 ++ v.extractLsb' 0 8) :=
    (parses_pByte _).bind ((parses_pByte _).map fun b1 => b1 ++ v.extractLsb' 0 8)
  rwa [hv] at hread

theorem parses_pWord (v : Word) : Parses pWord (encWord v) v := by
  have hv : v.extractLsb' 16 16 ++ v.extractLsb' 0 16 = v := by
    ext i hi
    simp only [BitVec.getElem_append, BitVec.getElem_extractLsb']
    split
    · simp [BitVec.getLsbD_eq_getElem hi]
    · rw [BitVec.getLsbD_eq_getElem (by omega)]
      congr 1
      omega
  have hread : Parses pWord (encWord v) (v.extractLsb' 16 16 ++ v.extractLsb' 0 16) :=
    (parses_pHalf _).bind ((parses_pHalf _).map fun h1 => h1 ++ v.extractLsb' 0 16)
  rwa [hv] at hread

theorem parses_pWords (ws : List Word) : Parses (pWords ws.length) (encWords ws) ws := by
  induction ws with
  | nil => exact parses_pure []
  | cons w ws ih => exact (parses_pWord w).bind (ih.map fun l => w :: l)

theorem parses_bool (b : Bool) : Parses (pCode boolCodes) [encBool b] b := parses_checked (by cases b <;> rfl)

theorem parses_type (t : XferType) : Parses (pCode typeCodes) [encType t] t := parses_checked (by cases t <;> rfl)

theorem parses_speed (v : Speed) : Parses (pCode speedCodes) [encSpeed v] v := parses_checked (by cases v <;> rfl)

theorem parses_pid (p : Option Pid) : Parses (pCode pidCodes) [encPid p] p :=
  parses_checked (by rcases p with _ | p <;> [rfl; cases p <;> rfl])

theorem parses_dma (m : DmaMode) : Parses (pCode dmaCodes) [encDma m] m := parses_checked (by cases m <;> rfl)

theorem parses_phy (t : PhyType) : Parses (pCode phyCodes) [encPhy t] t := parses_checked (by cases t <;> rfl)

theorem parses_otg (c : OtgCap) : Parses (pCode otgCodes) [encOtg c] c := parses_checked (by cases c <;> rfl)

theorem parses_halt (r : HaltReason) : Parses (pCode haltCodes) [encHalt r] r := parses_checked (by cases r <;> rfl)

theorem parses_pNum (n : Fin 16) : Parses pNum [encNum n] n := by
  have h : ∀ n : Fin 16, numOfByte (encNum n) = some n := by decide
  exact parses_checked (h n)

theorem parses_pEp (e : EpRef) : Parses pEp [encEp e] e := by
  have h : ∀ n : Fin 16, epOfByte (encEp ⟨n, .OUT⟩) = some ⟨n, .OUT⟩ ∧ epOfByte (encEp ⟨n, .IN⟩) = some ⟨n, .IN⟩ := by decide
  rcases e with ⟨n, _ | _⟩
  · exact parses_checked (h n).1
  · exact parses_checked (h n).2

theorem parses_pSeven (v : BitVec 7) : Parses pSeven [v.setWidth 8] v := by
  have h : ∀ v : BitVec 7, sevenOfByte (v.setWidth 8) = some v := by decide
  exact parses_checked (h v)

theorem parses_pXRef (x : XRef) : Parses pXRef (encXRef x) x := by
  cases x with
  | ep e => exact (parses_bool false).bind ((parses_pEp e).map XRef.ep)
  | ch c => exact (parses_bool true).bind ((parses_pNum c).map XRef.ch)

/-- Channel parameters in the ranges of R350 pass the decoder's check, whose two wide fields lose nothing. -/
theorem parses_pHcParams {t : HcParams} (h : t.wf = true) : Parses pHcParams (encHcParams t) t := by
  have hmps : (t.mps.setWidth 16).setWidth 11 = t.mps := by simp
  have hmulti : (t.multiCount.setWidth 8).setWidth 2 = t.multiCount := by simp
  have hle : t.mps.toNat ≤ 1024 := by
    simp only [HcParams.wf, Bool.and_eq_true, decide_eq_true_eq] at h
    exact h.1.1.2
  have hcheck : (if decide ((t.mps.setWidth 16).toNat ≤ 1024) && decide ((t.multiCount.setWidth 8).toNat ≤ 3) && t.wf
      then some t else none) = some t := by
    have h16 : (t.mps.setWidth 16).toNat = t.mps.toNat := by
      rw [BitVec.toNat_setWidth, Nat.mod_eq_of_lt (by omega)]
    have h8 : (t.multiCount.setWidth 8).toNat ≤ 3 := by
      rw [BitVec.toNat_setWidth]
      omega
    rw [h, h16, decide_eq_true hle, decide_eq_true h8]
    rfl
  refine (Parses.bind (parses_pSeven t.devAddr) <| Parses.bind (parses_pEp ⟨t.epNum, t.epDir⟩) <|
    Parses.bind (parses_type t.epType) <| Parses.bind (parses_pHalf (t.mps.setWidth 16)) <|
    Parses.bind (parses_speed t.speed) <| Parses.bind (parses_bool t.doSplit) <| Parses.bind (parses_pSeven t.hubAddr) <|
    Parses.bind (parses_pSeven t.portAddr) <| Parses.bind (parses_pByte t.interval) <|
    Parses.bind (parses_pByte (t.multiCount.setWidth 8)) <| Parses.bind (cs := []) (parses_pid t.pid) ?_).of_eq
    (by simp [encHcParams])
  simp only [hmps, hmulti]
  exact parses_pSome hcheck

theorem parses_pTarget {t : Target} (h : t.wf = true) : Parses pTarget (encTarget t) t := by
  cases t with
  | ep e => exact (parses_bool false).bind ((parses_pEp e).map Target.ep)
  | pipe t => exact (parses_bool true).bind ((parses_pHcParams h).map Target.pipe)

theorem parses_pInitParams {p : InitParams} (h : p.wf = true) : Parses pInitParams (encInitParams p) p := by
  have hlen : p.epTx.length = 15 := of_decide_eq_true h
  have hwords : Parses (pWords 15) (encWords p.epTx) p.epTx := hlen ▸ parses_pWords p.epTx
  exact (Parses.bind (parses_dma p.dmaMode) <| Parses.bind (parses_phy p.phyType) <| Parses.bind (parses_bool p.phyWidth16) <|
    Parses.bind (parses_bool p.fullSpeed) <| Parses.bind (parses_pNum p.burst.toFin) <| Parses.bind (parses_pWord p.rxFifo) <|
    Parses.bind (parses_pWord p.nptxFifo) <| Parses.bind hwords <| Parses.bind (parses_pWord p.hptxFifo) <|
    Parses.bind (parses_bool p.dedicatedFifo) <| (parses_otg p.otgCap).map _).of_eq (by simp [encInitParams])

theorem parses_pEpd (d : Epd) : Parses pEpd (encEpd d) d :=
  (parses_pByte d.bLength).bind <| (parses_pByte d.bDescriptorType).bind <| (parses_pByte d.bEndpointAddress).bind <|
    (parses_pByte d.bmAttributes).bind <| (parses_pHalf d.wMaxPacketSize).bind <| (parses_pByte d.bInterval).map _

theorem parses_pCbId (c : CbId) : Parses pCbId (encCbId c) c := (parses_pWord c.id).bind ((parses_pWord c.ctx).map _)

/-! Commands (R143). -/

/-- The bytes of a command: its code, then what its operands are read from. -/
theorem parses_command {op : Byte} {bs : List Byte} {i : Instr} (h : Parses (pOperands op) bs i) :
    Parses pCommand (op :: bs) i :=
  (parses_pByte op).bind h

theorem parses_coreInit (base : Word) {p : InitParams} (h : p.wf = true) :
    Parses pCommand (encode (.coreInit base p)) (.coreInit base p) :=
  parses_command ((parses_pWord base).bind ((parses_pInitParams h).map _))

theorem parses_submit {t : Target} (h : t.wf = true) (buf len : Word) (z : Bool) (cb : CbId) :
    Parses pCommand (encode (.submit t buf len z cb)) (.submit t buf len z cb) := by
  have hchain := parses_command (op := 0x12) <| (parses_pTarget h).bind <| (parses_pWord buf).bind <| (parses_pWord len).bind <|
    (parses_bool z).bind <| (parses_pCbId cb).map fun cb => Instr.submit t buf len z cb
  simpa [encode] using hchain

theorem parses_isoStart {t : Target} (h : t.wf = true) (b0 b1 : Word) (len per : BitVec 16) (cb : CbId) :
    Parses pCommand (encode (.isoStart t b0 b1 len per cb)) (.isoStart t b0 b1 len per cb) := by
  have hchain := parses_command (op := 0x30) <| (parses_pTarget h).bind <| (parses_pWord b0).bind <| (parses_pWord b1).bind <|
    (parses_pHalf len).bind <| (parses_pHalf per).bind <| (parses_pCbId cb).map fun cb => Instr.isoStart t b0 b1 len per cb
  simpa [encode] using hchain

theorem parses_regModify (off clear set : Word) :
    Parses pCommand (encode (.regModify off clear set)) (.regModify off clear set) := by
  have hchain := parses_command (op := 0x0A) <| (parses_pWord off).bind <| (parses_pWord clear).bind <|
    (parses_pWord set).map fun set => Instr.regModify off clear set
  simpa [encode] using hchain

/-- The bytes of every command are read back as that command. -/
theorem parses_commands {i : Instr} (hp : portOf i = .cmd) (hw : i.wf = true) : Parses pCommand (encode i) i := by
  cases i with
  | coreInit base p => exact parses_coreInit base hw
  | coreDeinit => exact parses_command (op := 0x02) (parses_pure Instr.coreDeinit)
  | coreReset => exact parses_command (op := 0x03) (parses_pure Instr.coreReset)
  | flushTxFifo num => exact parses_command (op := 0x04) ((parses_pByte num).map _)
  | flushRxFifo => exact parses_command (op := 0x05) (parses_pure Instr.flushRxFifo)
  | enableGint => exact parses_command (op := 0x06) (parses_pure Instr.enableGint)
  | disableGint => exact parses_command (op := 0x07) (parses_pure Instr.disableGint)
  | regRead off => exact parses_command (op := 0x08) ((parses_pWord off).map _)
  | regWrite off v => exact parses_command (op := 0x09) ((parses_pWord off).bind ((parses_pWord v).map _))
  | regModify off clear set => exact parses_regModify off clear set
  | poolAlloc => exact parses_command (op := 0x10) (parses_pure Instr.poolAlloc)
  | poolFree h => exact parses_command (op := 0x11) ((parses_pHalf h).map _)
  | submit t buf len z cb => exact parses_submit hw buf len z cb
  | cancel h => exact parses_command (op := 0x13) ((parses_pHalf h).map _)
  | startTransfer x h => exact parses_command (op := 0x14) ((parses_pXRef x).bind ((parses_pHalf h).map _))
  | continueTransfer x => exact parses_command (op := 0x15) ((parses_pXRef x).map _)
  | enableEndpoint d => exact parses_command (op := 0x16) ((parses_pEpd d).map _)
  | disableEndpoint e => exact parses_command (op := 0x17) ((parses_pEp e).map _)
  | halt c r => exact parses_command (op := 0x20) ((parses_pNum c).bind ((parses_halt r).map _))
  | isoStart t b0 b1 len per cb => exact parses_isoStart hw b0 b1 len per cb
  | isoStop x => exact parses_command (op := 0x31) ((parses_pXRef x).map _)
  | isr => exact parses_command (op := 0x38) (parses_pure Instr.isr)
  | _ => cases hp

/-! Event words (R150 to R154). -/

theorem parses_event {p : Port} {w : Word} {i : Instr} (h : decodeEvent p w = some i) : Parses (pEvent p) (encWord w) i := by
  refine (Parses.bind (parses_pWord w) ?_).of_eq (List.append_nil _)
  rw [h]
  exact parses_pure i

/-- Of a word with one bit the only event is that bit, in whatever order (R473). -/
theorem firstEvent_bit : ∀ k : Fin 32, ∀ o ∈ [topOrder, otgOrder, inOrder, outOrder, chOrder],
    firstEvent o (1#32 <<< k.val) = some k := by decide

theorem topEvent_bit : ∀ k : Fin 32, k ≠ 0 → firstEvent topOrder (1#32 <<< k.val &&& 0xFFFFFFFE) = some k := by decide

theorem parses_top {k : Fin 32} (hk : k ≠ 0) : Parses (pEvent .gintsts) (encBit k.val) (topEvent k) :=
  parses_event (congrArg (Option.map topEvent) (topEvent_bit k hk))

theorem parses_otgEvent (k : Fin 32) : Parses (pEvent .gotgint) (encBit k.val) (otgEvent k) :=
  parses_event (congrArg (Option.map otgEvent) (firstEvent_bit k _ (by simp)))

theorem parses_inEvent (n : Fin 16) (k : Fin 32) : Parses (pEvent (.diepint n)) (encBit k.val) (inEvent n k) :=
  parses_event (congrArg (Option.map (inEvent n)) (firstEvent_bit k _ (by simp)))

theorem parses_outEvent (n : Fin 16) (k : Fin 32) : Parses (pEvent (.doepint n)) (encBit k.val) (outEvent n k) :=
  parses_event (congrArg (Option.map (outEvent n)) (firstEvent_bit k _ (by simp)))

theorem parses_chEvent (c : Fin 16) (k : Fin 32) : Parses (pEvent (.hcint c)) (encBit k.val) (chEvent c k) :=
  parses_event (congrArg (Option.map (chEvent c)) (firstEvent_bit k _ (by simp)))

section
variable {k : Fin 32}

theorem topEvent_unassigned (h : topUnassignedMask.getLsbD k.val = true) : k ≠ 0 ∧ topEvent k = .topUnassigned k := by
  constructor
  · rintro rfl
    exact absurd h (by decide)
  · unfold topEvent
    split <;> first | rfl | (rename_i hk; rw [hk] at h; exact absurd h (by decide))

theorem otgEvent_unassigned (h : otgUnassignedMask.getLsbD k.val = true) : otgEvent k = .otgUnassigned k := by
  unfold otgEvent
  split <;> first | rfl | (rename_i hk; rw [hk] at h; exact absurd h (by decide))

theorem inEvent_unassigned (n : Fin 16) (h : inUnassignedMask.getLsbD k.val = true) : inEvent n k = .inUnassigned n k := by
  unfold inEvent
  split <;> first | rfl | (rename_i hk; rw [hk] at h; exact absurd h (by decide))

theorem outEvent_unassigned (n : Fin 16) (h : outUnassignedMask.getLsbD k.val = true) :
    outEvent n k = .outUnassigned n k := by
  unfold outEvent
  split <;> first | rfl | (rename_i hk; rw [hk] at h; exact absurd h (by decide))

theorem chEvent_unassigned (c : Fin 16) (h : chUnassignedMask.getLsbD k.val = true) : chEvent c k = .chUnassigned c k := by
  unfold chEvent
  split <;> first | rfl | (rename_i hk; rw [hk] at h; exact absurd h (by decide))

end

/-! SETUP packets (R165, R166). -/

theorem parses_pSetup (p : SetupPkt) : Parses pSetup (encSetupPkt p) p := by
  exact (Parses.bind (parses_pByte p.bmRequestType) <| Parses.bind (parses_pByte p.bRequest) <|
    Parses.bind (parses_pHalf p.wValue) <| Parses.bind (parses_pHalf p.wIndex) <| (parses_pHalf p.wLength).map _).of_eq
    (by simp [encSetupPkt])

theorem parses_setup {p : SetupPkt} {i : Instr} (h : decodeSetup p = i) : Parses (pPort .setup) (encSetupPkt p) i :=
  h ▸ (parses_pSetup p).map decodeSetup

/-- A packet built for a named row has TYPE 0 and gives back its fields. -/
theorem SetupFields.packet_fields (code : Byte) (f : SetupFields) :
    (f.packet code).bmRequestType &&& 0x60#8 = 0#8 ∧ (f.packet code).fields = f := by
  have hin : ∀ r : BitVec 5, (0x80#8 ||| r.setWidth 8) &&& 0x60#8 = 0#8 ∧ (0x80#8 ||| r.setWidth 8).getLsbD 7 = true ∧
      (0x80#8 ||| r.setWidth 8).extractLsb' 0 5 = r := by decide
  have hout : ∀ r : BitVec 5, (0#8 ||| r.setWidth 8) &&& 0x60#8 = 0#8 ∧ (0#8 ||| r.setWidth 8).getLsbD 7 = false ∧
      (0#8 ||| r.setWidth 8).extractLsb' 0 5 = r := by decide
  rcases f with ⟨d, r, v, i, l⟩
  cases d with
  | IN =>
    obtain ⟨htype, hdir, hrecip⟩ := hin r
    exact ⟨htype, by simp only [SetupPkt.fields, SetupFields.packet, hdir, hrecip, if_true]⟩
  | OUT =>
    obtain ⟨htype, hdir, hrecip⟩ := hout r
    exact ⟨htype, by simp only [SetupPkt.fields, SetupFields.packet, hdir, hrecip, Bool.false_eq_true, if_false]⟩

/-- The row that the request code of a packet of TYPE 0 selects. -/
theorem decodeSetup_packet (code : Byte) (f : SetupFields) : decodeSetup (f.packet code) =
    match code.toNat with
    | 0x00 => .getStatus f
    | 0x01 => .clearFeature f
    | 0x03 => .setFeature f
    | 0x05 => .setAddress f
    | 0x06 => .getDescriptor f
    | 0x09 => .setConfiguration f
    | 0x0B => .setInterface f
    | _ => .delegatedRequest (f.packet code) := by
  obtain ⟨htype, hfields⟩ := f.packet_fields code
  rw [decodeSetup, if_pos htype, hfields]
  rfl

theorem decodeSetup_delegated {p : SetupPkt} (h : p.named = false) : decodeSetup p = .delegatedRequest p := by
  unfold decodeSetup
  split
  · rename_i htype
    have hcode : ∀ n : Nat, p.bRequest.toNat = n →
        n ∉ [0x00, 0x01, 0x03, 0x05, 0x06, 0x09, 0x0B] := by
      rintro n rfl
      simp only [SetupPkt.named, htype, decide_true, Bool.true_and, List.contains_eq_mem, decide_eq_false_iff_not] at h
      simpa [← BitVec.toNat_inj] using h
    split <;> first | rfl | (rename_i hk; exact absurd (hcode _ hk) (by decide))
  · rfl

/-! Rx status entries (R31, R155). -/

theorem rxEntry_word (code : BitVec 4) (e : RxEntry) :
    rxEntryOf ((code ++ e.dpid ++ e.bcnt ++ (BitVec.ofFin e.num : BitVec 4)).setWidth 32) = e ∧
    pktSts ((code ++ e.dpid ++ e.bcnt ++ (BitVec.ofFin e.num : BitVec 4)).setWidth 32) = code.toNat := by
  rcases e with ⟨n, b, d⟩
  set m : BitVec 4 := BitVec.ofFin n with hm
  have hbit : ∀ i, ((code ++ d ++ b ++ m).setWidth 32).getLsbD i = (decide (i < 32) &&
      if i < 4 then m.getLsbD i else if i - 4 < 11 then b.getLsbD (i - 4) else
        if i - 4 - 11 < 2 then d.getLsbD (i - 4 - 11) else code.getLsbD (i - 4 - 11 - 2)) := by
    intro i
    simp only [BitVec.getLsbD_setWidth, BitVec.getLsbD_append]
  have hn : ((code ++ d ++ b ++ m).setWidth 32).extractLsb' 0 4 = m := by
    ext i hi
    rw [BitVec.getElem_extractLsb', hbit, decide_eq_true (show 0 + i < 32 by omega), if_pos (show 0 + i < 4 by omega),
      show 0 + i = i by omega, Bool.true_and, BitVec.getLsbD_eq_getElem hi]
  have hb : ((code ++ d ++ b ++ m).setWidth 32).extractLsb' 4 11 = b := by
    ext i hi
    rw [BitVec.getElem_extractLsb', hbit, decide_eq_true (show 4 + i < 32 by omega), if_neg (show ¬ 4 + i < 4 by omega), if_pos (show 4 + i - 4 < 11 by omega),
      show 4 + i - 4 = i by omega, Bool.true_and, BitVec.getLsbD_eq_getElem hi]
  have hd : ((code ++ d ++ b ++ m).setWidth 32).extractLsb' 15 2 = d := by
    ext i hi
    rw [BitVec.getElem_extractLsb', hbit, decide_eq_true (show 15 + i < 32 by omega), if_neg (show ¬ 15 + i < 4 by omega), if_neg (show ¬ 15 + i - 4 < 11 by omega), if_pos (show 15 + i - 4 - 11 < 2 by omega),
      show 15 + i - 4 - 11 = i by omega, Bool.true_and, BitVec.getLsbD_eq_getElem hi]
  have hc : ((code ++ d ++ b ++ m).setWidth 32).extractLsb' 17 4 = code := by
    ext i hi
    rw [BitVec.getElem_extractLsb', hbit, decide_eq_true (show 17 + i < 32 by omega), if_neg (show ¬ 17 + i < 4 by omega), if_neg (show ¬ 17 + i - 4 < 11 by omega), if_neg (show ¬ 17 + i - 4 - 11 < 2 by omega),
      show 17 + i - 4 - 11 - 2 = i by omega, Bool.true_and, BitVec.getLsbD_eq_getElem hi]
  exact ⟨by rw [rxEntryOf, hn, hb, hd], by rw [pktSts, hc]⟩

theorem parses_rxEntry {f : Word → Option Instr} {w : Word} {i : Instr} (h : f w = some i) :
    Parses (pRxEntry f) (encWord w) i := by
  refine (Parses.bind (parses_pWord w) ?_).of_eq (List.append_nil _)
  rw [h]
  exact parses_pure i

/-- A device-mode entry goes by its code (R31). -/
theorem parses_rxDevice {code : BitVec 4} {e : RxEntry} {i : Instr}
    (h : (match code.toNat with
      | 2 => some (.rxsOutData e)
      | 3 => some (.rxsOutComplete e)
      | 4 => some (.rxsSetupComplete e)
      | 6 => some (.rxsSetupData e)
      | _ => none) = some i) : Parses (pPort .rxsDevice) (encRxEntry code e) i := by
  obtain ⟨he, hc⟩ := rxEntry_word code e
  refine parses_rxEntry ?_
  rw [decodeRxDevice, he, hc]
  exact h

/-- A host-mode entry goes by its code (R31). -/
theorem parses_rxHost {code : BitVec 4} {e : RxEntry} {i : Instr}
    (h : (match code.toNat with
      | 2 => some (.rxsInData e)
      | 3 => some (.rxsInComplete e)
      | 7 => some (.rxsChannelHalted e)
      | _ => none) = some i) : Parses (pPort .rxsHost) (encRxEntry code e) i := by
  obtain ⟨he, hc⟩ := rxEntry_word code e
  refine parses_rxEntry ?_
  rw [decodeRxHost, he, hc]
  exact h

/-! The obligations. -/

/-- The bytes of every well-formed instruction are read back at its port. -/
theorem parses_encode {i : Instr} (h : i.wf = true) : Parses (pPort (portOf i)) (encode i) i := by
  cases i with
  | topUnassigned k =>
    obtain ⟨hk, he⟩ := topEvent_unassigned (k := k) h
    exact (he ▸ parses_top hk : Parses (pEvent .gintsts) (encBit k.val) _)
  | otgUnassigned k => exact (otgEvent_unassigned h ▸ parses_otgEvent k : Parses (pEvent .gotgint) (encBit k.val) _)
  | inUnassigned n k => exact (inEvent_unassigned n h ▸ parses_inEvent n k : Parses (pEvent (.diepint n)) (encBit k.val) _)
  | outUnassigned n k => exact (outEvent_unassigned n h ▸ parses_outEvent n k : Parses (pEvent (.doepint n)) (encBit k.val) _)
  | chUnassigned c k => exact (chEvent_unassigned c h ▸ parses_chEvent c k : Parses (pEvent (.hcint c)) (encBit k.val) _)
  | topOtgint => exact parses_top (k := 2) (by decide)
  | topRxflvl => exact parses_top (k := 4) (by decide)
  | topNptxfemp => exact parses_top (k := 5) (by decide)
  | topUsbsusp => exact parses_top (k := 11) (by decide)
  | topUsbrst => exact parses_top (k := 12) (by decide)
  | topEnumdone => exact parses_top (k := 13) (by decide)
  | topIsooutdrop => exact parses_top (k := 14) (by decide)
  | topIepint => exact parses_top (k := 18) (by decide)
  | topOepint => exact parses_top (k := 19) (by decide)
  | topHchint => exact parses_top (k := 25) (by decide)
  | topPtxfemp => exact parses_top (k := 26) (by decide)
  | topConidstschng => exact parses_top (k := 28) (by decide)
  | topDisconnint => exact parses_top (k := 29) (by decide)
  | topWkupint => exact parses_top (k := 31) (by decide)
  | otgSesenddet => exact parses_otgEvent 2
  | otgSesreqsucstschng => exact parses_otgEvent 8
  | otgHstnegsucstschng => exact parses_otgEvent 9
  | inXfercompl n => exact parses_inEvent n 0
  | inEpdisbld n => exact parses_inEvent n 1
  | inAhberr n => exact parses_inEvent n 2
  | inTimeout n => exact parses_inEvent n 3
  | inTxfemp n => exact parses_inEvent n 7
  | inBna n => exact parses_inEvent n 9
  | outXfercompl n => exact parses_outEvent n 0
  | outEpdisbld n => exact parses_outEvent n 1
  | outAhberr n => exact parses_outEvent n 2
  | outSetup n => exact parses_outEvent n 3
  | outOutpkterr n => exact parses_outEvent n 8
  | outBna n => exact parses_outEvent n 9
  | outBbleerr n => exact parses_outEvent n 12
  | chXfercompl c => exact parses_chEvent c 0
  | chChhltd c => exact parses_chEvent c 1
  | chAhberr c => exact parses_chEvent c 2
  | chStall c => exact parses_chEvent c 3
  | chNak c => exact parses_chEvent c 4
  | chAck c => exact parses_chEvent c 5
  | chNyet c => exact parses_chEvent c 6
  | chXacterr c => exact parses_chEvent c 7
  | chBblerr c => exact parses_chEvent c 8
  | chBna c => exact parses_chEvent c 11
  | getStatus f => exact parses_setup (decodeSetup_packet 0x00 f)
  | clearFeature f => exact parses_setup (decodeSetup_packet 0x01 f)
  | setFeature f => exact parses_setup (decodeSetup_packet 0x03 f)
  | setAddress f => exact parses_setup (decodeSetup_packet 0x05 f)
  | getDescriptor f => exact parses_setup (decodeSetup_packet 0x06 f)
  | setConfiguration f => exact parses_setup (decodeSetup_packet 0x09 f)
  | setInterface f => exact parses_setup (decodeSetup_packet 0x0B f)
  | delegatedRequest p => exact parses_setup (decodeSetup_delegated (by simpa [Instr.wf] using h))
  | rxsOutData e => exact parses_rxDevice rfl
  | rxsOutComplete e => exact parses_rxDevice rfl
  | rxsSetupComplete e => exact parses_rxDevice rfl
  | rxsSetupData e => exact parses_rxDevice rfl
  | rxsInData e => exact parses_rxHost rfl
  | rxsInComplete e => exact parses_rxHost rfl
  | rxsChannelHalted e => exact parses_rxHost rfl
  | _ => exact parses_commands rfl h

/-- Settles O3: each port's parser reads the operands in the order in which the encoder lays them out. -/
theorem decodeReadsEveryEncoding : Obligations.DecodeReadsEveryEncoding :=
  fun _ rest h => parses_encode h rest

/-- Settles O4: the words are closed terms, and the decoder computes on them. -/
theorem specWordsDecode : Obligations.SpecWordsDecode := by
  refine ⟨?_, ?_, ?_, ?_, ?_, ?_, ?_, ?_⟩ <;> rfl

end Sys2Proof

/-! PROOF. Bit fields: what a bit and a field of a composed word read (R15, R16, R141). -/

namespace Sys2Proof.Machine

open Sys2Proof

/-! Bits. -/

@[simp] theorem bitOf_zero (k : Nat) : bitOf 0#32 k = false := by simp [bitOf]

@[simp] theorem bitOf_or (v w : Word) (k : Nat) : bitOf (v ||| w) k = (bitOf v k || bitOf w k) := BitVec.getLsbD_or

@[simp] theorem bitOf_and (v w : Word) (k : Nat) : bitOf (v &&& w) k = (bitOf v k && bitOf w k) := BitVec.getLsbD_and

theorem bitOf_not {w : Word} {k : Nat} (h : k < 32) : bitOf (~~~w) k = !bitOf w k := by
  simp [bitOf, h]

theorem bitOf_ge {w : Word} {k : Nat} (h : 32 ≤ k) : bitOf w k = false := BitVec.getLsbD_of_ge _ _ h

theorem bitOf_bit1 (j k : Nat) : bitOf (bit1 j) k = decide (k < 32 ∧ k = j) := by
  by_cases h : k < 32
  · simp only [bitOf, bit1, BitVec.getLsbD_shiftLeft, BitVec.getLsbD_one, h, true_and]
    by_cases hj : k = j
    · simp [hj]
    · simp [hj]
      omega
  · simp [bitOf_ge (Nat.le_of_not_lt h), h]

theorem bitOf_bitIf (c : Bool) (j k : Nat) : bitOf (bitIf c j) k = (c && decide (k < 32 ∧ k = j)) := by
  cases c
  · simp [bitIf]
  · simp [bitIf, bitOf_bit1]

theorem bitOf_fld (lo len v k : Nat) :
    bitOf (fld lo len v) k = (decide (k < 32 ∧ lo ≤ k ∧ k < lo + len) && v.testBit (k - lo)) := by
  simp only [bitOf, fld, BitVec.getLsbD_shiftLeft, BitVec.getLsbD_setWidth, BitVec.getLsbD_ofNat]
  by_cases h : k < 32 ∧ lo ≤ k ∧ k < lo + len
  · have h1 : k - lo < 32 := by omega
    have h2 : k - lo < len := by omega
    simp [h.1, h.2.1, h.2.2, h1, h2]
  · simp only [h, decide_false, Bool.false_and]
    by_cases h1 : k < 32 <;> by_cases h2 : lo ≤ k
    · have h3 : ¬ k - lo < len := by omega
      simp [h3]
    · simp [Nat.lt_of_not_le h2]
    · simp [h1]
    · simp [h1]

theorem word_ext {v w : Word} (h : ∀ k < 32, bitOf v k = bitOf w k) : v = w := BitVec.eq_of_getLsbD_eq h

theorem bitOf_mergeBits (w m v : Word) (k : Nat) :
    bitOf (mergeBits w m v) k = if bitOf m k then bitOf v k else bitOf w k := by
  by_cases h : k < 32
  · rw [mergeBits, bitOf_or, bitOf_and, bitOf_and, bitOf_not h]
    cases bitOf m k <;> simp
  · simp [bitOf_ge (Nat.le_of_not_lt h)]

theorem bitOf_withBit (w : Word) (j : Nat) (b : Bool) (k : Nat) :
    bitOf (withBit w j b) k = if k < 32 ∧ k = j then b else bitOf w k := by
  rw [withBit, bitOf_mergeBits, bitOf_bit1, bitOf_bitIf]
  by_cases h : k < 32 ∧ k = j
  · rw [if_pos h, decide_eq_true h, if_pos rfl, Bool.and_true]
  · simp [h]

theorem bitOf_ones (lo len k : Nat) : bitOf (ones lo len) k = decide (k < 32 ∧ lo ≤ k ∧ k < lo + len) := by
  rw [ones, bitOf_fld]
  by_cases h : k < 32 ∧ lo ≤ k ∧ k < lo + len
  · simp [h, Nat.testBit_two_pow_sub_one]
    omega
  · simp [h]

theorem bitOf_withField (w : Word) (lo len v k : Nat) :
    bitOf (withField w lo len v) k = if k < 32 ∧ lo ≤ k ∧ k < lo + len then v.testBit (k - lo) else bitOf w k := by
  rw [withField, bitOf_mergeBits, show fld lo len (2 ^ len - 1) = ones lo len from rfl, bitOf_ones, bitOf_fld]
  by_cases h : k < 32 ∧ lo ≤ k ∧ k < lo + len <;> simp [h]

theorem bitOf_writeWord {rw w1c w1s old v : Word} {k : Nat} (h : k < 32) :
    bitOf (writeWord rw w1c w1s old v) k =
      (((if bitOf rw k then bitOf v k else bitOf old k) && !(bitOf v k && bitOf w1c k)) || (bitOf v k && bitOf w1s k)) := by
  simp only [writeWord, bitOf_or, bitOf_and, bitOf_mergeBits, bitOf_not h]

/-! Fields. -/

theorem testBit_field (w : Word) (lo len k : Nat) : (field w lo len).testBit k = (decide (k < len) && bitOf w (lo + k)) := by
  simp [field, bitOf, BitVec.testBit_toNat]

theorem field_lt (w : Word) (lo len : Nat) : field w lo len < 2 ^ len := (w.extractLsb' lo len).isLt

theorem field_eq_iff {w : Word} {lo len v : Nat} (hv : v < 2 ^ len) :
    field w lo len = v ↔ ∀ k < len, bitOf w (lo + k) = v.testBit k := by
  constructor
  · rintro rfl k hk
    simp [testBit_field, hk]
  · intro h
    apply Nat.eq_of_testBit_eq
    intro k
    rw [testBit_field]
    by_cases hk : k < len
    · simp [hk, h k hk]
    · simp [hk, Nat.testBit_lt_two_pow (Nat.lt_of_lt_of_le hv (Nat.pow_le_pow_right (by decide) (Nat.le_of_not_lt hk)))]

theorem field_congr {v w : Word} {lo len : Nat} (h : ∀ k < len, bitOf v (lo + k) = bitOf w (lo + k)) :
    field v lo len = field w lo len := by
  refine (field_eq_iff (field_lt w lo len)).mpr fun k hk => ?_
  rw [h k hk, testBit_field]
  simp [hk]

@[simp] theorem field_zero (lo len : Nat) : field 0#32 lo len = 0 :=
  (field_eq_iff (Nat.two_pow_pos len)).mpr fun k _ => by simp

@[simp] theorem field_or (v w : Word) (lo len : Nat) : field (v ||| w) lo len = field v lo len ||| field w lo len := by
  apply Nat.eq_of_testBit_eq
  intro k
  simp only [testBit_field, Nat.testBit_or, bitOf_or]
  cases decide (k < len) <;> rfl

/-- A field of the word that holds a number in that field. -/
theorem field_fld_same {lo len : Nat} (v : Nat) (h : lo + len ≤ 32) : field (fld lo len v) lo len = v % 2 ^ len := by
  refine (field_eq_iff (Nat.mod_lt _ (Nat.two_pow_pos len))).mpr fun k hk => ?_
  rw [bitOf_fld, Nat.testBit_mod_two_pow, Nat.add_sub_cancel_left]
  congr 1
  simp
  omega

/-- A field of the word that holds a number in another field. -/
theorem field_fld_other {lo len lo' len' : Nat} (v : Nat) (h : lo' + len' ≤ lo ∨ lo + len ≤ lo') :
    field (fld lo' len' v) lo len = 0 := by
  refine (field_eq_iff (Nat.two_pow_pos len)).mpr fun k hk => ?_
  rw [bitOf_fld, Nat.zero_testBit]
  simp
  omega

theorem field_bitIf_other {c : Bool} {j lo len : Nat} (h : j < lo ∨ lo + len ≤ j) : field (bitIf c j) lo len = 0 := by
  refine (field_eq_iff (Nat.two_pow_pos len)).mpr fun k hk => ?_
  rw [bitOf_bitIf, Nat.zero_testBit]
  simp
  omega

theorem field_bit1_other {j lo len : Nat} (h : j < lo ∨ lo + len ≤ j) : field (bit1 j) lo len = 0 :=
  field_bitIf_other (c := true) h

theorem field_withField_same {lo len : Nat} (w : Word) (v : Nat) (h : lo + len ≤ 32) :
    field (withField w lo len v) lo len = v % 2 ^ len := by
  refine (field_eq_iff (Nat.mod_lt _ (Nat.two_pow_pos len))).mpr fun k hk => ?_
  rw [bitOf_withField, if_pos (by omega), Nat.testBit_mod_two_pow, Nat.add_sub_cancel_left]
  simp [hk]

theorem field_withField_other {lo len lo' len' : Nat} (w : Word) (v : Nat) (h : lo' + len' ≤ lo ∨ lo + len ≤ lo') :
    field (withField w lo' len' v) lo len = field w lo len :=
  field_congr fun k hk => by rw [bitOf_withField, if_neg (by omega)]

end Sys2Proof.Machine

/-! PROOF. What every step keeps: the parameters of the hardware, the canonical form of the data, the bits that no run sets,
and the mode bit while nothing is scripted. `State.Kept` says it of two states; the acts of LINK and DMA, the accesses, and
every procedure of the sequencer carry it on. -/

namespace Sys2Proof.Machine

open Sys2Proof

/-! The map of R22 is one to one, but for the place that HPTXFSIZ shares with the FIFO that no endpoint has. -/

/-- The registers that the bank entry `n`, the Tx FIFO sizes and the windows have. -/
theorem Reg.ofOffset_bank (n : Fin 16) : ∀ r ∈ Reg.FIFO n :: bankRegs n, Reg.ofOffset r.offset = some r := by
  revert n
  decide +kernel

theorem Reg.ofOffset_txFifo : ∀ n : Fin 16, n ≠ 0 → Reg.ofOffset (Reg.DIEPTXF n).offset = some (.DIEPTXF n) := by
  decide

theorem Reg.ofOffset_offset {r : Reg} (h : r ≠ .DIEPTXF 0) : Reg.ofOffset r.offset = some r := by
  cases r
  case DIEPTXF n => exact Reg.ofOffset_txFifo n fun e => h (congrArg Reg.DIEPTXF e)
  case FIFO n => exact Reg.ofOffset_bank n _ (List.mem_cons_self ..)
  case HCCHAR n | HCSPLT n | HCINT n | HCINTMSK n | HCTSIZ n | HCDMA n | DIEPCTL n | DIEPINT n | DIEPTSIZ n | DIEPDMA n
      | DTXFSTS n | DOEPCTL n | DOEPINT n | DOEPTSIZ n | DOEPDMA n =>
    exact Reg.ofOffset_bank n _ (by simp [bankRegs])
  all_goals rfl

theorem Reg.offset_inj {q r : Reg} (hq : q ≠ .DIEPTXF 0) (hr : r ≠ .DIEPTXF 0) (h : q.offset = r.offset) : q = r := by
  have hqr := Reg.ofOffset_offset hq
  rw [h, Reg.ofOffset_offset hr] at hqr
  exact (Option.some.inj hqr).symm

/-! The bits that no run sets. -/

/-- The bits of a register that every run leaves 0. -/
def Reg.lowBits (hw : HwParams) : Reg → Word
  | .DIEPCTL _ | .DOEPCTL _ => 0x3C000000
  | .DIEPTSIZ n => 0x1FFFFFFF &&& ~~~(rwMask hw (.DIEPTSIZ n))
  | .DOEPTSIZ n => 0x1FFFFFFF &&& ~~~(rwMask hw (.DOEPTSIZ n))
  | .HCTSIZ n => 0x1FFFFFFF &&& ~~~(rwMask hw (.HCTSIZ n))
  | .DIEPMSK => ~~~(rwMask hw .DIEPMSK)
  | .DOEPMSK => ~~~(rwMask hw .DOEPMSK)
  | .HCINTMSK n => ~~~(rwMask hw (.HCINTMSK n))
  | .HCSPLT n => ~~~(rwMask hw (.HCSPLT n))
  | _ => 0

theorem Reg.lowBits_offset (hw : HwParams) {q r : Reg} (h : q.offset = r.offset) : q.lowBits hw = r.lowBits hw := by
  by_cases hq : q = .DIEPTXF 0
  · by_cases hr : r = .DIEPTXF 0
    · rw [hq, hr]
    · have : r = .HPTXFSIZ := Reg.offset_inj (q := r) (r := .HPTXFSIZ) hr (by simp) (by rw [← h, hq]; rfl)
      rw [hq, this]
      rfl
  · by_cases hr : r = .DIEPTXF 0
    · have : q = .HPTXFSIZ := Reg.offset_inj (q := q) (r := .HPTXFSIZ) hq (by simp) (by rw [h, hr]; rfl)
      rw [hr, this]
      rfl
    · rw [Reg.offset_inj hq hr h]

theorem State.reservedLow_iff (s : State) : s.reservedLow ↔ ∀ r, s.raw r &&& r.lowBits s.hw = 0 := by
  constructor
  · intro h r
    cases r
    case DIEPCTL n => exact (h n).1
    case DOEPCTL n => exact (h n).2.1
    case DIEPTSIZ n => exact (BitVec.and_assoc _ _ _).symm.trans ((h n).2.2.1 _ (by simp))
    case DOEPTSIZ n => exact (BitVec.and_assoc _ _ _).symm.trans ((h n).2.2.1 _ (by simp))
    case HCTSIZ n => exact (BitVec.and_assoc _ _ _).symm.trans ((h n).2.2.1 _ (by simp))
    case DIEPMSK => exact (h 0).2.2.2 _ (by simp)
    case DOEPMSK => exact (h 0).2.2.2 _ (by simp)
    case HCINTMSK n => exact (h n).2.2.2 _ (by simp)
    case HCSPLT n => exact (h n).2.2.2 _ (by simp)
    all_goals exact BitVec.and_zero
  · intro h n
    refine ⟨h (.DIEPCTL n), h (.DOEPCTL n), ?_, ?_⟩
    · simp only [List.forall_mem_cons, List.not_mem_nil, false_imp_iff, implies_true, and_true, BitVec.and_assoc]
      exact ⟨h (.DIEPTSIZ n), h (.DOEPTSIZ n), h (.HCTSIZ n)⟩
    · simp only [List.forall_mem_cons, List.not_mem_nil, false_imp_iff, implies_true, and_true]
      exact ⟨h .DIEPMSK, h .DOEPMSK, h (.HCINTMSK n), h (.HCSPLT n)⟩

/-- A register may come to hold `v`: the bits that no run sets stay 0, and the mode bit stays. -/
structure State.MayHold (s : State) (r : Reg) (v : Word) : Prop where
  low : s.raw r &&& r.lowBits s.hw = 0 → v &&& r.lowBits s.hw = 0
  mode : r = .GINTSTS → bitOf v 0 = bitOf (s.raw r) 0

/-- What is kept from `s` to `t` whatever LINK does. -/
structure State.KeptData (s t : State) : Prop where
  hw : t.hw = s.hw
  canonical : s.canonical → t.canonical
  low : (∀ r, s.raw r &&& r.lowBits s.hw = 0) → ∀ r, t.raw r &&& r.lowBits t.hw = 0

/-- What is kept from `s` to `t`: the mode too, where nothing is scripted. -/
structure State.Kept (s t : State) : Prop extends s.KeptData t where
  mode : s.env = [] → t.env = [] ∧ t.hostMode = s.hostMode

theorem State.KeptData.trans {s t u : State} (k : s.KeptData t) (l : t.KeptData u) : s.KeptData u where
  hw := l.hw.trans k.hw
  canonical h := l.canonical (k.canonical h)
  low h := l.low (k.low h)

theorem State.Kept.refl (s : State) : s.Kept s := ⟨⟨rfl, id, id⟩, fun h => ⟨h, rfl⟩⟩

theorem State.Kept.trans {s t u : State} (k : s.Kept t) (l : t.Kept u) : s.Kept u where
  toKeptData := k.toKeptData.trans l.toKeptData
  mode h := ⟨(l.mode (k.mode h).1).1, (l.mode (k.mode h).1).2.trans (k.mode h).2⟩

/-- A change of other fields keeps everything. -/
theorem State.Kept.of_eq {s t : State} (hw : t.hw = s.hw) (hr : t.regs = s.regs) (hm : t.mem = s.mem) (hh : t.htog = s.htog)
    (he : t.env = s.env) : s.Kept t where
  hw := hw
  canonical h := by rwa [State.canonical, hm, hr, hh]
  low h r := by rw [State.raw_congr hr, hw]; exact h r
  mode h := ⟨he.trans h, State.hostMode_congr hr⟩

theorem State.keptData_setRaw {s : State} {r : Reg} {v : Word}
    (h : s.raw r &&& r.lowBits s.hw = 0 → v &&& r.lowBits s.hw = 0) : s.KeptData (s.setRaw r v) where
  hw := rfl
  canonical hc := ⟨hc.1, SMap.wf_put hc.2.1, hc.2.2⟩
  low hl q := by
    rw [State.raw_setRaw]
    split
    · next e =>
      rw [Reg.lowBits_offset _ e]
      exact h (hl r)
    · exact hl q

theorem State.kept_setRaw {s : State} {r : Reg} {v : Word} (h : s.MayHold r v) : s.Kept (s.setRaw r v) where
  toKeptData := State.keptData_setRaw h.low
  mode he := by
    refine ⟨he, ?_⟩
    rw [State.hostMode, State.raw_setRaw]
    split
    · next e =>
      by_cases hr : r = .DIEPTXF 0
      · rw [hr] at e
        cases e
      · have hg : r = .GINTSTS := (Reg.offset_inj (by simp) hr e).symm
        rw [h.mode hg, hg]
        rfl
    · rfl

/-! Register words that LINK and DMA give a register. -/

theorem State.mayHold_other {s : State} {r : Reg} (hl : r.lowBits s.hw = 0) (hg : r ≠ .GINTSTS) (v : Word) : s.MayHold r v :=
  ⟨fun _ => by rw [hl]; exact BitVec.and_zero, fun h => absurd h hg⟩

theorem State.mayHold_or {s : State} {r : Reg} {w : Word} (hl : w &&& r.lowBits s.hw = 0)
    (hg : r = .GINTSTS → bitOf w 0 = false) : s.MayHold r (s.raw r ||| w) where
  low h := by rw [BitVec.and_comm, BitVec.and_or_distrib_left, BitVec.and_comm, h, BitVec.and_comm, hl]; rfl
  mode h := by rw [bitOf_or, hg h, Bool.or_false]

theorem State.mayHold_and {s : State} {r : Reg} {m : Word} (hg : r = .GINTSTS → bitOf m 0 = true) :
    s.MayHold r (s.raw r &&& m) where
  low h := by rw [BitVec.and_comm (s.raw r), BitVec.and_assoc, h]; exact BitVec.and_zero
  mode h := by rw [bitOf_and, hg h, Bool.and_true]

theorem State.kept_note (s : State) (e : TraceEv) : s.Kept (s.note e) := .of_eq rfl rfl rfl rfl rfl

theorem State.kept_hwSet {s : State} {r : Reg} {v : Word} (h : s.MayHold r v) : s.Kept (s.hwSet r v) :=
  (State.kept_setRaw h).trans (State.kept_note _ _)

theorem State.kept_setBits {s : State} {r : Reg} {w : Word} (hl : w &&& r.lowBits s.hw = 0)
    (hg : r = .GINTSTS → bitOf w 0 = false) : s.Kept (s.setBits r w) :=
  State.kept_hwSet (State.mayHold_or hl hg)

theorem State.kept_clearBits {s : State} {r : Reg} {w : Word} (hg : r ≠ .GINTSTS) : s.Kept (s.clearBits r w) :=
  State.kept_hwSet (State.mayHold_and fun h => absurd h hg)

theorem State.kept_when {s : State} {c : Bool} {f : State → State} (h : c = true → s.Kept (f s)) : s.Kept (s.when c f) := by
  unfold State.when
  split
  · next hc => exact h hc
  · exact .refl s

/-! The registers of an endpoint or channel. -/

theorem ctlOf_ne (x : XRef) : ctlOf x ≠ .GINTSTS := by
  rcases x with ⟨n, d⟩ | c
  · cases d <;> simp [ctlOf, epCtl]
  · simp [ctlOf]

theorem sizOf_ne (x : XRef) : sizOf x ≠ .GINTSTS := by
  rcases x with ⟨n, d⟩ | c
  · cases d <;> simp [sizOf, epSiz]
  · simp [sizOf]

theorem epCtl_ne (e : EpRef) : epCtl e ≠ .GINTSTS := ctlOf_ne (.ep e)

theorem State.mayHold_int (s : State) (x : XRef) (v : Word) : s.MayHold (intOf x) v := by
  rcases x with ⟨n, d⟩ | c
  · cases d <;> exact State.mayHold_other rfl (by simp [intOf, epInt]) v
  · exact State.mayHold_other rfl (by simp [intOf]) v

theorem State.mayHold_dma (s : State) (x : XRef) (v : Word) : s.MayHold (dmaOf x) v := by
  rcases x with ⟨n, d⟩ | c
  · cases d <;> exact State.mayHold_other rfl (by simp [dmaOf, epDma]) v
  · exact State.mayHold_other rfl (by simp [dmaOf]) v

theorem epCtl_lowBits (hw : HwParams) (e : EpRef) : (epCtl e).lowBits hw = 0x3C000000 := by
  obtain ⟨n, d⟩ := e
  cases d <;> rfl

/-- The toggle of an endpoint is none of the bits that no run sets. -/
theorem State.mayHold_toggle (s : State) (e : EpRef) (b : Bool) : s.MayHold (epCtl e) (withBit (s.raw (epCtl e)) 16 b) where
  low h := by
    rw [epCtl_lowBits] at h ⊢
    refine (word_ext fun k hk => ?_).trans h
    rw [bitOf_and, bitOf_and, bitOf_withBit]
    split
    · next e => rw [e.2]; simp [bitOf]
    · rfl
  mode h := absurd h (epCtl_ne e)

theorem field_lt_two_pow_iff (w : Word) (lo len a : Nat) :
    field w lo len < 2 ^ a ↔ ∀ k < len, a ≤ k → bitOf w (lo + k) = false := by
  constructor
  · intro h k hk ha
    have hbit := Nat.testBit_lt_two_pow (Nat.lt_of_lt_of_le h (Nat.pow_le_pow_right (by decide) ha))
    simpa [testBit_field, hk] using hbit
  · intro h
    refine Nat.lt_pow_two_of_testBit _ fun k hk => ?_
    rw [testBit_field]
    by_cases hl : k < len
    · simp [h k hl hk]
    · simp [hl]

theorem bitOf_sizeMask (xw pw k : Nat) :
    bitOf (sizeMask xw pw) k = decide (k < min xw 19 ∨ 19 ≤ k ∧ k < 19 + min pw 10) := by
  rw [sizeMask, bitOf_or, bitOf_ones, bitOf_ones, ← Bool.decide_or]
  congr 1
  apply propext
  omega

/-- The bits below the action bits are the two numbers of a size register. -/
theorem bitOf_sizeBits {k : Nat} : bitOf (0x1FFFFFFF : Word) k = decide (k < 29) := by
  show bitOf (ones 0 29) k = _
  rw [bitOf_ones]
  congr 1
  apply propext
  omega

/-- The bits of XFERSIZE and PKTCNT that the hardware does not have are 0 where the two numbers fit. -/
theorem size_low_iff (w : Word) (xw pw : Nat) :
    w &&& (0x1FFFFFFF &&& ~~~(sizeMask xw pw)) = 0 ↔ field w 0 19 < 2 ^ min xw 19 ∧ field w 19 10 < 2 ^ min pw 10 := by
  have hbit : ∀ k < 32, bitOf (w &&& (0x1FFFFFFF &&& ~~~(sizeMask xw pw))) k =
      (bitOf w k && decide (k < 29 ∧ min xw 19 ≤ k ∧ ¬ (19 ≤ k ∧ k < 19 + min pw 10))) := by
    intro k hk
    rw [bitOf_and, bitOf_and, bitOf_not hk, bitOf_sizeMask, bitOf_sizeBits, ← decide_not, ← Bool.decide_and]
    congr 2
    apply propext
    omega
  rw [field_lt_two_pow_iff, field_lt_two_pow_iff]
  constructor
  · intro h
    have hz : ∀ k < 32, k < 29 ∧ min xw 19 ≤ k ∧ ¬ (19 ≤ k ∧ k < 19 + min pw 10) → bitOf w k = false := by
      intro k hk hc
      have := hbit k hk
      rw [h, decide_eq_true hc, Bool.and_true] at this
      exact this.symm.trans (bitOf_zero k)
    exact ⟨fun k hk ha => hz (0 + k) (by omega) (by omega), fun k hk ha => hz (19 + k) (by omega) (by omega)⟩
  · rintro ⟨h1, h2⟩
    refine word_ext fun k hk => (hbit k hk).trans ?_
    rw [show bitOf (0 : Word) k = false from bitOf_zero k]
    by_cases hc : k < 29 ∧ min xw 19 ≤ k ∧ ¬ (19 ≤ k ∧ k < 19 + min pw 10)
    · by_cases h19 : k < 19
      · rw [← Nat.zero_add k, h1 k h19 hc.2.1, Bool.false_and]
      · obtain ⟨j, rfl⟩ := Nat.exists_eq_add_of_le (Nat.le_of_not_lt h19)
        rw [h2 j (by omega) (by omega), Bool.false_and]
    · rw [decide_eq_false hc, Bool.and_false]

theorem size_lowBits_pid (m : Word) : (0x1FFFFFFF : Word) &&& ~~~(m ||| 0x60000000) = 0x1FFFFFFF &&& ~~~m := by
  refine word_ext fun k hk => ?_
  rw [bitOf_and, bitOf_and, bitOf_not hk, bitOf_not hk, bitOf_or, bitOf_sizeBits,
    show bitOf (0x60000000 : Word) k = bitOf (ones 29 2) k from rfl, bitOf_ones]
  by_cases h : k < 29
  · have : ¬ 29 ≤ k := by omega
    simp [this]
  · simp [h]

theorem sizOf_lowBits (hw : HwParams) (x : XRef) :
    ∃ xw pw, (sizOf x).lowBits hw = 0x1FFFFFFF &&& ~~~(sizeMask xw pw) := by
  rcases x with ⟨n, d⟩ | c
  · cases d
    · simp only [sizOf, epSiz, Reg.lowBits, rwMask]
      split
      · exact ⟨_, _, size_lowBits_pid _⟩
      · exact ⟨_, _, rfl⟩
    · simp only [sizOf, epSiz, Reg.lowBits, rwMask]
      split
      · exact ⟨_, _, size_lowBits_pid _⟩
      · exact ⟨_, _, size_lowBits_pid _⟩
  · exact ⟨_, _, size_lowBits_pid _⟩

/-- A size register may come to hold numbers that are not greater. -/
theorem State.mayHold_size {s : State} {x : XRef} {v : Word} (hs : field v 0 19 ≤ field (s.raw (sizOf x)) 0 19)
    (hp : field v 19 10 ≤ field (s.raw (sizOf x)) 19 10) : s.MayHold (sizOf x) v where
  low h := by
    obtain ⟨xw, pw, hl⟩ := sizOf_lowBits s.hw x
    rw [hl, size_low_iff] at h ⊢
    exact ⟨Nat.lt_of_le_of_lt hs h.1, Nat.lt_of_le_of_lt hp h.2⟩
  mode h := absurd h (sizOf_ne x)

theorem field_withField_sub_le (w : Word) (lo len n : Nat) (h : lo + len ≤ 32) :
    field (withField w lo len (field w lo len - n)) lo len ≤ field w lo len := by
  rw [field_withField_same _ _ h]
  exact Nat.le_trans (Nat.mod_le _ _) (Nat.sub_le _ _)

/-! The acts of LINK and DMA, in the order of their definitions (R204, R216, R254 to R256, R305, R361, R441). -/

theorem kept_linkSoftReset (s : State) : s.Kept (linkSoftReset s) := by
  refine State.kept_when fun _ => ⟨⟨rfl, fun h => ⟨h.1, ?_, h.2.2⟩, fun _ r => ?_⟩, fun h => ⟨h, ?_⟩⟩
  · exact SMap.wf_put (SMap.wf_put (SMap.wf_put rfl))
  · have hraw : r.lowBits s.hw ≠ 0 → SMap.get 0 s.resetRegs r.offset = 0 := by
      intro hr
      have hne : ∀ q : Reg, q.lowBits s.hw = 0 → r.offset ≠ q.offset := fun q hq e => hr ((Reg.lowBits_offset _ e).trans hq)
      rw [State.resetRegs, SMap.get_put_ne (hne _ rfl), SMap.get_put_ne (hne _ rfl), SMap.get_put_ne (hne _ rfl)]
      rfl
    by_cases hr : r.lowBits s.hw = 0
    · exact (congrArg _ hr).trans BitVec.and_zero
    · exact (congrArg (· &&& _) (hraw hr)).trans BitVec.zero_and
  · show bitOf (SMap.get 0 s.resetRegs (Reg.offset .GINTSTS)) 0 = bitOf (s.raw .GINTSTS) 0
    rw [State.resetRegs, SMap.get_put_same, bitOf_and]
    exact Bool.and_true _

theorem State.kept_flushTx (s : State) (n : Nat) : s.Kept (s.flushTx n) := by
  unfold State.flushTx
  split
  · exact .of_eq rfl rfl rfl rfl rfl
  · split
    · exact .of_eq rfl rfl rfl rfl rfl
    · exact .refl s

theorem kept_linkTxFlush (s : State) : s.Kept (linkTxFlush s) :=
  State.kept_when fun _ => (s.kept_flushTx _).trans (State.kept_clearBits (by simp))

theorem kept_linkRxFlush (s : State) : s.Kept (linkRxFlush s) :=
  State.kept_when fun _ => .trans (t := { s with fifo := { s.fifo with rxStatus := [], rxData := [] } })
    (.of_eq rfl rfl rfl rfl rfl) (State.kept_clearBits (by simp))

theorem State.kept_raise (s : State) (r : Reg) (k : Fin 32) : s.Kept (s.raise r k) := by
  refine State.kept_setBits ?_ fun h => ?_
  · have hz : ∀ r : Reg, r.lowBits s.hw = 0 ∨ w1cMask r = 0 := by
      intro r
      cases r <;> first | exact .inl rfl | exact .inr rfl
    rcases hz r with h | h
    · rw [h]; exact BitVec.and_zero
    · rw [h, show bit1 k.val &&& (0 : Word) = 0 from BitVec.and_zero]; exact BitVec.zero_and
  · rw [h, bitOf_and]
    exact Bool.and_false _

theorem State.kept_dropWalk (s : State) (x : XRef) : s.Kept (s.dropWalk x) := .of_eq rfl rfl rfl rfl rfl

theorem State.kept_dropRequests (s : State) (c : Fin 16) : s.Kept (s.dropRequests c) := .of_eq rfl rfl rfl rfl rfl

theorem State.kept_takeRequest (s : State) (c : Fin 16) : s.Kept (s.takeRequest c) := by
  rcases s.takeRequest_cases c with ⟨-, h⟩ | ⟨-, -, h⟩ | ⟨-, -, h⟩ <;> rw [h] <;> exact .of_eq rfl rfl rfl rfl rfl

theorem State.kept_endHw (s : State) (x : XRef) : s.Kept (s.endHw x) := by
  have hk : s.Kept ((s.clearBits (ctlOf x) 0x80000000).dropWalk x) :=
    (State.kept_clearBits (ctlOf_ne x)).trans (State.kept_dropWalk _ x)
  cases x with
  | ep e =>
    unfold State.endHw
    refine hk.trans (State.kept_when fun _ => State.kept_setBits ?_ fun h => absurd h (epCtl_ne e))
    rw [epCtl_lowBits]
    rfl
  | ch c => exact hk.trans (State.kept_dropRequests _ c)

theorem State.kept_disableHw (s : State) (x : XRef) : s.Kept (s.disableHw x) :=
  (State.kept_clearBits (ctlOf_ne x)).trans (State.kept_endHw _ x)

theorem State.kept_stopHw (s : State) (x : XRef) : s.Kept (s.stopHw x) := by
  cases x with
  | ep e => exact s.kept_endHw (.ep e)
  | ch c => exact s.kept_disableHw (.ch c)

theorem State.kept_queueStatus (s : State) (n : Fin 16) (b : Nat) (d : BitVec 2) (c : Nat) : s.Kept (s.queueStatus n b d c) :=
  .of_eq rfl rfl rfl rfl rfl

theorem State.kept_queueData (s : State) (bs : List Byte) : s.Kept (s.queueData bs) := .of_eq rfl rfl rfl rfl rfl

theorem State.kept_setInt (s : State) (x : XRef) (w : Word) : s.Kept (s.setBits (intOf x) w) :=
  State.kept_hwSet (s.mayHold_int x _)

theorem State.kept_post (s : State) (x : XRef) (w : Word) : s.Kept (s.post (intOf x) w) := by
  unfold State.post
  split
  · exact .of_eq rfl rfl rfl rfl rfl
  · exact s.kept_setInt x w

theorem State.kept_finishHw (s : State) (x : XRef) : s.Kept (s.finishHw x) := by
  cases x <;> exact (s.kept_stopHw _).trans (State.kept_post _ _ _)

theorem State.kept_finishRx (s : State) (x : XRef) : s.Kept (s.finishRx x) := by
  unfold State.finishRx
  split
  · cases x <;> exact (s.kept_stopHw _).trans (State.kept_queueStatus _ _ _ _ _)
  · exact s.kept_finishHw x

theorem State.kept_flipToggle (s : State) (x : XRef) : s.Kept (s.flipToggle x) := by
  cases x with
  | ep e =>
    simp only [State.flipToggle]
    split
    · exact .refl s
    · exact State.kept_hwSet (s.mayHold_toggle e _)
  | ch c =>
    refine State.kept_hwSet (State.mayHold_size (x := .ch c) ?_ ?_) <;>
      exact Nat.le_of_eq (field_withField_other _ _ (by omega))

theorem State.kept_countSize (s : State) (x : XRef) (n : Nat) : s.Kept (s.countSize x n) := by
  refine State.kept_hwSet (State.mayHold_size ?_ ?_)
  · rw [field_withField_other _ _ (by omega)]
    exact field_withField_sub_le _ 0 19 n (by omega)
  · rw [field_withField_same _ _ (by omega)]
    exact Nat.le_trans (Nat.mod_le _ _) (Nat.sub_le _ _)

theorem State.kept_countPacket (s : State) (x : XRef) (n : Nat) : s.Kept (s.countPacket x n) :=
  (s.kept_countSize x n).trans (State.kept_flipToggle _ x)

theorem State.kept_advanceDma (s : State) (x : XRef) (n : Nat) : s.Kept (s.advanceDma x n) :=
  State.kept_hwSet (s.mayHold_dma x _)

theorem State.kept_popTx (s : State) (x : XRef) (n : Nat) : s.Kept (s.popTx x n) := by
  unfold State.popTx
  split
  · exact .of_eq rfl rfl rfl rfl rfl
  · split <;> exact .of_eq rfl rfl rfl rfl rfl

theorem State.kept_setBytes (s : State) (a : Word) (bs : List Byte) : s.Kept (s.setBytes a bs) where
  hw := by rw [State.setBytes_only]
  canonical h := ⟨State.setBytes_wf bs a h.1, by rw [State.setBytes_only]; exact h.2⟩
  low h := by rw [State.setBytes_only]; exact h
  mode h := by rw [State.setBytes_only]; exact ⟨h, rfl⟩

theorem State.kept_dmaPut (s : State) (al : Nat) (base a : Word) (bs : List Byte) : s.Kept (s.dmaPut al base a bs) := by
  obtain ⟨cs, n, -, e⟩ := s.dmaPut_cases al base a bs
  rw [e]
  exact .trans (t := s.drawn n) (.of_eq rfl rfl rfl rfl rfl) ((State.kept_setBytes _ _ _).trans (State.kept_note _ _))

theorem State.kept_dmaRead (s : State) (base a : Word) (n : Nat) : s.Kept (s.dmaRead base a n).2 := by
  unfold State.dmaRead
  split
  · exact .refl s
  · exact .of_eq rfl rfl rfl rfl rfl

theorem State.kept_putOut (s : State) (x : XRef) : s.Kept (s.putOut x) := by
  refine State.Kept.trans ?_ (State.kept_note _ _)
  unfold State.txRead
  split
  · exact .refl s
  · exact s.kept_dmaRead _ _ _

theorem State.kept_consumeTx (s : State) (x : XRef) (n : Nat) : s.Kept (s.consumeTx x n) := by
  unfold State.consumeTx
  split
  · exact s.kept_popTx x _
  · exact s.kept_advanceDma x n

theorem State.kept_sendOut (s : State) (x : XRef) : s.Kept (s.sendOut x) := (s.kept_putOut x).trans (State.kept_consumeTx _ x _)

theorem State.kept_sent (s : State) (x : XRef) : s.Kept (s.sent x) := by
  unfold State.sent
  exact ((s.kept_sendOut x).trans (State.kept_countPacket _ x _)).trans (State.kept_when fun _ => State.kept_finishHw _ x)

theorem State.kept_storeRx (s : State) (x : XRef) (n : Fin 16) (d : BitVec 2) (bs : List Byte) : s.Kept (s.storeRx x n d bs) := by
  unfold State.storeRx
  refine (s.kept_note (.busRx x bs)).trans ?_
  dsimp only
  split
  · exact (State.kept_queueStatus _ _ _ _ _).trans (State.kept_queueData _ _)
  · exact (State.kept_dmaPut _ _ _ _ _).trans (State.kept_advanceDma _ x _)

theorem State.kept_received (s : State) (x : XRef) (n : Fin 16) (d : BitVec 2) (bs : List Byte) : s.Kept (s.received x n d bs) := by
  unfold State.received
  exact ((s.kept_storeRx x n d bs).trans (State.kept_countPacket _ x _)).trans (State.kept_when fun _ => State.kept_finishRx _ x)

theorem kept_linkInToken (n : Fin 16) (b c : Bool) (s : State) : s.Kept (linkInToken n b c s) := by
  unfold linkInToken
  refine State.kept_when fun _ => ?_
  split
  · exact s.kept_sent _
  · split
    · exact s.kept_sendOut _
    · exact s.kept_putOut _

theorem kept_linkOutPacket (n : Fin 16) (d : BitVec 2) (bs : List Byte) (s : State) : s.Kept (linkOutPacket n d bs s) := by
  unfold linkOutPacket
  refine State.kept_when fun _ => ?_
  split
  · exact s.kept_setInt (.ep ⟨n, .OUT⟩) _
  · split
    · exact s.kept_received _ _ _ _
    · exact s.kept_setInt (.ep ⟨n, .OUT⟩) _

theorem State.kept_afterFetch (s : State) (x : XRef) : s.Kept (s.afterFetch x) :=
  State.kept_when fun _ => .of_eq rfl rfl rfl rfl rfl

theorem State.kept_putStatus (s : State) (x : XRef) (w : Word) : s.Kept (s.putStatus x w) := s.kept_dmaPut _ _ _ _

theorem State.kept_depositSetup (s : State) (p : SetupPkt) : s.Kept (s.depositSetup p) := s.kept_dmaPut _ _ _ _

theorem State.kept_countSetup (s : State) (n : Fin 16) (b : Bool) : s.Kept (s.countSetup n b) :=
  State.kept_when fun _ => s.kept_countSize _ _

theorem State.kept_setupStops (s : State) (p : SetupPkt) (b : Bool) : s.Kept (s.setupStops p b) := by
  unfold State.setupStops
  refine ((((s.kept_countSetup 0 b).trans (State.kept_stopHw _ _)).trans (State.kept_clearBits ?_)).trans
    (State.kept_clearBits ?_)).trans (State.kept_note _ _) <;> simp

theorem State.kept_setupToFifo (s : State) (p : SetupPkt) : s.Kept (s.setupToFifo p) :=
  ((s.kept_queueStatus _ _ _ _).trans (State.kept_queueData _ _)).trans (State.kept_queueStatus _ _ _ _ _)

theorem State.kept_unstall (s : State) (e : EpRef) : s.Kept (s.unstall e) :=
  State.kept_when fun _ => State.kept_clearBits (epCtl_ne e)

theorem State.kept_setupToBuffer (s : State) (p : SetupPkt) : s.Kept (s.setupToBuffer p) :=
  ((s.kept_depositSetup p).trans (State.kept_when fun _ => State.kept_advanceDma _ _ _)).trans
    (State.kept_setInt _ (.ep ⟨0, .OUT⟩) _)

theorem State.kept_setupToChain (s : State) (p : SetupPkt) (w : Walk) : s.Kept (s.setupToChain p w) := by
  unfold State.setupToChain
  refine ((s.kept_depositSetup p).trans (State.kept_when fun _ => ?_)).trans (State.kept_setInt _ (.ep ⟨0, .OUT⟩) _)
  exact State.kept_putStatus _ _ _

theorem kept_linkSetupPacket (p : SetupPkt) (b : Bool) (s : State) : s.Kept (linkSetupPacket p b s) := by
  unfold linkSetupPacket
  refine State.kept_when fun _ => ?_
  split
  · exact (s.kept_setupStops p b).trans (State.kept_setupToFifo _ p)
  · split
    · split
      · exact ((s.kept_afterFetch _).trans (State.kept_setupStops _ p b)).trans (State.kept_setupToChain _ p _)
      · exact ((s.kept_afterFetch _).trans (State.kept_stopHw _ _)).trans (State.kept_setInt _ (.ep ⟨0, .OUT⟩) _)
    · exact (s.kept_setupStops p b).trans (State.kept_setupToBuffer _ p)

theorem kept_linkSetupOther (n : Fin 16) (p : SetupPkt) (b : Bool) (s : State) : s.Kept (linkSetupOther n p b s) := by
  unfold linkSetupOther
  refine State.kept_when fun _ => ?_
  have hk := (((s.kept_countSetup n b).trans (State.kept_unstall _ ⟨n, .OUT⟩)).trans (State.kept_unstall _ ⟨n, .IN⟩)).trans
    (State.kept_note _ (.busRx (.ep ⟨n, .OUT⟩) (setupBytes p)))
  dsimp only
  split
  · exact ((hk.trans (State.kept_queueStatus _ _ _ _ _)).trans (State.kept_queueData _ _)).trans
      (State.kept_queueStatus _ _ _ _ _)
  · exact (hk.trans (State.kept_depositSetup _ p)).trans (State.kept_setInt _ (.ep ⟨n, .OUT⟩) _)

theorem State.kept_raiseOut (s : State) (n : Fin 16) (k : Fin 32) : s.Kept (s.raiseOut n k) :=
  State.Kept.trans (State.kept_when fun _ => (s.kept_unstall _).trans (State.kept_unstall _ _)) (State.kept_raise _ _ _)

theorem kept_linkEndpointDisabled (e : EpRef) (s : State) : s.Kept (linkEndpointDisabled e s) :=
  State.kept_when fun _ => (s.kept_disableHw _).trans (State.kept_setInt _ (.ep e) _)

theorem kept_linkChannelDisabled (c : Fin 16) (s : State) : s.Kept (linkChannelDisabled c s) := by
  unfold linkChannelDisabled
  refine State.kept_when fun _ => ?_
  split
  · exact (s.kept_disableHw _).trans (State.kept_queueStatus _ _ _ _ _)
  · exact (s.kept_disableHw _).trans (State.kept_setInt _ (.ch c) _)

theorem kept_linkTakeRequest (c : Fin 16) (b : Bool) (s : State) : s.Kept (linkTakeRequest c b s) := by
  obtain ⟨q, r, l, e⟩ := linkTakeRequest_only c b s
  rw [e]
  exact .of_eq rfl rfl rfl rfl rfl

theorem State.kept_outcome (s : State) (c : Fin 16) (w : Word) (b : Bool) : s.Kept (s.outcome c w b) := by
  unfold State.outcome
  split
  · exact (s.kept_stopHw _).trans (State.kept_post _ (.ch c) _)
  · exact s.kept_post (.ch c) _

theorem State.kept_sentAcked (s : State) (c : Fin 16) : s.Kept (s.sentAcked c) := by
  unfold State.sentAcked
  refine ((s.kept_sendOut (.ch c)).trans (State.kept_countPacket _ (.ch c) (s.nextTx (.ch c)))).trans ?_
  dsimp only
  split
  · split
    · exact (State.kept_endHw _ _).trans (State.kept_post _ (.ch c) _)
    · exact (State.kept_stopHw _ _).trans (State.kept_post _ (.ch c) _)
  · exact State.kept_outcome _ _ _ _

theorem State.kept_bna (s : State) (x : XRef) : s.Kept (s.bna x) := by
  cases x with
  | ep e => exact (s.kept_stopHw _).trans (State.kept_setInt _ (.ep e) _)
  | ch c => exact (s.kept_stopHw _).trans (State.kept_post _ (.ch c) _)

theorem State.kept_onDesc (s : State) (x : XRef) {f : Walk → State → State} (h : ∀ w, ∀ t : State, t.Kept (f w t)) :
    s.Kept (s.onDesc x f) := by
  unfold State.onDesc
  split
  · exact (s.kept_afterFetch x).trans (h _ _)
  · exact (s.kept_afterFetch x).trans (State.kept_bna _ x)

theorem State.kept_keepWalk (s : State) (w : Walk) : s.Kept (s.keepWalk w) := .of_eq rfl rfl rfl rfl rfl

theorem State.kept_writeBack (s : State) (x : XRef) (w : Word) (b : Bool) : s.Kept (s.writeBack x w b) := by
  unfold State.writeBack
  refine ((s.kept_putStatus x (withField w 30 2 2)).trans (State.kept_dropWalk _ x)).trans ?_
  split
  · exact State.kept_finishHw _ x
  · exact (State.kept_when fun _ => State.kept_post _ x _).trans (State.kept_hwSet (State.mayHold_dma _ x _))

theorem kept_dmaBusy (x : XRef) (s : State) : s.Kept (Machine.dmaBusy x s) :=
  State.kept_when fun _ => s.kept_onDesc x fun w t => (t.kept_putStatus x _).trans (State.kept_keepWalk _ w)

theorem State.kept_packetMoved (s : State) (w : Walk) (n : Nat) (b : Bool) : s.Kept (s.packetMoved w n b) := by
  unfold State.packetMoved
  refine (s.kept_flipToggle w.x).trans ?_
  dsimp only
  split
  · exact State.kept_writeBack _ _ _ _
  · exact State.kept_keepWalk _ _

theorem State.kept_busError (s : State) (w : Walk) : s.Kept (s.busError w) := s.kept_writeBack _ _ _

theorem State.kept_ackMoved (s : State) (x : XRef) (b : Bool) : s.Kept (s.ackMoved x b) := by
  cases x with
  | ep e => exact .refl s
  | ch c =>
    unfold State.ackMoved
    exact State.kept_when fun _ => s.kept_outcome _ _ _

theorem State.kept_descOut (s : State) (x : XRef) (a : Word) (k n : Nat) : s.Kept (s.descOut x a k n) :=
  (s.kept_dmaRead _ _ _).trans (State.kept_note _ _)

theorem State.kept_descIn (s : State) (x : XRef) (a : Word) (k : Nat) (bs : List Byte) : s.Kept (s.descIn x a k bs) :=
  (s.kept_note _).trans (State.kept_dmaPut _ _ _ _ _)

theorem State.kept_descSent (s : State) (x : XRef) (w : Walk) : s.Kept (s.descSent x w) := by
  unfold State.descSent
  dsimp only
  split
  · exact (s.kept_note _).trans (State.kept_packetMoved _ _ _ _)
  · exact (s.kept_descOut _ _ _ _).trans (State.kept_packetMoved _ _ _ _)

theorem kept_dmaSend (x : XRef) (b e : Bool) (s : State) : s.Kept (dmaSend x b e s) := by
  refine State.kept_when fun _ => s.kept_onDesc x fun w t => ?_
  split
  · exact t.kept_busError w
  · exact (t.kept_descSent x w).trans (State.kept_ackMoved _ x b)

theorem kept_dmaStore (x : XRef) (bs : List Byte) (b e : Bool) (s : State) : s.Kept (dmaStore x bs b e s) := by
  refine State.kept_when fun _ => s.kept_onDesc x fun w t => ?_
  dsimp only
  split
  · exact t.kept_busError w
  · split
    · cases x with
      | ep e => exact t.kept_setInt (.ep e) _
      | ch c => exact t.kept_outcome _ _ _
    · exact ((t.kept_descIn x _ _ _).trans (State.kept_packetMoved _ _ _ _)).trans (State.kept_ackMoved _ x b)

theorem State.kept_startSplitAcked (s : State) (c : Fin 16) : s.Kept (s.startSplitAcked c) := by
  unfold State.startSplitAcked
  dsimp only
  split
  · exact s.kept_onDesc _ fun w t =>
      ((t.kept_descOut _ _ _ _).trans (State.kept_putStatus _ _ _)).trans (State.kept_outcome _ _ _ _)
  · exact (State.kept_when fun _ => s.kept_sendOut _).trans (State.kept_outcome _ _ _ _)

theorem State.kept_unacked (s : State) (c : Fin 16) (b : Bool) : s.Kept (s.unacked c b) :=
  State.kept_when fun _ => s.kept_sendOut _

theorem State.kept_failed (s : State) (c : Fin 16) (h : Handshake) : s.Kept (s.failed c h) := by
  cases h
  case ack => exact .refl s
  all_goals exact s.kept_outcome _ _ _

theorem kept_linkHandshake (c : Fin 16) (h : Handshake) (b : Bool) (s : State) : s.Kept (linkHandshake c h b s) := by
  unfold linkHandshake
  refine State.kept_when fun _ => ?_
  dsimp only
  split
  · split
    · exact (s.kept_takeRequest c).trans (State.kept_startSplitAcked _ c)
    · split
      · exact kept_dmaSend _ _ _ s
      · exact State.kept_when fun _ => (s.kept_takeRequest c).trans (State.kept_sentAcked _ c)
  · exact ((s.kept_takeRequest c).trans (State.kept_unacked _ c b)).trans (State.kept_failed _ c h)

theorem kept_linkInDirect (c : Fin 16) (d : BitVec 2) (b : Bool) (bs : List Byte) (s : State) :
    s.Kept (linkInDirect c d b bs s) := by
  unfold linkInDirect
  refine State.kept_when fun _ => (s.kept_takeRequest c).trans ?_
  dsimp only
  split
  · exact State.kept_outcome _ _ _ _
  · have hk : ∀ t : State, t.Kept ((t.when b fun s => s.post (.HCINT c) 0x20).received (.ch c) c d bs) := fun t =>
      (State.kept_when fun _ => t.kept_post (.ch c) _).trans (State.kept_received _ _ _ _ _)
    split
    · exact (hk _).trans ((State.kept_stopHw _ _).trans (State.kept_post _ (.ch c) _))
    · exact hk _

theorem kept_linkInData (c : Fin 16) (d : BitVec 2) (b : Bool) (bs : List Byte) (s : State) :
    s.Kept (linkInData c d b bs s) := by
  unfold linkInData
  split
  · exact kept_dmaStore _ _ _ _ s
  · exact kept_linkInDirect _ _ _ _ s

theorem State.kept_countSlot (s : State) (x : XRef) : s.Kept (s.countSlot x) := by
  unfold State.countSlot
  split
  · next n =>
    refine State.kept_hwSet (State.mayHold_size (x := .ep ⟨n, .OUT⟩) ?_ ?_)
    · exact Nat.le_of_eq (field_withField_other _ _ (by omega))
    · exact field_withField_sub_le _ 19 10 1 (by omega)
  · exact .refl s
  · exact .refl s

theorem State.kept_slotLost (s : State) (x : XRef) (w : Walk) (e : Bool) : s.Kept (s.slotLost x w e) :=
  (s.kept_countSlot x).trans (State.kept_writeBack _ _ _ _)

theorem kept_isoServed (x : XRef) (p : BitVec 2) (bs : List Byte) (s : State) : s.Kept (isoServed x p bs s) := by
  refine State.kept_when fun _ => s.kept_onDesc x fun w t => State.kept_when fun _ => ?_
  split
  · exact ((t.kept_descOut _ _ _ _).trans (State.kept_countSlot _ x)).trans (State.kept_writeBack _ _ _ _)
  · split
    · exact t.kept_slotLost x w false
    · exact ((t.kept_descIn _ _ _ _).trans (State.kept_countSlot _ x)).trans (State.kept_writeBack _ _ _ _)

theorem kept_isoMissed (x : XRef) (e : Bool) (s : State) : s.Kept (isoMissed x e s) :=
  State.kept_when fun _ => s.kept_onDesc x fun w t => State.kept_when fun _ => t.kept_slotLost x w e

/-- Events of the top level that LINK sets are not the mode bit. -/
theorem State.kept_setTop (s : State) {w : Word} (h : bitOf w 0 = false) : s.Kept (s.setBits .GINTSTS w) :=
  State.kept_setBits BitVec.and_zero fun _ => h

theorem kept_isoDropStop (n : Fin 16) (s : State) : s.Kept (isoDropStop n s) := by
  unfold isoDropStop
  refine State.kept_when fun _ => ?_
  split
  · exact (s.kept_afterFetch _).trans (State.kept_when fun _ => (State.kept_stopHw _ _).trans (State.kept_setTop _ rfl))
  · exact s.kept_afterFetch _

theorem kept_linkBusReset (s : State) : s.Kept (linkBusReset s) :=
  State.kept_when fun _ => (State.kept_when fun _ => s.kept_stopHw _).trans (State.kept_setTop _ rfl)

theorem kept_linkFrame (s : State) : s.Kept (linkFrame s) := by
  unfold linkFrame
  split <;> exact State.kept_hwSet (State.mayHold_other rfl (by simp) _)

theorem kept_linkReserved (n : Fin 16) (b : BitVec 11) (d : BitVec 2) (c : BitVec 4) (s : State) :
    s.Kept (linkReserved n b d c s) := State.kept_when fun _ => s.kept_queueStatus _ _ _ _

theorem State.kept_setByte (s : State) (a : Word) (b : Byte) : s.Kept (s.setByte a b) where
  hw := rfl
  canonical h := ⟨State.setByte_wf a b h.1, h.2⟩
  low := id
  mode h := ⟨h, rfl⟩

/-- Only the connector changes the mode bit (R30). -/
theorem kept_envAct {a : EnvAct} (s : State) (h : ∀ b, a ≠ .curmod b) : s.Kept (envAct a s) := by
  cases a <;> unfold envAct
  case softResetDone => exact kept_linkSoftReset s
  case txFlushDone => exact kept_linkTxFlush s
  case rxFlushDone => exact kept_linkRxFlush s
  case curmod b => exact absurd rfl (h b)
  case raiseTop k => exact s.kept_raise _ k
  case raiseOtg k => exact s.kept_raise _ k
  case raiseIn n k => exact State.kept_when fun _ => s.kept_raise _ k
  case raiseOut n k => exact State.kept_when fun _ => s.kept_raiseOut n k
  case raiseCh c k => exact State.kept_when fun _ => s.kept_raise _ k
  case frameTick => exact kept_linkFrame s
  case endpointDisabled e => exact kept_linkEndpointDisabled e s
  case channelDisabled c => exact kept_linkChannelDisabled c s
  case inToken n a t => exact kept_linkInToken n a t s
  case outPacket n d bs => exact kept_linkOutPacket n d bs s
  case setupPacket n p b =>
    dsimp only
    split
    · exact kept_linkSetupPacket p b s
    · exact kept_linkSetupOther n p b s
  case takeRequest c b => exact kept_linkTakeRequest c b s
  case chHandshake c a b => exact kept_linkHandshake c a b s
  case chInData c d a bs => exact kept_linkInData c d a bs s
  case dmaBusy x => exact kept_dmaBusy x s
  case dmaTx x e => exact kept_dmaSend x false e s
  case dmaRx x bs e => exact kept_dmaStore x bs false e s
  case isoServed x p bs => exact kept_isoServed x p bs s
  case isoMissed x e => exact kept_isoMissed x e s
  case isoDropStop n => exact kept_isoDropStop n s
  case rxReserved n k d c => exact kept_linkReserved n k d c s
  case memWrite a b => exact State.kept_when fun _ => s.kept_setByte a b
  case hold b => exact .of_eq rfl rfl rfl rfl rfl
  case deliver r k =>
    have hk : s.Kept { s with owed := s.owed.erase (r, k) } := .of_eq rfl rfl rfl rfl rfl
    exact State.kept_when fun _ => hk.trans (State.kept_raise _ r k)
  case busReset => exact kept_linkBusReset s
  all_goals exact State.kept_hwSet (State.mayHold_other rfl (by simp) _)

theorem keptData_envAct (a : EnvAct) (s : State) : s.KeptData (envAct a s) := by
  by_cases h : ∃ b, a = .curmod b
  · obtain ⟨b, rfl⟩ := h
    exact (State.keptData_setRaw fun _ => BitVec.and_zero).trans (State.kept_note _ _).toKeptData
  · exact (kept_envAct s fun b hb => h ⟨b, hb⟩).toKeptData

theorem keptData_envActs (l : List EnvAct) (s : State) : s.KeptData (envActs l s) := by
  induction l generalizing s with
  | nil => exact (State.Kept.refl s).toKeptData
  | cons a l ih => exact (keptData_envAct a s).trans (ih _)

theorem State.kept_takeSlot (s : State) : s.Kept s.takeSlot := by
  unfold State.takeSlot
  split
  · exact .refl s
  · next slot rest he =>
    have hd : s.KeptData { s with env := rest } := ⟨rfl, id, id⟩
    exact ⟨hd.trans (keptData_envActs _ _), fun h => absurd (he.symm.trans h) (List.cons_ne_nil _ _)⟩

theorem kept_promptActs (s : State) : s.Kept (promptActs s) :=
  (((kept_linkSoftReset s).trans (kept_linkTxFlush _)).trans (kept_linkRxFlush _)).trans (kept_linkEndpointDisabled _ _)

theorem State.kept_tick (s : State) : s.Kept s.tick :=
  s.kept_takeSlot.trans (State.kept_when fun _ => kept_promptActs _)

/-! Accesses of the sequencer. -/

theorem State.kept_afterPop (s : State) (w : Word) : s.Kept (s.afterPop w) := by
  unfold State.afterPop
  dsimp only
  repeat' split
  · exact s.kept_post (.ch _) _
  · exact s.kept_post (.ch _) _
  · exact .refl s
  · exact .refl s
  · exact s.kept_post (.ep ⟨_, .OUT⟩) _
  · exact s.kept_post (.ep ⟨_, .OUT⟩) _
  · exact .refl s
  · exact .refl s

theorem State.kept_readReg (s : State) (r : Reg) : s.Kept (s.readReg r).2 := by
  unfold State.readReg
  split
  · exact .of_eq rfl rfl rfl rfl rfl
  · split
    · split
      · exact .refl s
      · exact .of_eq rfl rfl rfl rfl rfl
    · split
      · next ws _ =>
        have hk : s.Kept { s with fifo := { s.fifo with rxStatus := ws } } := .of_eq rfl rfl rfl rfl rfl
        exact hk.trans (State.kept_afterPop _ _)
      · exact .of_eq rfl rfl rfl rfl rfl
    · split <;> exact .of_eq rfl rfl rfl rfl rfl
    · exact .refl s

/-- The bits that no run sets are none that a write sets (R23). -/
theorem Reg.lowBits_write (hw : HwParams) (r : Reg) :
    rwMask hw r &&& r.lowBits hw = 0 ∧ w1sMask r &&& r.lowBits hw = 0 := by
  have hself : ∀ v : Word, v &&& ~~~v = 0 := fun v => by simp
  have hsize : ∀ v : Word, v &&& (0x1FFFFFFF &&& ~~~v) = 0 := fun v => by
    rw [← BitVec.and_assoc, BitVec.and_comm v, BitVec.and_assoc, hself]
    exact BitVec.and_zero
  cases r
  case DIEPTSIZ n | DOEPTSIZ n | HCTSIZ n => exact ⟨hsize _, BitVec.zero_and⟩
  case DIEPMSK | DOEPMSK | HCINTMSK n | HCSPLT n => exact ⟨hself _, BitVec.zero_and⟩
  case DIEPCTL n | DOEPCTL n => exact ⟨by simp [rwMask, Reg.lowBits], by simp [w1sMask, Reg.lowBits]⟩
  all_goals exact ⟨BitVec.and_zero, BitVec.and_zero⟩

theorem State.stored_low {s : State} {r : Reg} (v : Word) (h : s.raw r &&& r.lowBits s.hw = 0) :
    s.stored r v &&& r.lowBits s.hw = 0 := by
  obtain ⟨hrw, hset⟩ := Reg.lowBits_write s.hw r
  refine word_ext fun k hk => ?_
  have hbit : ∀ {w : Word}, w &&& r.lowBits s.hw = 0 → bitOf (r.lowBits s.hw) k = true → bitOf w k = false := by
    intro w hw hl
    have := congrArg (bitOf · k) hw
    simpa [hl] using this
  rw [bitOf_and, State.stored, bitOf_writeWord hk]
  cases hl : bitOf (r.lowBits s.hw) k with
  | false => simp
  | true => simp [hbit h hl, hbit hrw hl, hbit hset hl]

theorem State.mayHold_stored (s : State) (r : Reg) (v : Word) : s.MayHold r (s.stored r v) where
  low := State.stored_low v
  mode h := by
    subst h
    exact bitOf_writeWord_keep (by simp [rwMask, bitOf]) (by simp [w1cMask, bitOf]) (by simp [w1sMask, bitOf])

/-- The actions of a written control word concern NAKSTS and DPID alone (R49). -/
theorem bitOf_endpointActions (v w : Word) {k : Nat} (h16 : k ≠ 16) (h17 : k ≠ 17) :
    bitOf (endpointActions v w) k = bitOf w k := by
  have hset : ∀ (u : Word) (c : Bool), bitOf (if c then withBit u 17 false else u) k = bitOf u k ∧
      bitOf (if c then withBit u 17 true else u) k = bitOf u k ∧ bitOf (if c then withBit u 16 false else u) k = bitOf u k ∧
      bitOf (if c then withBit u 16 true else u) k = bitOf u k := by
    intro u c
    cases c <;> simp [bitOf_withBit, h16, h17]
  unfold endpointActions
  dsimp only
  rw [(hset _ _).2.2.2, (hset _ _).2.2.1, (hset _ _).2.1, (hset _ _).1]

theorem State.mayHold_actions (s : State) (e : EpRef) (v : Word) :
    s.MayHold (epCtl e) (endpointActions v (s.stored (epCtl e) v)) where
  low h := by
    have hs := State.stored_low v h
    rw [epCtl_lowBits] at hs ⊢
    refine (word_ext fun k hk => ?_).trans hs
    rw [bitOf_and, bitOf_and]
    by_cases h16 : k = 16
    · subst h16; simp [bitOf]
    · by_cases h17 : k = 17
      · subst h17; simp [bitOf]
      · rw [bitOf_endpointActions _ _ h16 h17]
  mode h := absurd h (epCtl_ne e)

theorem State.kept_writeReg (s : State) (r : Reg) (v : Word) : s.Kept (s.writeReg r v) := by
  cases r
  case DIEPCTL n => exact State.kept_setRaw (s.mayHold_actions ⟨n, .IN⟩ v)
  case DOEPCTL n => exact State.kept_setRaw (s.mayHold_actions ⟨n, .OUT⟩ v)
  case HCCHAR c =>
    have hk : s.Kept (s.setRaw (.HCCHAR c) (s.stored (.HCCHAR c) v)) := State.kept_setRaw (s.mayHold_stored _ v)
    have ha : ∀ t : State, t.Kept (t.addRequest c v) := by
      intro t
      unfold State.addRequest
      split <;> exact .of_eq rfl rfl rfl rfl rfl
    simp only [State.writeReg]
    split
    · exact hk.trans (ha _)
    · exact hk
  case FIFO n =>
    simp only [State.writeReg, State.pushFifo]
    repeat' split
    all_goals exact .of_eq rfl rfl rfl rfl rfl
  all_goals exact State.kept_setRaw (s.mayHold_stored _ v)

end Sys2Proof.Machine

/-! PROOF. Every procedure of the sequencer keeps what `State.Kept` says, and so does every step (R9, R20, R23, R30). -/

namespace Sys2Proof.Machine

open Sys2Proof

/-- What a procedure keeps from `s` to `t`: while nothing is scripted and LINK is not prompt, the context too (R471). -/
structure State.Held (s t : State) : Prop extends s.Kept t where
  quiet : s.env = [] → s.prompt = false → t.prompt = false ∧ t.ctx = s.ctx

theorem State.Held.refl (s : State) : s.Held s := ⟨.refl s, fun _ hp => ⟨hp, rfl⟩⟩

theorem State.Held.trans {s t u : State} (k : s.Held t) (l : t.Held u) : s.Held u where
  toKept := k.toKept.trans l.toKept
  quiet he hp := by
    obtain ⟨hp', hc⟩ := k.quiet he hp
    obtain ⟨hp'', hc'⟩ := l.quiet (k.mode he).1 hp'
    exact ⟨hp'', hc'.trans hc⟩

theorem State.Held.of {s t : State} (k : s.Kept t) (hp : t.prompt = s.prompt) (hc : t.ctx = s.ctx) : s.Held t :=
  ⟨k, fun _ h => ⟨hp.trans h, hc⟩⟩

/-- A change of other fields keeps everything. -/
theorem State.Held.of_eq {s t : State} (hw : t.hw = s.hw) (hr : t.regs = s.regs) (hm : t.mem = s.mem) (hh : t.htog = s.htog)
    (he : t.env = s.env) (hp : t.prompt = s.prompt) (hc : t.ctx = s.ctx) : s.Held t := .of (.of_eq hw hr hm hh he) hp hc

/-- The context apart, the same is kept. -/
theorem State.Held.recontext {s t : State} {c : Ctx} (k : (s.inCtx c).Held t) (d : Ctx) : (s.inCtx d).Held (t.inCtx d) where
  hw := k.hw
  canonical := k.canonical
  low := k.low
  mode := k.mode
  quiet he hp := ⟨(k.quiet he hp).1, rfl⟩

theorem State.held_note (s : State) (e : TraceEv) : s.Held (s.note e) := .of_eq rfl rfl rfl rfl rfl rfl rfl

theorem State.held_tick (s : State) : s.Held s.tick :=
  ⟨s.kept_tick, fun he hp => by rw [tick_silent he hp]; exact ⟨hp, rfl⟩⟩

theorem State.held_readReg (s : State) (r : Reg) : s.Held (s.readReg r).2 := .of (s.kept_readReg r) (by simp) (by simp)

theorem State.held_writeReg (s : State) (r : Reg) (v : Word) : s.Held (s.writeReg r v) :=
  .of (s.kept_writeReg r v) (by simp) (by simp)

theorem State.held_setBytes (s : State) (a : Word) (bs : List Byte) : s.Held (s.setBytes a bs) :=
  .of (s.kept_setBytes a bs) (by simp) (by simp)

/-- Hooks that keep everything; the handler is called in task context. -/
structure Hooks.Keep (h : Hooks) : Prop where
  upper : ∀ {s t}, h.upper s = .ok t → s.Held t
  irq : ∀ {s t}, s.ctx = .task → h.irq s = .ok t → s.Held t
  retry : ∀ {c s t}, h.retry c s = .ok t → s.Held t

/-- A procedure keeps everything since `s0`. -/
def Keeps (s0 : State) {α : Type} (p : M α) : Prop :=
  ∀ h : Hooks, h.Keep → ∀ s a t, s0.Held s → p h s = .ok (a, t) → s0.Held t

/-- A procedure that is entered in context `c` and left in context `d` keeps everything else since `s0`. -/
def Moves (s0 : State) (c d : Ctx) {α : Type} (p : M α) : Prop :=
  ∀ h : Hooks, h.Keep → ∀ s a t, (s0.inCtx c).Held s → p h s = .ok (a, t) → (s0.inCtx d).Held t

section
variable {s0 : State} {α β : Type}

theorem keeps_pure (a : α) : Keeps s0 (pure a : M α) := by
  intro h _ s b t k e
  cases e
  exact k

theorem keeps_bind {p : M α} {f : α → M β} (hp : Keeps s0 p) (hf : ∀ a, Keeps s0 (f a)) : Keeps s0 (p >>= f) := by
  intro h hh s b t k e
  rw [run_bind] at e
  split at e
  · next a u hu => exact hf a h hh _ _ _ (hp h hh _ _ _ k hu) e
  · cases e

theorem keeps_ask (g : State → α) : Keeps s0 (ask g) := by
  intro h _ s b t k e
  cases e
  exact k

theorem keeps_asks {g : State → α} {f : α → M β} (hf : ∀ s, s0.Held s → Keeps s0 (f (g s))) : Keeps s0 (ask g >>= f) := by
  intro h hh s b t k e
  exact hf s k h hh s b t k e

theorem keeps_act {f : State → State} (hf : ∀ s, s0.Held s → s0.Held (f s)) : Keeps s0 (act f) := by
  intro h _ s b t k e
  cases e
  exact hf s k

theorem keeps_stop (e : Stop) : Keeps s0 (stopWith e : M α) := by
  intro h _ s b t k hs
  cases hs

theorem keeps_hook {f : Hooks → State → Except Stop State}
    (hf : ∀ h : Hooks, h.Keep → ∀ s t, f h s = .ok t → s.Held t) : Keeps s0 (callHook f) := by
  intro h hh s b t k e
  unfold callHook at e
  split at e
  · next u hu =>
    cases e
    exact k.trans (hf h hh s _ hu)
  · cases e

theorem keeps_ite {c : Prop} [Decidable c] {p q : M α} (hp : Keeps s0 p) (hq : Keeps s0 q) : Keeps s0 (if c then p else q) := by
  split
  · exact hp
  · exact hq

/-- A change of fields that nothing kept depends on. -/
theorem keeps_other {f : State → State} (hf : ∀ s : State, s.Held (f s)) : Keeps s0 (act f) :=
  keeps_act fun s k => k.trans (hf s)

/-- The handler starts in task context only (R471). -/
theorem State.irqDue_task {s : State} (h : s.irqDue = true) : s.ctx = .task := by
  by_contra hc
  simp [State.irqDue, hc] at h

theorem keeps_between : Keeps s0 between := by
  refine keeps_bind (keeps_other State.held_tick) fun _ => ?_
  intro h hh s a t k e
  rw [run_ask_bind] at e
  split at e
  · next hdue =>
    unfold callHook at e
    split at e
    · next u hu =>
      cases e
      exact k.trans (hh.irq (State.irqDue_task hdue) hu)
    · cases e
  · cases e
    exact k

theorem keeps_readNow (r : Reg) : Keeps s0 (readNow r) :=
  keeps_asks fun _ _ => keeps_bind (keeps_other fun s => (s.held_note _).trans (State.held_readReg _ r)) fun _ => keeps_pure _

theorem keeps_writeNow (r : Reg) (v : Word) : Keeps s0 (writeNow r v) :=
  keeps_other fun s => (s.held_writeReg r v).trans (State.held_note _ _)

theorem keeps_regRead (r : Reg) : Keeps s0 (regRead r) :=
  keeps_bind keeps_between fun _ => keeps_asks fun _ _ => keeps_ite (keeps_readNow r) (keeps_stop _)

theorem keeps_regWrite (r : Reg) (v : Word) : Keeps s0 (regWrite r v) :=
  keeps_bind keeps_between fun _ => keeps_asks fun _ _ => keeps_ite (keeps_writeNow r v) (keeps_stop _)

theorem keeps_assert (c : Bool) (a : Assertion) : Keeps s0 (assertThat c a) :=
  keeps_asks fun _ _ => keeps_ite (keeps_stop _) (keeps_pure _)

theorem keeps_doIf {c : Bool} {p : M Unit} (hp : Keeps s0 p) : Keeps s0 (doIf c p) := keeps_ite hp (keeps_pure _)

theorem keeps_setGate (b : Bool) : Keeps s0 (setGate b) :=
  keeps_bind (keeps_regRead _) fun _ => keeps_asks fun _ _ => keeps_regWrite _ _

theorem keeps_critical {p : M α} (hp : Keeps s0 p) : Keeps s0 (critical p) := by
  unfold critical
  refine keeps_asks fun s _ => ?_
  split
  · exact hp
  · exact keeps_bind (keeps_regRead _) fun _ => keeps_bind (keeps_doIf (keeps_setGate _)) fun _ =>
      keeps_bind hp fun _ => keeps_bind (keeps_doIf (keeps_setGate _)) fun _ => keeps_pure _

theorem State.held_modEp (s : State) (e : EpRef) (f : EpRec → EpRec) : s.Held (s.modEp e f) :=
  .of_eq (by simp) (by simp) (by simp) (by simp) (by simp) (by simp) (by simp)

theorem State.held_modX (s : State) (x : XRef) (f : Xfer → Xfer) : s.Held (s.modX x f) :=
  .of_eq (by simp) (by simp) (by simp) (by simp) (by simp) (by simp) (by simp)

theorem State.held_modCh (s : State) (c : Fin 16) (f : ChRec → ChRec) : s.Held (s.modCh c f) := .of_eq rfl rfl rfl rfl rfl rfl rfl

theorem keeps_modX (x : XRef) (f : Xfer → Xfer) : Keeps s0 (modX x f) := keeps_other fun s => s.held_modX x f

theorem keeps_markActive (x : XRef) : Keeps s0 (markActive x) := by
  cases x with
  | ep e => exact keeps_other fun s => s.held_modEp e _
  | ch c => exact keeps_pure _

theorem keeps_waitTransfer (h : Nat) (x : XRef) : Keeps s0 (waitTransfer h x) := by
  cases x with
  | ep e => exact keeps_other fun s => s.held_modEp e _
  | ch c => exact keeps_modX _ _

theorem keeps_startTransfer (x : XRef) (h : Nat) (hp : Keeps s0 (programChunk x)) : Keeps s0 (startTransfer x h) :=
  keeps_asks fun _ _ => keeps_bind (keeps_assert _ _) fun _ => keeps_ite
    (keeps_bind (keeps_assert _ _) fun _ => keeps_bind (keeps_assert _ _) fun _ =>
      keeps_ite (keeps_waitTransfer h x) (keeps_bind (keeps_modX x _) fun _ => keeps_bind (keeps_markActive x) fun _ => hp))
    (keeps_stop _)

theorem keeps_descBase (x : XRef) : Keeps s0 (descBase x) := by
  unfold descBase
  refine keeps_asks fun s _ => ?_
  split
  · exact keeps_pure _
  · exact keeps_stop _

/-- What is kept passes through every building block, for all registers. -/
theorem sound_keeps (s0 : State) : Sound (fun s => s0.Held s) (fun _ => True) (fun p => Keeps s0 p) where
  pure := keeps_pure
  bind := keeps_bind
  asks := keeps_asks
  ask := keeps_ask
  act := keeps_act
  same d k := k.trans (.of_eq d.hw d.regs d.mem d.htog d.env d.prompt d.ctx)
  bytes a bs k := k.trans (State.held_setBytes _ a bs)
  htog _ _ k := k.trans (.of ⟨⟨rfl, fun h => ⟨h.1, h.2.1, SMap.wf_put h.2.2⟩, id⟩, fun h => ⟨h, rfl⟩⟩ rfl rfl)
  rd _ := keeps_regRead _
  wr v _ := keeps_regWrite _ v
  mr _ := keeps_bind keeps_between fun _ => keeps_asks fun _ _ => keeps_bind (keeps_other fun s => s.held_note _) fun _ => keeps_pure _
  mw a v := keeps_bind keeps_between fun _ => keeps_asks fun _ _ => keeps_ite (keeps_stop _)
    (keeps_other fun s => (s.held_setBytes a (wordBytes v)).trans (State.held_note _ _))
  assert := keeps_assert
  upper := keeps_hook fun _ hh _ _ e => hh.upper e
  retry _ _ _ _ := keeps_hook fun _ hh _ _ e => hh.retry e
  critical := keeps_critical
  descBase := keeps_descBase
  start := keeps_startTransfer

end

/-! Every register may be touched. -/

theorem canEp_all (n : Fin 16) : CanEp (fun _ => True) n := by constructor <;> trivial
theorem canDev_all : CanDev fun _ => True := by constructor <;> trivial
theorem canCh_all (c : Fin 16) : CanCh (fun _ => True) c := by constructor <;> trivial
theorem canHost_all : CanHost fun _ => True := by constructor <;> trivial
theorem canGlob_all : CanGlob fun _ => True := ⟨trivial, trivial, trivial, trivial, trivial, trivial, fun _ => trivial⟩

theorem canX_all (x : XRef) : CanX (fun _ => True) x := by
  cases x with
  | ep e => exact ⟨canEp_all _, canDev_all⟩
  | ch c => exact ⟨canCh_all c, canHost_all⟩

theorem devRole_all (I : State → Prop) : DevRole I fun _ => True where
  glob := canGlob_all
  dev := canDev_all
  grstctl := trivial
  zero := canEp_all 0
  eps _ _ n _ := canEp_all n
  ifaces _ _ _ _ _ _ _ _ := canEp_all _

theorem hostRole_all (I : State → Prop) : HostRole I fun _ => True where
  glob := canGlob_all
  host := canHost_all
  chs _ _ c _ := canCh_all c

section
variable {s0 : State} {α : Type}

theorem keeps_update (r : Reg) (f : Word → Word) : Keeps s0 (regUpdate r f) := ok_update (sound_keeps s0) f trivial

theorem keeps_callback (c : Callback) : Keeps s0 (callback c) := ok_callback (sound_keeps s0) c

theorem keeps_modCore (f : CoreRec → CoreRec) : Keeps s0 (modCore f) := keeps_other fun _ => .of_eq rfl rfl rfl rfl rfl rfl rfl

theorem keeps_modEp0 (f : Ep0Rec → Ep0Rec) : Keeps s0 (modEp0 f) := keeps_other fun _ => .of_eq rfl rfl rfl rfl rfl rfl rfl

theorem keeps_forEach {l : List α} {p : α → M Unit} (h : ∀ a, Keeps s0 (p a)) : Keeps s0 (forEach l p) :=
  ok_forEach (sound_keeps s0) fun a _ => h a

theorem keeps_poll {p : M Bool} (h : Keeps s0 p) (n : Nat) : Keeps s0 (poll p n) := ok_poll (sound_keeps s0) h n

/-! Core initialisation (R201 to R217). -/

theorem keeps_pollGrstctl (k : Nat) (v : Bool) (n : Nat) : Keeps s0 (pollGrstctl k v n) :=
  ok_pollGrstctl (sound_keeps s0) k v n trivial

theorem keeps_coreResetSeq : Keeps s0 coreResetSeq :=
  keeps_asks fun _ _ => keeps_bind (keeps_pollGrstctl _ _ _) fun _ => keeps_ite
    (keeps_bind (keeps_regWrite _ _) fun _ => keeps_bind (keeps_pollGrstctl _ _ _) fun _ => keeps_pure _) (keeps_pure _)

theorem keeps_flushTxFifo (n : Nat) : Keeps s0 (flushTxFifo n) := ok_flushTxFifo (sound_keeps s0) n trivial

theorem keeps_flushRxFifo : Keeps s0 flushRxFifo := ok_flushRxFifo (sound_keeps s0) trivial

theorem keeps_grant (n m : Nat) : Keeps s0 (grant n m) :=
  keeps_bind (keeps_doIf (keeps_modCore _)) fun _ => keeps_pure _

theorem keeps_partitionTx (p : InitParams) : ∀ l n a, Keeps s0 (partitionTx p l n a)
  | [], _, _ => keeps_pure _
  | _ :: l, _, _ => keeps_asks fun _ _ => keeps_ite
      (keeps_bind (keeps_doIf (keeps_modCore _)) fun _ => keeps_partitionTx p l _ _)
      (keeps_bind (keeps_grant _ _) fun _ => keeps_bind (keeps_regWrite _ _) fun _ => keeps_bind (keeps_modCore _) fun _ =>
        keeps_partitionTx p l _ _)

theorem keeps_fifoPartition (p : InitParams) : Keeps s0 (fifoPartition p) := by
  unfold fifoPartition
  refine keeps_asks fun _ _ => keeps_bind (keeps_grant _ _) fun _ => keeps_bind (keeps_regWrite _ _) fun _ =>
    keeps_bind (keeps_modCore _) fun _ => keeps_bind (keeps_grant _ _) fun _ => keeps_bind (keeps_regWrite _ _) fun _ =>
    keeps_bind (keeps_modCore _) fun _ => keeps_bind (keeps_regRead _) fun _ => keeps_ite ?_ (keeps_partitionTx p _ _ _)
  exact keeps_bind (keeps_grant _ _) fun _ => keeps_bind (keeps_regWrite _ _) fun _ => keeps_modCore _

theorem keeps_programMode : Keeps s0 programMode :=
  keeps_bind (keeps_regRead _) fun _ => keeps_asks fun _ _ => keeps_ite (keeps_regWrite _ _) (keeps_regWrite _ _)

theorem keeps_roleProgram : Keeps s0 roleProgram :=
  keeps_asks fun _ _ => keeps_bind (keeps_fifoPartition _) fun _ => keeps_bind (keeps_flushTxFifo _) fun _ => keeps_ite
    (keeps_bind keeps_flushRxFifo fun _ => keeps_ite (keeps_bind keeps_programMode fun _ => keeps_pure _) (keeps_pure _))
    (keeps_pure _)

theorem keeps_waitMode (b : Bool) : Keeps s0 (waitMode b) :=
  keeps_asks fun _ _ => keeps_bind (keeps_poll (keeps_bind (keeps_regRead _) fun _ => keeps_pure _) _) fun _ =>
    keeps_ite (keeps_pure _) (keeps_stop _)

theorem keeps_deviceEngineSetup : Keeps s0 deviceEngineSetup :=
  keeps_bind (keeps_other fun _ => .of_eq rfl rfl rfl rfl rfl rfl rfl) fun _ => keeps_asks fun _ _ =>
    keeps_bind (keeps_regWrite _ _) fun _ => keeps_bind (keeps_regWrite _ _) fun _ => keeps_bind (keeps_regWrite _ _) fun _ =>
    keeps_bind (keeps_regWrite _ _) fun _ => keeps_bind (keeps_regWrite _ _) fun _ => keeps_bind (keeps_regWrite _ _) fun _ =>
    keeps_bind (keeps_update _ _) fun _ => keeps_bind (keeps_modCore _) fun _ => keeps_callback _

theorem keeps_deviceEngineStart : Keeps s0 deviceEngineStart :=
  keeps_asks fun _ _ => keeps_bind (keeps_assert _ _) fun _ => keeps_bind (keeps_waitMode _) fun _ =>
    keeps_bind keeps_roleProgram fun _ => keeps_ite (keeps_bind keeps_deviceEngineSetup fun _ => keeps_pure _)
      (keeps_bind (keeps_modCore _) fun _ => keeps_pure _)

/-- The tables of a fresh engine or core. -/
theorem State.held_freshTables {s t : State} (hw : t.hw = s.hw) (hr : t.regs = s.regs) (hm : t.mem = s.mem) (hh : t.htog = [])
    (he : t.env = s.env) (hp : t.prompt = s.prompt) (hc : t.ctx = s.ctx) : s.Held t :=
  .of ⟨⟨hw, fun h => ⟨hm ▸ h.1, hr ▸ h.2.1, hh ▸ rfl⟩, fun h r => by rw [State.raw_congr hr, hw]; exact h r⟩,
    fun h => ⟨he.trans h, State.hostMode_congr hr⟩⟩ hp hc

theorem keeps_hostEngineSetup : Keeps s0 hostEngineSetup :=
  keeps_bind (keeps_other fun _ => State.held_freshTables rfl rfl rfl rfl rfl rfl rfl) fun _ => keeps_asks fun _ _ =>
    keeps_bind (keeps_regWrite _ _) fun _ => keeps_bind (keeps_update _ _) fun _ => keeps_bind (keeps_modCore _) fun _ =>
    keeps_callback _

theorem keeps_hostEngineStart : Keeps s0 hostEngineStart :=
  keeps_asks fun _ _ => keeps_bind (keeps_assert _ _) fun _ => keeps_bind (keeps_waitMode _) fun _ =>
    keeps_bind keeps_roleProgram fun _ => keeps_ite (keeps_bind keeps_hostEngineSetup fun _ => keeps_pure _)
      (keeps_bind (keeps_modCore _) fun _ => keeps_pure _)

theorem keeps_startEngineFor (o : OpState) : Keeps s0 (startEngineFor o) := by
  cases o <;> first | exact keeps_hostEngineStart | exact keeps_deviceEngineStart

/-! The procedures that leave the context they enter (R470, log entry 13). -/

theorem moves_keeps {c : Ctx} {p : M α} (h : Keeps (s0.inCtx c) p) : Moves s0 c c p := h

theorem moves_bind {β : Type} {c d e : Ctx} {p : M α} {f : α → M β} (hp : Moves s0 c d p) (hf : ∀ a, Moves s0 d e (f a)) :
    Moves s0 c e (p >>= f) := by
  intro h hh s b t k x
  rw [run_bind] at x
  split at x
  · next a u hu => exact hf a h hh _ _ _ (hp h hh _ _ _ k hu) x
  · cases x

theorem moves_asks {β : Type} {c d : Ctx} {g : State → α} {f : α → M β} (hf : ∀ a, Moves s0 c d (f a)) :
    Moves s0 c d (ask g >>= f) := fun h hh s => hf (g s) h hh s

theorem moves_ite {c d : Ctx} {b : Prop} [Decidable b] {p q : M α} (hp : Moves s0 c d p) (hq : Moves s0 c d q) :
    Moves s0 c d (if b then p else q) := by
  split
  · exact hp
  · exact hq

/-- The context is set, and the rest is kept. -/
theorem moves_act {c d : Ctx} {f : State → State} (hf : ∀ s : State, (s.inCtx d).Held (f s)) : Moves s0 c d (act f) := by
  intro h _ s b t k e
  cases e
  exact (k.recontext d).trans (hf s)

theorem moves_inCtx (c d : Ctx) : Moves s0 c d (act fun s => { s with ctx := d }) := moves_act fun s => .refl (s.inCtx d)

theorem moves_initFailed (c x : Ctx) (st : Status) : Moves s0 c x (initFailed x st) :=
  moves_bind (moves_keeps (keeps_modCore _)) fun _ => moves_bind (moves_inCtx _ _) fun _ => moves_keeps (keeps_pure _)

theorem moves_becomeFunctional (c x : Ctx) : Moves s0 c x (becomeFunctional x) :=
  moves_bind (moves_keeps (keeps_modCore _)) fun _ => moves_inCtx _ _

theorem keeps_readCapabilities : Keeps s0 readCapabilities :=
  keeps_bind (keeps_regRead _) fun _ => keeps_bind (keeps_regRead _) fun _ => keeps_bind (keeps_regRead _) fun _ =>
    keeps_modCore _

theorem keeps_programCore : Keeps s0 programCore :=
  keeps_asks fun _ _ => keeps_bind (keeps_regWrite _ _) fun _ => keeps_bind (keeps_regWrite _ _) fun _ => keeps_regWrite _ _

theorem keeps_initInterrupts : Keeps s0 initInterrupts :=
  keeps_bind (keeps_regWrite _ _) fun _ => keeps_bind (keeps_regWrite _ _) fun _ => keeps_bind (keeps_regWrite _ _) fun _ =>
    keeps_regWrite _ _

theorem moves_coreInitProgram (c x : Ctx) : Moves s0 c x (coreInitProgram x) :=
  moves_bind (moves_keeps keeps_readCapabilities) fun _ => moves_bind (moves_keeps (keeps_modCore _)) fun _ =>
    moves_bind (moves_keeps keeps_programCore) fun _ =>
    moves_bind (moves_keeps (keeps_bind (keeps_regRead _) fun _ => keeps_modCore _)) fun _ =>
    moves_bind (moves_keeps keeps_initInterrupts) fun _ => moves_bind (moves_becomeFunctional c x) fun _ =>
    moves_asks fun _ => moves_bind (moves_keeps (keeps_startEngineFor _)) fun _ =>
    moves_ite (moves_keeps (keeps_ask _)) (moves_initFailed x x _)

theorem moves_freshRecords (c : Ctx) (b : Word) (p : InitParams) : Moves s0 c .task (act fun s => s.freshRecords b p) :=
  moves_act fun _ => State.held_freshTables rfl rfl rfl rfl rfl rfl rfl

theorem keeps_coreInitFrom (b : Word) (p : InitParams) : Keeps s0 (coreInitFrom b p) := by
  intro h hh s a t k e
  have hall : Moves s0 s0.ctx s.ctx (do
      act fun s => s.freshRecords b p
      regWrite .GAHBCFG 0
      let st ← coreResetSeq
      if st = .ok then coreInitProgram s.ctx else initFailed s.ctx st) :=
    moves_bind (moves_freshRecords _ b p) fun _ => moves_bind (moves_keeps (keeps_regWrite _ _)) fun _ =>
      moves_bind (moves_keeps keeps_coreResetSeq) fun _ => moves_ite (moves_coreInitProgram _ _) (moves_initFailed _ _ _)
  have held := hall h hh s a t k e
  exact ⟨⟨⟨held.hw, held.canonical, held.low⟩, held.mode⟩, fun he hp =>
    ⟨(held.quiet he hp).1, (held.quiet he hp).2.trans (k.quiet he hp).2⟩⟩

theorem keeps_coreInit (b : Word) (p : InitParams) : Keeps s0 (coreInit b p) :=
  keeps_ite (keeps_bind (keeps_regRead _) fun _ => keeps_ite (keeps_coreInitFrom b p) (keeps_pure _)) (keeps_pure _)

/-! The roles (R400 to R412). -/

theorem keeps_cancelAll (x : XRef) : Keeps s0 (cancelAll x) :=
  keeps_bind (ok_completeKeep (sound_keeps s0) x _) fun _ => keeps_asks fun _ _ => keeps_bind (keeps_modX x _) fun _ =>
    keeps_forEach fun h => ok_cancelQueued (sound_keeps s0) h

theorem keeps_stopChannel (c : Fin 16) : Keeps s0 (stopChannel c) :=
  keeps_asks fun _ _ => keeps_doIf <| keeps_bind (keeps_regRead _) fun _ =>
    keeps_bind (keeps_doIf <| keeps_bind (ok_hccharValue (sound_keeps s0) c canHost_all) fun _ =>
      keeps_bind (keeps_regWrite _ _) fun _ => keeps_other fun s => s.held_modCh c _) fun _ =>
    keeps_bind (keeps_cancelAll _) fun _ => ok_channelRelease (sound_keeps s0) c (canCh_all c) canHost_all

theorem keeps_dropAllIso : Keeps s0 dropAllIso := keeps_other fun _ => .of_eq rfl rfl rfl rfl rfl rfl rfl

theorem keeps_hostEngineStop : Keeps s0 hostEngineStop :=
  keeps_asks fun _ _ => keeps_bind (keeps_forEach keeps_stopChannel) fun _ => keeps_bind keeps_dropAllIso fun _ =>
    keeps_bind (keeps_update _ _) fun _ => keeps_bind (keeps_regWrite _ _) fun _ => keeps_bind (keeps_modCore _) fun _ =>
    keeps_callback _

theorem keeps_stopEndpoint (e : EpRef) : Keeps s0 (stopEndpoint e) :=
  keeps_asks fun _ _ => keeps_doIf <| keeps_bind (keeps_regRead _) fun _ =>
    keeps_bind (keeps_doIf <| keeps_bind (keeps_update _ _) fun _ => keeps_other fun s => s.held_modEp e _) fun _ =>
    keeps_bind (keeps_cancelAll _) fun _ => keeps_bind (ok_deactivate (sound_keeps s0) e (canX_all _)) fun _ =>
    keeps_other fun s => s.held_modEp e _

theorem keeps_deviceEngineStop : Keeps s0 deviceEngineStop :=
  keeps_bind (ok_ep0Abandon (sound_keeps s0) (devRole_all _)) fun _ => keeps_bind (keeps_modEp0 _) fun _ =>
    keeps_asks fun _ _ => keeps_bind (keeps_forEach keeps_stopEndpoint) fun _ => keeps_bind keeps_dropAllIso fun _ =>
    keeps_bind (keeps_regWrite _ _) fun _ => keeps_bind (keeps_regWrite _ _) fun _ => keeps_bind (keeps_update _ _) fun _ =>
    keeps_bind (ok_setDevAddr (sound_keeps s0) _ canDev_all) fun _ => keeps_bind (keeps_modEp0 _) fun _ =>
    keeps_bind (keeps_modCore _) fun _ => keeps_callback _

theorem keeps_coreDeinit : Keeps s0 coreDeinit :=
  keeps_bind (keeps_asks fun _ _ => keeps_assert _ _) fun _ => keeps_bind (keeps_regWrite _ _) fun _ =>
    keeps_bind (keeps_regWrite _ _) fun _ => keeps_asks fun _ _ => keeps_bind (keeps_doIf keeps_hostEngineStop) fun _ =>
    keeps_bind (keeps_doIf keeps_deviceEngineStop) fun _ =>
    keeps_bind (keeps_other fun _ => State.held_freshTables rfl rfl rfl rfl rfl rfl rfl) fun _ => keeps_pure _

theorem keeps_evtConidstschng : Keeps s0 evtConidstschng :=
  keeps_bind (keeps_regWrite _ _) fun _ => keeps_bind (keeps_regRead _) fun _ => keeps_asks fun _ _ =>
    keeps_bind (keeps_doIf keeps_hostEngineStop) fun _ => keeps_bind (keeps_doIf keeps_deviceEngineStop) fun _ =>
    keeps_bind (keeps_waitMode _) fun _ => keeps_asks fun _ _ => keeps_bind (keeps_coreInit _ _) fun _ =>
    keeps_doIf (keeps_setGate _)

theorem keeps_closeOnFailure (st : Status) : Keeps s0 (closeOnFailure st) := keeps_doIf (keeps_setGate _)

theorem keeps_fallBack : Keeps s0 fallBack :=
  keeps_bind keeps_hostEngineStop fun _ => keeps_bind (keeps_modCore _) fun _ => keeps_bind keeps_deviceEngineStart fun _ =>
    keeps_closeOnFailure _

theorem keeps_becomeHost : Keeps s0 becomeHost :=
  keeps_bind keeps_deviceEngineStop fun _ => keeps_bind (keeps_modCore _) fun _ => keeps_bind keeps_hostEngineStart fun _ =>
    keeps_closeOnFailure _

theorem keeps_sessionEnd : Keeps s0 sessionEnd :=
  keeps_asks fun _ _ => keeps_bind (keeps_doIf keeps_deviceEngineStop) fun _ => keeps_callback _

theorem keeps_evtSesenddet : Keeps s0 evtSesenddet := by
  unfold evtSesenddet
  refine keeps_bind (keeps_regWrite _ _) fun _ => keeps_asks fun s _ => ?_
  split
  · exact keeps_fallBack
  · exact keeps_sessionEnd
  · exact keeps_sessionEnd
  · exact keeps_pure _
  · exact keeps_pure _

theorem keeps_evtHstnegsucstschng : Keeps s0 evtHstnegsucstschng :=
  keeps_bind (keeps_regWrite _ _) fun _ => keeps_bind (keeps_regRead _) fun _ => keeps_ite
    (keeps_bind (keeps_regRead _) fun _ => keeps_asks fun _ _ => keeps_doIf keeps_becomeHost)
    (keeps_bind (keeps_update _ _) fun _ => ok_log (sound_keeps s0) _)

theorem keeps_evtDisconnint : Keeps s0 evtDisconnint := by
  unfold evtDisconnint
  refine keeps_bind (keeps_regWrite _ _) fun _ => keeps_asks fun s _ => ?_
  split
  · exact keeps_fallBack
  · exact keeps_callback _
  · exact keeps_pure _
  · exact keeps_pure _
  · exact keeps_pure _

/-! The dispatcher (R472 to R478). -/

theorem keeps_unhandledBit (r : Reg) (k : Fin 32) : Keeps s0 (unhandledBit r k) :=
  ok_unhandledBit (sound_keeps s0) r k trivial fun _ _ => trivial

theorem keeps_leafOtg (k : Fin 32) : Keeps s0 (leafOtg k) := by
  unfold leafOtg
  split
  · exact keeps_evtSesenddet
  · exact keeps_evtHstnegsucstschng
  · exact keeps_unhandledBit _ _

theorem keeps_handleFirst (o : List Nat) (w : Word) {leaf : Fin 32 → M Unit} (h : ∀ k, Keeps s0 (leaf k)) :
    Keeps s0 (handleFirst o w leaf) := ok_handleFirst (sound_keeps s0) o w h

theorem keeps_evtOtgint : Keeps s0 evtOtgint :=
  keeps_bind (keeps_regRead _) fun _ => keeps_handleFirst _ _ keeps_leafOtg

theorem keeps_evtIepint : Keeps s0 evtIepint := by
  unfold evtIepint
  refine keeps_bind (keeps_regRead _) fun _ => keeps_bind (keeps_regRead _) fun _ => ?_
  split
  · exact keeps_pure _
  · exact keeps_bind (keeps_regRead _) fun _ => keeps_bind (keeps_regRead _) fun _ => keeps_bind (keeps_regRead _) fun _ =>
      keeps_handleFirst _ _ fun k => ok_leafIn (sound_keeps s0) _ k (canEp_all _) (devRole_all _)

theorem keeps_evtOepint : Keeps s0 evtOepint := by
  unfold evtOepint
  refine keeps_bind (keeps_regRead _) fun _ => keeps_bind (keeps_regRead _) fun _ => ?_
  split
  · exact keeps_pure _
  · exact keeps_bind (keeps_regRead _) fun _ => keeps_bind (keeps_regRead _) fun _ =>
      keeps_handleFirst _ _ fun k => ok_leafOut (sound_keeps s0) _ k (canEp_all _) (devRole_all _)

theorem keeps_evtHchint : Keeps s0 evtHchint := by
  unfold evtHchint
  refine keeps_bind (keeps_regRead _) fun _ => keeps_bind (keeps_regRead _) fun _ => ?_
  split
  · exact keeps_pure _
  · exact keeps_bind (keeps_regRead _) fun _ => keeps_bind (keeps_regRead _) fun _ =>
      keeps_handleFirst _ _ fun k => ok_leafCh (sound_keeps s0) _ k (canX_all _) canGlob_all

theorem keeps_inMode (b : Bool) (k : Fin 32) {p : M Unit} (h : Keeps s0 p) : Keeps s0 (inMode b k p) :=
  keeps_asks fun _ _ => keeps_ite h (keeps_unhandledBit _ _)

theorem keeps_evtNptxfemp : Keeps s0 evtNptxfemp :=
  keeps_asks fun _ _ => keeps_ite (ok_serveFifoEmpty (sound_keeps s0) _ (hostRole_all _)) (keeps_unhandledBit _ _)

theorem keeps_evtPtxfemp : Keeps s0 evtPtxfemp :=
  keeps_asks fun _ _ => keeps_ite (ok_serveFifoEmpty (sound_keeps s0) _ (hostRole_all _)) (keeps_unhandledBit _ _)

theorem keeps_leafTop (k : Fin 32) : Keeps s0 (leafTop k) := by
  have L := sound_keeps s0
  have R := devRole_all (s0.Held ·)
  unfold leafTop
  split
  · exact keeps_evtOtgint
  · exact ok_evtRxflvl L canGlob_all
  · exact keeps_evtNptxfemp
  · exact keeps_inMode _ _ (ok_evtUsbsusp L canGlob_all)
  · exact keeps_inMode _ _ (ok_evtUsbrst L R)
  · exact keeps_inMode _ _ (ok_evtEnumdone L R)
  · exact keeps_inMode _ _ (ok_evtIsooutdrop L R)
  · exact keeps_inMode _ _ keeps_evtIepint
  · exact keeps_inMode _ _ keeps_evtOepint
  · exact keeps_inMode _ _ keeps_evtHchint
  · exact keeps_evtPtxfemp
  · exact keeps_evtConidstschng
  · exact keeps_evtDisconnint
  · exact ok_evtWkupint L canGlob_all
  · exact keeps_unhandledBit _ _

theorem keeps_nextEvent : Keeps s0 nextEvent :=
  keeps_asks fun _ _ => keeps_ite (keeps_bind (keeps_regRead _) fun _ => keeps_bind (keeps_regRead _) fun _ => keeps_pure _)
    (keeps_pure _)

theorem keeps_isrLoop : ∀ n, Keeps s0 (isrLoop n)
  | 0 => keeps_pure _
  | n + 1 => by
    unfold isrLoop
    refine keeps_bind keeps_nextEvent fun o => ?_
    cases o with
    | none => exact keeps_pure _
    | some k => exact keeps_bind (keeps_leafTop k) fun _ => keeps_isrLoop n

theorem moves_enter (c : Ctx) : Moves s0 c .isr (act State.enterHandler) := moves_act fun s => (s.inCtx .isr).held_note _

theorem moves_leave (c : Ctx) : Moves s0 c .task (act State.leaveHandler) := moves_act fun s => (s.inCtx .task).held_note _

theorem moves_isrPreempt (c : Ctx) : Moves s0 c .task isrPreempt :=
  moves_bind (moves_enter _) fun _ => moves_asks fun _ => moves_bind (moves_keeps (keeps_isrLoop _)) fun _ =>
    moves_ite (moves_leave _) fun _ _ _ _ _ _ e => by cases e

/-! The commands (R143). -/

theorem keeps_needFunctional {p : M Result} (h : Keeps s0 p) : Keeps s0 (needFunctional p) :=
  keeps_asks fun _ _ => keeps_ite h (keeps_pure _)

theorem keeps_taskOnly : Keeps s0 taskOnly := keeps_asks fun _ _ => keeps_assert _ _

theorem keeps_answer {p : M α} (h : Keeps s0 p) (f : α → Result) : Keeps s0 (p >>= fun a => pure (f a)) :=
  keeps_bind h fun _ => keeps_pure _

theorem keeps_accessorDo (off : Word) {p : Reg → M Result} (h : ∀ r, Keeps s0 (p r)) : Keeps s0 (accessorDo off p) := by
  unfold accessorDo
  refine keeps_bind keeps_between fun _ => keeps_asks fun s _ => ?_
  split
  · exact h _
  · exact keeps_pure _

theorem keeps_regModifyCmd (off c t : Word) : Keeps s0 (regModifyCmd off c t) :=
  keeps_accessorDo off fun r => keeps_bind (keeps_readNow r) fun _ => keeps_accessorDo off fun q =>
    keeps_bind (keeps_writeNow q _) fun _ => keeps_pure _

theorem keeps_flushTxCmd (n : BitVec 8) : Keeps s0 (flushTxCmd n) :=
  keeps_needFunctional <| keeps_ite (keeps_answer (keeps_flushTxFifo _) _) (keeps_pure _)

theorem keeps_poolFreeCmd (h : BitVec 16) : Keeps s0 (poolFreeCmd h) :=
  keeps_needFunctional <| keeps_critical <| keeps_asks fun _ _ => keeps_ite
    (keeps_bind (keeps_assert _ _) fun _ => keeps_bind (ok_freeSlot (sound_keeps s0) _) fun _ => keeps_pure _) (keeps_pure _)

theorem keeps_submitTo (t : Target) (b : Word) (n : Nat) (z : Bool) (cb : CbId) : Keeps s0 (submitTo t b n z cb) := by
  unfold submitTo
  refine keeps_asks fun s _ => ?_
  split
  · exact keeps_ite (ok_submitEp (sound_keeps s0) _ b n z cb canDev_all canGlob_all fun _ _ m _ => canEp_all m) (keeps_pure _)
  · exact keeps_ite (keeps_pure _) (ok_submitPipe (sound_keeps s0) _ b n z cb canHost_all canGlob_all fun _ _ c _ => canCh_all c)

theorem keeps_submitCmd (t : Target) (b n : Word) (z : Bool) (cb : CbId) : Keeps s0 (submitCmd t b n z cb) :=
  keeps_needFunctional <| keeps_asks fun _ _ => keeps_ite (keeps_pure _) (keeps_critical (keeps_submitTo t b _ z cb))

theorem keeps_cancelCmd (h : BitVec 16) : Keeps s0 (cancelCmd h) := by
  unfold cancelCmd
  refine keeps_needFunctional <| keeps_bind keeps_taskOnly fun _ => keeps_asks fun s _ => ?_
  rw [id]
  generalize (if s.slotUsed h.toNat then (s.reqAt (.pool h.toNat)).owner else none) = o
  cases o with
  | none => exact keeps_pure _
  | some x =>
    exact keeps_critical <| keeps_bind (ok_cancelTarget (sound_keeps s0) x (canX_all x) canGlob_all) fun _ => keeps_pure _

theorem keeps_startTransferCmd (x : XRef) (h : BitVec 16) : Keeps s0 (startTransferCmd x h) :=
  keeps_needFunctional <| keeps_critical <| keeps_asks fun _ _ => keeps_ite
    (keeps_bind (ok_startTransfer (sound_keeps s0) x _ (canX_all x) canGlob_all) fun _ => keeps_pure _) (keeps_pure _)

theorem keeps_continueTransferCmd (x : XRef) : Keeps s0 (continueTransferCmd x) :=
  keeps_needFunctional <| keeps_asks fun _ _ => keeps_bind (keeps_assert _ _) fun _ => keeps_asks fun _ _ => keeps_ite
    (keeps_answer (ok_continueTransfer (sound_keeps s0) x (canX_all x) canGlob_all) _) (keeps_pure _)

theorem keeps_enableEndpointCmd (d : Epd) : Keeps s0 (enableEndpointCmd d) :=
  keeps_needFunctional <| keeps_answer
    (ok_enableEndpoint (sound_keeps s0) d canDev_all fun _ _ m _ => canEp_all m) _

theorem keeps_disableEndpointCmd (e : EpRef) : Keeps s0 (disableEndpointCmd e) :=
  keeps_needFunctional <| keeps_answer (ok_disableEndpoint (sound_keeps s0) e (canX_all _) canGlob_all) _

theorem keeps_haltCmd (c : Fin 16) (r : HaltReason) : Keeps s0 (haltCmd c r) :=
  keeps_needFunctional <| keeps_asks fun _ _ => keeps_ite (keeps_pure _) <| keeps_critical <| keeps_asks fun _ _ =>
    keeps_ite (keeps_bind (ok_halt (sound_keeps s0) c r (canX_all _) canGlob_all) fun _ => keeps_pure _) (keeps_pure _)

theorem keeps_isoBegin (x : XRef) (a b : Word) (n m : Nat) (cb : CbId) {u : M Unit} (r : Result) (h : Keeps s0 u) :
    Keeps s0 (isoBegin x a b n m cb u r) := by
  unfold isoBegin
  refine keeps_bind (ok_currentFrame (sound_keeps s0) trivial trivial) fun _ => keeps_asks fun s _ => ?_
  split
  · exact keeps_bind (keeps_other fun _ => .of_eq rfl rfl rfl rfl rfl rfl rfl) fun _ =>
      keeps_bind (ok_isoBuildChain (sound_keeps s0) x _ _) fun _ => keeps_bind (ok_isoBuildChain (sound_keeps s0) x _ _) fun _ =>
      keeps_bind (keeps_markActive x) fun _ => keeps_bind (ok_isoArmNext (sound_keeps s0) x _ (canX_all x)) fun _ => keeps_pure _
  · exact keeps_bind h fun _ => keeps_pure _

theorem keeps_isoStartPipe (t : HcParams) (a b : Word) (n m : Nat) (cb : CbId) : Keeps s0 (isoStartPipe t a b n m cb) := by
  unfold isoStartPipe
  refine keeps_asks fun s _ => keeps_ite ?_ (keeps_pure _)
  split
  · exact keeps_pure _
  · exact keeps_bind (keeps_other fun s => s.held_modCh _ _) fun _ =>
      keeps_isoBegin _ a b n m cb _ (keeps_other fun s => s.held_modCh _ _)

theorem keeps_isoStartOn (t : Target) (a b : Word) (n m : Nat) (cb : CbId) : Keeps s0 (isoStartOn t a b n m cb) := by
  unfold isoStartOn
  refine keeps_asks fun s _ => ?_
  split
  · exact keeps_ite (keeps_asks fun _ _ => keeps_ite (keeps_isoBegin _ a b n m cb _ (keeps_pure _)) (keeps_pure _)) (keeps_pure _)
  · exact keeps_ite (keeps_pure _) (keeps_isoStartPipe _ a b n m cb)

theorem keeps_isoStartCmd (t : Target) (a b : Word) (n m : BitVec 16) (cb : CbId) : Keeps s0 (isoStartCmd t a b n m cb) :=
  keeps_needFunctional <| keeps_bind keeps_taskOnly fun _ => keeps_asks fun _ _ => keeps_ite (keeps_pure _)
    (keeps_critical (keeps_isoStartOn t a b _ _ cb))

theorem keeps_isoStopTarget (x : XRef) : Keeps s0 (isoStopTarget x) := by
  cases x with
  | ep e => exact ok_abortEndpoint (sound_keeps s0) e _ _ (canX_all _) canGlob_all
  | ch c => exact ok_cancelChannel (sound_keeps s0) c (canX_all _) canGlob_all

theorem keeps_isoStopCmd (x : XRef) : Keeps s0 (isoStopCmd x) :=
  keeps_needFunctional <| keeps_bind keeps_taskOnly fun _ => keeps_asks fun _ _ => keeps_ite
    (keeps_critical <| keeps_bind (ok_dropIso (sound_keeps s0) x) fun _ => keeps_bind (keeps_isoStopTarget x) fun _ => keeps_pure _)
    (keeps_pure _)

/-- Every command that UPPER gives, in task context or from a callback. -/
theorem keeps_cmdOf {i : Instr} {p : M Result} (h : cmdOf i = some p) : Keeps s0 p := by
  cases i <;> cases h
  case coreInit b p => exact keeps_bind keeps_taskOnly fun _ => keeps_answer (keeps_coreInit b p) _
  case coreDeinit => exact keeps_asks fun _ _ => keeps_ite keeps_coreDeinit (keeps_pure _)
  case coreReset => exact keeps_needFunctional <| keeps_bind keeps_taskOnly fun _ => keeps_answer keeps_coreResetSeq _
  case flushTxFifo n => exact keeps_flushTxCmd n
  case flushRxFifo => exact keeps_needFunctional (keeps_answer keeps_flushRxFifo _)
  case enableGint | disableGint =>
    exact keeps_needFunctional <| keeps_bind keeps_taskOnly fun _ => keeps_bind (keeps_setGate _) fun _ => keeps_pure _
  case regRead off => exact keeps_accessorDo off fun r => keeps_answer (keeps_readNow r) _
  case regWrite off v => exact keeps_accessorDo off fun r => keeps_bind (keeps_writeNow r v) fun _ => keeps_pure _
  case regModify off c t => exact keeps_regModifyCmd off c t
  case poolAlloc => exact keeps_needFunctional <| keeps_critical <| keeps_answer (ok_poolAlloc (sound_keeps s0)) _
  case poolFree h => exact keeps_poolFreeCmd h
  case submit t b n z cb => exact keeps_submitCmd t b n z cb
  case cancel h => exact keeps_cancelCmd h
  case startTransfer x h => exact keeps_startTransferCmd x h
  case continueTransfer x => exact keeps_continueTransferCmd x
  case enableEndpoint d => exact keeps_enableEndpointCmd d
  case disableEndpoint e => exact keeps_disableEndpointCmd e
  case halt c r => exact keeps_haltCmd c r
  case isoStart t a b n m cb => exact keeps_isoStartCmd t a b n m cb
  case isoStop x => exact keeps_isoStopCmd x
  case isr => exact keeps_bind (keeps_assert _ _) fun _ => keeps_pure _

end

/-! What runs inside another step (R471). -/

theorem held_nestedCmd {s t : State} {h : Hooks} (hh : h.Keep) (bs : List Byte) (e : nestedCmd bs h s = .ok t) : s.Held t := by
  have hret : ∀ (u : State) (r : Result), u.Held (u.returned r) := fun _ _ => .of_eq rfl rfl rfl rfl rfl rfl rfl
  unfold nestedCmd at e
  split at e
  · cases e
    exact hret _ _
  · split at e
    · cases e
      exact .refl s
    · next p hp =>
      split at e
      · next r u hu =>
        cases e
        exact (keeps_cmdOf hp h hh s r u (.refl s) hu).trans (hret _ _)
      · cases e

theorem held_nestedCmds {h : Hooks} (hh : h.Keep) :
    ∀ (l : List (List Byte)) {s t : State}, nestedCmds l h s = .ok t → s.Held t
  | [], s, _, e => by
    cases e
    exact .refl s
  | bs :: l, s, t, e => by
    unfold nestedCmds at e
    split at e
    · next u hu => exact (held_nestedCmd hh bs hu).trans (held_nestedCmds hh l e)
    · cases e

theorem held_upperNext {s t : State} {h : Hooks} (hh : h.Keep) (e : upperNext h s = .ok t) : s.Held t := by
  unfold upperNext at e
  split at e
  · cases e
    exact .refl s
  · next r rest hr =>
    have hin : s.Held { s with replies := rest, inCb := true } := .of_eq rfl rfl rfl rfl rfl rfl rfl
    split at e
    · next u hu =>
      cases e
      exact (hin.trans (held_nestedCmds hh r hu)).trans (.of_eq rfl rfl rfl rfl rfl rfl rfl)
    · cases e

theorem held_runUnit {s t : State} {h : Hooks} {p : M Unit} (hp : ∀ u, p h s = .ok ((), u) → s.Held u)
    (e : runUnit p h s = .ok t) : s.Held t := by
  unfold runUnit at e
  split at e
  · next u hu =>
    cases e
    exact hp _ hu
  · cases e

theorem held_isrPreempt {s t : State} {h : Hooks} (hh : h.Keep) (hc : s.ctx = .task) (e : isrPreempt h s = .ok ((), t)) :
    s.Held t := by
  have hs : s.inCtx .task = s := hc ▸ rfl
  exact hs ▸ moves_isrPreempt (s0 := s) .task h hh s () t (hs.symm ▸ .refl s) e

theorem hooksAt_keep : ∀ n, (hooksAt n).Keep
  | 0 => by
    constructor
    case irq =>
      intro s t _ e
      cases e
      exact .refl s
    all_goals
      intros
      next e =>
      cases e
      exact .refl _
  | n + 1 =>
    { upper := fun e => held_upperNext (hooksAt_keep n) e
      irq := fun hc e => held_runUnit (fun _ => held_isrPreempt (hooksAt_keep n) hc) e
      retry := fun {_ s _} e => held_runUnit (fun u hu =>
        ok_retryDeferredHalt (sound_keeps s) _ (canX_all _) canGlob_all _ (hooksAt_keep n) s () u (.refl s) hu) e }

/-- The handler runs in its own context until it has no event left (R472). -/
theorem isrStep_cases {s t : State} {h : Hooks} (hh : h.Keep) (e : isrStep h s = .ok ((), t)) :
    ∃ v u, v.inCtx .isr = v ∧ s.Kept v ∧ v.prompt = s.prompt ∧ v.Held u ∧
      (isrLoop isrFuel h v = .ok (true, u) ∧ t = u.leaveHandler ∨ isrLoop isrFuel h v = .ok (false, u) ∧ t = u) := by
  have henter : ∃ v, (doIf (decide (s.ctx = .task)) (act State.enterHandler)) h s = .ok ((), v) ∧ v.inCtx .isr = v ∧
      s.Kept v ∧ v.prompt = s.prompt := by
    cases hc : s.ctx with
    | task => exact ⟨s.enterHandler, by simp [doIf], rfl, .of_eq rfl rfl rfl rfl rfl, rfl⟩
    | isr => exact ⟨s, by simp [doIf], hc ▸ rfl, .refl s, rfl⟩
  obtain ⟨v, hv, hctx, hk, hp⟩ := henter
  rw [isrStep, run_ask_bind, run_bind_ok hv, run_bind] at e
  split at e
  · next d u hu =>
    refine ⟨v, u, hctx, hk, hp, keeps_isrLoop _ h hh v d u (.refl v) hu, ?_⟩
    cases d with
    | true =>
      cases e
      exact .inl ⟨hu, rfl⟩
    | false =>
      cases e
      exact .inr ⟨hu, rfl⟩
  · cases e

theorem kept_isrStep {s t : State} {h : Hooks} (hh : h.Keep) (e : isrStep h s = .ok ((), t)) : s.Kept t := by
  obtain ⟨v, u, -, hk, -, held, ⟨-, rfl⟩ | ⟨-, rfl⟩⟩ := isrStep_cases hh e
  · exact (hk.trans held.toKept).trans (.of_eq rfl rfl rfl rfl rfl)
  · exact hk.trans held.toKept

/-! The instructions. -/

theorem State.kept_again (s : State) (i : Instr) : s.Kept (s.again i) := .of_eq rfl rfl rfl rfl rfl

theorem kept_runCmd {i : Instr} {p : M Result} {s t : State} (hp : Keeps s p) (e : runCmd i p s = .next t) : s.Kept t := by
  rcases runCmd_cases e with ⟨r, u, hu, rfl⟩ | ⟨-, rfl⟩
  · exact (hp _ (hooksAt_keep _) _ _ _ (.refl s) hu).toKept.trans (.of_eq rfl rfl rfl rfl rfl)
  · exact s.kept_again i

theorem kept_runEvt {i : Instr} {p : M Unit} {s t : State} (hp : Keeps (s.inCtx .isr) p) (e : runEvt i p s = .next t) :
    s.Kept t := by
  rcases runEvt_cases e with ⟨u, hu, rfl⟩ | ⟨-, rfl⟩
  · exact ((hp _ (hooksAt_keep _) _ _ _ (.refl _) hu).recontext s.ctx).toKept
  · exact s.kept_again i

theorem kept_runReq {i : Instr} {n : BitVec 16} {p : M ReqResult} {s t : State} (hp : Keeps (s.inCtx .isr) p)
    (e : runReq i n p s = .next t) : s.Kept t :=
  kept_runEvt (keeps_bind hp fun _ => ok_ep0Conclude (sound_keeps (s.inCtx .isr)) _ _ (devRole_all _)) e

theorem kept_execIsr {s t : State} (e : execIsr s = .next t) : s.Kept t := by
  unfold execIsr runProc at e
  split at e
  · next u hu =>
    cases e
    simp only [isrCmd, run_ask_bind] at hu
    split at hu
    · rw [isrFunctional, run_ask_bind, run_bind] at hu
      split at hu
      · next v hv =>
        have held := keeps_assert _ _ _ (hooksAt_keep _) s _ v (.refl s) hv
        exact held.toKept.trans (kept_isrStep (hooksAt_keep _) hu)
      · cases hu
    · cases hu
      exact .of_eq rfl rfl rfl rfl rfl
  · next x hx =>
    obtain ⟨-, rfl⟩ := stopOutcome_next e
    exact s.kept_again _

theorem keeps_linkCompletes {s0 : State} (x : XRef) (w : Word) : Keeps s0 (linkCompletes (intOf x) w) :=
  keeps_other fun s => .of (State.kept_when fun _ => s.kept_post x w)
    (by simp only [State.when, State.post, apply_ite State.prompt, State.setBits_prompt, ite_self])
    (by simp only [State.when, State.post, apply_ite State.ctx, State.setBits_ctx, ite_self])

theorem kept_cmd {i : Instr} {p : M Result} {s t : State} (e : runCmd i p s = .next t) (h : cmdOf i = some p) : s.Kept t :=
  kept_runCmd (keeps_cmdOf h) e

/-- Every instruction keeps everything. -/
theorem kept_exec {i : Instr} {s t : State} (e : exec i s = .next t) : s.Kept t := by
  have L := sound_keeps (s.inCtx .isr)
  have R := devRole_all ((s.inCtx .isr).Held ·)
  cases i
  case topOtgint => exact kept_runEvt keeps_evtOtgint e
  case topRxflvl => exact kept_runEvt (ok_evtRxflvl L canGlob_all) e
  case topNptxfemp => exact kept_runEvt keeps_evtNptxfemp e
  case topUsbsusp => exact kept_runEvt (keeps_inMode _ _ (ok_evtUsbsusp L canGlob_all)) e
  case topUsbrst => exact kept_runEvt (keeps_inMode _ _ (ok_evtUsbrst L R)) e
  case topEnumdone => exact kept_runEvt (keeps_inMode _ _ (ok_evtEnumdone L R)) e
  case topIsooutdrop => exact kept_runEvt (keeps_inMode _ _ (ok_evtIsooutdrop L R)) e
  case topIepint => exact kept_runEvt (keeps_inMode _ _ keeps_evtIepint) e
  case topOepint => exact kept_runEvt (keeps_inMode _ _ keeps_evtOepint) e
  case topHchint => exact kept_runEvt (keeps_inMode _ _ keeps_evtHchint) e
  case topPtxfemp => exact kept_runEvt keeps_evtPtxfemp e
  case topConidstschng => exact kept_runEvt keeps_evtConidstschng e
  case topDisconnint => exact kept_runEvt keeps_evtDisconnint e
  case topWkupint => exact kept_runEvt (ok_evtWkupint L canGlob_all) e
  case otgSesenddet => exact kept_runEvt keeps_evtSesenddet e
  case otgHstnegsucstschng => exact kept_runEvt keeps_evtHstnegsucstschng e
  case inXfercompl n => exact kept_runEvt (ok_evtInXfercompl L n (canEp_all n) R) e
  case inEpdisbld n => exact kept_runEvt (ok_evtInEpdisbld L n (canEp_all n) R) e
  case inAhberr n => exact kept_runEvt (ok_evtInAhberr L n (canEp_all n) R) e
  case inTimeout n => exact kept_runEvt (ok_evtInTimeout L n (canEp_all n)) e
  case inTxfemp n => exact kept_runEvt (ok_evtInTxfemp L n (canEp_all n) R) e
  case inBna n => exact kept_runEvt (ok_evtInBna L n (canEp_all n) R) e
  case outXfercompl n => exact kept_runEvt (ok_evtOutXfercompl L n (canEp_all n) R) e
  case outEpdisbld n => exact kept_runEvt (ok_evtOutEpdisbld L n (canEp_all n) R) e
  case outAhberr n => exact kept_runEvt (ok_evtOutAhberr L n (canEp_all n) R) e
  case outSetup n => exact kept_runEvt (ok_evtOutSetup L n (canEp_all n) R) e
  case outOutpkterr n => exact kept_runEvt (ok_evtOutOutpkterr L n (canEp_all n) R) e
  case outBna n => exact kept_runEvt (ok_evtOutBna L n (canEp_all n) R) e
  case outBbleerr n => exact kept_runEvt (ok_evtOutBbleerr L n (canEp_all n) R) e
  case chXfercompl c => exact kept_runEvt (ok_evtChXfercompl L c (canX_all _) canGlob_all) e
  case chChhltd c => exact kept_runEvt (ok_evtChChhltd L c (canX_all _) canGlob_all) e
  case chAhberr c => exact kept_runEvt (ok_channelEvent L c 2 (canCh_all c) (ok_halt L c _ (canX_all _) canGlob_all)) e
  case chStall c => exact kept_runEvt (ok_channelEvent L c 3 (canCh_all c) (ok_halt L c _ (canX_all _) canGlob_all)) e
  case chNak c => exact kept_runEvt (ok_evtChNak L c (canX_all _) canGlob_all) e
  case chAck c => exact kept_runEvt (ok_evtChAck L c (canX_all _) canGlob_all) e
  case chNyet c => exact kept_runEvt (ok_evtChNyet L c (canX_all _)) e
  case chXacterr c => exact kept_runEvt (ok_evtChXacterr L c (canX_all _) canGlob_all) e
  case chBblerr c => exact kept_runEvt (ok_channelEvent L c 8 (canCh_all c) (ok_halt L c _ (canX_all _) canGlob_all)) e
  case chBna c => exact kept_runEvt (ok_evtChBna L c (canX_all _) canGlob_all) e
  case getStatus f => exact kept_runReq (ok_getStatusReq L f) e
  case clearFeature f => exact kept_runReq (ok_clearFeatureReq L f R) e
  case setFeature f => exact kept_runReq (ok_setFeatureReq L f R) e
  case setAddress f => exact kept_runReq (ok_setAddressReq L f R) e
  case getDescriptor f => exact kept_runReq (ok_getDescriptorReq L f) e
  case setConfiguration f => exact kept_runReq (ok_setConfigurationReq L f R) e
  case setInterface f => exact kept_runReq (ok_setInterfaceReq L f R) e
  case delegatedRequest p => exact kept_runReq (ok_delegate L p) e
  case rxsOutData r => exact kept_runEvt (ok_rxOutData L r canGlob_all) e
  case rxsSetupData r => exact kept_runEvt (ok_rxSetupData L canGlob_all) e
  case rxsInData r => exact kept_runEvt (ok_rxInData L r canGlob_all) e
  case rxsOutComplete r => exact kept_runEvt (i := .rxsOutComplete r) (p := rxOutComplete r) (keeps_linkCompletes (.ep ⟨r.num, .OUT⟩) _) e
  case rxsSetupComplete r => exact kept_runEvt (i := .rxsSetupComplete r) (p := rxSetupComplete r) (keeps_linkCompletes (.ep ⟨r.num, .OUT⟩) _) e
  case rxsInComplete r => exact kept_runEvt (i := .rxsInComplete r) (p := rxInComplete r) (keeps_linkCompletes (.ch r.num) _) e
  case rxsChannelHalted r => exact kept_runEvt (i := .rxsChannelHalted r) (p := rxChannelHalted r) (keeps_linkCompletes (.ch r.num) _) e
  case topUnassigned k | otgSesreqsucstschng | otgUnassigned k | inUnassigned n k | outUnassigned n k | chUnassigned c k =>
    exact kept_runEvt (keeps_unhandledBit _ _) e
  case isr => exact kept_execIsr e
  all_goals exact kept_cmd e rfl

/-- What is to be done next starts from a state that keeps everything since `s`. -/
def Choice.After (s : State) : Choice → Prop
  | .run _ t | .answer _ t | .skip t => s.Kept t
  | .idle | .refuse => True

/-- What a step chooses to do starts from the machine as it is but for its inbox. -/
theorem State.choose_after (s : State) : s.choose.After s := by
  have hin : ∀ l, s.Kept { s with inbox := l } := fun _ => .of_eq rfl rfl rfl rfl rfl
  unfold State.choose
  split
  · split
    · unfold stimulusChoice
      split <;> first | exact hin _ | trivial
    · split
      · exact .refl s
      · split
        · exact .refl s
        · unfold commandChoice
          split <;> exact hin _
  · split
    · exact .refl s
    · split
      · exact .refl s
      · trivial

/-- Every step keeps everything. -/
theorem kept_step {s t : State} (e : step s = .next t) : s.Kept t := by
  have k := s.choose_after
  unfold step at e
  cases hc : s.choose with
  | run i u =>
    rw [hc] at k e
    exact k.trans (kept_exec e)
  | answer st u =>
    rw [hc] at k e
    cases e
    exact k.trans (.of_eq rfl rfl rfl rfl rfl)
  | skip u =>
    rw [hc] at k e
    cases e
    exact k
  | idle =>
    rw [hc] at e
    cases e
    exact s.kept_tick
  | refuse =>
    rw [hc] at e
    cases e

/-- Settles O6: the canonical form and the low bits are kept by every step. -/
theorem stepKeepsTheInvariants : Obligations.StepKeepsTheInvariants := by
  intro s t e
  have k := kept_step e
  rw [State.reservedLow_iff, State.reservedLow_iff]
  exact ⟨k.canonical, k.low⟩

/-- Settles O7: the parameters are kept, and the mode while nothing is scripted. -/
theorem stepKeepsTheParametersAndTheMode : Obligations.StepKeepsTheParametersAndTheMode := by
  intro s t e
  exact ⟨(kept_step e).hw, (kept_step e).mode⟩

end Sys2Proof.Machine

/-! PROOF. One step of the machine, and what reset leaves (R80, R170, R471, R474, R521). -/

namespace Sys2Proof.Machine

open Sys2Proof

theorem choose_stimulus {s : State} {p : Port} {bs : List Byte} {rest : List (Port × List Byte)}
    (h : s.inbox = (p, bs) :: rest) (hp : p ≠ .cmd) : s.choose = stimulusChoice p bs { s with inbox := rest } := by
  rw [State.choose, h]
  exact if_pos hp

theorem choose_command {s : State} {bs : List Byte} {rest : List (Port × List Byte)} (h : s.inbox = (.cmd, bs) :: rest)
    (hc : s.ctx = .task) (hd : s.irqDue = false) : s.choose = commandChoice bs { s with inbox := rest } := by
  rw [State.choose, h]
  simp [hc, hd]

theorem choose_idle {s : State} (h : s.inbox = []) (hc : s.ctx = .task) (hd : s.irqDue = false) : s.choose = .idle := by
  rw [State.choose, h]
  simp [hc, hd]

/-- With the line high the handler comes before any command. -/
theorem choose_handler {s : State} (h : ∀ p bs rest, s.inbox = (p, bs) :: rest → p = .cmd) (hd : s.irqDue = true) :
    s.choose = .run .isr s := by
  unfold State.choose
  split
  · next p bs rest hi =>
    cases h p bs rest hi
    simp [hd]
  · simp [hd]

/-- Settles O1: the bytes at a port are what a step runs, once nothing else is due. -/
theorem stepRunsTheDecodedInstruction : Obligations.StepRunsTheDecodedInstruction := by
  intro s p bs rest i tail h hd hp
  unfold step
  by_cases hc : p = .cmd
  · subst hc
    obtain ⟨ht, hi⟩ := hp.resolve_left fun h => h rfl
    rw [choose_command h ht hi, commandChoice, hd]
  · rw [choose_stimulus h hc, stimulusChoice, hd]

/-- Settles O2: the handler while the line is high, LINK and DMA while there is nothing to do. -/
theorem stepTakesTheInterrupt : Obligations.StepTakesTheInterrupt := by
  refine ⟨fun s h hd => ?_, fun s h hc hd => ?_⟩
  · rw [step, choose_handler h hd]
  · rw [step, choose_idle h hc hd]
    rfl

/-- Power-on stores words in two registers alone. -/
theorem reset_raw {r : Reg} (hc : r.offset ≠ 0x000) (hg : r.offset ≠ 0x010) : State.reset.raw r = 0 := by
  simp [State.reset, State.raw, resetRegs, SMap.get, hc.symm, hg.symm]

theorem reset_reservedLow : State.reset.reservedLow := by
  intro n
  have hz : ∀ r ∈ [Reg.DIEPCTL n, .DOEPCTL n, .DIEPTSIZ n, .DOEPTSIZ n, .HCTSIZ n, .DIEPMSK, .DOEPMSK, .HCINTMSK n, .HCSPLT n],
      State.reset.raw r = 0 := by
    intro r hr
    simp only [List.mem_cons, List.not_mem_nil, or_false] at hr
    rcases hr with rfl | rfl | rfl | rfl | rfl | rfl | rfl | rfl | rfl <;>
      exact reset_raw (by simp only [Reg.offset, bankOffset]; omega) (by simp only [Reg.offset, bankOffset]; omega)
  refine ⟨?_, ?_, fun r hr => ?_, fun r hr => ?_⟩
  · rw [hz _ (by simp)]; rfl
  · rw [hz _ (by simp)]; rfl
  · rw [hz r (by simp at hr ⊢; tauto)]
    simp
  · rw [hz r (by simp at hr ⊢; tauto)]
    simp

/-- Settles O5: the state of power-on, field by field. -/
theorem resetState : Obligations.ResetState := by
  refine ⟨rfl, rfl, rfl, rfl, rfl, rfl, fun n => ⟨?_, ?_, ?_⟩, rfl, rfl, ⟨rfl, rfl, rfl⟩, reset_reservedLow⟩
  all_goals exact reset_raw (by simp only [Reg.offset, bankOffset]; omega) (by simp only [Reg.offset, bankOffset]; omega)

end Sys2Proof.Machine

/-! PROOF. Running a procedure where nothing but the sequencer acts: one rule for each kind of step, readings after a
register write, and frames as a rewriting system (R16, R104, R471). -/

namespace Sys2Proof.Machine

open Sys2Proof

variable {α β : Type}

/-! Control flow. -/

@[simp] theorem run_ite (c : Prop) [Decidable c] (p q : M α) (h : Hooks) (s : State) :
    (if c then p else q) h s = if c then p h s else q h s := by
  split <;> rfl

@[simp] theorem run_doIf (c : Bool) (p : M Unit) (h : Hooks) (s : State) :
    doIf c p h s = if c then p h s else .ok ((), s) := by
  cases c <;> rfl

@[simp] theorem run_modEp (e : EpRef) (f : EpRec → EpRec) (h : Hooks) (s : State) :
    modEp e f h s = .ok ((), s.modEp e f) := rfl

@[simp] theorem run_modCh (c : Fin 16) (f : ChRec → ChRec) (h : Hooks) (s : State) :
    modCh c f h s = .ok ((), s.modCh c f) := rfl

@[simp] theorem run_modX (x : XRef) (f : Xfer → Xfer) (h : Hooks) (s : State) : modX x f h s = .ok ((), s.modX x f) := rfl

@[simp] theorem run_modCore (f : CoreRec → CoreRec) (h : Hooks) (s : State) :
    modCore f h s = .ok ((), s.withCore (f s.core)) := rfl

@[simp] theorem run_modEp0 (f : Ep0Rec → Ep0Rec) (h : Hooks) (s : State) :
    modEp0 f h s = .ok ((), s.withEp0 (f s.ep0)) := rfl

@[simp] theorem run_forEach_nil (p : α → M Unit) (h : Hooks) (s : State) : forEach [] p h s = .ok ((), s) := rfl

@[simp] theorem run_logMsg (m : LogMsg) (h : Hooks) (s : State) : logMsg m h s = .ok ((), s.note (.log m)) := rfl

/-- A bit of a numeral. -/
@[simp] theorem bitOf_ofNat (n k : Nat) : bitOf (BitVec.ofNat 32 n) k = (BitVec.ofNat 32 n).getLsbD k := rfl

/-! Registers: the places that two of them share, and those whose write moves the gate, a reset or a FIFO. -/

theorem Reg.offset_ne {q r : Reg} (h : q ≠ r) (hq : q ≠ .DIEPTXF 0) (hr : r ≠ .DIEPTXF 0) : q.offset ≠ r.offset :=
  fun e => h (Reg.offset_inj hq hr e)

theorem Reg.offset_ne_gahbcfg {r : Reg} (h : r ≠ .GAHBCFG) : Reg.offset .GAHBCFG ≠ r.offset := by
  by_cases hr : r = .DIEPTXF 0
  · subst hr
    decide
  · exact Reg.offset_ne h.symm (by simp) hr

theorem Reg.offset_ne_grstctl {r : Reg} (h : r ≠ .GRSTCTL) : Reg.offset .GRSTCTL ≠ r.offset := by
  by_cases hr : r = .DIEPTXF 0
  · subst hr
    decide
  · exact Reg.offset_ne h.symm (by simp) hr

@[simp] theorem Reg.keepsFifo_iff (r : Reg) : r.keepsFifo = true ↔ (∀ n, r ≠ .HCCHAR n) ∧ ∀ n, r ≠ .FIFO n := by
  cases r <;> simp [Reg.keepsFifo]

@[simp] theorem Reg.steady_iff (r : Reg) : r.steady = true ↔ r ≠ .GRXSTSR ∧ r ≠ .GRXSTSP ∧ ∀ n, r ≠ .FIFO n := by
  cases r <;> simp [Reg.steady]

theorem epCtl_cases (e : EpRef) : epCtl e = .DIEPCTL e.num ∨ epCtl e = .DOEPCTL e.num := by
  unfold epCtl
  split <;> simp

@[simp] theorem epCtl_ne_of {e : EpRef} {r : Reg} (hi : .DIEPCTL e.num ≠ r) (ho : .DOEPCTL e.num ≠ r) : epCtl e ≠ r := by
  rcases epCtl_cases e with h | h <;> rwa [h]

@[simp] theorem ne_epCtl {e : EpRef} {r : Reg} (hi : .DIEPCTL e.num ≠ r) (ho : .DOEPCTL e.num ≠ r) : r ≠ epCtl e :=
  (epCtl_ne_of hi ho).symm

theorem epInt_cases (e : EpRef) : epInt e = .DIEPINT e.num ∨ epInt e = .DOEPINT e.num := by
  unfold epInt
  split <;> simp

@[simp] theorem epInt_ne_of {e : EpRef} {r : Reg} (hi : .DIEPINT e.num ≠ r) (ho : .DOEPINT e.num ≠ r) : epInt e ≠ r := by
  rcases epInt_cases e with h | h <;> rwa [h]

@[simp] theorem ne_epInt {e : EpRef} {r : Reg} (hi : .DIEPINT e.num ≠ r) (ho : .DOEPINT e.num ≠ r) : r ≠ epInt e :=
  (epInt_ne_of hi ho).symm

theorem epSiz_cases (e : EpRef) : epSiz e = .DIEPTSIZ e.num ∨ epSiz e = .DOEPTSIZ e.num := by
  unfold epSiz
  split <;> simp

@[simp] theorem epSiz_ne_of {e : EpRef} {r : Reg} (hi : .DIEPTSIZ e.num ≠ r) (ho : .DOEPTSIZ e.num ≠ r) : epSiz e ≠ r := by
  rcases epSiz_cases e with h | h <;> rwa [h]

@[simp] theorem ne_epSiz {e : EpRef} {r : Reg} (hi : .DIEPTSIZ e.num ≠ r) (ho : .DOEPTSIZ e.num ≠ r) : r ≠ epSiz e :=
  (epSiz_ne_of hi ho).symm

theorem epDma_cases (e : EpRef) : epDma e = .DIEPDMA e.num ∨ epDma e = .DOEPDMA e.num := by
  unfold epDma
  split <;> simp

@[simp] theorem epDma_ne_of {e : EpRef} {r : Reg} (hi : .DIEPDMA e.num ≠ r) (ho : .DOEPDMA e.num ≠ r) : epDma e ≠ r := by
  rcases epDma_cases e with h | h <;> rwa [h]

@[simp] theorem ne_epDma {e : EpRef} {r : Reg} (hi : .DIEPDMA e.num ≠ r) (ho : .DOEPDMA e.num ≠ r) : r ≠ epDma e :=
  (epDma_ne_of hi ho).symm

theorem epMsk_cases (e : EpRef) : epMsk e = .DIEPMSK ∨ epMsk e = .DOEPMSK := by
  unfold epMsk
  split <;> simp

@[simp] theorem epMsk_ne_of {e : EpRef} {r : Reg} (hi : .DIEPMSK ≠ r) (ho : .DOEPMSK ≠ r) : epMsk e ≠ r := by
  rcases epMsk_cases e with h | h <;> rwa [h]

@[simp] theorem ne_epMsk {e : EpRef} {r : Reg} (hi : .DIEPMSK ≠ r) (ho : .DOEPMSK ≠ r) : r ≠ epMsk e :=
  (epMsk_ne_of hi ho).symm

/-! Readings after a register write. -/

@[simp] theorem State.raw_writeReg_other (s : State) {q r : Reg} (v : Word) (h : q ≠ r) (hq : q ≠ .DIEPTXF 0)
    (hr : r ≠ .DIEPTXF 0) : (s.writeReg r v).raw q = s.raw q :=
  s.raw_writeReg_ne v (Reg.offset_ne h hq hr)

@[simp] theorem State.raw_writeReg_plain (s : State) {r : Reg} (v : Word)
    (h : ∀ n, r ≠ .DIEPCTL n ∧ r ≠ .DOEPCTL n ∧ r ≠ .FIFO n) : (s.writeReg r v).raw r = s.stored r v :=
  s.raw_writeReg v (by cases r <;> simp_all)

@[simp] theorem State.unsettled_of_writeReg (s : State) {r : Reg} (v : Word) (h : r ≠ .GRSTCTL) :
    (s.writeReg r v).unsettled = s.unsettled :=
  s.unsettled_writeReg v (Reg.offset_ne_grstctl h)

@[simp] theorem State.slaveHw_of_writeReg (s : State) {r : Reg} (v : Word) (h : r ≠ .GAHBCFG) :
    (s.writeReg r v).slaveHw = s.slaveHw := by
  rw [State.slaveHw, s.raw_writeReg_ne v (Reg.offset_ne_gahbcfg h), State.slaveHw]

@[simp] theorem State.fifo_of_writeReg (s : State) {r : Reg} (v : Word) (hc : ∀ n, r ≠ .HCCHAR n) (hf : ∀ n, r ≠ .FIFO n) :
    (s.writeReg r v).fifo = s.fifo :=
  s.writeReg_fifo v (by cases r <;> simp_all)

@[simp] theorem State.raw_setBits_same (s : State) (r : Reg) (w : Word) : (s.setBits r w).raw r = s.raw r ||| w :=
  s.raw_setRaw_same r _

@[simp] theorem State.raw_setBits_other (s : State) {q r : Reg} (w : Word) (h : q ≠ r) (hq : q ≠ .DIEPTXF 0)
    (hr : r ≠ .DIEPTXF 0) : (s.setBits r w).raw q = s.raw q :=
  s.raw_setRaw_ne _ (Reg.offset_ne h hq hr)

/-! States in which nothing but the sequencer acts. -/

/-- Nothing acts between two accesses, no reset or flush settles. -/
structure State.Calm (s : State) : Prop where
  quiet : s.Quiet
  settled : s.unsettled = false

theorem State.Alone.calm {s : State} (a : s.Alone) : (s.inCtx .isr).Calm :=
  ⟨a.quiet, by simpa using a.settled⟩

theorem State.Alone.calmTask {s : State} (a : s.Alone) (h : s.Shut) : s.Calm := ⟨⟨a.env, a.prompt, h⟩, a.settled⟩

/-- Calm states differ neither in the scripts nor in the context, the gate and the settling bits. -/
theorem State.calm_congr {s t : State} (he : t.env = s.env) (hp : t.prompt = s.prompt) (hc : t.ctx = s.ctx)
    (hr : t.regs = s.regs) : t.Calm ↔ s.Calm := by
  have q : t.Quiet ↔ s.Quiet := State.quiet_congr he hp hc (by rw [State.raw_congr hr])
  have u : t.unsettled = s.unsettled := State.unsettled_congr hr
  exact ⟨fun c => ⟨q.mp c.quiet, u ▸ c.settled⟩, fun c => ⟨q.mpr c.quiet, u ▸ c.settled⟩⟩

@[simp] theorem State.calm_note (s : State) (e : TraceEv) : (s.note e).Calm ↔ s.Calm := State.calm_congr rfl rfl rfl rfl
@[simp] theorem State.calm_modEp (s : State) (e : EpRef) (f : EpRec → EpRec) : (s.modEp e f).Calm ↔ s.Calm :=
  State.calm_congr (by simp) (by simp) (by simp) (by simp)
@[simp] theorem State.calm_modCh (s : State) (c : Fin 16) (f : ChRec → ChRec) : (s.modCh c f).Calm ↔ s.Calm :=
  State.calm_congr rfl rfl rfl rfl
@[simp] theorem State.calm_modX (s : State) (x : XRef) (f : Xfer → Xfer) : (s.modX x f).Calm ↔ s.Calm :=
  State.calm_congr (by simp) (by simp) (by simp) (by simp)
@[simp] theorem State.calm_modReqAt (s : State) (i : ReqId) (f : Req → Req) : (s.modReqAt i f).Calm ↔ s.Calm :=
  State.calm_congr (by simp) (by simp) (by simp) (by simp)
@[simp] theorem State.calm_withPool (s : State) (x : List (Option Req)) : (s.withPool x).Calm ↔ s.Calm :=
  State.calm_congr rfl rfl rfl rfl
@[simp] theorem State.calm_withEp0 (s : State) (x : Ep0Rec) : (s.withEp0 x).Calm ↔ s.Calm :=
  State.calm_congr rfl rfl rfl rfl
@[simp] theorem State.calm_withCore (s : State) (x : CoreRec) : (s.withCore x).Calm ↔ s.Calm :=
  State.calm_congr rfl rfl rfl rfl
@[simp] theorem State.calm_withIso (s : State) (x : List IsoRec) : (s.withIso x).Calm ↔ s.Calm :=
  State.calm_congr rfl rfl rfl rfl
@[simp] theorem State.calm_withHtog (s : State) (x : SMap Bool) : (s.withHtog x).Calm ↔ s.Calm :=
  State.calm_congr rfl rfl rfl rfl
@[simp] theorem State.calm_withFifo (s : State) (x : Fifo) : (s.withFifo x).Calm ↔ s.Calm :=
  State.calm_congr rfl rfl rfl rfl
@[simp] theorem State.calm_withPlat (s : State) (x : Platform) : (s.withPlat x).Calm ↔ s.Calm :=
  State.calm_congr rfl rfl rfl rfl
@[simp] theorem State.calm_setBytes (s : State) (a : Word) (bs : List Byte) : (s.setBytes a bs).Calm ↔ s.Calm :=
  State.calm_congr (by simp) (by simp) (by simp) (by simp)
@[simp] theorem State.calm_setWord (s : State) (a w : Word) : (s.setWord a w).Calm ↔ s.Calm :=
  State.calm_congr (by simp) (by simp) (by simp) (by simp)

@[simp] theorem State.calm_writeReg (s : State) {r : Reg} (v : Word) (hg : r ≠ .GAHBCFG) (hr : r ≠ .GRSTCTL) :
    (s.writeReg r v).Calm ↔ s.Calm := by
  have q : (s.writeReg r v).Quiet ↔ s.Quiet := s.quiet_writeReg v (Reg.offset_ne_gahbcfg hg)
  have u : (s.writeReg r v).unsettled = s.unsettled := s.unsettled_of_writeReg v hr
  exact ⟨fun c => ⟨q.mp c.quiet, u ▸ c.settled⟩, fun c => ⟨q.mpr c.quiet, u ▸ c.settled⟩⟩

/-! Accesses in a calm state. -/

@[simp] theorem regRead_calm {s : State} {r : Reg} (c : s.Calm) (ha : s.accessible r = true) (hs : r.steady = true)
    (h : Hooks) : regRead r h s = .ok (s.peek r, s.note (.rd r.offset (s.peek r))) :=
  regRead_quiet c.quiet ha hs c.settled h

@[simp] theorem regWrite_calm {s : State} {r : Reg} (c : s.Calm) (ha : s.accessible r = true) (v : Word) (h : Hooks) :
    regWrite r v h s = .ok ((), (s.writeReg r v).note (.wr r.offset v)) :=
  regWrite_quiet c.quiet ha v h

@[simp] theorem regUpdate_calm {s : State} {r : Reg} (c : s.Calm) (ha : s.accessible r = true) (hs : r.steady = true)
    (f : Word → Word) (h : Hooks) :
    regUpdate r f h s = .ok ((), ((s.note (.rd r.offset (s.peek r))).writeReg r (f (s.peek r))).note
      (.wr r.offset (f (s.peek r)))) :=
  regUpdate_quiet c.quiet ha hs c.settled f h

@[simp] theorem regUpdateAt_calm {s : State} {r : Reg} (c : s.Calm) (ha : s.accessible r = true) (hs : r.steady = true)
    (f : State → Word → Word) (h : Hooks) :
    regUpdateAt r f h s = regUpdate r (f (s.note (.rd r.offset (s.peek r)))) h s :=
  regUpdateAt_quiet c.quiet ha hs c.settled f h

@[simp] theorem memRead32_calm {s : State} (c : s.Calm) (a : Word) (h : Hooks) :
    memRead32 a h s = .ok (s.word a, s.note (.mr a.toNat (s.word a))) :=
  memRead32_silent c.quiet.silent a h

@[simp] theorem memWrite32_calm {s : State} (c : s.Calm) (a v : Word) (ho : s.owned a = false) (h : Hooks) :
    memWrite32 a v h s = .ok ((), (s.setWord a v).note (.mw a.toNat v)) :=
  memWrite32_silent c.quiet.silent a v ho h

@[simp] theorem callback_calm (n : Nat) {s : State} (c : Callback) (hr : s.replies = []) :
    callback c (hooksAt n) s = .ok ((), s.note (.cb c)) :=
  callback_idle n c hr

/-! Which registers answer. -/

theorem accessible_core {s : State} {r : Reg} (hh : r.isHost = false) (hd : r.isDevice = false)
    (hr : r.inRange s.hw.caps = true) : s.accessible r = true := by
  simp [State.accessible, hh, hd, hr]

@[simp] theorem accessible_gotgctl (s : State) : s.accessible .GOTGCTL = true := accessible_core rfl rfl rfl
@[simp] theorem accessible_gotgint (s : State) : s.accessible .GOTGINT = true := accessible_core rfl rfl rfl
@[simp] theorem accessible_gahbcfg (s : State) : s.accessible .GAHBCFG = true := accessible_core rfl rfl rfl
@[simp] theorem accessible_gusbcfg (s : State) : s.accessible .GUSBCFG = true := accessible_core rfl rfl rfl
@[simp] theorem accessible_grstctl (s : State) : s.accessible .GRSTCTL = true := accessible_core rfl rfl rfl
@[simp] theorem accessible_gintsts (s : State) : s.accessible .GINTSTS = true := accessible_core rfl rfl rfl
@[simp] theorem accessible_gintmsk (s : State) : s.accessible .GINTMSK = true := accessible_core rfl rfl rfl
@[simp] theorem accessible_grxstsr (s : State) : s.accessible .GRXSTSR = true := accessible_core rfl rfl rfl
@[simp] theorem accessible_grxstsp (s : State) : s.accessible .GRXSTSP = true := accessible_core rfl rfl rfl
@[simp] theorem accessible_grxfsiz (s : State) : s.accessible .GRXFSIZ = true := accessible_core rfl rfl rfl
@[simp] theorem accessible_gnptxfsiz (s : State) : s.accessible .GNPTXFSIZ = true := accessible_core rfl rfl rfl
@[simp] theorem accessible_gnptxsts (s : State) : s.accessible .GNPTXSTS = true := accessible_core rfl rfl rfl
@[simp] theorem accessible_ghwcfg2 (s : State) : s.accessible .GHWCFG2 = true := accessible_core rfl rfl rfl
@[simp] theorem accessible_ghwcfg3 (s : State) : s.accessible .GHWCFG3 = true := accessible_core rfl rfl rfl
@[simp] theorem accessible_ghwcfg4 (s : State) : s.accessible .GHWCFG4 = true := accessible_core rfl rfl rfl
@[simp] theorem accessible_hptxfsiz (s : State) : s.accessible .HPTXFSIZ = true := accessible_core rfl rfl rfl
@[simp] theorem accessible_pcgcctl (s : State) : s.accessible .PCGCCTL = true := accessible_core rfl rfl rfl
@[simp] theorem accessible_fifo (s : State) (n : Fin 16) : s.accessible (.FIFO n) = true := accessible_core rfl rfl rfl

section
variable {s : State} (hm : s.hostMode = false)
include hm

@[simp] theorem accessible_dcfg : s.accessible .DCFG = true := accessible_device hm rfl rfl
@[simp] theorem accessible_dsts : s.accessible .DSTS = true := accessible_device hm rfl rfl
@[simp] theorem accessible_diepmsk : s.accessible .DIEPMSK = true := accessible_device hm rfl rfl
@[simp] theorem accessible_doepmsk : s.accessible .DOEPMSK = true := accessible_device hm rfl rfl
@[simp] theorem accessible_daint : s.accessible .DAINT = true := accessible_device hm rfl rfl
@[simp] theorem accessible_daintmsk : s.accessible .DAINTMSK = true := accessible_device hm rfl rfl
@[simp] theorem accessible_diepempmsk : s.accessible .DIEPEMPMSK = true := accessible_device hm rfl rfl
@[simp] theorem accessible_diepctl {n : Fin 16} (hn : n.val < s.hw.caps.nEp) : s.accessible (.DIEPCTL n) = true :=
  accessible_device hm rfl (decide_eq_true hn)
@[simp] theorem accessible_diepint {n : Fin 16} (hn : n.val < s.hw.caps.nEp) : s.accessible (.DIEPINT n) = true :=
  accessible_device hm rfl (decide_eq_true hn)
@[simp] theorem accessible_dieptsiz {n : Fin 16} (hn : n.val < s.hw.caps.nEp) : s.accessible (.DIEPTSIZ n) = true :=
  accessible_device hm rfl (decide_eq_true hn)
@[simp] theorem accessible_diepdma {n : Fin 16} (hn : n.val < s.hw.caps.nEp) : s.accessible (.DIEPDMA n) = true :=
  accessible_device hm rfl (decide_eq_true hn)
@[simp] theorem accessible_dtxfsts {n : Fin 16} (hn : n.val < s.hw.caps.nEp) : s.accessible (.DTXFSTS n) = true :=
  accessible_device hm rfl (decide_eq_true hn)
@[simp] theorem accessible_doepctl {n : Fin 16} (hn : n.val < s.hw.caps.nEp) : s.accessible (.DOEPCTL n) = true :=
  accessible_device hm rfl (decide_eq_true hn)
@[simp] theorem accessible_doepint {n : Fin 16} (hn : n.val < s.hw.caps.nEp) : s.accessible (.DOEPINT n) = true :=
  accessible_device hm rfl (decide_eq_true hn)
@[simp] theorem accessible_doeptsiz {n : Fin 16} (hn : n.val < s.hw.caps.nEp) : s.accessible (.DOEPTSIZ n) = true :=
  accessible_device hm rfl (decide_eq_true hn)
@[simp] theorem accessible_doepdma {n : Fin 16} (hn : n.val < s.hw.caps.nEp) : s.accessible (.DOEPDMA n) = true :=
  accessible_device hm rfl (decide_eq_true hn)
@[simp] theorem accessible_epCtl {e : EpRef} (hn : e.num.val < s.hw.caps.nEp) : s.accessible (epCtl e) = true :=
  epCtl_accessible hm hn
@[simp] theorem accessible_epInt {e : EpRef} (hn : e.num.val < s.hw.caps.nEp) : s.accessible (epInt e) = true :=
  epInt_accessible hm hn
@[simp] theorem accessible_epSiz {e : EpRef} (hn : e.num.val < s.hw.caps.nEp) : s.accessible (epSiz e) = true :=
  epSiz_accessible hm hn
@[simp] theorem accessible_epDma {e : EpRef} (hn : e.num.val < s.hw.caps.nEp) : s.accessible (epDma e) = true :=
  epDma_accessible hm hn
@[simp] theorem accessible_epMsk (e : EpRef) : s.accessible (epMsk e) = true := epMsk_accessible e hm

end

section
variable {s : State} (hm : s.hostMode = true)
include hm

@[simp] theorem accessible_hcfg : s.accessible .HCFG = true := accessible_host hm rfl rfl
@[simp] theorem accessible_hfnum : s.accessible .HFNUM = true := accessible_host hm rfl rfl
@[simp] theorem accessible_hptxsts : s.accessible .HPTXSTS = true := accessible_host hm rfl rfl
@[simp] theorem accessible_haint : s.accessible .HAINT = true := accessible_host hm rfl rfl
@[simp] theorem accessible_haintmsk : s.accessible .HAINTMSK = true := accessible_host hm rfl rfl
@[simp] theorem accessible_hcchar {c : Fin 16} (hc : c.val < s.hw.caps.nCh) : s.accessible (.HCCHAR c) = true :=
  accessible_host hm rfl (decide_eq_true hc)
@[simp] theorem accessible_hcsplt {c : Fin 16} (hc : c.val < s.hw.caps.nCh) : s.accessible (.HCSPLT c) = true :=
  accessible_host hm rfl (decide_eq_true hc)
@[simp] theorem accessible_hcint {c : Fin 16} (hc : c.val < s.hw.caps.nCh) : s.accessible (.HCINT c) = true :=
  accessible_host hm rfl (decide_eq_true hc)
@[simp] theorem accessible_hcintmsk {c : Fin 16} (hc : c.val < s.hw.caps.nCh) : s.accessible (.HCINTMSK c) = true :=
  accessible_host hm rfl (decide_eq_true hc)
@[simp] theorem accessible_hctsiz {c : Fin 16} (hc : c.val < s.hw.caps.nCh) : s.accessible (.HCTSIZ c) = true :=
  accessible_host hm rfl (decide_eq_true hc)
@[simp] theorem accessible_hcdma {c : Fin 16} (hc : c.val < s.hw.caps.nCh) : s.accessible (.HCDMA c) = true :=
  accessible_host hm rfl (decide_eq_true hc)

end

/-! Frames: what an update of a listed register or part adds can be dropped. -/

section
variable {s t u : State} {rs : List Reg} {ps : List Part}

theorem Frame.symm (f : Frame s t rs ps) : Frame t s rs ps where
  regs a h := (f.regs a h).symm
  mem h a := (f.mem h a).symm
  fifo h := (f.fifo h).symm
  core h h' := (f.core h h').symm
  ep e h h' := (f.ep e h h').symm
  ch c h h' := (f.ch c h h').symm
  pool h h' := (f.pool h h').symm
  ep0 h h' := (f.ep0 h h').symm
  iso h h' := (f.iso h h').symm
  htog h h' := (f.htog h h').symm
  plat h := (f.plat h).symm
  served h h' := ⟨(f.served h h').1.symm, (f.served h h').2.symm⟩
  context h := (f.context h).symm
  hw := f.hw.symm
  exist h h' := (f.exist h h').symm
  inputs := ⟨f.inputs.1.symm, f.inputs.2.1.symm, f.inputs.2.2.1.symm, f.inputs.2.2.2.symm⟩
  hidden := ⟨f.hidden.1.symm, f.hidden.2.1.symm, f.hidden.2.2.1.symm, f.hidden.2.2.2.symm⟩

theorem Frame.trans (f : Frame s t rs ps) (g : Frame t u rs ps) : Frame s u rs ps where
  regs a h := (g.regs a h).trans (f.regs a h)
  mem h a := (g.mem h a).trans (f.mem h a)
  fifo h := (g.fifo h).trans (f.fifo h)
  core h h' := (g.core h h').trans (f.core h h')
  ep e h h' := (g.ep e h h').trans (f.ep e h h')
  ch c h h' := (g.ch c h h').trans (f.ch c h h')
  pool h h' := (g.pool h h').trans (f.pool h h')
  ep0 h h' := (g.ep0 h h').trans (f.ep0 h h')
  iso h h' := (g.iso h h').trans (f.iso h h')
  htog h h' := (g.htog h h').trans (f.htog h h')
  plat h := (g.plat h).trans (f.plat h)
  served h h' := ⟨(g.served h h').1.trans (f.served h h').1, (g.served h h').2.trans (f.served h h').2⟩
  context h := (g.context h).trans (f.context h)
  hw := g.hw.trans f.hw
  exist h h' := (g.exist h h').trans (f.exist h h')
  inputs := ⟨g.inputs.1.trans f.inputs.1, g.inputs.2.1.trans f.inputs.2.1, g.inputs.2.2.1.trans f.inputs.2.2.1,
    g.inputs.2.2.2.trans f.inputs.2.2.2⟩
  hidden := ⟨g.hidden.1.trans f.hidden.1, g.hidden.2.1.trans f.hidden.2.1, g.hidden.2.2.1.trans f.hidden.2.2.1,
    g.hidden.2.2.2.trans f.hidden.2.2.2⟩

/-- A frame that lists more. -/
theorem Frame.mono (f : Frame s t rs ps) {rs' : List Reg} {ps' : List Part} (hr : rs ⊆ rs') (hp : ps ⊆ ps') :
    Frame s t rs' ps' where
  regs a h := f.regs a fun m => h (List.map_subset _ hr m)
  mem h a := f.mem (fun m => h (hp m)) a
  fifo h := f.fifo fun m => h (hp m)
  core h h' := f.core (fun m => h (hp m)) fun m => h' (hp m)
  ep e h h' := f.ep e (fun m => h (hp m)) fun m => h' (hp m)
  ch c h h' := f.ch c (fun m => h (hp m)) fun m => h' (hp m)
  pool h h' := f.pool (fun m => h (hp m)) fun m => h' (hp m)
  ep0 h h' := f.ep0 (fun m => h (hp m)) fun m => h' (hp m)
  iso h h' := f.iso (fun m => h (hp m)) fun m => h' (hp m)
  htog h h' := f.htog (fun m => h (hp m)) fun m => h' (hp m)
  plat h := f.plat fun m => h (hp m)
  served h h' := f.served (fun m => h (hp m)) fun m => h' (hp m)
  context h := f.context fun m => h (hp m)
  hw := f.hw
  exist h h' := f.exist (fun m => h (hp m)) fun m => h' (hp m)
  inputs := f.inputs
  hidden := f.hidden

/-- An update within the frame makes no difference to it. -/
theorem Frame.iff_of (g : Frame t u rs ps) : Frame s u rs ps ↔ Frame s t rs ps :=
  ⟨fun f => f.trans g.symm, fun f => f.trans g⟩

@[simp] theorem frame_refl (s : State) (rs : List Reg) (ps : List Part) : Frame s s rs ps := Frame.refl s rs ps

@[simp] theorem frame_note (e : TraceEv) : Frame s (t.note e) rs ps ↔ Frame s t rs ps := ((Frame.refl t rs ps).note e).iff_of

@[simp] theorem frame_returned (r : Result) : Frame s (t.returned r) rs ps ↔ Frame s t rs ps :=
  ((Frame.refl t rs ps).returned r).iff_of

@[simp] theorem frame_writeReg {r : Reg} (v : Word) (hr : r ∈ rs) (hf : Part.fifo ∈ ps ∨ r.keepsFifo = true) :
    Frame s (t.writeReg r v) rs ps ↔ Frame s t rs ps :=
  ((Frame.refl t rs ps).writeReg v hr hf).iff_of

@[simp] theorem frame_setRaw {r : Reg} (v : Word) (hr : r ∈ rs) : Frame s (t.setRaw r v) rs ps ↔ Frame s t rs ps := by
  refine Frame.iff_of { Frame.refl t rs ps with regs := fun a ha => ?_ }
  exact SMap.get_put_ne fun e => ha (e ▸ List.mem_map_of_mem hr)

@[simp] theorem frame_setBits {r : Reg} (w : Word) (hr : r ∈ rs) : Frame s (t.setBits r w) rs ps ↔ Frame s t rs ps :=
  (frame_note _).trans (frame_setRaw _ hr)

/-- Drawing a free value is seen by no frame. -/
@[simp] theorem frame_drawWord : Frame s t.drawWord.2 rs ps ↔ Frame s t rs ps :=
  ((Frame.refl t rs ps).of_eq (u := t.drawWord.2) rfl).iff_of

@[simp] theorem frame_modEp {e : EpRef} (g : EpRec → EpRec) (h : .ep e ∈ ps) :
    Frame s (t.modEp e g) rs ps ↔ Frame s t rs ps := ((Frame.refl t rs ps).modEp g h).iff_of

@[simp] theorem frame_modCh {c : Fin 16} (g : ChRec → ChRec) (h : .ch c ∈ ps) :
    Frame s (t.modCh c g) rs ps ↔ Frame s t rs ps := ((Frame.refl t rs ps).modCh g h).iff_of

@[simp] theorem frame_modX {x : XRef} (g : Xfer → Xfer) (h : partOf x ∈ ps) :
    Frame s (t.modX x g) rs ps ↔ Frame s t rs ps := ((Frame.refl t rs ps).modX g h).iff_of

@[simp] theorem frame_modReqAt_pool {k : Nat} (g : Req → Req) (h : .pool ∈ ps) :
    Frame s (t.modReqAt (.pool k) g) rs ps ↔ Frame s t rs ps := ((Frame.refl t rs ps).modReqAt (i := .pool k) g h).iff_of

@[simp] theorem frame_modReqAt_ep0 (g : Req → Req) (h : .ep0 ∈ ps) :
    Frame s (t.modReqAt .ep0 g) rs ps ↔ Frame s t rs ps := ((Frame.refl t rs ps).modReqAt (i := .ep0) g h).iff_of

@[simp] theorem frame_withPool (h : .pool ∈ ps) (l : List (Option Req)) :
    Frame s (t.withPool l) rs ps ↔ Frame s t rs ps := ((Frame.refl t rs ps).pool' h l).iff_of

@[simp] theorem frame_withEp0 (h : .ep0 ∈ ps) (l : Ep0Rec) :
    Frame s (t.withEp0 l) rs ps ↔ Frame s t rs ps := ((Frame.refl t rs ps).ep0' h l).iff_of

@[simp] theorem frame_withCore (h : .core ∈ ps) (l : CoreRec) :
    Frame s (t.withCore l) rs ps ↔ Frame s t rs ps := ((Frame.refl t rs ps).core' h l).iff_of

@[simp] theorem frame_withIso (h : .iso ∈ ps) (l : List IsoRec) :
    Frame s (t.withIso l) rs ps ↔ Frame s t rs ps := ((Frame.refl t rs ps).iso' h l).iff_of

@[simp] theorem frame_withHtog (h : .htog ∈ ps) (l : SMap Bool) :
    Frame s (t.withHtog l) rs ps ↔ Frame s t rs ps := ((Frame.refl t rs ps).htog' h l).iff_of

@[simp] theorem frame_withFifo (h : .fifo ∈ ps) (l : Fifo) :
    Frame s (t.withFifo l) rs ps ↔ Frame s t rs ps := ((Frame.refl t rs ps).fifo' h l).iff_of

/-- Where the context is listed it may be anything. -/
@[simp] theorem frame_inCtx (c : Ctx) (h : .context ∈ ps) : Frame s (t.inCtx c) rs ps ↔ Frame s t rs ps :=
  Frame.iff_of { Frame.refl t rs ps with context := fun m => absurd h m }

/-- An event puts the context back. -/
@[simp] theorem frame_event : Frame s (t.inCtx s.ctx) rs ps ↔ Frame s t rs (.context :: ps) := by
  have hsub : ps ⊆ .context :: ps := List.subset_cons_self _ _
  constructor
  · intro f
    have g : Frame s (t.inCtx s.ctx) rs (.context :: ps) := f.mono (List.Subset.refl rs) hsub
    rwa [frame_inCtx s.ctx (by simp)] at g
  · intro f
    constructor
    case context => exact fun _ => rfl
    case regs => exact f.regs
    case hw => exact f.hw
    case inputs => exact f.inputs
    case hidden => exact f.hidden
    case mem => exact fun h => f.mem (by simpa using h)
    case fifo => exact fun h => f.fifo (by simpa using h)
    case core => exact fun h h' => f.core (by simpa using h) (by simpa using h')
    case ep => exact fun e h h' => f.ep e (by simpa using h) (by simpa using h')
    case ch => exact fun c h h' => f.ch c (by simpa using h) (by simpa using h')
    case pool => exact fun h h' => f.pool (by simpa using h) (by simpa using h')
    case ep0 => exact fun h h' => f.ep0 (by simpa using h) (by simpa using h')
    case iso => exact fun h h' => f.iso (by simpa using h) (by simpa using h')
    case htog => exact fun h h' => f.htog (by simpa using h) (by simpa using h')
    case plat => exact fun h => f.plat (by simpa using h)
    case served => exact fun h h' => f.served (by simpa using h) (by simpa using h')
    case exist => exact fun h h' => f.exist (by simpa using h) (by simpa using h')

end

/-! From a run to the outcome of its instruction. -/

/-- A command that runs to its end. -/
theorem runCmd_of {i : Instr} {p : M Result} {s : State} {Q : State → Prop}
    (h : ∃ r u, p (hooksAt s.level) s = .ok (r, u) ∧ Q (u.returned r)) : ∃ t, runCmd i p s = .next t ∧ Q t := by
  obtain ⟨r, u, e, q⟩ := h
  exact ⟨_, runCmd_ok e, q⟩

/-- An event that runs to its end. -/
theorem runEvt_of {i : Instr} {p : M Unit} {s : State} {Q : State → Prop}
    (h : ∃ u, p (hooksAt s.level) (s.inCtx .isr) = .ok ((), u) ∧ Q (u.inCtx s.ctx)) : ∃ t, runEvt i p s = .next t ∧ Q t := by
  obtain ⟨u, e, q⟩ := h
  exact ⟨_, runEvt_ok e, q⟩

end Sys2Proof.Machine

/-! PROOF. The register accessors (R200): what each access type does to its bit, what a pop leaves, and where a FIFO
window's word goes (R23, R31, R49, R55). -/

namespace Sys2Proof.Machine

open Sys2Proof

/-! The accessors as single steps. -/

section
variable {s : State} {off : Word} {r : Reg} (ho : Reg.ofOffset off.toNat = some r)
  (ha : s.accessible r = true)
include ho ha

theorem accessorReg_some : s.accessorReg off = some r := by
  simp [State.accessorReg, ho, ha]

variable (q : s.Silent)
include q

theorem accessorDo_silent (p : Reg → M Result) (h : Hooks) : accessorDo off p h s = p r h s := by
  rw [accessorDo, run_bind_ok (between_silent q h), run_ask_bind, accessorReg_some ho ha]

theorem exec_regRead :
    exec (.regRead off) s = .next (State.returned ((s.note (.rd r.offset (s.readReg r).1)).readReg r).2
      (.value (s.readReg r).1)) := by
  refine runCmd_ok ?_
  rw [regReadCmd, accessorDo_silent ho ha q]
  rfl

theorem exec_regWrite (v : Word) :
    exec (.regWrite off v) s = .next (((s.writeReg r v).note (.wr r.offset v)).returned .unit) := by
  refine runCmd_ok ?_
  rw [regWriteCmd, accessorDo_silent ho ha q]
  rfl

end

theorem State.silent_note {s : State} (q : s.Silent) (e : TraceEv) : (s.note e).Silent := q

/-! REG_READ. -/

/-- Settles O8: a read that pops nothing gives the word and leaves a line in the trace. -/
theorem regReadReturnsTheWord : Obligations.RegReadReturnsTheWord := by
  intro s off r he hp hi hu ho ha hs
  have hread : s.readReg r = (s.peek r, s) := readReg_steady hs hu
  have hread' : (s.note (.rd r.offset (s.readReg r).1)).readReg r = (s.peek r, s.note (.rd r.offset (s.readReg r).1)) := by
    rw [readReg_steady hs (by simpa using hu)]
    simp
  refine ⟨_, exec_regRead ho ha ⟨he, hp, hi⟩, ?_, ?_⟩
  · rw [hread]
    rfl
  · rw [hread']
    simp

/-- What the pop of an Rx status entry sets in DOEPINT of its endpoint (R265). -/
def State.popOut (s : State) (w : Word) : Word :=
  if s.hostMode = true ∨ s.hw.caps.nEp ≤ (rxEntryOf w).num.val then 0
  else if pktSts w = 3 then 0x1 else if pktSts w = 4 then 0x8 else 0

/-- What the pop of an Rx status entry sets in HCINT of its channel (R265). -/
def State.popChan (s : State) (w : Word) : Word :=
  if s.hostMode = false ∨ s.hw.caps.nCh ≤ (rxEntryOf w).num.val then 0
  else if pktSts w = 3 then 0x3 else if pktSts w = 7 then 0x2 else 0

/-- LINK's bits after a pop, where it keeps none back: those of the entry's endpoint or channel, and nothing else. -/
theorem State.afterPop_direct {s : State} (hh : s.hold = false) (w : Word) :
    (s.afterPop w).raw (.DOEPINT (rxEntryOf w).num) = s.raw (.DOEPINT (rxEntryOf w).num) ||| s.popOut w ∧
    (s.afterPop w).raw (.HCINT (rxEntryOf w).num) = s.raw (.HCINT (rxEntryOf w).num) ||| s.popChan w ∧
    Frame s (s.afterPop w) [.DOEPINT (rxEntryOf w).num, .HCINT (rxEntryOf w).num] [] := by
  cases hm : s.hostMode
  case false =>
    by_cases hn : s.hw.caps.nEp ≤ (rxEntryOf w).num.val
    · simp [State.afterPop, State.popOut, State.popChan, hm, hn, Nat.not_lt.mpr hn]
    · simp only [State.afterPop, State.popOut, State.popChan, hm, hn, Nat.not_le.mp hn, State.post_direct hh, if_true, if_false,
        Bool.false_eq_true]
      split
      · next h => simp [h]
      · next h => simp [h]
      · next h h' => simp [show pktSts w ≠ _ from h, show pktSts w ≠ _ from h']
  case true =>
    by_cases hn : s.hw.caps.nCh ≤ (rxEntryOf w).num.val
    · simp [State.afterPop, State.popOut, State.popChan, hm, hn, Nat.not_lt.mpr hn]
    · simp only [State.afterPop, State.popOut, State.popChan, hm, hn, Nat.not_le.mp hn, State.post_direct hh, if_true]
      split
      · next h => simp [h]
      · next h => simp [h]
      · next h h' => simp [show pktSts w ≠ _ from h, show pktSts w ≠ _ from h']

theorem State.fifo_afterPop (s : State) (w : Word) : (s.afterPop w).fifo = s.fifo := by
  rw [State.afterPop_only]

/-! The reads that pop (R31, R55). -/

section
variable {s : State} (hu : s.unsettled = false)
include hu

theorem readReg_rxStatus_shown {v : Word} {l : List Word} (hs : s.slaveHw = true) (hl : s.fifo.rxStatus = v :: l) :
    s.readReg .GRXSTSR = (v, s) ∧
      s.readReg .GRXSTSP = (v, State.afterPop (s.withFifo { s.fifo with rxStatus := l }) v) := by
  simp [State.readReg, hu, State.rxShown, hs, hl, State.withFifo]

theorem readReg_rxStatus_hidden (h : s.slaveHw = false ∨ s.fifo.rxStatus = []) :
    s.readReg .GRXSTSR = s.drawWord ∧ s.readReg .GRXSTSP = s.drawWord := by
  have hl : s.rxShown = [] := by
    unfold State.rxShown
    rcases h with h | h <;> simp [h]
  simp [State.readReg, hu, hl]

theorem readReg_fifo_head {v : Word} {l : List Word} (n : Fin 16) (hl : s.fifo.rxData = v :: l) :
    s.readReg (.FIFO n) = (v, s.withFifo { s.fifo with rxData := l }) := by
  simp [State.readReg, hu, hl, State.withFifo]

theorem readReg_fifo_empty (n : Fin 16) (hl : s.fifo.rxData = []) : s.readReg (.FIFO n) = s.drawWord := by
  simp [State.readReg, hu, hl]

end

theorem steady_cases {r : Reg} (h : r.steady = false) : r = .GRXSTSR ∨ r = .GRXSTSP ∨ ∃ n, r = .FIFO n := by
  cases r <;> simp [Reg.steady] at h ⊢

theorem accessible_unsteady (s : State) {r : Reg} (h : r.steady = false) : s.accessible r = true := by
  rcases steady_cases h with rfl | rfl | ⟨n, rfl⟩ <;> exact accessible_core rfl rfl rfl

/-- The state in which a read leaves the machine, line of the trace included. -/
def State.afterRead (s : State) (r : Reg) : State := ((s.note (.rd r.offset (s.readReg r).1)).readReg r).2

section
variable {s : State} (hu : s.unsettled = false)
include hu

theorem afterRead_hidden (h : s.slaveHw = false ∨ s.fifo.rxStatus = []) {r : Reg} (hr : r = .GRXSTSR ∨ r = .GRXSTSP) :
    s.afterRead r = (s.note (.rd r.offset (s.readReg r).1)).drawWord.2 := by
  have hd := readReg_rxStatus_hidden (s := s.note (.rd r.offset (s.readReg r).1)) (by simpa using hu) (by simpa using h)
  rcases hr with rfl | rfl
  · rw [State.afterRead, hd.1]
  · rw [State.afterRead, hd.2]

theorem afterRead_shown {v : Word} {l : List Word} (hs : s.slaveHw = true) (hl : s.fifo.rxStatus = v :: l) :
    s.afterRead .GRXSTSR = s.note (.rd 0x01C v) ∧
      s.afterRead .GRXSTSP = State.afterPop ((s.note (.rd 0x020 v)).withFifo { s.fifo with rxStatus := l }) v := by
  have hr := readReg_rxStatus_shown hu hs hl
  have hn (e : TraceEv) := readReg_rxStatus_shown (s := s.note e) (by simpa using hu) (by simpa using hs) (by simpa using hl)
  rw [State.afterRead, State.afterRead, hr.1, hr.2, (hn _).1, (hn _).2]
  exact ⟨rfl, rfl⟩

theorem afterRead_fifo (n : Fin 16) :
    Frame s (s.afterRead (.FIFO n)) [] [.fifo] ∧
      (s.afterRead (.FIFO n)).fifo = { s.fifo with rxData := s.fifo.rxData.tail } := by
  rw [State.afterRead]
  set t := s.note (.rd (Reg.FIFO n).offset (s.readReg (.FIFO n)).1) with ht
  have hut : t.unsettled = false := by simpa [ht] using hu
  have hf : t.fifo = s.fifo := rfl
  cases hd : s.fifo.rxData with
  | nil =>
    rw [readReg_fifo_empty hut n (hf ▸ hd)]
    refine ⟨by simp [ht], ?_⟩
    show s.fifo = _
    rw [List.tail_nil, ← hd]
  | cons v l =>
    rw [readReg_fifo_head hut n (hf ▸ hd)]
    exact ⟨by simp [ht], rfl⟩

end

/-- The Rx status queue as a read sees it: hidden or empty, or with a head. -/
theorem rxStatus_cases (s : State) :
    (s.slaveHw = false ∨ s.fifo.rxStatus = []) ∨ (s.slaveHw = true ∧ ∃ v l, s.fifo.rxStatus = v :: l) := by
  cases hs : s.slaveHw
  · simp
  · cases hl : s.fifo.rxStatus <;> simp

theorem State.byte_afterRead (s : State) (r : Reg) (a : Word) : (s.afterRead r).byte a = s.byte a :=
  State.byte_congr (by simp [State.afterRead]) a

/-- Settles O9: each of the three kinds of pop, by what its queue holds. -/
theorem regReadPopsTheQueues : Obligations.RegReadPopsTheQueues := by
  intro s off r he hp hi hu ho hs
  refine ⟨(s.afterRead r).returned (.value (s.readReg r).1), (s.readReg r).1, exec_regRead ho (accessible_unsteady s hs)
    ⟨he, hp, hi⟩, rfl, ?_, ?_, ?_, fun a => s.byte_afterRead r a⟩
  · rintro rfl
    rcases rxStatus_cases s with h | ⟨hv, v, l, hl⟩
    · rw [afterRead_hidden hu h (.inl rfl)]
      exact ⟨rfl, fun v l hv hl => by simp [hv, hl] at h, by simp⟩
    · rw [(afterRead_shown hu hv hl).1, (readReg_rxStatus_shown hu hv hl).1]
      exact ⟨rfl, fun v' l' _ hl' => by simp_all, by simp⟩
  · rintro rfl
    refine ⟨fun h => ?_, fun v l hv hl => ?_⟩
    · rw [afterRead_hidden hu h (.inr rfl)]
      exact ⟨rfl, by simp⟩
    · rw [(afterRead_shown hu hv hl).2, (readReg_rxStatus_shown hu hv hl).2]
      refine ⟨by simp [State.fifo_afterPop], rfl, fun hh => ?_⟩
      obtain ⟨hout, hchan, f⟩ := State.afterPop_direct
        (s := (s.note (.rd 0x020 v)).withFifo { s.fifo with rxStatus := l }) (by simpa using hh) v
      refine ⟨hout, hchan, (frame_returned _).mpr (Frame.trans ?_ (f.mono (List.Subset.refl _) (List.nil_subset _)))⟩
      simp
  · rintro n rfl
    refine ⟨(afterRead_fifo hu n).2, fun v l hl => ?_, ?_⟩
    · rw [readReg_fifo_head hu n hl]
    · simpa using (afterRead_fifo hu n).1

/-! REG_WRITE. -/

/-- A register with W1C bits has no RW bit (R24). -/
theorem w1c_or_rw (hw : HwParams) (r : Reg) : w1cMask r = 0 ∨ rwMask hw r = 0 := by
  cases r <;> simp [w1cMask, rwMask]

theorem State.writeReg_ctl (s : State) (v : Word) {r : Reg} {n : Fin 16} (h : r = .DIEPCTL n ∨ r = .DOEPCTL n) :
    (s.writeReg r v).raw r = endpointActions v (s.stored r v) := by
  rcases h with rfl | rfl
  · exact s.raw_writeReg_epCtl ⟨n, .IN⟩ v
  · exact s.raw_writeReg_epCtl ⟨n, .OUT⟩ v

theorem Reg.ctl_or_not (r : Reg) : (∃ n, r = .DIEPCTL n ∨ r = .DOEPCTL n) ∨ ∀ n, r ≠ .DIEPCTL n ∧ r ≠ .DOEPCTL n := by
  by_cases h : ∃ n, r = .DIEPCTL n ∨ r = .DOEPCTL n
  · exact .inl h
  · exact .inr (by simpa using h)

/-- A write of a bit by its access type, the action bits of an endpoint apart (R23). -/
theorem State.bitOf_writeReg (s : State) (v : Word) {r : Reg} (hf : ∀ n, r ≠ .FIFO n) {k : Nat} (hk : k < 32)
    (ha : ∀ n, (r = .DIEPCTL n ∨ r = .DOEPCTL n) → k ≠ 16 ∧ k ≠ 17) :
    bitOf ((s.writeReg r v).raw r) k =
      (((if bitOf (rwMask s.hw r) k then bitOf v k else bitOf (s.raw r) k) && !(bitOf v k && bitOf (w1cMask r) k)) ||
        (bitOf v k && bitOf (w1sMask r) k)) := by
  rcases r.ctl_or_not with ⟨n, h⟩ | h
  · rw [s.writeReg_ctl v h, bitOf_endpointActions _ _ (ha n h).1 (ha n h).2, State.stored, bitOf_writeWord hk]
  · rw [s.raw_writeReg_plain v fun n => ⟨(h n).1, (h n).2, hf n⟩, State.stored, bitOf_writeWord hk]

/-- NAKSTS and DPID of a written control word follow its action bits (R49). -/
theorem State.actions_writeReg (s : State) (v : Word) {r : Reg} {n : Fin 16} (h : r = .DIEPCTL n ∨ r = .DOEPCTL n) :
    bitOf ((s.writeReg r v).raw r) 17 = (bitOf v 27 || (bitOf (s.raw r) 17 && !bitOf v 26)) ∧
    bitOf ((s.writeReg r v).raw r) 16 = (bitOf v 29 || (bitOf (s.raw r) 16 && !bitOf v 28)) := by
  have hstored : bitOf (s.stored r v) 17 = bitOf (s.raw r) 17 ∧ bitOf (s.stored r v) 16 = bitOf (s.raw r) 16 := by
    rcases h with rfl | rfl <;> simp [State.stored, rwMask, w1cMask, w1sMask]
  rw [s.writeReg_ctl v h, endpointActions]
  constructor
  · cases bitOf v 26 <;> cases bitOf v 27 <;> cases bitOf v 28 <;> cases bitOf v 29 <;> simp [bitOf_withBit, hstored.1]
  · cases bitOf v 26 <;> cases bitOf v 27 <;> cases bitOf v 28 <;> cases bitOf v 29 <;> simp [bitOf_withBit, hstored.2]

/-- Settles O10: each bit by its access type, the action bits apart. -/
theorem regWriteFollowsTheAccessTypes : Obligations.RegWriteFollowsTheAccessTypes := by
  intro s off v r he hp hi ho ha hf
  refine ⟨_, exec_regWrite ho ha ⟨he, hp, hi⟩ v, rfl, fun k hk => ?_, fun n h => s.actions_writeReg v h, by simp,
    fun hc => s.fifo_of_writeReg v hc hf⟩
  show bitOf ((s.writeReg r v).raw r) k = true ↔ _
  rw [s.bitOf_writeReg v hf k.isLt hk]
  rcases w1c_or_rw s.hw r with h | h
  · simp only [h]
    cases bitOf (rwMask s.hw r) k <;> simp [and_comm]
  · simp only [h]
    cases bitOf v k <;> simp

/-! REG_WRITE of a FIFO window and of HCCHAR (R55, R70). -/

theorem State.writeReg_window_device {s : State} (hm : s.hostMode = false) (n : Fin 16) (v : Word) :
    s.writeReg (.FIFO n) v = s.pushTx (s.txFifoOf n) v := by
  simp [State.writeReg, State.pushFifo, hm]

theorem State.writeReg_window_periodic {s : State} (hm : s.hostMode = true) {n : Fin 16}
    (hp : periodicCode (field (s.raw (.HCCHAR n)) 18 2) = true) (v : Word) : s.writeReg (.FIFO n) v = s.pushPtx v := by
  simp [State.writeReg, State.pushFifo, hm, hp]

theorem State.writeReg_window_nonperiodic {s : State} (hm : s.hostMode = true) {n : Fin 16}
    (hp : periodicCode (field (s.raw (.HCCHAR n)) 18 2) = false) (v : Word) : s.writeReg (.FIFO n) v = s.pushTx 0 v := by
  simp [State.writeReg, State.pushFifo, hm, hp]

/-- A window write reaches the FIFOs alone. -/
theorem State.writeReg_window (s : State) (n : Fin 16) (v : Word) :
    s.writeReg (.FIFO n) v = s.withFifo (s.writeReg (.FIFO n) v).fifo := by
  simp only [State.writeReg, State.pushFifo]
  split
  · split <;> rfl
  · rfl

/-- A push into a Tx FIFO leaves the others. -/
theorem State.pushTx_other (s : State) {f k : Fin 16} (v : Word) (h : k ≠ f) :
    (s.pushTx f v).fifo.tx[k.val] = s.fifo.tx[k.val] :=
  Vector.getElem_set_ne f.isLt k.isLt fun e => h (Fin.ext e).symm

theorem State.pushTx_same (s : State) (f : Fin 16) (v : Word) :
    (s.pushTx f v).fifo.tx[f.val] = s.appendTo (s.txDepth f) s.fifo.tx[f.val] v :=
  Vector.getElem_set_self _

/-- A write of HCCHAR that enables the channel in slave mode adds its request (R70). -/
theorem State.fifo_writeReg_hcchar (s : State) (c : Fin 16) (v : Word) :
    (s.writeReg (.HCCHAR c) v).fifo = if bitOf v 31 && s.slaveHw then
      (if periodicCode (field v 18 2) then { s.fifo with pReq := s.fifo.pReq ++ [c] }
       else { s.fifo with npReq := s.fifo.npReq ++ [c] }) else s.fifo := by
  simp only [State.writeReg]
  split
  · unfold State.addRequest
    split <;> rfl
  · rfl

/-- Settles O11: the window pushes by mode and type, and the request that HCCHAR adds. -/
theorem regWriteFeedsTheQueues : Obligations.RegWriteFeedsTheQueues := by
  refine ⟨fun s off v n he hp hi ho => ?_, fun s off v c he hp hi ho ha => ?_⟩
  · refine ⟨_, exec_regWrite ho (accessible_fifo s n) ⟨he, hp, hi⟩ v, rfl, ?_, fun hm => ?_, fun hm hper => ?_,
      fun hm hper => ?_⟩
    · rw [frame_returned, frame_note, s.writeReg_window n v]
      simp
    · show (s.writeReg (.FIFO n) v).fifo.ptx = _ ∧ _
      rw [State.writeReg_window_device hm n v]
      exact ⟨rfl, fun k hk => s.pushTx_other v hk, s.pushTx_same _ v⟩
    · show (s.writeReg (.FIFO n) v).fifo.tx = _ ∧ _
      rw [State.writeReg_window_periodic hm hper v]
      exact ⟨rfl, rfl⟩
    · show (s.writeReg (.FIFO n) v).fifo.ptx = _ ∧ _
      rw [State.writeReg_window_nonperiodic hm hper v]
      exact ⟨rfl, fun k hk => s.pushTx_other v hk, s.pushTx_same 0 v⟩
  · refine ⟨_, exec_regWrite ho ha ⟨he, hp, hi⟩ v, fun hb hs => ?_, fun h => ?_, by simp⟩
    · show (s.writeReg (.HCCHAR c) v).fifo.npReq = _ ∧ (s.writeReg (.HCCHAR c) v).fifo.pReq = _
      rw [s.fifo_writeReg_hcchar c v, hb, hs]
      cases periodicCode (field v 18 2) <;> simp
    · show (s.writeReg (.HCCHAR c) v).fifo = _
      rw [s.fifo_writeReg_hcchar c v]
      rcases h with h | h <;> simp [h]

/-! REG_MODIFY. -/

/-- The word that a read-modify-write puts back (R200). -/
def modified (w clear set : Word) : Word := (w &&& ~~~clear) ||| set

theorem bitOf_modified (w clear set : Word) {k : Nat} (hk : k < 32) :
    bitOf (modified w clear set) k = (bitOf set k || (bitOf w k && !bitOf clear k)) := by
  rw [modified, bitOf_or, bitOf_and, bitOf_not hk, Bool.or_comm]

theorem exec_regModify {s : State} {off clear set : Word} {r : Reg} (q : s.Silent) (hu : s.unsettled = false)
    (ho : Reg.ofOffset off.toNat = some r) (ha : s.accessible r = true) (hs : r.steady = true) :
    exec (.regModify off clear set) s = .next (((((s.note (.rd r.offset (s.peek r))).writeReg r
      (modified (s.peek r) clear set)).note (.wr r.offset (modified (s.peek r) clear set)))).returned .unit) := by
  refine runCmd_ok ?_
  have q' : (s.note (.rd r.offset (s.peek r))).Silent := q
  have ha' : (s.note (.rd r.offset (s.peek r))).accessible r = true := by simpa using ha
  have hread : s.readReg r = (s.peek r, s) := readReg_steady hs hu
  have hread' : (s.note (.rd r.offset (s.peek r))).readReg r = (s.peek r, s.note (.rd r.offset (s.peek r))) := by
    rw [readReg_steady hs (by simpa using hu), State.peek_note]
  rw [regModifyCmd, accessorDo_silent ho ha q, run_bind_ok (run_readNow r _ s), hread, hread', accessorDo_silent ho ha' q']
  rfl

/-- The bits of GINTSTS and DIEPINT that a write can clear are the stored ones (R24, R30). -/
theorem State.bitOf_peek_status (s : State) {r : Reg} {k : Nat} (h : bitOf (w1cMask r) k = true) :
    bitOf (s.peek r) k = bitOf (s.raw r) k := by
  have hk : k < 32 := Nat.lt_of_not_le fun hk => by simp [bitOf_ge hk] at h
  cases r <;> try rfl
  case GINTSTS =>
    have hmask : ∀ j : Fin 32, bitOf (w1cMask .GINTSTS) j = true →
        bitOf 0xF9F3FFCB j = true ∧ j ∉ [2, 4, 5, 18, 19, 25, 26] := by decide
    obtain ⟨hkeep, hout⟩ := hmask ⟨k, hk⟩ h
    simp only [List.mem_cons, Fin.ext_iff, List.not_mem_nil, or_false, not_or] at hout hkeep
    obtain ⟨h2, h4, h5, h18, h19, h25, h26⟩ := hout
    show bitOf s.gintsts k = _
    simp only [State.gintsts, bitOf_or, bitOf_and, hkeep, bitOf_bitIf, hk, true_and]
    simp [show k ≠ 2 from h2, show k ≠ 4 from h4, show k ≠ 5 from h5, show k ≠ 18 from h18, show k ≠ 19 from h19,
      show k ≠ 25 from h25, show k ≠ 26 from h26]
  case DIEPINT n =>
    have hmask : ∀ j : Fin 32, bitOf (w1cMask (.DIEPINT 0)) j = true → j ≠ 7 := by decide
    have h7 : k ≠ 7 := fun e => hmask ⟨k, hk⟩ h (Fin.ext e)
    have hkeep : bitOf 0xFFFFFF7F k = true := h
    show bitOf (s.diepint n) k = _
    simp only [State.diepint, bitOf_or, bitOf_and, hkeep, bitOf_bitIf]
    simp [h7]
  all_goals simp [w1cMask] at h

/-- Where a write does something to a bit of the word read, that is the stored bit. -/
theorem State.bitOf_peek (s : State) {r : Reg} {k : Nat} (hf : ∀ n, r ≠ .FIFO n)
    (h : bitOf (rwMask s.hw r) k = true ∨ bitOf (w1cMask r) k = true ∨ bitOf (w1sMask r) k = true) :
    bitOf (s.peek r) k = bitOf (s.raw r) k := by
  rcases h with h | h | h
  · cases r <;> try rfl
    all_goals simp [rwMask] at h
  · exact s.bitOf_peek_status h
  · cases r <;> try rfl
    all_goals simp [w1sMask] at h

theorem steady_not_fifo {r : Reg} (h : r.steady = true) : ∀ n, r ≠ .FIFO n := by
  rintro n rfl
  cases h

/-- NAKSTS and DPID have no access type: they follow the action bits (R49). -/
theorem typed_not_action {hw : HwParams} {r : Reg} {k : Nat}
    (h : bitOf (rwMask hw r) k = true ∨ bitOf (w1cMask r) k = true ∨ bitOf (w1sMask r) k = true) (n : Fin 16)
    (hr : r = .DIEPCTL n ∨ r = .DOEPCTL n) : k ≠ 16 ∧ k ≠ 17 := by
  constructor
  · rintro rfl
    rcases hr with rfl | rfl <;> simp [rwMask, w1cMask, w1sMask] at h
  · rintro rfl
    rcases hr with rfl | rfl <;> simp [rwMask, w1cMask, w1sMask] at h

/-- A bit with an access type after REG_MODIFY. -/
theorem bitOf_regModify (s : State) (clear set : Word) (e : TraceEv) {r : Reg} (hs : r.steady = true) {k : Nat} (hk : k < 32)
    (h : bitOf (rwMask s.hw r) k = true ∨ bitOf (w1cMask r) k = true ∨ bitOf (w1sMask r) k = true) :
    bitOf (((s.note e).writeReg r (modified (s.peek r) clear set)).raw r) k =
      (((if bitOf (rwMask s.hw r) k then bitOf set k || (bitOf (s.raw r) k && !bitOf clear k) else bitOf (s.raw r) k) &&
        !((bitOf set k || (bitOf (s.raw r) k && !bitOf clear k)) && bitOf (w1cMask r) k)) ||
        ((bitOf set k || (bitOf (s.raw r) k && !bitOf clear k)) && bitOf (w1sMask r) k)) := by
  have hf := steady_not_fifo hs
  rw [State.bitOf_writeReg _ _ hf hk (typed_not_action h), bitOf_modified _ _ _ hk, s.bitOf_peek hf h, State.raw_of_note,
    State.note_hw]

/-- W1S bits are neither RW nor W1C (R23). -/
theorem w1s_only {hw : HwParams} {r : Reg} {k : Nat} (h : bitOf (w1sMask r) k = true) :
    bitOf (rwMask hw r) k = false ∧ bitOf (w1cMask r) k = false := by
  have hmask (m : Word) (hd : m &&& w1sMask r = 0) : bitOf m k = false := by
    have hb := bitOf_and m (w1sMask r) k
    rw [hd, h] at hb
    simpa using hb.symm
  constructor
  · exact hmask _ (by cases r <;> simp [rwMask, w1sMask])
  · exact hmask _ (by cases r <;> simp [w1cMask, w1sMask])

/-- Settles O12: the word read with its bits changed, written back by the access types. -/
theorem regModifyClearsAndSets : Obligations.RegModifyClearsAndSets := by
  intro s off clear set r he hp hi hu ho ha hs
  have hf := steady_not_fifo hs
  refine ⟨_, exec_regModify ⟨he, hp, hi⟩ hu ho ha hs, rfl, fun k hr hws => ?_, fun k hc => ?_, fun k hws => ?_,
    fun n hn => ?_, fun k hr hc hws hn => ?_, by simp [hf], fun hc => State.fifo_of_writeReg _ _ hc hf⟩
  · refine (bitOf_regModify s clear set _ hs k.isLt (.inl hr)).trans ?_
    have hc : bitOf (w1cMask r) k = false := by
      rcases w1c_or_rw s.hw r with h | h
      · simp [h]
      · simp [h] at hr
    simp [hr, hc, hws]
  · refine (bitOf_regModify s clear set _ hs k.isLt (.inr (.inl hc))).trans ?_
    have hr : bitOf (rwMask s.hw r) k = false := by
      rcases w1c_or_rw s.hw r with h | h
      · simp [h] at hc
      · simp [h]
    have hws : bitOf (w1sMask r) k = false := Bool.eq_false_iff.mpr fun h => by simp [(w1s_only (hw := s.hw) h).2] at hc
    rw [hr, hc, hws]
    cases bitOf (s.raw r) k <;> cases bitOf clear k <;> cases bitOf set k <;> rfl
  · refine (bitOf_regModify s clear set _ hs k.isLt (.inr (.inr hws))).trans ?_
    obtain ⟨hr, hc⟩ := w1s_only (hw := s.hw) hws
    rw [hr, hc, hws]
    cases bitOf (s.raw r) k <;> cases bitOf clear k <;> cases bitOf set k <;> rfl
  · have h := State.actions_writeReg (s.note (.rd r.offset (s.peek r))) (modified (s.peek r) clear set) hn
    have hpeek : s.peek r = s.raw r := by rcases hn with rfl | rfl <;> rfl
    simpa [hpeek, bitOf_modified] using h
  · show bitOf (((s.note _).writeReg r _).raw r) k = _
    rw [State.bitOf_writeReg _ _ hf k.isLt fun n h => absurd h (by simpa using hn n)]
    simp [hr, hc, hws]

end Sys2Proof.Machine

/-! PROOF. A LINK that finishes resets and flushes at once (R204, R216): states in which it has nothing to finish, and what
it does to the first access after a reset or a flush has been asked for. -/

namespace Sys2Proof.Machine

open Sys2Proof

/-! Nothing to finish. -/

/-- Nothing acts between two accesses, whether LINK is prompt or not. -/
structure State.Ready (s : State) : Prop where
  env : s.env = []
  shut : s.Shut
  settled : s.unsettled = false
  idle : s.prompt = true → s.disablePending (.ep ⟨0, .IN⟩) = false

theorem when_false {s : State} {c : Bool} (h : c = false) (f : State → State) : s.when c f = s := by
  subst h
  rfl

theorem when_true {s : State} {c : Bool} (h : c = true) (f : State → State) : s.when c f = f s := by
  subst h
  rfl

theorem takeSlot_empty {s : State} (h : s.env = []) : s.takeSlot = s := by
  rw [State.takeSlot, h]

theorem bitOf_settled {s : State} (hu : s.unsettled = false) :
    bitOf (s.raw .GRSTCTL) 0 = false ∧ bitOf (s.raw .GRSTCTL) 4 = false ∧ bitOf (s.raw .GRSTCTL) 5 = false := by
  have hz : s.raw .GRSTCTL &&& 0x31 = 0 := by simpa [State.unsettled] using hu
  have hbit (k : Nat) (hk : bitOf (0x31 : Word) k = true) : bitOf (s.raw .GRSTCTL) k = false := by
    have h := bitOf_and (s.raw .GRSTCTL) 0x31 k
    rw [hz, hk] at h
    simpa using h.symm
  exact ⟨hbit 0 rfl, hbit 4 rfl, hbit 5 rfl⟩

/-- With nothing settling, all a prompt LINK may do is to confirm the disable of EP0 IN. -/
theorem promptActs_settled {s : State} (hu : s.unsettled = false) : promptActs s = linkEndpointDisabled ⟨0, .IN⟩ s := by
  obtain ⟨h0, h4, h5⟩ := bitOf_settled hu
  rw [promptActs, linkSoftReset, when_false h0, linkTxFlush, when_false h5, linkRxFlush, when_false h4]

theorem tick_idle {s : State} (he : s.env = []) (hu : s.unsettled = false)
    (hd : s.prompt = true → s.disablePending (.ep ⟨0, .IN⟩) = false) : s.tick = s := by
  rw [State.tick, takeSlot_empty he]
  cases hp : s.prompt
  · rfl
  · rw [when_true rfl, promptActs_settled hu, linkEndpointDisabled, when_false (hd hp)]

theorem State.Ready.tick {s : State} (r : s.Ready) : s.tick = s := tick_idle r.env r.settled r.idle

theorem State.Ready.between {s : State} (r : s.Ready) (h : Hooks) : between h s = .ok ((), s) := by
  simp [Machine.between, r.tick, r.shut.line]

/-- A confirmation leaves a line in the trace, so that a tick without effect has confirmed nothing. -/
theorem idle_of_tick {s : State} (he : s.env = []) (hp : s.prompt = true) (hu : s.unsettled = false) (ht : s.tick = s) :
    s.disablePending (.ep ⟨0, .IN⟩) = false := by
  by_contra hd
  rw [State.tick, takeSlot_empty he, when_true hp, promptActs_settled hu, linkEndpointDisabled,
    when_true (by simpa using hd)] at ht
  have hlen := congrArg (fun s : State => s.trace.length) ht
  simp [State.setBits, State.hwSet, State.disableHw, State.clearBits, State.endHw, State.note, State.when, State.dropWalk,
    State.setRaw] at hlen
  omega

theorem State.ready_of_tick {s : State} (he : s.env = []) (hs : s.Shut) (hu : s.unsettled = false)
    (ht : s.prompt = true → s.tick = s) : s.Ready :=
  ⟨he, hs, hu, fun hp => idle_of_tick he hp hu (ht hp)⟩

theorem State.Calm.ready {s : State} (c : s.Calm) : s.Ready :=
  ⟨c.quiet.env, c.quiet.shut, c.settled, fun h => absurd h (by simp [c.quiet.prompt])⟩

/-- States that agree on the scripts, the context and the registers are ready together. -/
theorem State.ready_congr {s t : State} (he : t.env = s.env) (hp : t.prompt = s.prompt) (hc : t.ctx = s.ctx)
    (hw : t.hw = s.hw) (hr : t.regs = s.regs) : t.Ready ↔ s.Ready := by
  have hraw (r : Reg) : t.raw r = s.raw r := State.raw_congr hr r
  have hshut : t.Shut ↔ s.Shut := by simp [State.Shut, hc, hraw]
  have hu : t.unsettled = s.unsettled := State.unsettled_congr hr
  have hd : t.disablePending (.ep ⟨0, .IN⟩) = s.disablePending (.ep ⟨0, .IN⟩) := by
    simp [State.disablePending, State.present, State.accessible_congr hw hr, hraw]
  exact ⟨fun r => ⟨he ▸ r.env, hshut.mp r.shut, hu ▸ r.settled, fun h => hd ▸ r.idle (hp ▸ h)⟩,
    fun r => ⟨he ▸ r.env, hshut.mpr r.shut, hu ▸ r.settled, fun h => hd ▸ r.idle (hp ▸ h)⟩⟩

@[simp] theorem State.ready_note (s : State) (e : TraceEv) : (s.note e).Ready ↔ s.Ready :=
  State.ready_congr rfl rfl rfl rfl rfl
@[simp] theorem State.ready_withCore (s : State) (x : CoreRec) : (s.withCore x).Ready ↔ s.Ready :=
  State.ready_congr rfl rfl rfl rfl rfl
@[simp] theorem State.ready_withEp0 (s : State) (x : Ep0Rec) : (s.withEp0 x).Ready ↔ s.Ready :=
  State.ready_congr rfl rfl rfl rfl rfl

@[simp] theorem State.ready_writeReg {s : State} {r : Reg} (v : Word) (hg : r ≠ .GAHBCFG) (hr : r ≠ .GRSTCTL)
    (hd : r ≠ .DIEPCTL 0) (ht : r ≠ .DIEPTXF 0) : (s.writeReg r v).Ready ↔ s.Ready := by
  have hshut : (s.writeReg r v).Shut ↔ s.Shut := by
    simp [State.Shut, s.raw_writeReg_ne v (Reg.offset_ne_gahbcfg hg)]
  have hu := s.unsettled_of_writeReg v hr
  have hp : (s.writeReg r v).disablePending (.ep ⟨0, .IN⟩) = s.disablePending (.ep ⟨0, .IN⟩) := by
    have hraw : (s.writeReg r v).raw (.DIEPCTL 0) = s.raw (.DIEPCTL 0) := s.raw_writeReg_other v hd.symm (by simp) ht
    simp only [State.disablePending, State.present, State.accessible_writeReg]
    exact congrArg (fun w => _ && bitOf w 30) hraw
  exact ⟨fun k => ⟨by simpa using k.env, hshut.mp k.shut, hu ▸ k.settled, fun h => hp ▸ k.idle (by simpa using h)⟩,
    fun k => ⟨by simpa using k.env, hshut.mpr k.shut, hu ▸ k.settled, fun h => hp ▸ k.idle (by simpa using h)⟩⟩

/-! Accesses in a ready state. -/

@[simp] theorem regRead_ready {s : State} {r : Reg} (k : s.Ready) (ha : s.accessible r = true) (hs : r.steady = true)
    (h : Hooks) : regRead r h s = .ok (s.peek r, s.note (.rd r.offset (s.peek r))) := by
  have hread : s.readReg r = (s.peek r, s) := readReg_steady hs k.settled
  have hread' (e : TraceEv) : (s.note e).readReg r = (s.peek r, s.note e) := by
    rw [readReg_steady hs (by simpa using k.settled), State.peek_note]
  rw [regRead, run_bind_ok (k.between h), run_ask_bind, ha, if_pos rfl, run_readNow, hread, hread']

@[simp] theorem regWrite_ready {s : State} {r : Reg} (k : s.Ready) (ha : s.accessible r = true) (v : Word) (h : Hooks) :
    regWrite r v h s = .ok ((), (s.writeReg r v).note (.wr r.offset v)) := by
  rw [regWrite, run_bind_ok (k.between h), run_ask_bind, ha, if_pos rfl, run_writeNow]

@[simp] theorem regUpdate_ready {s : State} {r : Reg} (k : s.Ready) (ha : s.accessible r = true) (hs : r.steady = true)
    (f : Word → Word) (h : Hooks) :
    regUpdate r f h s = .ok ((), ((s.note (.rd r.offset (s.peek r))).writeReg r (f (s.peek r))).note
      (.wr r.offset (f (s.peek r)))) := by
  rw [regUpdate, run_bind_ok (regRead_ready k ha hs h), regWrite_ready (by simpa using k) (by simpa using ha)]

/-! Polling GRSTCTL (R17, R204, R216). -/

/-- GRSTCTL reads its word whether or not something settles. -/
theorem regRead_grstctl_after {s t : State} {h : Hooks} (hb : between h s = .ok ((), t)) :
    regRead .GRSTCTL h s = .ok (t.raw .GRSTCTL, t.note (.rd 0x010 (t.raw .GRSTCTL))) := by
  rw [regRead, run_bind_ok hb, run_ask_bind, accessible_grstctl, if_pos rfl, run_readNow, readReg_grstctl,
    readReg_grstctl]
  rfl

/-- The first evaluation of the poll finds what it waits for. -/
theorem pollGrstctl_now {s t : State} {h : Hooks} (hb : between h s = .ok ((), t)) {k : Nat} {v : Bool} {limit : Nat}
    (hl : 1 ≤ limit) (hv : bitOf (t.raw .GRSTCTL) k = v) :
    pollGrstctl k v limit h s = .ok (true, t.note (.rd 0x010 (t.raw .GRSTCTL))) := by
  obtain ⟨n, rfl⟩ := Nat.exists_eq_add_of_le' hl
  simp only [pollGrstctl, poll, run_bind, regRead_grstctl_after hb, hv, beq_self_eq_true, run_pure, if_true]

/-- The state with another trace. -/
def State.withTrace (s : State) (l : List TraceEv) : State := { s with trace := l }

@[simp] theorem frame_withTrace {s t : State} {rs : List Reg} {ps : List Part} (l : List TraceEv) :
    Frame s (t.withTrace l) rs ps ↔ Frame s t rs ps :=
  ((Frame.refl t rs ps).of_eq (u := t.withTrace l) rfl).iff_of

/-- A LINK that does nothing: the poll never finds what it waits for, and only reads. -/
theorem pollGrstctl_never {k : Nat} {v : Bool} {h : Hooks} (limit : Nat) : ∀ {s : State}, s.Quiet →
    bitOf (s.raw .GRSTCTL) k = !v → ∃ l, pollGrstctl k v limit h s = .ok (false, s.withTrace l) := by
  induction limit with
  | zero => exact fun {s} _ _ => ⟨s.trace, rfl⟩
  | succ n ih =>
    intro s q hv
    obtain ⟨l, hl⟩ := ih (s := s.note (.rd 0x010 (s.raw .GRSTCTL))) (by simpa using q) (by simpa using hv)
    refine ⟨l, ?_⟩
    have hne : (bitOf (s.raw .GRSTCTL) k == v) = false := by
      rw [hv]
      cases v <;> rfl
    rw [pollGrstctl] at hl ⊢
    simp only [poll, run_bind, regRead_grstctl_after (between_silent q.silent h), hne, run_pure, Bool.false_eq_true,
      if_false]
    exact hl

/-! What a prompt LINK does to the next access. -/

/-- The state after LINK has completed a soft reset. -/
def State.afterReset (s : State) : State :=
  State.note { s with regs := s.resetRegs, fifo := emptyFifo, engine := [], owed := [] }
    (.hw Reg.GRSTCTL.offset (s.raw .GRSTCTL &&& 0x80000000))

theorem State.afterReset_get (s : State) (a : Nat) :
    SMap.get 0 s.afterReset.regs a = if a = 0x014 then s.raw .GINTSTS &&& 0x1 else if a = 0x010 then
      s.raw .GRSTCTL &&& 0x80000000 else if a = 0x000 then s.raw .GOTGCTL &&& 0x000D0000 else 0 := by
  show SMap.get 0 (SMap.put 0 (SMap.put 0 (SMap.put 0 [] 0x000 _) 0x010 _) 0x014 _) a = _
  by_cases h14 : a = 0x014
  · rw [h14, SMap.get_put_same]
    rfl
  · rw [SMap.get_put_ne h14, if_neg h14]
    by_cases h10 : a = 0x010
    · rw [h10, SMap.get_put_same]
      rfl
    · rw [SMap.get_put_ne h10, if_neg h10]
      by_cases h0 : a = 0x000
      · rw [h0, SMap.get_put_same]
        rfl
      · rw [SMap.get_put_ne h0, if_neg h0]
        rfl

theorem State.afterReset_raw (s : State) (r : Reg) :
    s.afterReset.raw r = if r.offset = 0x014 then s.raw .GINTSTS &&& 0x1 else if r.offset = 0x010 then
      s.raw .GRSTCTL &&& 0x80000000 else if r.offset = 0x000 then s.raw .GOTGCTL &&& 0x000D0000 else 0 :=
  s.afterReset_get r.offset

theorem settled_of_bits {s : State} (h0 : bitOf (s.raw .GRSTCTL) 0 = false) (h4 : bitOf (s.raw .GRSTCTL) 4 = false)
    (h5 : bitOf (s.raw .GRSTCTL) 5 = false) : s.unsettled = false := by
  have hz : s.raw .GRSTCTL &&& 0x31 = 0 := by
    apply word_ext
    intro k hk
    have hbits : ∀ j : Fin 32, bitOf (0x31 : Word) j = decide (j = 0 ∨ j = 4 ∨ j = 5) := by decide
    have hb := hbits ⟨k, hk⟩
    rw [bitOf_and, show bitOf 0x31 k = _ from hb, show bitOf (0 : Word) k = false from bitOf_zero k]
    by_cases hj : k = 0 ∨ k = 4 ∨ k = 5
    · rcases hj with rfl | rfl | rfl <;> simp [h0, h4, h5]
    · simp [Fin.ext_iff, hj]
  rw [State.unsettled, hz]
  rfl

/-- After a reset every settled word is 0, and nothing is enabled or pending. -/
theorem State.afterReset_ready {s : State} (he : s.env = []) : s.afterReset.Ready where
  env := he
  shut := .inr (by simp [State.afterReset_raw, Reg.offset])
  settled := by
    have h : s.afterReset.raw .GRSTCTL = s.raw .GRSTCTL &&& 0x80000000 := by simp [State.afterReset_raw, Reg.offset]
    exact settled_of_bits (by simp [h]) (by simp [h]) (by simp [h])
  idle _ := by
    have h : s.afterReset.raw (.DIEPCTL 0) = 0 := by simp [State.afterReset_raw, Reg.offset, bankOffset]
    have h' : bitOf (s.afterReset.raw (ctlOf (.ep ⟨0, .IN⟩))) 30 = false := by
      rw [show ctlOf (.ep ⟨0, .IN⟩) = .DIEPCTL 0 from rfl, h]
      simp
    rw [State.disablePending, h', Bool.and_false]

/-- A soft reset that has been asked for is complete at the next access (R204). -/
theorem between_reset {s : State} (he : s.env = []) (hp : s.prompt = true) (hr : bitOf (s.raw .GRSTCTL) 0 = true)
    (h : Hooks) : between h s = .ok ((), s.afterReset) := by
  have hready : s.afterReset.Ready := State.afterReset_ready he
  have hreset : linkSoftReset s = s.afterReset := when_true hr _
  obtain ⟨h0, _, _⟩ := bitOf_settled hready.settled
  have hsame : promptActs s = promptActs s.afterReset := by
    rw [promptActs, promptActs, hreset, linkSoftReset, when_false h0]
  have htick : s.tick = s.afterReset := by
    rw [State.tick, takeSlot_empty he, when_true hp, hsame, promptActs_settled hready.settled, linkEndpointDisabled,
      when_false (hready.idle hp)]
  simp [between, htick, hready.shut.line]

/-- Readings of the registers after LINK has written GRSTCTL. -/
theorem raw_clearBits_grstctl (s : State) (w : Word) (r : Reg) :
    (s.clearBits .GRSTCTL w).raw r = if r.offset = 0x010 then s.raw .GRSTCTL &&& ~~~w else s.raw r :=
  s.raw_setRaw .GRSTCTL r _

/-- What LINK leaves pending while it writes GRSTCTL and the FIFOs. -/
theorem idle_congr {s t : State} (hw : t.hw = s.hw) (hr : ∀ r, r ≠ .GRSTCTL → t.raw r = s.raw r) :
    t.disablePending (.ep ⟨0, .IN⟩) = s.disablePending (.ep ⟨0, .IN⟩) := by
  have hm : t.hostMode = s.hostMode := by simp [State.hostMode, hr]
  have hctl : t.raw (ctlOf (.ep ⟨0, .IN⟩)) = s.raw (ctlOf (.ep ⟨0, .IN⟩)) := hr (.DIEPCTL 0) (by simp)
  simp only [State.disablePending, State.present, State.accessible, hw, hm, hctl]

/-- The state after LINK has completed the flush of a Tx FIFO. -/
def State.afterTxFlush (s : State) : State := (s.flushTx (field (s.raw .GRSTCTL) 6 5)).clearBits .GRSTCTL 0x20

/-- The state after LINK has completed the flush of the Rx FIFO. -/
def State.afterRxFlush (s : State) : State :=
  (s.withFifo { s.fifo with rxStatus := [], rxData := [] }).clearBits .GRSTCTL 0x10

theorem flushTx_only (s : State) (n : Nat) : s.flushTx n = s.withFifo (s.flushTx n).fifo := by
  unfold State.flushTx
  split
  · rfl
  · split <;> rfl

/-- The registers after a flush: GRSTCTL loses the flush bit. -/
theorem State.raw_afterTxFlush (s : State) (r : Reg) :
    s.afterTxFlush.raw r = if r.offset = 0x010 then s.raw .GRSTCTL &&& ~~~0x20 else s.raw r := by
  rw [State.afterTxFlush, raw_clearBits_grstctl, flushTx_only, State.raw_of_withFifo, State.raw_of_withFifo]

theorem State.raw_afterRxFlush (s : State) (r : Reg) :
    s.afterRxFlush.raw r = if r.offset = 0x010 then s.raw .GRSTCTL &&& ~~~0x10 else s.raw r := by
  rw [State.afterRxFlush, raw_clearBits_grstctl, State.raw_of_withFifo, State.raw_of_withFifo]

/-- A state that differs in GRSTCTL and the FIFOs from one with nothing to finish has nothing to finish, once its reset and
flush bits are low. -/
theorem State.ready_of_grstctl {s t : State} (he : s.env = []) (hs : s.Shut)
    (hd : s.disablePending (.ep ⟨0, .IN⟩) = false) (het : t.env = s.env) (hct : t.ctx = s.ctx) (hwt : t.hw = s.hw)
    (hrt : ∀ r, r.offset ≠ 0x010 → t.raw r = s.raw r) (h0 : bitOf (t.raw .GRSTCTL) 0 = false)
    (h4 : bitOf (t.raw .GRSTCTL) 4 = false) (h5 : bitOf (t.raw .GRSTCTL) 5 = false) : t.Ready where
  env := het.trans he
  shut := by
    rw [State.Shut, hct, hrt .GAHBCFG (by decide)]
    exact hs
  settled := settled_of_bits h0 h4 h5
  idle _ := (idle_congr hwt fun r hr => hrt r (Reg.offset_ne_grstctl hr).symm).trans hd

section
variable {s : State} (he : s.env = []) (hp : s.prompt = true) (hs : s.Shut) (h0 : bitOf (s.raw .GRSTCTL) 0 = false)
  (hd : s.disablePending (.ep ⟨0, .IN⟩) = false)
include he hs h0 hd

theorem State.ready_afterTxFlush (h4 : bitOf (s.raw .GRSTCTL) 4 = false) : s.afterTxFlush.Ready := by
  have hrst : s.afterTxFlush.raw .GRSTCTL = s.raw .GRSTCTL &&& ~~~0x20 := s.raw_afterTxFlush .GRSTCTL
  have hst : s.afterTxFlush = (s.withFifo s.afterTxFlush.fifo).clearBits .GRSTCTL 0x20 := by
    rw [State.afterTxFlush, flushTx_only]
    rfl
  refine State.ready_of_grstctl he hs hd (by rw [hst]; rfl) (by rw [hst]; rfl) (by rw [hst]; rfl)
    (fun r hr => (s.raw_afterTxFlush r).trans (if_neg hr)) ?_ ?_ ?_
  · rw [hrst, bitOf_and, h0, Bool.false_and]
  · rw [hrst, bitOf_and, h4, Bool.false_and]
  · rw [hrst, bitOf_and]
    simp

theorem State.ready_afterRxFlush (h5 : bitOf (s.raw .GRSTCTL) 5 = false) : s.afterRxFlush.Ready := by
  have hrst : s.afterRxFlush.raw .GRSTCTL = s.raw .GRSTCTL &&& ~~~0x10 := s.raw_afterRxFlush .GRSTCTL
  refine State.ready_of_grstctl he hs hd rfl rfl rfl (fun r hr => (s.raw_afterRxFlush r).trans (if_neg hr)) ?_ ?_ ?_
  · rw [hrst, bitOf_and, h0, Bool.false_and]
  · rw [hrst, bitOf_and]
    simp
  · rw [hrst, bitOf_and, h5, Bool.false_and]

include hp

/-- A flush of a Tx FIFO that has been asked for is complete at the next access (R216). -/
theorem between_txFlush (h5 : bitOf (s.raw .GRSTCTL) 5 = true) (h4 : bitOf (s.raw .GRSTCTL) 4 = false) (h : Hooks) :
    between h s = .ok ((), s.afterTxFlush) := by
  have hready := State.ready_afterTxFlush he hs h0 hd h4
  have hprompt : s.afterTxFlush.prompt = true := by
    rw [State.afterTxFlush, flushTx_only]
    exact hp
  have htx : linkTxFlush s = s.afterTxFlush := when_true h5 _
  obtain ⟨_, h4', _⟩ := bitOf_settled hready.settled
  have htick : s.tick = s.afterTxFlush := by
    rw [State.tick, takeSlot_empty he, when_true hp, promptActs, linkSoftReset, when_false h0, htx, linkRxFlush,
      when_false h4', linkEndpointDisabled, when_false (hready.idle hprompt)]
  simp [between, htick, hready.shut.line]

/-- A flush of the Rx FIFO that has been asked for is complete at the next access (R216). -/
theorem between_rxFlush (h4 : bitOf (s.raw .GRSTCTL) 4 = true) (h5 : bitOf (s.raw .GRSTCTL) 5 = false) (h : Hooks) :
    between h s = .ok ((), s.afterRxFlush) := by
  have hready := State.ready_afterRxFlush he hs h0 hd h5
  have hrx : linkRxFlush s = s.afterRxFlush := when_true h4 _
  have htick : s.tick = s.afterRxFlush := by
    rw [State.tick, takeSlot_empty he, when_true hp, promptActs, linkSoftReset, when_false h0, linkTxFlush,
      when_false h5, hrx, linkEndpointDisabled, when_false (hready.idle hp)]
  simp [between, htick, hready.shut.line]

end

/-! The reset and the flushes as steps of a prompt machine (R203, R212, R213). -/

/-- The state after a read of GRSTCTL. -/
def State.polled (s : State) : State := s.note (.rd 0x010 (s.raw .GRSTCTL))

/-- The state after a write of GRSTCTL. -/
def State.asked (s : State) (v : Word) : State := (s.writeReg .GRSTCTL v).note (.wr 0x010 v)

theorem State.raw_asked (s : State) (v : Word) : (s.asked v).raw .GRSTCTL = s.stored .GRSTCTL v := by
  simp [State.asked]

theorem State.raw_asked_other (s : State) (v : Word) {r : Reg} (h : r ≠ .GRSTCTL) : (s.asked v).raw r = s.raw r :=
  s.raw_writeReg_ne v (Reg.offset_ne_grstctl h).symm

/-- The reset and flush bits are set where they are written, and TXFNUM takes the written value (R29). -/
theorem bitOf_stored_grstctl (s : State) (v : Word) {k : Nat} (hk : k < 32) :
    bitOf (s.stored .GRSTCTL v) k = ((if bitOf (0x7C0 : Word) k then bitOf v k else bitOf (s.raw .GRSTCTL) k) ||
      (bitOf v k && bitOf (0x31 : Word) k)) := by
  rw [State.stored, bitOf_writeWord hk, show w1cMask .GRSTCTL = 0#32 from rfl, bitOf_zero, Bool.and_false, Bool.not_false,
    Bool.and_true]
  rfl

theorem State.shut_asked {s : State} (hs : s.Shut) (v : Word) : (s.asked v).Shut := by
  rw [State.Shut, s.raw_asked_other v (by simp)]
  exact hs

theorem State.idle_asked (s : State) (v : Word) :
    (s.asked v).disablePending (.ep ⟨0, .IN⟩) = s.disablePending (.ep ⟨0, .IN⟩) :=
  idle_congr (by simp [State.asked]) fun _ hr => s.raw_asked_other v hr

@[simp] theorem State.asked_env (s : State) (v : Word) : (s.asked v).env = s.env := by simp [State.asked]
@[simp] theorem State.asked_prompt (s : State) (v : Word) : (s.asked v).prompt = s.prompt := by simp [State.asked]
@[simp] theorem State.asked_hw (s : State) (v : Word) : (s.asked v).hw = s.hw := by simp [State.asked]
@[simp] theorem State.asked_fifo (s : State) (v : Word) : (s.asked v).fifo = s.fifo := by simp [State.asked]

theorem State.ready_polled {s : State} (k : s.Ready) : s.polled.Ready := by
  rw [State.polled, State.ready_note]
  exact k

/-- The state after `core_reset_seq()` with a prompt LINK. -/
def State.afterCoreReset (s : State) : State := (s.polled.asked (bit1 0)).afterReset.polled

section
variable {s : State} (k : s.Ready) (hp : s.prompt = true) (h : Hooks)
include k hp

/-- `core_reset_seq()` where LINK completes the reset (R203, R204). -/
theorem coreResetSeq_prompt (h31 : bitOf (s.raw .GRSTCTL) 31 = true) (hl : 1 ≤ s.hw.resetPollLimit) :
    coreResetSeq h s = .ok (.ok, s.afterCoreReset) := by
  have hwrite : regWrite .GRSTCTL (bit1 0) h s.polled = .ok ((), s.polled.asked (bit1 0)) :=
    regWrite_ready (State.ready_polled k) (accessible_grstctl _) _ h
  have hbit : bitOf ((s.polled.asked (bit1 0)).raw .GRSTCTL) 0 = true := by
    rw [State.raw_asked, bitOf_stored_grstctl _ _ (by decide)]
    simp [bitOf_bit1]
  have hbetween := between_reset (s := s.polled.asked (bit1 0)) (by simpa [State.polled] using k.env)
    (by simpa [State.polled] using hp) hbit h
  have hlow : bitOf ((s.polled.asked (bit1 0)).afterReset.raw .GRSTCTL) 0 = false := by
    simp [State.afterReset_raw, Reg.offset]
  simp only [coreResetSeq, run_ask_bind]
  rw [run_bind_ok (pollGrstctl_now (k.between h) hl h31), if_pos rfl]
  change (regWrite .GRSTCTL (bit1 0) >>= _) h s.polled = _
  rw [run_bind_ok hwrite, run_bind_ok (pollGrstctl_now hbetween hl hlow)]
  rfl

end

/-- The state after `flush_tx_fifo(num)` with a prompt LINK. -/
def State.afterFlushTx (s : State) (num : Nat) : State := (s.asked (bit1 5 ||| fld 6 5 num)).afterTxFlush.polled

/-- The state after `flush_rx_fifo()` with a prompt LINK. -/
def State.afterFlushRx (s : State) : State := (s.asked (bit1 4)).afterRxFlush.polled

/-- What a write of GRSTCTL leaves in the reset and flush bits of a settled machine. -/
theorem bitOf_asked_settled {s : State} (hu : s.unsettled = false) (v : Word) {j : Nat} (hj : j = 0 ∨ j = 4 ∨ j = 5) :
    bitOf ((s.asked v).raw .GRSTCTL) j = bitOf v j := by
  obtain ⟨h0, h4, h5⟩ := bitOf_settled hu
  rw [State.raw_asked, bitOf_stored_grstctl _ _ (by omega)]
  rcases hj with rfl | rfl | rfl <;> simp [h0, h4, h5]

section
variable {s : State} (k : s.Ready) (hp : s.prompt = true)
include k

/-- The write that asks for a Tx FIFO flush sets its bit alone. -/
theorem bitOf_asked_flushTx (num : Nat) {j : Nat} (hj : j = 0 ∨ j = 4 ∨ j = 5) :
    bitOf ((s.asked (bit1 5 ||| fld 6 5 num)).raw .GRSTCTL) j = decide (j = 5) := by
  rw [bitOf_asked_settled k.settled _ hj, bitOf_or, bitOf_bit1, bitOf_fld]
  rcases hj with rfl | rfl | rfl <;> simp

theorem bitOf_asked_flushRx {j : Nat} (hj : j = 0 ∨ j = 4 ∨ j = 5) :
    bitOf ((s.asked (bit1 4)).raw .GRSTCTL) j = decide (j = 4) := by
  rw [bitOf_asked_settled k.settled _ hj, bitOf_bit1]
  rcases hj with rfl | rfl | rfl <;> simp

include hp

theorem State.ready_afterFlushTx (num : Nat) : (s.afterFlushTx num).Ready :=
  State.ready_polled (State.ready_afterTxFlush (by simpa using k.env) (State.shut_asked k.shut _)
    (bitOf_asked_flushTx k num (by simp)) ((s.idle_asked _).trans (k.idle hp)) (bitOf_asked_flushTx k num (by simp)))

theorem State.ready_afterFlushRx : s.afterFlushRx.Ready :=
  State.ready_polled (State.ready_afterRxFlush (by simpa using k.env) (State.shut_asked k.shut _)
    (bitOf_asked_flushRx k (by simp)) ((s.idle_asked _).trans (k.idle hp)) (bitOf_asked_flushRx k (by simp)))

variable (hl : 1 ≤ s.hw.flushPollLimit) (h : Hooks)
include hl

/-- `flush_tx_fifo(num)` where LINK finishes at once (R212, R216). -/
theorem flushTxFifo_prompt (num : Nat) : flushTxFifo num h s = .ok (.ok, s.afterFlushTx num) := by
  have hwrite : regWrite .GRSTCTL (bit1 5 ||| fld 6 5 num) h s = .ok ((), s.asked (bit1 5 ||| fld 6 5 num)) :=
    regWrite_ready k (accessible_grstctl s) _ h
  have hbit (j : Nat) (hj : j = 0 ∨ j = 4 ∨ j = 5) := bitOf_asked_flushTx k num hj
  have hidle := (s.idle_asked (bit1 5 ||| fld 6 5 num)).trans (k.idle hp)
  have hbetween := between_txFlush (by simpa using k.env) (by simpa using hp) (State.shut_asked k.shut _)
    (hbit 0 (by simp)) hidle (hbit 5 (by simp)) (hbit 4 (by simp)) h
  have hlow : bitOf ((s.asked (bit1 5 ||| fld 6 5 num)).afterTxFlush.raw .GRSTCTL) 5 = false := by
    simp [State.raw_afterTxFlush, Reg.offset]
  simp only [flushTxFifo, run_ask_bind]
  rw [run_bind_ok hwrite, run_bind_ok (pollGrstctl_now hbetween hl hlow)]
  rfl

/-- `flush_rx_fifo()` where LINK finishes at once (R213, R216). -/
theorem flushRxFifo_prompt : flushRxFifo h s = .ok (.ok, s.afterFlushRx) := by
  have hwrite : regWrite .GRSTCTL (bit1 4) h s = .ok ((), s.asked (bit1 4)) :=
    regWrite_ready k (accessible_grstctl s) _ h
  have hbit (j : Nat) (hj : j = 0 ∨ j = 4 ∨ j = 5) := bitOf_asked_flushRx k hj
  have hidle := (s.idle_asked (bit1 4)).trans (k.idle hp)
  have hbetween := between_rxFlush (by simpa using k.env) (by simpa using hp) (State.shut_asked k.shut _)
    (hbit 0 (by simp)) hidle (hbit 4 (by simp)) (hbit 5 (by simp)) h
  have hlow : bitOf ((s.asked (bit1 4)).afterRxFlush.raw .GRSTCTL) 4 = false := by
    simp [State.raw_afterRxFlush, Reg.offset]
  simp only [flushRxFifo, run_ask_bind]
  rw [run_bind_ok hwrite, run_bind_ok (pollGrstctl_now hbetween hl hlow)]
  rfl

end

/-! What they leave. -/

/-- After a flush has been asked for and done, only GRSTCTL and the FIFOs differ. -/
theorem frame_afterFlushTx (s : State) (num : Nat) : Frame s (s.afterFlushTx num) [.GRSTCTL] [.fifo] := by
  rw [State.afterFlushTx, State.afterTxFlush, flushTx_only, State.polled, frame_note, State.clearBits, State.hwSet,
    frame_note, frame_setRaw _ (by simp), frame_withFifo (by simp), State.asked, frame_note,
    frame_writeReg _ (by simp) (by simp)]
  exact frame_refl _ _ _

theorem frame_afterFlushRx (s : State) : Frame s s.afterFlushRx [.GRSTCTL] [.fifo] := by
  rw [State.afterFlushRx, State.afterRxFlush, State.polled, frame_note, State.clearBits, State.hwSet,
    frame_note, frame_setRaw _ (by simp), frame_withFifo (by simp), State.asked, frame_note,
    frame_writeReg _ (by simp) (by simp)]
  exact frame_refl _ _ _

/-- TXFNUM takes the number that a flush is asked for (R29). -/
theorem field_asked_txfnum (s : State) {num : Nat} (hn : num < 32) :
    field ((s.asked (bit1 5 ||| fld 6 5 num)).raw .GRSTCTL) 6 5 = num := by
  refine (field_eq_iff hn).mpr fun k hk => ?_
  have hfield : ∀ j : Fin 5, bitOf (0x7C0 : Word) (6 + j.val) = true ∧ bitOf (0x31 : Word) (6 + j.val) = false := by decide
  obtain ⟨hrw, hws⟩ := hfield ⟨k, hk⟩
  rw [State.raw_asked, bitOf_stored_grstctl _ _ (by omega), if_pos hrw, show bitOf (0x31 : Word) (6 + k) = false from hws,
    Bool.and_false, Bool.or_false, bitOf_or, bitOf_bit1, bitOf_fld, Nat.add_sub_cancel_left,
    decide_eq_false (by omega), decide_eq_true (by omega), Bool.false_or, Bool.true_and]

/-- The FIFOs after the flush of Tx FIFO `num`. -/
theorem fifo_afterFlushTx (s : State) {num : Nat} (hn : num < 32) : (s.afterFlushTx num).fifo = (s.flushTx num).fifo := by
  have hmode : (s.asked (bit1 5 ||| fld 6 5 num)).hostMode = s.hostMode := by simp [State.asked]
  show ((s.asked (bit1 5 ||| fld 6 5 num)).flushTx _).fifo = _
  rw [field_asked_txfnum s hn]
  unfold State.flushTx
  rw [hmode]
  split
  · simp
  · split <;> simp

theorem fifo_afterFlushRx (s : State) : s.afterFlushRx.fifo = { s.fifo with rxStatus := [], rxData := [] } := by
  simp [State.afterFlushRx, State.polled, State.afterRxFlush]

end Sys2Proof.Machine

/-! PROOF. The gate, the refusals, the core reset and the flushes (R200, R203, R212 to R218). -/

namespace Sys2Proof.Machine

open Sys2Proof

/-! What a command asks of the core and of its caller (R143, R218). -/

theorem needFunctional_on {s : State} (hf : s.core.functional = true) (p : M Result) (h : Hooks) :
    needFunctional p h s = p h s := by
  simp [needFunctional, hf]

theorem needFunctional_off {s : State} (hf : s.core.functional = false) (p : M Result) (h : Hooks) :
    needFunctional p h s = .ok (.status .notFunctional, s) := by
  simp [needFunctional, hf]

theorem taskOnly_ok {s : State} (hf : s.FromTask) (h : Hooks) : taskOnly h s = .ok ((), s) := by
  rcases hf with ⟨hc, hi⟩ | hd
  · simp [taskOnly, assertThat, hc, hi]
  · simp [taskOnly, assertThat, hd]

/-! Refusals that change nothing. -/

/-- A command that answers without an access. -/
theorem runCmd_answers {i : Instr} {p : M Result} {s : State} {r : Result} (h : ∀ h, p h s = .ok (r, s)) :
    ∃ t, runCmd i p s = .next t ∧ t.result = r ∧ Frame s t [] [] :=
  runCmd_of ⟨r, s, h _, rfl, by simp⟩

theorem accessorDo_refused {s : State} (q : s.Silent) {off : Word}
    (ha : ∀ r, Reg.ofOffset off.toNat = some r → s.accessible r = false) (p : Reg → M Result) (h : Hooks) :
    accessorDo off p h s = .ok (.status .badParam, s) := by
  have hnone : s.accessorReg off = none := by
    rw [State.accessorReg, Option.filter_eq_none_iff]
    intro r hr
    simpa using ha r hr
  rw [accessorDo, run_bind_ok (between_silent q h), run_ask_bind, hnone]
  rfl

/-- A read that pops nothing, in a state that the handler does not preempt. -/
theorem regRead_mute {s : State} {r : Reg} (q : s.Silent) (hu : s.unsettled = false) (ha : s.accessible r = true)
    (hs : r.steady = true) (h : Hooks) : regRead r h s = .ok (s.peek r, s.note (.rd r.offset (s.peek r))) := by
  rw [regRead_silent q ha, readReg_steady hs hu, readReg_steady hs (by simpa using hu), State.peek_note]

/-- CORE_INIT of the shared-FIFO mode, or on hardware that has no other, ends before anything is written (R201). -/
theorem coreInit_shared {s : State} (q : s.Silent) (hu : s.unsettled = false) (base : Word) {p : InitParams}
    (hp : p.dedicatedFifo = false ∨ s.hw.caps.dedFifo = false) (h : Hooks) :
    ∃ u, coreInit base p h s = .ok (.badParam, u) ∧ Frame s u [] [] := by
  cases hd : p.dedicatedFifo
  case false => exact ⟨s, by simp [coreInit, hd], by simp⟩
  case true =>
    have hcap : s.hw.caps.dedFifo = false := hp.resolve_left (by simp [hd])
    have hbit : bitOf (s.peek .GHWCFG4) 25 = false := by
      simp [State.peek, ghwcfg4, hcap, bitOf_bitIf]
    have hread := regRead_mute (r := .GHWCFG4) q hu (accessible_ghwcfg4 s) (by simp) h
    exact ⟨_, by rw [coreInit, hd, if_pos rfl, run_bind_ok hread, hbit]; rfl, by simp⟩

/-- Settles O13: the three kinds of refusal, each before the first access that changes anything. -/
theorem refusedCommandsChangeNothing : Obligations.RefusedCommandsChangeNothing := by
  refine ⟨fun s off v clear set he hp hi ha i hmem => ?_, fun s op bs rest hin hc hi hd => ?_,
    fun s base p he hp hi hu hft hshared => ?_⟩
  · have q : s.Silent := ⟨he, hp, hi⟩
    simp only [List.mem_cons, List.not_mem_nil, or_false] at hmem
    rcases hmem with rfl | rfl | rfl <;> exact runCmd_answers fun h => accessorDo_refused q ha _ h
  · refine ⟨State.returned { s with inbox := rest } (.status .badCommand), ?_, rfl, by simp⟩
    rw [step, choose_command hin hc hi, commandChoice, hd]
  · obtain ⟨u, hu', f⟩ := coreInit_shared ⟨he, hp, hi⟩ hu base hshared (hooksAt s.level)
    refine runCmd_of ⟨_, _, ?_, rfl, (frame_returned _).mpr f⟩
    rw [coreInitCmd, run_bind_ok (taskOnly_ok hft _), run_bind_ok hu']
    rfl

/-- Settles O15: the check comes before everything a command does (R218, R522). -/
theorem nonFunctionalCoreRefusesCommands : Obligations.NonFunctionalCoreRefusesCommands := by
  refine ⟨fun s i hf hport hi => ?_, fun s hr => runCmd_answers fun h => ?_, fun s hc hf => ?_⟩
  · cases i <;> simp [portOf] at hport hi
    all_goals exact runCmd_answers fun h => needFunctional_off hf _ h
  · simp [coreDeinitCmd, hr]
  · have hoff : ¬ (s.ctx = .isr ∨ s.recordsExist = true ∧ s.core.functional = true) := by
      rcases hf with hf | hf <;> simp [hc, hf]
    refine ⟨s.returned (.status .notFunctional), ?_, rfl, by simp⟩
    show runProc .isr isrCmd s = _
    simp [runProc, isrCmd, hoff]

/-! The gate (R214, R215). -/

/-- The state after the gate has been set by a read and a write. -/
def State.gated (s : State) (b : Bool) : State :=
  ((s.note (.rd 0x008 (s.raw .GAHBCFG))).writeReg .GAHBCFG (withBit (s.raw .GAHBCFG) 0 b)).note
    (.wr 0x008 (withBit (s.raw .GAHBCFG) 0 b))

theorem setGate_silent {s : State} (q : s.Silent) (hu : s.unsettled = false) (b : Bool) (h : Hooks) :
    setGate b h s = .ok ((), s.gated b) := by
  have hread := regRead_mute (r := .GAHBCFG) q hu (accessible_gahbcfg s) (by simp) h
  have hkeep (e : TraceEv) (w : Word) : (s.note e).keepDma 5 (!(s.note e).isSlave) w = w :=
    State.keepDma_settled (by simpa using hu) _ _ _
  rw [setGate, regUpdateAt, run_bind_ok hread, run_ask_bind]
  simp only [id_eq, hkeep]
  exact regWrite_silent (s.silent_note q _) (accessible_gahbcfg _) _ h

theorem bitOf_stored_gahbcfg (s : State) (b : Bool) (k : Nat) :
    bitOf (s.stored .GAHBCFG (withBit (s.raw .GAHBCFG) 0 b)) k = if k = 0 then b else bitOf (s.raw .GAHBCFG) k := by
  by_cases hk : k < 32
  · have hrw : bitOf (0x3F : Word) 0 = true := rfl
    simp only [State.stored, bitOf_writeWord hk, bitOf_withBit, hk, true_and, rwMask, w1cMask, w1sMask]
    by_cases h : k = 0
    · subst h
      simp
    · simp [h]
  · have hk' := Nat.le_of_not_lt hk
    simp [bitOf_ge hk', show k ≠ 0 by omega]

theorem State.raw_gated (s : State) (b : Bool) : (s.gated b).raw .GAHBCFG =
    if b then s.raw .GAHBCFG ||| 0x1 else s.raw .GAHBCFG &&& ~~~0x1#32 := by
  apply word_ext
  intro k hk
  have hone : bitOf (1#32) k = decide (k = 0) := by
    have h := bitOf_bit1 0 k
    rwa [decide_eq_decide.mpr (and_iff_right hk)] at h
  have hgate : bitOf ((s.gated b).raw .GAHBCFG) k = if k = 0 then b else bitOf (s.raw .GAHBCFG) k := by
    rw [State.gated, State.raw_of_note, State.raw_writeReg_plain _ _ (by simp)]
    exact bitOf_stored_gahbcfg s b k
  rw [hgate]
  cases b
  · simp only [Bool.false_eq_true, if_false, bitOf_and, bitOf_not hk, hone]
    by_cases h : k = 0 <;> simp [h]
  · rw [if_pos rfl, bitOf_or, show bitOf (0x1 : Word) k = _ from hone]
    by_cases h : k = 0 <;> simp [h]

/-- The bits of GINTSTS that LINK computes (R30). -/
def State.levels (s : State) : Word :=
  bitIf (decide (s.raw .GOTGINT ≠ 0)) 2 |||
  bitIf (s.slaveHw && !s.fifo.rxStatus.isEmpty) 4 |||
  bitIf (s.slaveHw && decide (s.npSpace ≠ 0) && decide (s.npQueueSpace ≠ 0)) 5 |||
  bitIf (decide (s.daint &&& s.raw .DAINTMSK &&& 0x0000FFFF ≠ 0)) 18 |||
  bitIf (decide (s.daint &&& s.raw .DAINTMSK &&& 0xFFFF0000 ≠ 0)) 19 |||
  bitIf (decide (s.haint &&& s.raw .HAINTMSK ≠ 0)) 25 |||
  bitIf (s.slaveHw && decide (s.pSpace ≠ 0) && decide (s.pQueueSpace ≠ 0)) 26

theorem State.gintsts_eq (s : State) : s.gintsts = s.raw .GINTSTS &&& 0xF9F3FFCB ||| s.levels := by
  simp only [State.gintsts, State.levels, BitVec.or_assoc]

/-- The computed bits depend neither on the gate nor on the other bits of GINTSTS: of GAHBCFG they see DMAEN alone (R30). -/
theorem State.levels_congr {s t : State} (hr : ∀ r, r ≠ .GAHBCFG → r ≠ .GINTSTS → t.raw r = s.raw r)
    (hs : t.slaveHw = s.slaveHw) (hf : t.fifo = s.fifo) (hw : t.hw = s.hw) : t.levels = s.levels := by
  have htx (n : Fin 16) : t.txFifoOf n = s.txFifoOf n := by simp [State.txFifoOf, hr]
  have hin (n : Fin 16) : t.diepint n = s.diepint n := by simp [State.diepint, hr, hs, hf, htx]
  have hpend : t.inPending = s.inPending := funext fun n => by simp [State.inPending, hin, hr]
  have hd : t.daint = s.daint := by simp [State.daint, hpend, hr, hw]
  have hh : t.haint = s.haint := by simp [State.haint, hr, hw]
  have hnp : t.npSpace = s.npSpace := by simp [State.npSpace, hr, hf]
  have hnq : t.npQueueSpace = s.npQueueSpace := by simp [State.npQueueSpace, hw, hf]
  have hp : t.pSpace = s.pSpace := by simp [State.pSpace, hr, hf]
  have hpq : t.pQueueSpace = s.pQueueSpace := by simp [State.pQueueSpace, hw, hf]
  simp [State.levels, hr, hs, hf, hd, hh, hnp, hnq, hp, hpq]

/-- GINTSTS does not depend on the gate: of GAHBCFG it sees DMAEN alone (R30). -/
theorem State.gintsts_congr {s t : State} (hr : ∀ r, r ≠ .GAHBCFG → t.raw r = s.raw r) (hs : t.slaveHw = s.slaveHw)
    (hf : t.fifo = s.fifo) (hw : t.hw = s.hw) : t.gintsts = s.gintsts := by
  rw [s.gintsts_eq, t.gintsts_eq, State.levels_congr (fun r h _ => hr r h) hs hf hw, hr .GINTSTS (by simp)]

theorem State.gintsts_gated (s : State) (b : Bool) : (s.gated b).gintsts = s.gintsts := by
  refine State.gintsts_congr (fun r hr => ?_) ?_ ?_ ?_
  · exact State.raw_writeReg_ne _ _ (Reg.offset_ne_gahbcfg hr).symm
  · have hbit : bitOf ((s.gated b).raw .GAHBCFG) 5 = bitOf (s.raw .GAHBCFG) 5 := by
      rw [State.gated, State.raw_of_note, State.raw_writeReg_plain _ _ (by simp)]
      exact bitOf_stored_gahbcfg s b 5
    rw [State.slaveHw, hbit, State.slaveHw]
  · simp [State.gated]
  · simp [State.gated]

theorem State.line_gated (s : State) (b : Bool) :
    (s.gated b).line = (b && decide (s.gintsts &&& s.raw .GINTMSK &&& 0xFFFFFFFE ≠ 0)) := by
  have hgate : bitOf ((s.gated b).raw .GAHBCFG) 0 = b := by
    rw [State.gated, State.raw_of_note, State.raw_writeReg_plain _ _ (by simp)]
    exact bitOf_stored_gahbcfg s b 0
  have hmask : (s.gated b).raw .GINTMSK = s.raw .GINTMSK := by simp [State.gated]
  rw [State.line, hgate, State.gintsts_gated, hmask]

/-- The line is that of the registers and the FIFOs, whatever has been returned. -/
theorem State.line_returned (s : State) (r : Result) : (s.returned r).line = s.line := rfl

theorem exec_gate {s : State} (q : s.Silent) (hu : s.unsettled = false) (hf : s.core.functional = true) (hft : s.FromTask) :
    exec .enableGint s = .next ((s.gated true).returned .unit) ∧ exec .disableGint s = .next ((s.gated false).returned .unit) := by
  constructor <;> refine runCmd_ok ?_
  · rw [enableGintCmd, needFunctional_on hf, run_bind_ok (taskOnly_ok hft _), run_bind_ok (setGate_silent q hu true _)]
    rfl
  · rw [disableGintCmd, needFunctional_on hf, run_bind_ok (taskOnly_ok hft _), run_bind_ok (setGate_silent q hu false _)]
    rfl

/-- Settles O14: the two commands set and clear the gate bit, and the line follows it. -/
theorem gateCommandsToggleOneBit : Obligations.GateCommandsToggleOneBit := by
  intro s he hp hi hu hf hft
  obtain ⟨hon, hoff⟩ := exec_gate ⟨he, hp, hi⟩ hu hf hft
  refine ⟨⟨_, hon, rfl, s.raw_gated true, ?_, fun hc hr => ?_, by simp [State.gated]⟩,
    ⟨_, hoff, rfl, s.raw_gated false, ?_, s.gintsts_gated false, by simp [State.gated]⟩⟩
  · rw [State.line_returned, State.line_gated, Bool.true_and]
  · show (decide ((s.gated true).ctx = .task) && (s.gated true).recordsExist && (s.gated true).core.functional &&
      (s.gated true).line) = _
    simp [State.gated, hc, hr, hf, State.line_returned]
  · rw [State.line_returned, State.line_gated, Bool.false_and]

/-! CORE_RESET (R203). -/

section
variable {s : State} (hf : s.core.functional = true) (hft : s.FromTask)
include hf

theorem exec_coreReset (hft : s.FromTask) {st : Status} {u : State}
    (e : coreResetSeq (hooksAt s.level) s = .ok (st, u)) : exec .coreReset s = .next (u.returned (.status st)) := by
  refine runCmd_ok ?_
  rw [coreResetCmd, needFunctional_on hf, run_bind_ok (taskOnly_ok hft _), run_bind_ok e]
  rfl

theorem exec_flushTx {num : BitVec 8} (hn : num.toNat ≤ 16) {st : Status} {u : State}
    (e : flushTxFifo num.toNat (hooksAt s.level) s = .ok (st, u)) :
    exec (.flushTxFifo num) s = .next (u.returned (.status st)) := by
  refine runCmd_ok ?_
  rw [flushTxCmd, needFunctional_on hf, if_pos hn, run_bind_ok e]
  rfl

theorem exec_flushRx {st : Status} {u : State} (e : flushRxFifo (hooksAt s.level) s = .ok (st, u)) :
    exec .flushRxFifo s = .next (u.returned (.status st)) := by
  refine runCmd_ok ?_
  rw [flushRxCmd, needFunctional_on hf, run_bind_ok e]
  rfl

end

section
variable {s : State} (q : s.Quiet) (hu : s.unsettled = false) (h : Hooks)
include q

/-- AHBIDLE never reads 1: nothing is written. -/
theorem coreResetSeq_busy (hb : bitOf (s.raw .GRSTCTL) 31 = false ∨ s.hw.resetPollLimit = 0) :
    ∃ l, coreResetSeq h s = .ok (.initTimeoutAhbIdle, s.withTrace l) := by
  have hpoll : ∃ l, pollGrstctl 31 true s.hw.resetPollLimit h s = .ok (false, s.withTrace l) := by
    rcases hb with hb | hb
    · exact pollGrstctl_never _ q hb
    · exact ⟨s.trace, by rw [hb]; rfl⟩
  obtain ⟨l, hl⟩ := hpoll
  refine ⟨l, ?_⟩
  simp only [coreResetSeq, run_ask_bind]
  rw [run_bind_ok hl]
  rfl

theorem regWrite_asked (v : Word) : regWrite .GRSTCTL v h s = .ok ((), s.asked v) :=
  regWrite_quiet q (accessible_grstctl s) v h

/-- A bit of GRSTCTL that LINK never clears: the poll times out. -/
theorem poll_asked {v : Word} {k : Nat} (hk : bitOf ((s.asked v).raw .GRSTCTL) k = true) (limit : Nat) :
    ∃ l, pollGrstctl k false limit h (s.asked v) = .ok (false, (s.asked v).withTrace l) :=
  pollGrstctl_never limit
    (q.of (by simp) (by simp) (by simp [State.asked]) (by rw [s.raw_asked_other v (by simp)])) hk

/-- CSFTRST never reads 0. -/
theorem coreResetSeq_stuck (hb : bitOf (s.raw .GRSTCTL) 31 = true) (hl : 1 ≤ s.hw.resetPollLimit) :
    ∃ u, coreResetSeq h s = .ok (.initTimeoutSoftReset, u) ∧ Frame s u [.GRSTCTL] [] := by
  have q' : s.polled.Quiet := by
    rw [State.polled, State.quiet_note]
    exact q
  have hbit : bitOf ((s.polled.asked (bit1 0)).raw .GRSTCTL) 0 = true := by
    rw [State.raw_asked, bitOf_stored_grstctl _ _ (by decide)]
    simp [bitOf_bit1]
  obtain ⟨l, hpoll⟩ := poll_asked q' h hbit s.hw.resetPollLimit
  refine ⟨_, ?_, show Frame s ((s.polled.asked (bit1 0)).withTrace l) _ _ by simp [State.asked, State.polled]⟩
  simp only [coreResetSeq, run_ask_bind]
  rw [run_bind_ok (pollGrstctl_now (between_silent q.silent h) hl hb), if_pos rfl]
  change (regWrite .GRSTCTL (bit1 0) >>= _) h s.polled = _
  rw [run_bind_ok (regWrite_asked q' h _), run_bind_ok hpoll]
  rfl

include hu

/-- A flush that LINK never finishes (R216). -/
theorem flushTxFifo_stuck (num : Nat) :
    ∃ u, flushTxFifo num h s = .ok (.flushTimeout, u) ∧ Frame s u [.GRSTCTL] [] := by
  have hbit : bitOf ((s.asked (bit1 5 ||| fld 6 5 num)).raw .GRSTCTL) 5 = true := by
    rw [bitOf_asked_settled hu _ (by simp), bitOf_or, bitOf_bit1]
    simp
  obtain ⟨l, hpoll⟩ := poll_asked q h hbit s.hw.flushPollLimit
  refine ⟨_, ?_, show Frame s ((s.asked (bit1 5 ||| fld 6 5 num)).withTrace l) _ _ by simp [State.asked]⟩
  simp only [flushTxFifo, run_ask_bind]
  rw [run_bind_ok (regWrite_asked q h _), run_bind_ok hpoll]
  rfl

theorem flushRxFifo_stuck : ∃ u, flushRxFifo h s = .ok (.flushTimeout, u) ∧ Frame s u [.GRSTCTL] [] := by
  have hbit : bitOf ((s.asked (bit1 4)).raw .GRSTCTL) 4 = true := by
    rw [bitOf_asked_settled hu _ (by simp), bitOf_bit1]
    simp
  obtain ⟨l, hpoll⟩ := poll_asked q h hbit s.hw.flushPollLimit
  refine ⟨_, ?_, show Frame s ((s.asked (bit1 4)).withTrace l) _ _ by simp [State.asked]⟩
  simp only [flushRxFifo, run_ask_bind]
  rw [run_bind_ok (regWrite_asked q h _), run_bind_ok hpoll]
  rfl

end

/-- What a completed reset leaves of the machine: all but the registers, the FIFOs and what LINK and DMA have in hand. -/
theorem afterCoreReset_only (s : State) : s.afterCoreReset = { s with
    regs := s.afterCoreReset.regs, fifo := emptyFifo, engine := [], owed := [], trace := s.afterCoreReset.trace } := by
  simp only [State.afterCoreReset, State.afterReset, State.polled, State.asked]
  rw [State.writeReg_only]
  rfl

/-- The word at an offset after a completed reset (R80, R204). -/
theorem afterCoreReset_get (s : State) (a : Nat) :
    SMap.get 0 s.afterCoreReset.regs a = if a = 0x014 then s.raw .GINTSTS &&& 0x1 else if a = 0x010 then
      s.stored .GRSTCTL (bit1 0) &&& 0x80000000 else if a = 0x000 then s.raw .GOTGCTL &&& 0x000D0000 else 0 := by
  have h := (s.polled.asked (bit1 0)).afterReset_get a
  rw [State.raw_asked, State.raw_asked_other _ _ (by simp), State.raw_asked_other _ _ (by simp)] at h
  exact h

/-- AHBIDLE is the one bit of GRSTCTL that a reset keeps. -/
theorem ahbIdle_kept {s : State} (h31 : bitOf (s.raw .GRSTCTL) 31 = true) :
    s.stored .GRSTCTL (bit1 0) &&& 0x80000000 = 0x80000000 := by
  apply word_ext
  intro k hk
  have hmask : ∀ j : Fin 32, bitOf (0x80000000 : Word) j = decide (j = 31) := by decide
  rw [bitOf_and, show bitOf 0x80000000 k = _ from hmask ⟨k, hk⟩]
  by_cases h : k = 31
  · subst h
    rw [bitOf_stored_grstctl _ _ (by decide)]
    simp [h31]
  · simp [Fin.ext_iff, h]

/-- Settles O16: LINK completes the reset at the next access, or never acts. -/
theorem coreResetOutcomes : Obligations.CoreResetOutcomes := by
  intro s he hs hu hf hft
  refine ⟨fun hp ht h31 hl => ?_, fun hp hb => ?_, fun hp h31 hl => ?_⟩
  · have k : s.Ready := State.ready_of_tick he hs hu fun _ => ht
    refine ⟨_, exec_coreReset hf hft (coreResetSeq_prompt k hp _ h31 hl), rfl, afterCoreReset_get s 0x014,
      afterCoreReset_get s 0x000, (afterCoreReset_get s 0x010).trans (ahbIdle_kept h31), fun a ha => ?_, ?_⟩
    · have hne : a ≠ 0x014 ∧ a ≠ 0x000 ∧ a ≠ 0x010 := by simpa [Reg.offset] using ha
      refine (afterCoreReset_get s a).trans ?_
      rw [if_neg hne.1, if_neg hne.2.2, if_neg hne.2.1]
    · rw [afterCoreReset_only]
      exact ⟨rfl, rfl, rfl, rfl, rfl, rfl, rfl, rfl, rfl, rfl⟩
  · obtain ⟨l, hl⟩ := coreResetSeq_busy ⟨he, hp, hs⟩ (hooksAt s.level) hb
    exact ⟨_, exec_coreReset hf hft hl, rfl, by simp⟩
  · obtain ⟨u, hl, fr⟩ := coreResetSeq_stuck ⟨he, hp, hs⟩ (hooksAt s.level) h31 hl
    exact ⟨_, exec_coreReset hf hft hl, rfl, by simpa using fr⟩

/-! The flushes (R212, R213, R216). -/

/-- Which Tx FIFOs a flush empties (R29). -/
theorem flushTx_fifo (s : State) {num : Nat} (hn : num ≤ 16) :
    (∀ k : Fin 16, (s.flushTx num).fifo.tx[k.val] = if num = 16 ∨ num = k.val then [] else s.fifo.tx[k.val]) ∧
    (s.flushTx num).fifo.ptx = (if num = 16 ∨ (s.hostMode = true ∧ num ≠ 0) then [] else s.fifo.ptx) ∧
    (s.flushTx num).fifo.rxStatus = s.fifo.rxStatus ∧ (s.flushTx num).fifo.rxData = s.fifo.rxData ∧
    (s.flushTx num).fifo.npReq = s.fifo.npReq ∧ (s.flushTx num).fifo.pReq = s.fifo.pReq ∧
    (s.flushTx num).fifo.inHand = s.fifo.inHand := by
  unfold State.flushTx
  by_cases h16 : num = 16
  · simp [h16]
  · have hlt : num < 16 := by omega
    simp only [h16, if_false, hlt, dite_true, false_or, Bool.and_eq_true, decide_eq_true_eq, ne_eq, and_true]
    exact fun k => Vector.getElem_set hlt k.isLt

/-- Settles O17: LINK completes the flush at the next access, or never acts. -/
theorem flushCommands : Obligations.FlushCommands := by
  intro s num he hs hu hf
  have hready (ht : s.prompt = true → s.tick = s) : s.Ready := State.ready_of_tick he hs hu ht
  refine ⟨fun hp ht hl hn => ?_, fun hp ht hl => ?_, fun hp hn => ?_, fun hp => ?_, fun hn => ?_⟩
  · have k := hready fun _ => ht
    have hfifo : (s.afterFlushTx num.toNat).fifo = (s.flushTx num.toNat).fifo := fifo_afterFlushTx s (by omega)
    obtain ⟨htx, hptx, hrs, hrd, hnp, hpr, hih⟩ := flushTx_fifo s hn
    rw [← hfifo] at htx hptx hrs hrd hnp hpr hih
    refine ⟨_, exec_flushTx hf hn (flushTxFifo_prompt k hp hl _ _), rfl, htx, hptx, hrs, hrd, hnp, hpr, hih, ?_, ?_⟩
    · exact (State.ready_afterFlushTx k hp _).settled
    · rw [frame_returned]
      exact frame_afterFlushTx s _
  · have k := hready fun _ => ht
    refine ⟨_, exec_flushRx hf (flushRxFifo_prompt k hp hl _), rfl, fifo_afterFlushRx s, ?_, ?_⟩
    · exact (State.ready_afterFlushRx k hp).settled
    · rw [frame_returned]
      exact frame_afterFlushRx s
  · obtain ⟨u, hu', fr⟩ := flushTxFifo_stuck ⟨he, hp, hs⟩ hu (hooksAt s.level) num.toNat
    exact ⟨_, exec_flushTx hf hn hu', rfl, by simpa using fr⟩
  · obtain ⟨u, hu', fr⟩ := flushRxFifo_stuck ⟨he, hp, hs⟩ hu (hooksAt s.level)
    exact ⟨_, exec_flushRx hf hu', rfl, by simpa using fr⟩
  · refine runCmd_answers fun h => ?_
    rw [flushTxCmd, needFunctional_on hf, if_neg (by omega)]
    rfl

end Sys2Proof.Machine

/-! PROOF. The status registers: what a write of one of their bits does (R23, R24), and the unhandled bits (R487). -/

namespace Sys2Proof.Machine

open Sys2Proof

@[simp] theorem run_map {α β : Type} (f : α → β) (p : M α) (h : Hooks) (s : State) :
    (f <$> p) h s = match p h s with
      | .ok (a, t) => .ok (f a, t)
      | .error e => .error e := by
  rw [← bind_pure_comp, run_bind]
  cases p h s <;> rfl

/-- Most registers read their stored word. -/
@[simp] theorem State.peek_plain (s : State) {r : Reg} (h : r ≠ .GINTSTS ∧ r ≠ .GNPTXSTS ∧ r ≠ .HPTXSTS ∧ r ≠ .GHWCFG2 ∧
    r ≠ .GHWCFG3 ∧ r ≠ .GHWCFG4 ∧ r ≠ .HAINT ∧ r ≠ .DAINT ∧ ∀ n, r ≠ .DIEPINT n ∧ r ≠ .DTXFSTS n) : s.peek r = s.raw r := by
  obtain ⟨h1, h2, h3, h4, h5, h6, h7, h8, hn⟩ := h
  cases r <;> simp_all [State.peek]

/-- A register that a frame does not list is as before. -/
theorem Frame.raw_eq {s t : State} {rs : List Reg} {ps : List Part} (f : Frame s t rs ps) {r : Reg}
    (h : ∀ q ∈ rs, r ≠ q ∧ q ≠ .DIEPTXF 0) (hr : r ≠ .DIEPTXF 0) : t.raw r = s.raw r := by
  refine f.regs _ fun hmem => ?_
  obtain ⟨q, hq, he⟩ := List.mem_map.mp hmem
  obtain ⟨hne, h0⟩ := h q hq
  exact Reg.offset_ne hne hr h0 he.symm

/-- A larger frame that an event's own frame gives. -/
theorem Frame.event_trans {s u v : State} {rs : List Reg} {ps : List Part} (f : Frame s u rs (.context :: ps))
    (g : Frame u v rs ps) : Frame s (v.inCtx s.ctx) rs ps :=
  frame_event.mpr (f.trans (g.mono (List.Subset.refl _) (List.subset_cons_self _ _)))

/-- An event runs what its procedure comes to in the state it starts from. -/
theorem runEvt_congr {i : Instr} {p q : M Unit} {s : State}
    (h : p (hooksAt s.level) (s.inCtx .isr) = q (hooksAt s.level) (s.inCtx .isr)) : runEvt i p s = runEvt i q s := by
  rw [runEvt_eq, runEvt_eq, h]

/-! Clearing bits of a status register. -/

theorem w1c_writes_plain {r : Reg} {k : Nat} (hk : bitOf (w1cMask r) k = true) (n : Fin 16) :
    r ≠ .DIEPCTL n ∧ r ≠ .DOEPCTL n ∧ r ≠ .FIFO n := by
  refine ⟨?_, ?_, ?_⟩ <;> rintro rfl <;> simp [w1cMask] at hk

theorem w1c_only {hw : HwParams} {r : Reg} {k : Nat} (hk : bitOf (w1cMask r) k = true) :
    rwMask hw r = 0 ∧ w1sMask r = 0 := by
  have hne : w1cMask r ≠ 0 := by
    rintro h
    simp [h] at hk
  refine ⟨(w1c_or_rw hw r).resolve_left hne, ?_⟩
  revert hne
  cases r <;> simp [w1cMask, w1sMask]

/-- Writing bits to a status register clears those of them that are W1C, and keeps the others. -/
theorem State.stored_w1c (s : State) {r : Reg} {k : Nat} (hk : bitOf (w1cMask r) k = true) (v : Word) :
    s.stored r v = s.raw r &&& ~~~(v &&& w1cMask r) :=
  by
  obtain ⟨hrw, hs⟩ := w1c_only (hw := s.hw) hk
  exact s.stored_status hrw hs v

@[simp] theorem State.stored_clear (s : State) {r : Reg} {k : Nat} (hk : bitOf (w1cMask r) k = true) :
    s.stored r (bit1 k) = s.raw r &&& ~~~(bit1 k) := by
  rw [s.stored_w1c hk]
  refine congrArg (fun m => s.raw r &&& ~~~m) (word_ext fun j _ => ?_)
  rw [bitOf_and, bitOf_bit1]
  by_cases hj : j = k
  · subst hj
    simp [hk]
  · simp [hj]

/-- A status bit is cleared, the first write of a handler (R452). -/
def State.cleared (s : State) (r : Reg) (k : Nat) : State := (s.writeReg r (bit1 k)).note (.wr r.offset (bit1 k))

theorem clearEvent_calm {s : State} {r : Reg} (c : s.Calm) (ha : s.accessible r = true) (k : Nat) (h : Hooks) :
    clearEvent r k h s = .ok ((), s.cleared r k) := regWrite_calm c ha _ h

@[simp] theorem State.raw_cleared (s : State) {r : Reg} {k : Nat} (hk : bitOf (w1cMask r) k = true) :
    (s.cleared r k).raw r = s.raw r &&& ~~~(bit1 k) := by
  rw [State.cleared, State.raw_of_note, State.raw_writeReg_plain s _ (w1c_writes_plain hk), s.stored_clear hk]

/-- An event whose first write clears its bit (R452). -/
theorem runEvt_cleared {i : Instr} {r : Reg} {k : Nat} {body : M Unit} {s : State} {Q : State → Prop} (a : s.Alone)
    (ha : s.accessible r = true)
    (h : ∃ u, body (hooksAt s.level) ((s.inCtx .isr).cleared r k) = .ok ((), u) ∧ Q (u.inCtx s.ctx)) :
    ∃ t, runEvt i (do clearEvent r k; body) s = .next t ∧ Q t := by
  obtain ⟨u, hu, hq⟩ := h
  refine runEvt_of ⟨u, ?_, hq⟩
  rw [run_bind_ok (clearEvent_calm a.calm (by simpa using ha) k _)]
  exact hu

/-- Where nothing but a level bit is written, a status register keeps its word. -/
theorem State.stored_level (s : State) {r : Reg} {k j : Nat} (hk : bitOf (w1cMask r) k = true)
    (hj : bitOf (w1cMask r) j = false) : s.stored r (bit1 j) = s.raw r := by
  rw [s.stored_w1c hk]
  have hnone : bit1 j &&& w1cMask r = 0#32 := word_ext fun i hi => by
    rw [bitOf_and, bitOf_bit1]
    by_cases hij : i = j
    · subst hij
      simp [hj]
    · simp [hij]
  rw [hnone, BitVec.not_zero, BitVec.and_allOnes]

/-! The word that a write stores depends on the register alone. -/

theorem State.stored_congr {s t : State} {r : Reg} (hw : t.hw = s.hw) (hr : t.raw r = s.raw r) (v : Word) :
    t.stored r v = s.stored r v := by
  rw [State.stored, State.stored, hw, hr]

@[simp] theorem State.stored_of_note (s : State) (e : TraceEv) (r : Reg) (v : Word) :
    (s.note e).stored r v = s.stored r v := State.stored_congr rfl rfl v
@[simp] theorem State.stored_of_inCtx (s : State) (c : Ctx) (r : Reg) (v : Word) :
    (s.inCtx c).stored r v = s.stored r v := State.stored_congr rfl rfl v
@[simp] theorem State.stored_of_modEp (s : State) (e : EpRef) (f : EpRec → EpRec) (r : Reg) (v : Word) :
    (s.modEp e f).stored r v = s.stored r v := State.stored_congr (by simp) (by simp) v
@[simp] theorem State.stored_of_modCh (s : State) (c : Fin 16) (f : ChRec → ChRec) (r : Reg) (v : Word) :
    (s.modCh c f).stored r v = s.stored r v := State.stored_congr (by simp) (by simp) v
@[simp] theorem State.stored_of_modX (s : State) (x : XRef) (f : Xfer → Xfer) (r : Reg) (v : Word) :
    (s.modX x f).stored r v = s.stored r v := State.stored_congr (by simp) (by simp) v
@[simp] theorem State.stored_of_modReqAt (s : State) (i : ReqId) (f : Req → Req) (r : Reg) (v : Word) :
    (s.modReqAt i f).stored r v = s.stored r v := State.stored_congr (by simp) (by simp) v
@[simp] theorem State.stored_of_withPool (s : State) (l : List (Option Req)) (r : Reg) (v : Word) :
    (s.withPool l).stored r v = s.stored r v := State.stored_congr rfl rfl v
@[simp] theorem State.stored_of_withEp0 (s : State) (x : Ep0Rec) (r : Reg) (v : Word) :
    (s.withEp0 x).stored r v = s.stored r v := State.stored_congr rfl rfl v
@[simp] theorem State.stored_of_withCore (s : State) (x : CoreRec) (r : Reg) (v : Word) :
    (s.withCore x).stored r v = s.stored r v := State.stored_congr rfl rfl v
@[simp] theorem State.stored_of_withIso (s : State) (x : List IsoRec) (r : Reg) (v : Word) :
    (s.withIso x).stored r v = s.stored r v := State.stored_congr rfl rfl v
@[simp] theorem State.stored_of_withFifo (s : State) (x : Fifo) (r : Reg) (v : Word) :
    (s.withFifo x).stored r v = s.stored r v := State.stored_congr rfl rfl v
@[simp] theorem State.stored_of_setBytes (s : State) (a : Word) (bs : List Byte) (r : Reg) (v : Word) :
    (s.setBytes a bs).stored r v = s.stored r v := State.stored_congr (by simp) (by simp) v
@[simp] theorem State.stored_of_setWord (s : State) (a w : Word) (r : Reg) (v : Word) :
    (s.setWord a w).stored r v = s.stored r v := State.stored_congr (by simp) (by simp) v
@[simp] theorem State.stored_of_writeReg (s : State) {q r : Reg} (w v : Word) (h : r ≠ q) (hr : r ≠ .DIEPTXF 0)
    (hq : q ≠ .DIEPTXF 0) : (s.writeReg q w).stored r v = s.stored r v :=
  State.stored_congr (by simp) (by simp [h, hr, hq]) v

/-! Unhandled bits. -/

/-- An unhandled bit that a write can clear is cleared, and its mask stays. -/
theorem unhandledBit_clears {s : State} (c : s.Calm) (hd : s.hw.debug = false) {r : Reg} {k : Fin 32}
    (ha : s.accessible r = true) (hs : r.steady = true) (hk : bitOf (w1cMask r) k = true) (h : Hooks) :
    ∃ u, unhandledBit r k h s = .ok ((), u) ∧ u.raw r = s.raw r &&& ~~~(bit1 k) ∧ Frame s u [r] [] := by
  have hg : r ≠ .GAHBCFG := by rintro rfl; simp [w1cMask] at hk
  have hrst : r ≠ .GRSTCTL := by rintro rfl; simp [w1cMask] at hk
  have hfifo : r.keepsFifo = true := by
    rw [Reg.keepsFifo_iff]
    constructor <;> rintro n rfl <;> simp [w1cMask] at hk
  have hraw : (s.writeReg r (bit1 k)).raw r = s.raw r &&& ~~~(bit1 k) := by
    rw [State.raw_writeReg_plain s _ (w1c_writes_plain hk), s.stored_clear hk]
  have hgone : bitOf ((s.writeReg r (bit1 k)).peek r) k = false := by
    rw [State.bitOf_peek_status _ hk, hraw]
    simp [bitOf_not, bitOf_bit1]
  have hacc (v : Word) (e : TraceEv) : ((s.writeReg r v).note e).accessible r = true := by
    simp [ha]
  cases hm : maskOf r with
  | none => 
    refine ⟨(s.writeReg r (bit1 k)).note (.wr r.offset (bit1 k)), ?_, by simpa using hraw, by simp [hfifo]⟩
    simp [unhandledBit, run_bind, assertThat_release, hd, c, ha, hm]
  | some m =>
    refine ⟨((s.writeReg r (bit1 k)).note (.wr r.offset (bit1 k))).note
      (.rd r.offset (((s.writeReg r (bit1 k)).note (.wr r.offset (bit1 k))).peek r)), ?_, by simpa using hraw, by simp [hfifo]⟩
    simp [unhandledBit, run_bind, assertThat_release, hd, c, ha, hm, hs, hg, hrst, hgone]

/-- A write that gives every bit without an RW type its old value stores its word. -/
theorem State.stored_keep (s : State) {r : Reg} {v : Word} (hc : w1cMask r = 0#32) (hs : w1sMask r = 0#32)
    (h : ∀ k < 32, bitOf (rwMask s.hw r) k = false → bitOf v k = bitOf (s.raw r) k) : s.stored r v = v := by
  refine word_ext fun k hk => ?_
  rw [State.stored, bitOf_writeWord hk, hc, hs]
  cases hm : bitOf (rwMask s.hw r) k
  · simp [h k hk hm]
  · simp

/-- A word whose bits are all RW is stored whole in a register whose other bits read 0. -/
theorem State.stored_of_low (s : State) {r : Reg} {v : Word} (hc : w1cMask r = 0#32) (hs : w1sMask r = 0#32)
    (ho : s.raw r &&& ~~~(rwMask s.hw r) = 0#32) (hv : v &&& ~~~(rwMask s.hw r) = 0#32) : s.stored r v = v := by
  refine s.stored_keep hc hs fun k hk hm => ?_
  have hbit {w : Word} (hw : w &&& ~~~(rwMask s.hw r) = 0#32) : bitOf w k = false := by
    have h0 : bitOf (w &&& ~~~(rwMask s.hw r)) k = false := by rw [hw, bitOf_zero]
    rw [bitOf_and, bitOf_not hk, hm] at h0
    simpa using h0
  rw [hbit hv, hbit ho]

section
variable {s : State} (low : s.reservedLow)
include low

theorem State.reservedLow.size {r : Reg} {n : Fin 16} (h : r ∈ [Reg.DIEPTSIZ n, .DOEPTSIZ n, .HCTSIZ n]) :
    s.raw r &&& 0x1FFFFFFF#32 &&& ~~~(rwMask s.hw r) = 0#32 := by
  obtain ⟨_, _, hsize, _⟩ := low n
  exact hsize r h

theorem State.reservedLow.mask {r : Reg} {n : Fin 16} (h : r ∈ [Reg.DIEPMSK, .DOEPMSK, .HCINTMSK n, .HCSPLT n]) :
    s.raw r &&& ~~~(rwMask s.hw r) = 0#32 := by
  obtain ⟨_, _, _, hmask⟩ := low n
  exact hmask r h

end

/-- Bits that are set where the register has RW bits. -/
theorem State.stored_or (s : State) {r : Reg} {w : Word} (hc : w1cMask r = 0#32) (hs : w1sMask r = 0#32)
    (hw : w &&& ~~~(rwMask s.hw r) = 0#32) : s.stored r (s.raw r ||| w) = s.raw r ||| w := by
  refine s.stored_keep hc hs fun k hk hm => ?_
  have hbit : bitOf (w &&& ~~~(rwMask s.hw r)) k = false := by rw [hw, bitOf_zero]
  rw [bitOf_and, bitOf_not hk, hm] at hbit
  rw [bitOf_or, show bitOf w k = false by simpa using hbit, Bool.or_false]

/-- A bit of the interrupt mask is set or cleared alone (R30). -/
@[simp] theorem State.stored_gintmsk (s : State) {k : Nat} (hk : k ≠ 0) (b : Bool) :
    s.stored .GINTMSK (withBit (s.raw .GINTMSK) k b) = withBit (s.raw .GINTMSK) k b := by
  refine s.stored_keep rfl rfl fun j hj hm => ?_
  have h0 : j = 0 := by
    by_contra hne
    have hmask : ∀ i : Fin 32, i.val ≠ 0 → bitOf 0xFFFFFFFE#32 i.val = true := by decide
    have hset := hmask ⟨j, hj⟩ hne
    rw [show rwMask s.hw .GINTMSK = 0xFFFFFFFE#32 from rfl, hset] at hm
    cases hm
  rw [bitOf_withBit, if_neg (by omega)]

/-! A register that gets the word it has. -/

theorem State.get_setRaw_idle (s : State) (r : Reg) (a : Nat) :
    SMap.get 0 (s.setRaw r (s.raw r)).regs a = SMap.get 0 s.regs a := by
  by_cases ha : a = r.offset
  · subst ha
    exact SMap.get_put_same
  · exact SMap.get_put_ne ha

theorem State.raw_setRaw_idle (s : State) (r q : Reg) : (s.setRaw r (s.raw r)).raw q = s.raw q :=
  s.get_setRaw_idle r q.offset

theorem frame_setRaw_idle {s t : State} {rs : List Reg} {ps : List Part} (r : Reg) :
    Frame s (t.setRaw r (t.raw r)) rs ps ↔ Frame s t rs ps :=
  Frame.iff_of { Frame.refl t rs ps with regs := fun a _ => t.get_setRaw_idle r a }

/-- A level bit that is unhandled is masked while it reads 1 (R487). -/
theorem unhandledBit_masks {s : State} (c : s.Calm) (hd : s.hw.debug = false) {k : Fin 32}
    (hk : bitOf (w1cMask .GINTSTS) k = false) (h0 : k.val ≠ 0) (h : Hooks) :
    ∃ u, unhandledBit .GINTSTS k h s = .ok ((), u) ∧ Frame s u [.GINTMSK] [] ∧
      u.raw .GINTMSK = (if bitOf s.gintsts k then s.raw .GINTMSK &&& ~~~(bit1 k) else s.raw .GINTMSK) := by
  have hidle : s.writeReg .GINTSTS (bit1 k) = s.setRaw .GINTSTS (s.raw .GINTSTS) := by
    rw [← s.stored_level (r := .GINTSTS) (k := 1) (by decide) hk]
    rfl
  have hraw (q : Reg) : (s.writeReg .GINTSTS (bit1 k)).raw q = s.raw q := by rw [hidle, State.raw_setRaw_idle]
  have hgint : (s.writeReg .GINTSTS (bit1 k)).gintsts = s.gintsts :=
    State.gintsts_congr (fun r _ => hraw r) (by simp) (by simp) (by simp)
  have hframe : Frame s (s.writeReg .GINTSTS (bit1 k)) [.GINTMSK] [] := by
    rw [hidle, frame_setRaw_idle]
    simp
  have hpeek : (s.writeReg .GINTSTS (bit1 k)).peek .GINTSTS = s.gintsts := hgint
  have hstored : s.stored .GINTMSK (s.raw .GINTMSK &&& ~~~(bit1 k)) = s.raw .GINTMSK &&& ~~~(bit1 k) := by
    rw [← withBit_false]
    exact State.stored_gintmsk _ h0 false
  cases hb : bitOf s.gintsts k <;>
    simp [unhandledBit, run_bind, assertThat_release, hd, c, maskOf, withBit_false, hpeek, hb, hframe, hraw, hstored]

end Sys2Proof.Machine

/-! PROOF. Unhandled bits (R487). -/

namespace Sys2Proof.Machine

open Sys2Proof

section
variable {s : State} (a : s.Alone) {i : Instr}
include a

/-- An unhandled bit of an event that is cleared. -/
theorem runEvt_clears {r : Reg} {k : Fin 32} (ha : s.accessible r = true) (hs : r.steady = true)
    (hk : bitOf (w1cMask r) k = true) :
    ∃ t, runEvt i (unhandledBit r k) s = .next t ∧ t.raw r = s.raw r &&& ~~~(bit1 k) ∧ Frame s t [r] [] := by
  obtain ⟨u, hu, hraw, hframe⟩ := unhandledBit_clears (s := s.inCtx .isr) a.calm a.release (by simpa using ha) hs hk
    (hooksAt s.level)
  exact ⟨u.inCtx s.ctx, runEvt_ok hu, by simpa using hraw, hframe.event⟩

/-- An unhandled level bit of an event that is masked where it reads 1. -/
theorem runEvt_masks {k : Fin 32} (hk : bitOf (w1cMask .GINTSTS) k = false) (h0 : k.val ≠ 0) :
    ∃ t, runEvt i (unhandledBit .GINTSTS k) s = .next t ∧ Frame s t [.GINTMSK] [] ∧
      t.raw .GINTMSK = (if bitOf s.gintsts k then s.raw .GINTMSK &&& ~~~(bit1 k) else s.raw .GINTMSK) := by
  obtain ⟨u, hu, hframe, hraw⟩ := unhandledBit_masks (s := s.inCtx .isr) a.calm a.release hk h0 (hooksAt s.level)
  exact ⟨u.inCtx s.ctx, runEvt_ok hu, hframe.event, hraw⟩

end

theorem w1c_of_topUnassigned {k : Fin 32} (h : (Instr.topUnassigned k).wf = true) : bitOf (w1cMask .GINTSTS) k = true := by
  revert k
  decide

theorem w1c_of_inUnassigned {n : Fin 16} {k : Fin 32} (h : (Instr.inUnassigned n k).wf = true) :
    bitOf (w1cMask (.DIEPINT n)) k = true := by
  have hall : ∀ j : Fin 32, inUnassignedMask.getLsbD j = true → bitOf 0xFFFFFF7F j = true := by decide
  exact hall k h

theorem bitOf_allOnes (k : Fin 32) : bitOf 0xFFFFFFFF#32 k = true := by
  revert k
  decide

/-- Settles O45, by the two outcomes of an unhandled bit. -/
theorem unhandledBitsAreClearedOrMasked : Obligations.UnhandledBitsAreClearedOrMasked := by
  intro s a
  refine ⟨fun k hk => ?_, fun k => ?_, ?_, fun n k hm hn hk => ?_, fun n k i hm hn hi => ?_, fun c k hm hc => ?_, ?_⟩
  · exact runEvt_clears a (by simp) rfl (w1c_of_topUnassigned hk)
  · exact runEvt_clears a (by simp) rfl (bitOf_allOnes k)
  · exact runEvt_clears a (by simp) rfl (bitOf_allOnes 8)
  · exact runEvt_clears a (by simp [hm, hn]) rfl (w1c_of_inUnassigned hk)
  · have hacc : s.accessible (.DOEPINT n) = true := by simp [hm, hn]
    rcases hi with rfl | ⟨rfl, h0, rfl⟩
    · exact runEvt_clears a hacc rfl (bitOf_allOnes k)
    · have hproc : evtOutSetup n = unhandledBit (.DOEPINT n) 3 := if_neg h0
      rw [show exec (.outSetup n) s = runEvt (.outSetup n) (evtOutSetup n) s from rfl, hproc]
      exact runEvt_clears a hacc rfl (bitOf_allOnes 3)
  · exact runEvt_clears a (by simp [hm, hc]) rfl (bitOf_allOnes k)
  · intro p hp hs
    have hask : (s.inCtx .isr).hostSlave = false := by simpa using hs
    have hnp : exec .topNptxfemp s = runEvt .topNptxfemp (unhandledBit .GINTSTS 5) s :=
      runEvt_congr (by simp [evtNptxfemp, hask])
    have hp' : exec .topPtxfemp s = runEvt .topPtxfemp (unhandledBit .GINTSTS 26) s :=
      runEvt_congr (by simp [evtPtxfemp, hask])
    rcases List.mem_pair.mp hp with rfl | rfl
    · exact hnp ▸ runEvt_masks a (k := 5) (by decide) (by decide)
    · exact hp' ▸ runEvt_masks a (k := 26) (by decide) (by decide)

end Sys2Proof.Machine

/-! PROOF. The channel engine (R250, R260, R352 to R361): what its procedures do where nothing but the sequencer acts. -/

namespace Sys2Proof.Machine

open Sys2Proof

/-! The words of a channel (R250). -/

@[simp] theorem hccharValue_periodic {s : State} {c : Fin 16} (k : s.Calm) (hm : s.hostMode = true)
    (hp : typePeriodic (s.chan c).params.epType = true) (h : Hooks) :
    hccharValue c h s = .ok (hccharWord (s.chan c).params (decide ((field (s.raw .HFNUM) 0 16 + 1) % 2 = 1)),
      s.note (.rd (Reg.offset .HFNUM) (s.raw .HFNUM))) := by
  simp [hccharValue, oddFrame, run_bind, k, hm, hp]

@[simp] theorem hccharValue_plain {s : State} {c : Fin 16} (hp : typePeriodic (s.chan c).params.epType = false) (h : Hooks) :
    hccharValue c h s = .ok (hccharWord (s.chan c).params false, s) := by
  simp [hccharValue, hp]

section
variable (t : HcParams) (odd : Bool)

theorem bitOf_hccharWord_dir : bitOf (hccharWord t odd) 15 = decide (t.epDir = .IN) := by
  simp [hccharWord, bitOf_fld, bitOf_bitIf]
theorem bitOf_hccharWord_speed : bitOf (hccharWord t odd) 17 = decide (t.speed = .low) := by
  simp [hccharWord, bitOf_fld, bitOf_bitIf]
theorem bitOf_hccharWord_odd : bitOf (hccharWord t odd) 29 = odd := by
  simp [hccharWord, bitOf_fld, bitOf_bitIf]
theorem field_hccharWord_mps : field (hccharWord t odd) 0 11 = t.mps.toNat := by
  simpa [hccharWord, field_fld_same, field_fld_other, field_bitIf_other] using t.mps.isLt
theorem field_hccharWord_num : field (hccharWord t odd) 11 4 = t.epNum.val := by
  simp [hccharWord, field_fld_same, field_fld_other, field_bitIf_other]
theorem field_hccharWord_type : field (hccharWord t odd) 18 2 = typeCode t.epType := by
  cases h : t.epType <;> simp [hccharWord, field_fld_same, field_fld_other, field_bitIf_other, typeCode, h]
theorem field_hccharWord_multi : field (hccharWord t odd) 20 2 = t.multiCount.toNat := by
  simpa [hccharWord, field_fld_same, field_fld_other, field_bitIf_other] using t.multiCount.isLt
theorem field_hccharWord_addr : field (hccharWord t odd) 22 7 = t.devAddr.toNat := by
  simpa [hccharWord, field_fld_same, field_fld_other, field_bitIf_other] using t.devAddr.isLt

end

theorem State.npQueueSpace_read (s : State) : field (s.peek .GNPTXSTS) 16 8 = s.npQueueSpace % 256 := by
  show field (fld 0 16 s.npSpace ||| fld 16 8 s.npQueueSpace) 16 8 = _
  rw [field_or, field_fld_other _ (by omega), field_fld_same _ (by omega)]
  simp

theorem State.pQueueSpace_read (s : State) : field (s.peek .HPTXSTS) 16 8 = s.pQueueSpace % 256 := by
  show field (fld 0 16 s.pSpace ||| fld 16 8 s.pQueueSpace) 16 8 = _
  rw [field_or, field_fld_other _ (by omega), field_fld_same _ (by omega)]
  simp

@[simp] theorem queueSpace_periodic {s : State} {c : Fin 16} (k : s.Calm) (hm : s.hostMode = true)
    (hp : typePeriodic (s.chan c).params.epType = true) (h : Hooks) :
    queueSpace c h s = .ok (s.queueRoom c, s.note (.rd (Reg.offset .HPTXSTS) (s.peek .HPTXSTS))) := by
  simp [queueSpace, run_bind, k, hm, hp, State.queueRoom, s.pQueueSpace_read]

@[simp] theorem queueSpace_plain {s : State} {c : Fin 16} (k : s.Calm)
    (hp : typePeriodic (s.chan c).params.epType = false) (h : Hooks) :
    queueSpace c h s = .ok (s.queueRoom c, s.note (.rd (Reg.offset .GNPTXSTS) (s.peek .GNPTXSTS))) := by
  simp [queueSpace, run_bind, k, hp, State.queueRoom, s.npQueueSpace_read]

theorem State.queueRoom_congr {s t : State} {c : Fin 16} (hp : (t.chan c).params = (s.chan c).params) (hw : t.hw = s.hw)
    (hf : t.fifo = s.fifo) : t.queueRoom c = s.queueRoom c := by
  simp only [State.queueRoom, State.pQueueSpace, State.npQueueSpace, hp, hw, hf]

@[simp] theorem State.queueRoom_of_note (s : State) (e : TraceEv) (c : Fin 16) : (s.note e).queueRoom c = s.queueRoom c := rfl

/-- CHHLTD of a channel is unmasked (R353). -/
@[simp] theorem State.stored_unmaskHalted (s : State) (c : Fin 16) :
    s.stored (.HCINTMSK c) (s.raw (.HCINTMSK c) ||| 2#32) = s.raw (.HCINTMSK c) ||| 2#32 :=
  s.stored_or rfl rfl (by simp [rwMask])

/-- The W1S bits of HCCHAR (R39). -/
theorem State.bitOf_stored_hcchar (s : State) (c : Fin 16) (v : Word) {k : Nat} (hk : k < 32) (h : 30 ≤ k) :
    bitOf (s.stored (.HCCHAR c) v) k = (bitOf (s.raw (.HCCHAR c)) k || bitOf v k) := by
  have hmask : ∀ j : Fin 32, 30 ≤ j.val → bitOf 0x3FFEFFFF#32 j = false ∧ bitOf 0xC0000000#32 j = true := by decide
  obtain ⟨hrw, hs⟩ := hmask ⟨k, hk⟩ h
  rw [State.stored, bitOf_writeWord hk, show rwMask s.hw (.HCCHAR c) = 0x3FFEFFFF#32 from rfl,
    show w1sMask (.HCCHAR c) = 0xC0000000#32 from rfl, show w1cMask (.HCCHAR c) = 0#32 from rfl, hrw, hs]
  simp

/-- The RW bits of HCCHAR (R39). -/
theorem State.bitOf_stored_hcchar_rw (s : State) (c : Fin 16) (v : Word) {k : Nat} (hk : k < 30) (h : k ≠ 16) :
    bitOf (s.stored (.HCCHAR c) v) k = bitOf v k := by
  have hmask : ∀ j : Fin 30, j.val ≠ 16 → bitOf 0x3FFEFFFF#32 j = true ∧ bitOf 0xC0000000#32 j = false := by decide
  obtain ⟨hrw, hs⟩ := hmask ⟨k, hk⟩ h
  rw [State.stored, bitOf_writeWord (by omega), show rwMask s.hw (.HCCHAR c) = 0x3FFEFFFF#32 from rfl,
    show w1sMask (.HCCHAR c) = 0xC0000000#32 from rfl, show w1cMask (.HCCHAR c) = 0#32 from rfl, hrw, hs]
  simp

@[simp] theorem State.bitOf_stored_chena (s : State) (c : Fin 16) (v : Word) :
    bitOf (s.stored (.HCCHAR c) v) 31 = (bitOf (s.raw (.HCCHAR c)) 31 || bitOf v 31) :=
  s.bitOf_stored_hcchar c v (by decide) (by decide)
@[simp] theorem State.bitOf_stored_chdis (s : State) (c : Fin 16) (v : Word) :
    bitOf (s.stored (.HCCHAR c) v) 30 = (bitOf (s.raw (.HCCHAR c)) 30 || bitOf v 30) :=
  s.bitOf_stored_hcchar c v (by decide) (by decide)

/-- The events of a channel that are unmasked have a bit in HCINTMSK (R41, R360). -/
theorem channelMask_low (d : DmaMode) (r : ChRec) : channelMask d r &&& ~~~0x9FF#32 = 0#32 := by
  unfold channelMask
  cases d <;> cases r.params.doSplit <;> cases r.completeSplit <;> cases r.errorState <;>
    cases decide (r.params.epType = .interrupt) <;> rfl

/-- A channel that runs, with room in the request queue, is told to halt (R353). -/
theorem halt_asks {s : State} {c : Fin 16} {reason : HaltReason} (k : s.Calm) (hm : s.hostMode = true)
    (hc : c.val < s.hw.caps.nCh) (hn : (s.chan c).haltStatus = .noHalt) (he : bitOf (s.raw (.HCCHAR c)) 31 = true)
    (hq : s.queueRoom c ≠ 0) (h : Hooks) :
    ∃ u, halt c reason h s = .ok ((), u) ∧
      u.chan c = { s.chan c with haltDeferred := none, haltStatus := .haltPending, haltReason := some reason } ∧
      u.raw (.HCINTMSK c) = s.raw (.HCINTMSK c) ||| 0x2 ∧ bitOf (u.raw (.HCCHAR c)) 31 = true ∧
      bitOf (u.raw (.HCCHAR c)) 30 = true ∧ Frame s u [.HCINTMSK c, .HCCHAR c] [.ch c, .fifo] := by
  cases hp : typePeriodic (s.chan c).params.epType <;>
    simp [halt, run_bind, k, hm, hc, hn, he, hq, hp]

end Sys2Proof.Machine

/-! PROOF. The events that stop a channel, and those that stop nothing (R361, R364 to R370). -/

namespace Sys2Proof.Machine

open Sys2Proof

theorem State.modCh_id (s : State) (c : Fin 16) : (s.modCh c fun r => r) = s := by
  unfold State.modCh
  congr
  exact Vector.ext fun i hi => by simp

section
variable {s : State} {c : Fin 16} (a : s.Alone) (hm : s.hostMode = true) (hc : c.val < s.hw.caps.nCh)
include a hm hc

/-- An event of a channel that runs and has a request, whose handler changes its record and halts it. -/
theorem channelEvent_halts (ha : (s.chan c).allocated = true) (hx : (s.chan c).x.active ≠ none)
    (he : bitOf (s.raw (.HCCHAR c)) 31 = true) (hq : s.queueRoom c ≠ 0)
    {i : Instr} {k : Fin 32} {f : ChRec → ChRec} {reason : HaltReason} {body : M Unit}
    (hb : ∀ h u, u.chan c = s.chan c → u.hw = s.hw → body h u = halt c reason h (u.modCh c f))
    (hf : (f (s.chan c)).haltStatus = .noHalt) (hp : (f (s.chan c)).params = (s.chan c).params) :
    ∃ t, runEvt i (channelEvent c k body) s = .next t ∧
      t.chan c = { f (s.chan c) with haltDeferred := none, haltStatus := .haltPending, haltReason := some reason } ∧
      t.raw (.HCINT c) = s.raw (.HCINT c) &&& ~~~(bit1 k) ∧
      t.raw (.HCINTMSK c) = s.raw (.HCINTMSK c) ||| 0x2 ∧ bitOf (t.raw (.HCCHAR c)) 31 = true ∧
      bitOf (t.raw (.HCCHAR c)) 30 = true ∧ Frame s t [.HCINT c, .HCINTMSK c, .HCCHAR c] [.ch c, .fifo] := by
  have hk : bitOf (w1cMask (.HCINT c)) k = true := bitOf_allOnes k
  refine runEvt_of ?_
  obtain ⟨v, hv, hchan, hmask, h31, h30, hfr⟩ := halt_asks (s := ((s.inCtx .isr).cleared (.HCINT c) k).modCh c f)
    (c := c) (reason := reason) (by simp [State.cleared, a.calm]) (by simp [State.cleared, hm]) (by simp [State.cleared, hc])
    (by simp [State.cleared, hf]) (by simp [State.cleared, he])
    (by rw [State.queueRoom_congr (s := s) (by simp [State.cleared, hp]) (by simp [State.cleared]) (by simp [State.cleared])]; exact hq)
    (hooksAt s.level)
  have hframe : Frame s (((s.inCtx .isr).cleared (.HCINT c) k).modCh c f) [.HCINT c, .HCINTMSK c, .HCCHAR c]
      [.context, .ch c, .fifo] := by simp [State.cleared]
  have hint : v.raw (.HCINT c) = s.raw (.HCINT c) &&& ~~~(bit1 k) := by
    rw [hfr.raw_eq (by simp) (by simp), State.raw_of_modCh, State.raw_cleared _ hk, State.raw_of_inCtx]
  refine ⟨v, ?_, by simpa [State.cleared] using hchan, by simpa using hint, by simpa [State.cleared] using hmask, h31, h30,
    hframe.event_trans (hfr.mono (by simp) (by simp))⟩
  have hsame : ((s.inCtx .isr).cleared (.HCINT c) k).chan c = s.chan c := by simp [State.cleared]
  simp [channelEvent, run_bind, clearEvent_calm, a.calm, hm, hc, hsame, ha, hx]
  rw [hb _ _ hsame (by simp [State.cleared]), hv]

/-- The same where the handler leaves the record alone. -/
theorem channelEvent_halts_plain (ha : (s.chan c).allocated = true) (hx : (s.chan c).x.active ≠ none)
    (hn : (s.chan c).haltStatus = .noHalt) (he : bitOf (s.raw (.HCCHAR c)) 31 = true) (hq : s.queueRoom c ≠ 0)
    {i : Instr} {k : Fin 32} {reason : HaltReason} {body : M Unit}
    (hb : ∀ h u, u.chan c = s.chan c → body h u = halt c reason h u) :
    ∃ t, runEvt i (channelEvent c k body) s = .next t ∧
      t.chan c = { s.chan c with haltDeferred := none, haltStatus := .haltPending, haltReason := some reason } ∧
      t.raw (.HCINT c) = s.raw (.HCINT c) &&& ~~~(bit1 k) ∧
      t.raw (.HCINTMSK c) = s.raw (.HCINTMSK c) ||| 0x2 ∧ bitOf (t.raw (.HCCHAR c)) 31 = true ∧
      bitOf (t.raw (.HCCHAR c)) 30 = true ∧ Frame s t [.HCINT c, .HCINTMSK c, .HCCHAR c] [.ch c, .fifo] :=
  channelEvent_halts a hm hc ha hx he hq (f := fun r => r)
    (fun h u hu _ => by rw [State.modCh_id]; exact hb h u hu) hn rfl

/-- BNA of a channel that the isochronous scheduler does not run is an event like the others (R370). -/
theorem evtChBna_unscheduled (hs : s.scheduled (.ch c) = false) (h : Hooks) :
    evtChBna c h (s.inCtx .isr) = channelEvent c 11 (halt c .descErr) h (s.inCtx .isr) := by
  simp [evtChBna, channelEvent, run_bind, clearEvent_calm, a.calm, hm, hc, State.cleared, hs]

end

/-- Settles O52, event by event. -/
theorem channelErrorsAskForTheHalt : Obligations.ChannelErrorsAskForTheHalt := by
  intro s c a hm hc ha hx hn he hq r p hp
  have plain {i : Instr} {k : Fin 32} {reason : HaltReason} {body : M Unit} := channelEvent_halts_plain a hm hc ha hx hn he hq (i := i) (k := k) (reason := reason) (body := body)
  simp only [List.mem_append, List.mem_cons, List.not_mem_nil, or_false, or_assoc] at hp
  rcases hp with rfl | rfl | rfl | rfl | hp | hp | hp
  · exact plain (i := .chAhberr c) (k := 2) fun _ _ _ => rfl
  · exact plain (i := .chStall c) (k := 3) fun _ _ _ => rfl
  · exact plain (i := .chBblerr c) (k := 8) fun _ _ _ => rfl
  · refine channelEvent_halts a hm hc ha hx he hq (i := .chXacterr c) (k := 7)
      (f := fun r => { r with errorState := true, errorCount := min (r.errorCount + 1) s.hw.errLimit })
      (fun h u hu hw => ?_) hn rfl
    simp [run_bind, hw]
  · cases hs : s.scheduled (.ch c)
    case true => simp [hs] at hp
    case false =>
      obtain rfl : p = (.chBna c, 11, r, .descErr) := by simpa [hs] using hp
      have hexec : exec (.chBna c) s = runEvt (.chBna c) (channelEvent c 11 (halt c .descErr)) s :=
        runEvt_congr (evtChBna_unscheduled a hm hc hs _)
      exact hexec ▸ plain (i := .chBna c) (k := 11) fun _ _ _ => rfl
  · cases hd : r.params.doSplit
    case true =>
      obtain rfl : p = (.chNak c, 4, { r with completeSplit := false }, .nak) := by simpa [hd] using hp
      refine channelEvent_halts a hm hc ha hx he hq (i := .chNak c) (k := 4)
        (f := fun r => { r with completeSplit := false }) (fun h u hu _ => ?_) hn rfl
      simp [run_bind, hu, hd, r]
    case false =>
      by_cases hi : r.params.epType = .interrupt
      case pos =>
        obtain rfl : p = (.chNak c, 4, r, .nak) := by simpa [hd, hi] using hp
        exact plain (i := .chNak c) (k := 4) fun _ _ hu => by simp [hu, hd, hi, r]
      case neg => simp [hd, hi] at hp
  · cases hack : r.params.doSplit && !r.completeSplit && !r.errorState
    case true =>
      obtain rfl : p = (.chAck c, 5, r, .ack) := by simpa [hack] using hp
      obtain ⟨⟨hd, hcs⟩, herr⟩ : (r.params.doSplit = true ∧ r.completeSplit = false) ∧ r.errorState = false := by
        simpa using hack
      exact plain (i := .chAck c) (k := 5) fun _ _ hu => by simp [run_bind, hu, hd, hcs, herr, r]
    case false => simp [hack] at hp

section
variable {s : State} {c : Fin 16} (a : s.Alone) (hm : s.hostMode = true) (hc : c.val < s.hw.caps.nCh)
include a hm hc

/-- An event of a channel that has no request, or whose handler does nothing, only clears its bit (R361). -/
theorem channelEvent_clears {i : Instr} {k : Fin 32} {body : M Unit}
    (hb : ((s.chan c).allocated = false ∨ (s.chan c).x.active = none) ∨
      ∀ h u, u.chan c = s.chan c → body h u = .ok ((), u)) :
    ∃ t, runEvt i (channelEvent c k body) s = .next t ∧ t.raw (.HCINT c) = s.raw (.HCINT c) &&& ~~~(bit1 k) ∧
      Frame s t [.HCINT c] [] := by
  have hk : bitOf (w1cMask (.HCINT c)) k = true := bitOf_allOnes k
  refine runEvt_of ⟨(s.inCtx .isr).cleared (.HCINT c) k, ?_, by simp [State.raw_cleared _ hk], by simp [State.cleared]⟩
  have hsame : ((s.inCtx .isr).cleared (.HCINT c) k).chan c = s.chan c := by simp [State.cleared]
  rcases hb with (hall | hact) | hbody
  · simp [channelEvent, run_bind, clearEvent_calm, a.calm, hm, hc, hsame, hall]
  · simp [channelEvent, run_bind, clearEvent_calm, a.calm, hm, hc, hsame, hact]
  · simp [channelEvent, run_bind, clearEvent_calm, a.calm, hm, hc, hsame, hbody _ _ hsame]

end

/-- Settles O53, event by event. -/
theorem channelEventsThatOnlyClear : Obligations.ChannelEventsThatOnlyClear := by
  intro s c a low hm hc
  refine ⟨fun p hp hidle => ?_, fun hd hi => ?_, fun hd hall hact => ?_, fun hd hcs hall hact hn => ?_, fun hn => ?_⟩
  · simp only [List.mem_cons, List.not_mem_nil, or_false] at hp
    rcases hp with rfl | rfl | rfl | rfl | rfl | rfl | rfl
    · exact channelEvent_clears a hm hc (i := .chAhberr c) (k := 2) (.inl hidle)
    · exact channelEvent_clears a hm hc (i := .chStall c) (k := 3) (.inl hidle)
    · exact channelEvent_clears a hm hc (i := .chNak c) (k := 4) (.inl hidle)
    · exact channelEvent_clears a hm hc (i := .chAck c) (k := 5) (.inl hidle)
    · exact channelEvent_clears a hm hc (i := .chNyet c) (k := 6) (.inl hidle)
    · exact channelEvent_clears a hm hc (i := .chXacterr c) (k := 7) (.inl hidle)
    · exact channelEvent_clears a hm hc (i := .chBblerr c) (k := 8) (.inl hidle)
  · exact channelEvent_clears a hm hc (i := .chNak c) (k := 4) (.inr fun _ _ hu => by simp [hu, hd, hi])
  · have hk : bitOf (w1cMask (.HCINT c)) 5 = true := bitOf_allOnes 5
    have hmask (r : ChRec) (w : Word): s.stored (.HCINTMSK c) (channelMask s.core.dmaMode r ||| (w &&& 2#32)) =
        channelMask s.core.dmaMode r ||| (w &&& 2#32) :=
      s.stored_of_low rfl rfl (low.mask (n := c) (by simp)) (by
        rw [BitVec.and_or_distrib_right, show rwMask s.hw (.HCINTMSK c) = 0x9FF#32 from rfl, channelMask_low, BitVec.and_assoc]
        simp)
    refine runEvt_of ?_
    cases he : (s.chan c).errorState <;>
      simp [evtChAck, channelEvent, recoverChannel, run_bind, clearEvent_calm, a.calm, hm, hc, State.cleared, hd, hall, hact, he, hk, hmask]
    rfl
  · refine runEvt_of ?_
    have hk : bitOf (w1cMask (.HCINT c)) 6 = true := bitOf_allOnes 6
    cases hp : typePeriodic (s.chan c).params.epType <;>
      simp [evtChNyet, channelEvent, requestAgain, run_bind, clearEvent_calm, a.calm, hm, hc, State.cleared, hd, hall, hact, hcs, hn, hk, hp, State.bitOf_stored_hcchar_rw, bitOf_bit1, bitOf_hccharWord_dir]
  · exact channelEvent_clears a hm hc (i := .chNyet c) (k := 6) (.inr fun _ _ hu => by simp [hu, hn])

end Sys2Proof.Machine

/-! PROOF. The control registers of the endpoints (R49, R106), and what the endpoint engine writes there. -/

namespace Sys2Proof.Machine

open Sys2Proof

@[simp] theorem epCtl_in (n : Fin 16) : epCtl ⟨n, .IN⟩ = .DIEPCTL n := rfl
@[simp] theorem epCtl_out (n : Fin 16) : epCtl ⟨n, .OUT⟩ = .DOEPCTL n := rfl
@[simp] theorem epInt_in (n : Fin 16) : epInt ⟨n, .IN⟩ = .DIEPINT n := rfl
@[simp] theorem epInt_out (n : Fin 16) : epInt ⟨n, .OUT⟩ = .DOEPINT n := rfl
@[simp] theorem epSiz_in (n : Fin 16) : epSiz ⟨n, .IN⟩ = .DIEPTSIZ n := rfl
@[simp] theorem epSiz_out (n : Fin 16) : epSiz ⟨n, .OUT⟩ = .DOEPTSIZ n := rfl
@[simp] theorem epDma_in (n : Fin 16) : epDma ⟨n, .IN⟩ = .DIEPDMA n := rfl
@[simp] theorem epDma_out (n : Fin 16) : epDma ⟨n, .OUT⟩ = .DOEPDMA n := rfl
@[simp] theorem epMsk_in (n : Fin 16) : epMsk ⟨n, .IN⟩ = .DIEPMSK := rfl
@[simp] theorem epMsk_out (n : Fin 16) : epMsk ⟨n, .OUT⟩ = .DOEPMSK := rfl

/-! The registers of an endpoint are different ones. -/

section
variable (e d : EpRef)

@[simp] theorem epCtl_ne_epInt : epCtl e ≠ epInt d := by simp
@[simp] theorem epCtl_ne_epSiz : epCtl e ≠ epSiz d := by simp
@[simp] theorem epCtl_ne_epDma : epCtl e ≠ epDma d := by simp
@[simp] theorem epCtl_ne_epMsk : epCtl e ≠ epMsk d := by simp
@[simp] theorem epInt_ne_epCtl : epInt e ≠ epCtl d := by simp
@[simp] theorem epInt_ne_epSiz : epInt e ≠ epSiz d := by simp
@[simp] theorem epInt_ne_epDma : epInt e ≠ epDma d := by simp
@[simp] theorem epInt_ne_epMsk : epInt e ≠ epMsk d := by simp
@[simp] theorem epSiz_ne_epCtl : epSiz e ≠ epCtl d := by simp
@[simp] theorem epSiz_ne_epInt : epSiz e ≠ epInt d := by simp
@[simp] theorem epSiz_ne_epDma : epSiz e ≠ epDma d := by simp
@[simp] theorem epSiz_ne_epMsk : epSiz e ≠ epMsk d := by simp
@[simp] theorem epDma_ne_epCtl : epDma e ≠ epCtl d := by simp
@[simp] theorem epDma_ne_epInt : epDma e ≠ epInt d := by simp
@[simp] theorem epDma_ne_epSiz : epDma e ≠ epSiz d := by simp
@[simp] theorem epDma_ne_epMsk : epDma e ≠ epMsk d := by simp
@[simp] theorem epMsk_ne_epCtl : epMsk e ≠ epCtl d := by simp
@[simp] theorem epMsk_ne_epInt : epMsk e ≠ epInt d := by simp
@[simp] theorem epMsk_ne_epSiz : epMsk e ≠ epSiz d := by simp
@[simp] theorem epMsk_ne_epDma : epMsk e ≠ epDma d := by simp

end

/-! The registers of an endpoint are none of those that quietness depends on. -/

@[simp] theorem State.calm_writeReg_epCtl (s : State) (e : EpRef) (v : Word) : (s.writeReg (epCtl e) v).Calm ↔ s.Calm :=
  s.calm_writeReg v (by simp) (by simp)
@[simp] theorem State.calm_writeReg_epInt (s : State) (e : EpRef) (v : Word) : (s.writeReg (epInt e) v).Calm ↔ s.Calm :=
  s.calm_writeReg v (by simp) (by simp)
@[simp] theorem State.calm_writeReg_epSiz (s : State) (e : EpRef) (v : Word) : (s.writeReg (epSiz e) v).Calm ↔ s.Calm :=
  s.calm_writeReg v (by simp) (by simp)
@[simp] theorem State.calm_writeReg_epDma (s : State) (e : EpRef) (v : Word) : (s.writeReg (epDma e) v).Calm ↔ s.Calm :=
  s.calm_writeReg v (by simp) (by simp)
@[simp] theorem State.calm_writeReg_epMsk (s : State) (e : EpRef) (v : Word) : (s.writeReg (epMsk e) v).Calm ↔ s.Calm :=
  s.calm_writeReg v (by simp) (by simp)

/-! The word that a write leaves in a control register. -/

/-- The control word of an endpoint after a write (R49). -/
def State.ctlWritten (s : State) (e : EpRef) (v : Word) : Word := endpointActions v (s.stored (epCtl e) v)

@[simp] theorem State.raw_writeReg_ctl (s : State) (e : EpRef) (v : Word) :
    (s.writeReg (epCtl e) v).raw (epCtl e) = s.ctlWritten e v := s.writeReg_ctl v (epCtl_cases e)
@[simp] theorem State.raw_writeReg_diepctl (s : State) (n : Fin 16) (v : Word) :
    (s.writeReg (.DIEPCTL n) v).raw (.DIEPCTL n) = s.ctlWritten ⟨n, .IN⟩ v := s.writeReg_ctl v (.inl rfl)
@[simp] theorem State.raw_writeReg_doepctl (s : State) (n : Fin 16) (v : Word) :
    (s.writeReg (.DOEPCTL n) v).raw (.DOEPCTL n) = s.ctlWritten ⟨n, .OUT⟩ v := s.writeReg_ctl v (.inr rfl)

theorem State.ctlWritten_congr {s t : State} {e : EpRef} (hr : t.raw (epCtl e) = s.raw (epCtl e)) (hw : t.hw = s.hw)
    (v : Word) : t.ctlWritten e v = s.ctlWritten e v := by
  rw [State.ctlWritten, State.ctlWritten, State.stored_congr hw hr]

section
variable (s : State) (e : EpRef) (v : Word)

@[simp] theorem State.ctlWritten_of_note (x : TraceEv) : (s.note x).ctlWritten e v = s.ctlWritten e v :=
  State.ctlWritten_congr rfl rfl v
@[simp] theorem State.ctlWritten_of_inCtx (c : Ctx) : (s.inCtx c).ctlWritten e v = s.ctlWritten e v :=
  State.ctlWritten_congr rfl rfl v
@[simp] theorem State.ctlWritten_of_modEp (d : EpRef) (f : EpRec → EpRec) :
    (s.modEp d f).ctlWritten e v = s.ctlWritten e v := State.ctlWritten_congr (by simp) (by simp) v
@[simp] theorem State.ctlWritten_of_modX (x : XRef) (f : Xfer → Xfer) :
    (s.modX x f).ctlWritten e v = s.ctlWritten e v := State.ctlWritten_congr (by simp) (by simp) v
@[simp] theorem State.ctlWritten_of_modReqAt (i : ReqId) (f : Req → Req) :
    (s.modReqAt i f).ctlWritten e v = s.ctlWritten e v := State.ctlWritten_congr (by simp) (by simp) v
@[simp] theorem State.ctlWritten_of_withPool (l : List (Option Req)) : (s.withPool l).ctlWritten e v = s.ctlWritten e v :=
  State.ctlWritten_congr rfl rfl v
@[simp] theorem State.ctlWritten_of_withEp0 (x : Ep0Rec) : (s.withEp0 x).ctlWritten e v = s.ctlWritten e v :=
  State.ctlWritten_congr rfl rfl v
@[simp] theorem State.ctlWritten_of_withIso (l : List IsoRec) : (s.withIso l).ctlWritten e v = s.ctlWritten e v :=
  State.ctlWritten_congr rfl rfl v
@[simp] theorem State.ctlWritten_of_withFifo (f : Fifo) : (s.withFifo f).ctlWritten e v = s.ctlWritten e v :=
  State.ctlWritten_congr rfl rfl v
@[simp] theorem State.ctlWritten_of_withCore (c : CoreRec) : (s.withCore c).ctlWritten e v = s.ctlWritten e v :=
  State.ctlWritten_congr rfl rfl v
@[simp] theorem State.ctlWritten_of_setBytes (a : Word) (bs : List Byte) :
    (s.setBytes a bs).ctlWritten e v = s.ctlWritten e v := State.ctlWritten_congr (by simp) (by simp) v
@[simp] theorem State.ctlWritten_of_setWord (a w : Word) : (s.setWord a w).ctlWritten e v = s.ctlWritten e v :=
  State.ctlWritten_congr (by simp) (by simp) v
@[simp] theorem State.ctlWritten_of_writeReg {q : Reg} (w : Word) (h : epCtl e ≠ q) (hq : q ≠ .DIEPTXF 0) :
    (s.writeReg q w).ctlWritten e v = s.ctlWritten e v :=
  State.ctlWritten_congr (by simp [h, hq]) (by simp) v

/-- NAKSTS follows SNAK and CNAK (R49). -/
theorem State.bitOf_ctlWritten_nak :
    bitOf (s.ctlWritten e v) 17 = (bitOf v 27 || (bitOf (s.raw (epCtl e)) 17 && !bitOf v 26)) :=
  (s.raw_writeReg_ctl e v ▸ s.actions_writeReg v (epCtl_cases e)).1

/-- DPID follows SETD1PID and SETD0PID (R49). -/
theorem State.bitOf_ctlWritten_dpid :
    bitOf (s.ctlWritten e v) 16 = (bitOf v 29 || (bitOf (s.raw (epCtl e)) 16 && !bitOf v 28)) :=
  (s.raw_writeReg_ctl e v ▸ s.actions_writeReg v (epCtl_cases e)).2

/-- The RW bits of the two control registers, and their W1S bits. -/
theorem epCtl_masks (hw : HwParams) (e : EpRef) :
    rwMask hw (epCtl e) = (match e.dir with | .IN => 0x03EC87FF#32 | .OUT => 0x002C87FF#32) ∧
      w1cMask (epCtl e) = 0#32 ∧ w1sMask (epCtl e) = 0xC0000000#32 := by
  obtain ⟨n, d⟩ := e
  cases d <;> exact ⟨rfl, rfl, rfl⟩

theorem bitOf_w1s_ctl {k : Nat} (hk : k < 32) : bitOf 0xC0000000#32 k = decide (30 ≤ k) := by
  have hall : ∀ j : Fin 32, bitOf 0xC0000000#32 j = decide (30 ≤ j.val) := by decide
  exact hall ⟨k, hk⟩

/-- Every other bit follows its access type (R49). -/
theorem State.bitOf_ctlWritten {k : Nat} (hk : k < 32) (h16 : k ≠ 16) (h17 : k ≠ 17) :
    bitOf (s.ctlWritten e v) k =
      ((if bitOf (rwMask s.hw (epCtl e)) k then bitOf v k else bitOf (s.raw (epCtl e)) k) || (bitOf v k && decide (30 ≤ k))) := by
  obtain ⟨_, hc, hs⟩ := epCtl_masks s.hw e
  rw [State.ctlWritten, bitOf_endpointActions _ _ h16 h17, State.stored, bitOf_writeWord hk, hc, hs, bitOf_w1s_ctl hk]
  simp

/-- A read-modify-write that sets bits keeps every bit but those that it sets and the two that its actions concern (R106). -/
theorem State.bitOf_ctlWritten_keep (x : Word) {k : Nat} (hk : k < 32) (h16 : k ≠ 16) (h17 : k ≠ 17) :
    bitOf (s.ctlWritten e (keepControl (s.raw (epCtl e)) ||| x)) k =
      (bitOf (s.raw (epCtl e)) k || (bitOf x k && (bitOf (rwMask s.hw (epCtl e)) k || decide (30 ≤ k)))) := by
  have hlow : bitOf (rwMask s.hw (epCtl e)) k = true → k < 26 := by
    have hin : ∀ j : Fin 32, bitOf 0x03EC87FF#32 j = true → j.val < 26 := by decide
    have hout : ∀ j : Fin 32, bitOf 0x002C87FF#32 j = true → j.val < 26 := by decide
    rw [(epCtl_masks s.hw e).1]
    obtain ⟨n, d⟩ := e
    cases d
    case IN => exact hin ⟨k, hk⟩
    case OUT => exact hout ⟨k, hk⟩
  rw [s.bitOf_ctlWritten e _ hk h16 h17, bitOf_or, bitOf_keepControl]
  cases hr : bitOf (rwMask s.hw (epCtl e)) k
  · by_cases h30 : 30 ≤ k
    · simp [h30, show ¬ k < 26 by omega]
    · simp [h30]
  · have h26 := hlow hr
    simp [h26, show ¬ 30 ≤ k by omega]

/-- What a read-modify-write sets where it is given the bits `x`: those that are RW or W1S, and NAKSTS for SNAK (R49). -/
def ctlSets (hw : HwParams) (e : EpRef) (x : Word) : Word :=
  (x &&& (rwMask hw (epCtl e) ||| 0xC0000000)) ||| bitIf (bitOf x 27) 17

/-- A read-modify-write that gives no CNAK and no DPID only sets bits (R106). -/
theorem State.ctlWritten_sets {x : Word} (h26 : bitOf x 26 = false) (h28 : bitOf x 28 = false) (h29 : bitOf x 29 = false) :
    s.ctlWritten e (keepControl (s.raw (epCtl e)) ||| x) = s.raw (epCtl e) ||| ctlSets s.hw e x := by
  have hrw : bitOf (rwMask s.hw (epCtl e)) 16 = false ∧ bitOf (rwMask s.hw (epCtl e)) 17 = false := by
    rw [(epCtl_masks s.hw e).1]
    cases e.dir <;> exact ⟨rfl, rfl⟩
  refine word_ext fun k hk => ?_
  by_cases h17 : k = 17
  · subst h17
    simp [ctlSets, s.bitOf_ctlWritten_nak, h26, hrw, bitOf_bitIf, Bool.or_comm]
  · by_cases h16 : k = 16
    · subst h16
      simp [ctlSets, s.bitOf_ctlWritten_dpid, h28, h29, hrw, bitOf_bitIf]
    · simp [ctlSets, s.bitOf_ctlWritten_keep e x hk h16 h17, bitOf_bitIf, h17, bitOf_w1s_ctl hk]

/-- STALL is set alone (R287, R325). -/
theorem State.ctlWritten_stall :
    s.ctlWritten e (keepControl (s.raw (epCtl e)) ||| bit1 21) = s.raw (epCtl e) ||| bit1 21 := by
  rw [s.ctlWritten_sets e rfl rfl rfl, ctlSets, (epCtl_masks s.hw e).1]
  cases e.dir <;> rfl

/-- EPENA is set alone (R305). -/
theorem State.ctlWritten_enable :
    s.ctlWritten e (keepControl (s.raw (epCtl e)) ||| bit1 31) = s.raw (epCtl e) ||| bit1 31 := by
  rw [s.ctlWritten_sets e rfl rfl rfl, ctlSets, (epCtl_masks s.hw e).1]
  cases e.dir <;> rfl

/-- EPENA is written back as read (R284). -/
theorem haltWord_eq {w : Word} (h31 : bitOf w 31 = true) : haltWord w = keepControl w ||| 0xC8000000#32 := by
  have hbit : w &&& bit1 31 = bit1 31 := word_ext fun k _ => by
    by_cases h : k = 31
    · subst h
      simp [h31]
    · simp [bitOf_bit1, h]
  rw [haltWord, hbit, BitVec.or_assoc]
  rfl

/-- The disable of an endpoint that runs is asked for with NAK set (R284). -/
theorem State.ctlWritten_halt (h31 : bitOf (s.raw (epCtl e)) 31 = true) :
    s.ctlWritten e (haltWord (s.raw (epCtl e))) = s.raw (epCtl e) ||| 0x40020000 := by
  have hset : ctlSets s.hw e 0xC8000000#32 = 0xC0020000#32 := by
    rw [ctlSets, (epCtl_masks s.hw e).1]
    cases e.dir <;> rfl
  rw [haltWord_eq h31, s.ctlWritten_sets e rfl rfl rfl, hset]
  refine word_ext fun k hk => ?_
  by_cases h : k = 31
  · subst h
    simp [h31]
  · have hall : ∀ j : Fin 32, j.val ≠ 31 → bitOf 0xC0020000#32 j = bitOf 0x40020000#32 j := by decide
    rw [bitOf_or, bitOf_or]
    exact congrArg (bitOf (s.raw (epCtl e)) k || ·) (hall ⟨k, hk⟩ h)

end

/-- The confirmation of a disable is unmasked (R284). -/
@[simp] theorem State.stored_unmaskDisabled (s : State) (e : EpRef) :
    s.stored (epMsk e) (withBit (s.raw (epMsk e)) 1 true) = s.raw (epMsk e) ||| 2#32 := by
  have hword : withBit (s.raw (epMsk e)) 1 true = s.raw (epMsk e) ||| 2#32 := by
    refine word_ext fun k hk => ?_
    have hall : ∀ j : Fin 32, bitOf 2#32 j = decide (j.val = 1) := by decide
    rw [bitOf_withBit, bitOf_or, hall ⟨k, hk⟩]
    by_cases h : k = 1 <;> simp [h, hk]
  rw [hword]
  obtain ⟨n, d⟩ := e
  cases d <;> exact s.stored_or rfl rfl (by simp [rwMask])

/-! The abort of an endpoint (R284). -/

section
variable {s : State} {e : EpRef} (k : s.Calm) (hm : s.hostMode = false) (hn : e.num.val < s.hw.caps.nEp)
include k hm hn

/-- The abort of an endpoint that runs asks for its disable, unless that has been asked for already, and waits. -/
theorem abortEndpoint_running (hs : (s.ep e).state ≠ .haltedPendingDisable) (h31 : bitOf (s.raw (epCtl e)) 31 = true)
    (st : Status) (all : Bool) (h : Hooks) :
    ∃ u, abortEndpoint e st all h s = .ok ((), u) ∧
      u.ep e = { s.ep e with
        state := .haltedPendingDisable
        pendingStatus := st
        pendingAll := all
        disabling := true
        rearm := false } ∧
      ((s.ep e).disabling = true → Frame s u [] [.ep e]) ∧
      ((s.ep e).disabling = false → u.raw (epMsk e) = s.raw (epMsk e) ||| 0x2 ∧
        u.raw (epCtl e) = s.raw (epCtl e) ||| 0x40020000 ∧ Frame s u [epCtl e, epMsk e] [.ep e]) := by
  cases hd : (s.ep e).disabling <;>
    simp [abortEndpoint, run_bind, k, hm, hn, hs, h31, hd, EpRec.aborting, s.ctlWritten_halt e h31]

end

end Sys2Proof.Machine

/-! PROOF. The error events of the device endpoints (R274 to R277). -/

namespace Sys2Proof.Machine

open Sys2Proof

theorem w1c_epInt (e : EpRef) {k : Fin 32} (h : k ≠ 7) : bitOf (w1cMask (epInt e)) k = true := by
  have hin : ∀ j : Fin 32, j ≠ 7 → bitOf 0xFFFFFF7F#32 j = true := by decide
  obtain ⟨n, d⟩ := e
  cases d
  case IN => exact hin k h
  case OUT => exact bitOf_allOnes k

section
variable {s : State} {e : EpRef} (a : s.Alone) (hm : s.hostMode = false) (hn : e.num.val < s.hw.caps.nEp)
include a hm hn

/-- A fatal error event of an endpoint that runs. -/
theorem fatalEvent_aborts (hs : (s.ep e).state ≠ .haltedPendingDisable) (h31 : bitOf (s.raw (epCtl e)) 31 = true)
    {i : Instr} {k : Nat} {st : Status} {body : M Unit} (hk : bitOf (w1cMask (epInt e)) k = true)
    (hb : ∀ h u, (u.ep e).x = (s.ep e).x → u.scheduled (.ep e) = s.scheduled (.ep e) →
      body h u = abortEndpoint e st false h u) :
    ∃ t, runEvt i (do clearEvent (epInt e) k; body) s = .next t ∧
      t.ep e = { s.ep e with
        state := .haltedPendingDisable
        pendingStatus := st
        pendingAll := false
        disabling := true
        rearm := false } ∧
      t.raw (epInt e) = s.raw (epInt e) &&& ~~~(bit1 k) ∧
      ((s.ep e).disabling = true → Frame s t [epInt e] [.ep e]) ∧
      ((s.ep e).disabling = false → t.raw (epMsk e) = s.raw (epMsk e) ||| 0x2 ∧
        t.raw (epCtl e) = s.raw (epCtl e) ||| 0x40020000 ∧ Frame s t [epInt e, epCtl e, epMsk e] [.ep e]) := by
  refine runEvt_cleared a (by simp [hm, hn]) ?_
  obtain ⟨u, hu, hep, hwas, hnew⟩ := abortEndpoint_running (s := (s.inCtx .isr).cleared (epInt e) k) (e := e)
    (by simp [State.cleared, a.calm]) (by simp [State.cleared, hm]) (by simp [State.cleared, hn])
    (by simpa [State.cleared] using hs) (by simpa [State.cleared] using h31) st false (hooksAt s.level)
  have hint : ((s.inCtx .isr).cleared (epInt e) k).raw (epInt e) = s.raw (epInt e) &&& ~~~(bit1 k) := by
    rw [State.raw_cleared _ hk, State.raw_of_inCtx]
  have hframe (rs : List Reg) (ps : List Part) : Frame s ((s.inCtx .isr).cleared (epInt e) k) (epInt e :: rs)
      (.context :: ps) := by simp [State.cleared]
  have hdis : (((s.inCtx .isr).cleared (epInt e) k).ep e).disabling = (s.ep e).disabling := by simp [State.cleared]
  have hsame : u.raw (epInt e) = ((s.inCtx .isr).cleared (epInt e) k).raw (epInt e) := by
    cases hd : (s.ep e).disabling
    · exact (hnew (hdis.trans hd)).2.2.raw_eq (by simp) (by simp)
    · exact (hwas (hdis.trans hd)).raw_eq (by simp) (by simp)
  refine ⟨u, by rw [hb _ _ (by simp [State.cleared]) (by simp [State.cleared]), hu], by simpa [State.cleared] using hep,
    by rw [State.raw_of_inCtx, hsame, hint], fun hd => ?_, fun hd => ?_⟩
  · exact (hframe [] [.ep e]).event_trans ((hwas (hdis.trans hd)).mono (by simp) (by simp))
  · obtain ⟨hmsk, hctl, hf⟩ := hnew (hdis.trans hd)
    exact ⟨by simpa [State.cleared] using hmsk, by simpa [State.cleared] using hctl,
      (hframe [epCtl e, epMsk e] [.ep e]).event_trans (hf.mono (by simp) (by simp))⟩

/-- BNA of an endpoint without a request is only cleared (R442). -/
theorem bna_clears (h0 : e.num ≠ 0) (hs : s.scheduled (.ep e) = false) (hx : (s.ep e).x.active = none) {i : Instr} :
    ∃ t, runEvt i (do clearEvent (epInt e) 9; bnaOf e) s = .next t ∧
      t.raw (epInt e) = s.raw (epInt e) &&& ~~~(bit1 9) ∧ Frame s t [epInt e] [] := by
  refine runEvt_cleared a (by simp [hm, hn]) ?_
  have hk : bitOf (w1cMask (epInt e)) 9 = true := w1c_epInt e (k := 9) (by decide)
  have hint := State.raw_cleared (s.inCtx .isr) hk
  simp [bnaOf, State.cleared, hs, h0, hx]
  simpa [State.cleared] using hint

end

theorem endpointError_data {e : EpRef} (h0 : e.num ≠ 0) (st : Status) : endpointError e st = abortEndpoint e st false :=
  if_neg h0

/-- BNA of an endpoint that no isochronous record runs and that has a request is an error (R276). -/
theorem bnaOf_error {u : State} {e : EpRef} (h0 : e.num ≠ 0) (hs : u.scheduled (.ep e) = false)
    (hx : (u.ep e).x.active ≠ none) (h : Hooks) : bnaOf e h u = abortEndpoint e .descriptorError false h u := by
  simp [bnaOf, hs, hx, endpointError_data h0]

/-- Settles O49, event by event. -/
theorem fatalErrorDisablesTheEndpoint : Obligations.FatalErrorDisablesTheEndpoint := by
  refine ⟨fun s e a low hm h0 hn hs p hp => ⟨fun hst h31 hact => ?_, fun h9 hx => ?_⟩, fun s n a hm hn => ?_⟩
  · have error {i : Instr} (k : Fin 32) (h7 : k ≠ 7) (st : Status) :=
      fatalEvent_aborts a hm hn hst h31 (i := i) (k := k) (body := endpointError e st) (w1c_epInt e h7)
        fun _ _ _ _ => by rw [endpointError_data h0]
    have bna {i : Instr} (hx : (s.ep e).x.active ≠ none) :=
      fatalEvent_aborts a hm hn hst h31 (i := i) (k := 9) (body := bnaOf e) (w1c_epInt e (k := 9) (by decide))
        fun h u hxf hsc => bnaOf_error h0 (hsc.trans hs) (hxf ▸ hx) h
    obtain ⟨n, d⟩ := e
    cases d
    case IN =>
      rcases List.mem_pair.mp hp with rfl | rfl
      · exact error (i := .inAhberr n) 2 (by decide) .ahbError
      · exact bna (i := .inBna n) (hact rfl)
    case OUT =>
      simp only [fatalEvents, List.mem_cons, List.not_mem_nil, or_false] at hp
      rcases hp with rfl | rfl | rfl | rfl
      · exact error (i := .outAhberr n) 2 (by decide) .ahbError
      · exact error (i := .outOutpkterr n) 8 (by decide) .overflow
      · exact bna (i := .outBna n) (hact rfl)
      · exact error (i := .outBbleerr n) 12 (by decide) .babble
  · obtain ⟨n, d⟩ := e
    cases d
    case IN =>
      rcases List.mem_pair.mp hp with rfl | rfl
      · cases h9
      · exact bna_clears a hm hn h0 hs hx (i := .inBna n)
    case OUT =>
      simp only [fatalEvents, List.mem_cons, List.not_mem_nil, or_false] at hp
      rcases hp with rfl | rfl | rfl | rfl
      · cases h9
      · cases h9
      · exact bna_clears a hm hn h0 hs hx (i := .outBna n)
      · cases h9
  · have hk : bitOf (w1cMask (.DIEPINT n)) 3 = true := w1c_epInt ⟨n, .IN⟩ (k := 3) (by decide)
    have hbit : bit1 3 = 0x8#32 := rfl
    refine runEvt_of ⟨(s.inCtx .isr).cleared (.DIEPINT n) 3, ?_, ?_, by simp [State.cleared]⟩
    · simp [evtInTimeout, clearEvent_calm, a.calm, hm, hn]
    · rw [State.raw_of_inCtx, State.raw_cleared _ hk, State.raw_of_inCtx, hbit]

end Sys2Proof.Machine

/-! PROOF. Memory (R103): what a store leaves at its own addresses and elsewhere. -/

namespace Sys2Proof.Machine

open Sys2Proof

/-! Addresses. -/

theorem addr_succ (a : Word) (k : Nat) : a + 1 + BitVec.ofNat 32 k = a + BitVec.ofNat 32 (k + 1) := by
  rw [BitVec.add_assoc]
  congr 1
  exact BitVec.eq_of_toNat_eq (by simp [BitVec.toNat_add, Nat.add_comm])

theorem addr_inj {a : Word} {j k : Nat} (hj : j < 2 ^ 32) (hk : k < 2 ^ 32)
    (h : a + BitVec.ofNat 32 j = a + BitVec.ofNat 32 k) : j = k := by
  have he : BitVec.ofNat 32 j = BitVec.ofNat 32 k := (BitVec.add_right_inj a).mp h
  have hn := congrArg BitVec.toNat he
  rwa [BitVec.toNat_ofNat, BitVec.toNat_ofNat, Nat.mod_eq_of_lt hj, Nat.mod_eq_of_lt hk] at hn

/-! Rows of bytes. -/

/-- A stored byte is read back. -/
theorem State.byte_setBytes_in {bs : List Byte} (hl : bs.length ≤ 2 ^ 32) : ∀ (s : State) (a : Word) {k : Nat}
    (hk : k < bs.length), (s.setBytes a bs).byte (a + BitVec.ofNat 32 k) = bs[k] := by
  induction bs with
  | nil => exact fun _ _ _ hk => absurd hk (Nat.not_lt_zero _)
  | cons b bs ih =>
    intro s a k hk
    have hlt : bs.length < 2 ^ 32 := by simpa using hl
    cases k with
    | zero =>
      rw [State.setBytes, State.byte_setBytes_out]
      · simp
      · intro j hj e
        rw [addr_succ] at e
        exact absurd (addr_inj (by omega) (by omega) e) (by omega)
    | succ k =>
      rw [State.setBytes, ← addr_succ, ih hlt.le _ _ (by simpa using hk)]
      rfl

/-- A row of bytes is read back. -/
theorem State.bytes_setBytes {bs : List Byte} (hl : bs.length ≤ 2 ^ 32) : ∀ (s : State) (a : Word),
    (s.setBytes a bs).bytes a bs.length = bs := by
  induction bs with
  | nil => exact fun _ _ => rfl
  | cons b bs ih =>
    intro s a
    have hlt : bs.length < 2 ^ 32 := by simpa using hl
    have hhead := State.byte_setBytes_in hl s a (k := 0) (by simp)
    show State.byte _ a :: State.bytes _ (a + 1) bs.length = _
    rw [State.setBytes, ih hlt.le]
    congr 1
    simpa [State.setBytes] using hhead

/-! Words. -/

theorem State.word_eq (s : State) (a : Word) :
    s.word a = s.byte (a + BitVec.ofNat 32 3) ++ s.byte (a + BitVec.ofNat 32 2) ++ s.byte (a + BitVec.ofNat 32 1) ++
      s.byte (a + BitVec.ofNat 32 0) := by
  rw [show a + BitVec.ofNat 32 0 = a from BitVec.add_zero a]
  rfl

/-- The four bytes of a word make the word. -/
theorem wordBytes_append (w : Word) : byteOf w 3 ++ byteOf w 2 ++ byteOf w 1 ++ byteOf w 0 = w := by
  refine word_ext fun k hk => ?_
  simp only [byteOf, bitOf, BitVec.getLsbD_append, BitVec.getLsbD_extractLsb']
  by_cases h8 : k < 8
  · simp [h8]
  · by_cases h16 : k - 8 < 8
    · simp [h8, h16, show 8 + (k - 8) = k by omega]
    · by_cases h24 : k - 8 - 8 < 8
      · simp [h8, h16, h24, show 16 + (k - 8 - 8) = k by omega]
      · simp [h8, h16, h24, show k - 8 - 8 - 8 < 8 by omega, show 24 + (k - 8 - 8 - 8) = k by omega]

/-- A stored word is read back. -/
@[simp] theorem State.word_setWord_same (s : State) (a w : Word) : (s.setWord a w).word a = w := by
  have hin {k : Nat} (hk : k < 4) := State.byte_setBytes_in (bs := wordBytes w) (by simp [wordBytes]) s a hk
  rw [State.word_eq, State.setWord, hin (k := 3) (by omega), hin (k := 2) (by omega), hin (k := 1) (by omega),
    hin (k := 0) (by omega)]
  exact wordBytes_append w

/-- A word none of whose bytes is stored is as before. -/
theorem State.word_congr_bytes {s t : State} {a : Word}
    (h : ∀ k < 4, t.byte (a + BitVec.ofNat 32 k) = s.byte (a + BitVec.ofNat 32 k)) : t.word a = s.word a := by
  rw [State.word_eq, State.word_eq, h 0 (by omega), h 1 (by omega), h 2 (by omega), h 3 (by omega)]

/-- A byte outside a stored word is as before. -/
theorem State.byte_setWord_out (s : State) {a b : Word} (w : Word) (h : ∀ k < 4, b ≠ a + BitVec.ofNat 32 k) :
    (s.setWord a w).byte b = s.byte b :=
  State.byte_setBytes_out (wordBytes w) s a b (by simpa [wordBytes] using h)

/-! Frames. -/

section
variable {s t : State} {rs : List Reg} {ps : List Part}

@[simp] theorem frame_setBytes (a : Word) (bs : List Byte) (h : .mem ∈ ps) :
    Frame s (t.setBytes a bs) rs ps ↔ Frame s t rs ps :=
  Frame.iff_of
    { regs := fun _ _ => by simp
      mem := fun m => absurd h m
      fifo := fun _ => by simp
      core := fun _ _ => by simp
      ep := fun _ _ _ => by simp
      ch := fun _ _ _ => by simp
      pool := fun _ _ => by simp
      ep0 := fun _ _ => by simp
      iso := fun _ _ => by simp
      htog := fun _ _ => by simp
      plat := fun _ => by simp
      served := fun _ _ => by simp
      context := fun _ => by simp
      hw := by simp
      exist := fun _ _ => by simp
      inputs := by simp
      hidden := by simp }

@[simp] theorem frame_setWord (a w : Word) (h : .mem ∈ ps) : Frame s (t.setWord a w) rs ps ↔ Frame s t rs ps :=
  frame_setBytes a _ h

end

end Sys2Proof.Machine

/-! PROOF. Requests (R12, R240): the request that an endpoint or channel is working on. -/

namespace Sys2Proof.Machine

open Sys2Proof

section
variable {s : State} {h : Nat} {q : Req}

theorem State.reqAt_pool (hq : s.pool[h]? = some (some q)) : s.reqAt (.pool h) = q := by
  simp [State.reqAt, hq]

theorem State.slotUsed_pool (hq : s.pool[h]? = some (some q)) : s.slotUsed h = true := by
  simp [State.slotUsed, hq]

theorem State.reqOf_active {x : XRef} {i : ReqId} (ha : (s.xfer x).active = some i) : s.reqOf x = s.reqAt i := by
  simp [State.reqOf, ha]

theorem State.reqOf_pool {x : XRef} (ha : (s.xfer x).active = some (.pool h)) (hq : s.pool[h]? = some (some q)) :
    s.reqOf x = q := by
  rw [State.reqOf_active ha, State.reqAt_pool hq]

theorem State.pool_modReqAt (hq : s.pool[h]? = some (some q)) (f : Req → Req) :
    (s.modReqAt (.pool h) f).pool = s.pool.set h (some (f q)) := by
  show s.pool.modify h _ = _
  rw [List.modify_eq_set_getElem?, hq]
  rfl

@[simp] theorem run_modReq {x : XRef} {i : ReqId} (ha : (s.xfer x).active = some i) (f : Req → Req) (k : Hooks) :
    modReq x f k s = .ok ((), s.modReqAt i f) := by
  simp [modReq, ha]

end

end Sys2Proof.Machine

/-! PROOF. The engine of the device endpoints (R246 to R250, R272, R282 to R288): what its procedures do where nothing but the
sequencer acts. -/

namespace Sys2Proof.Machine

open Sys2Proof

/-- An endpoint that is as before need not be listed. -/
theorem Frame.drop_ep {s t : State} {rs : List Reg} {ps : List Part} {e : EpRef} (f : Frame s t rs (.ep e :: ps))
    (h : t.ep e = s.ep e) : Frame s t rs ps where
  regs := f.regs
  mem m := f.mem (by simpa using m)
  fifo m := f.fifo (by simpa using m)
  core m m' := f.core (by simpa using m) (by simpa using m')
  ep d m m' := by
    by_cases hd : d = e
    · exact hd ▸ h
    · exact f.ep d (by simpa [hd] using m) (by simpa using m')
  ch c m m' := f.ch c (by simpa using m) (by simpa using m')
  pool m m' := f.pool (by simpa using m) (by simpa using m')
  ep0 m m' := f.ep0 (by simpa using m) (by simpa using m')
  iso m m' := f.iso (by simpa using m) (by simpa using m')
  htog m m' := f.htog (by simpa using m) (by simpa using m')
  plat m := f.plat (by simpa using m)
  served m m' := f.served (by simpa using m) (by simpa using m')
  context m := f.context (by simpa using m)
  hw := f.hw
  exist m m' := f.exist (by simpa using m) (by simpa using m')
  inputs := f.inputs
  hidden := f.hidden

/-- A frame that does not list GINTSTS keeps the mode. -/
theorem Frame.hostMode_eq {s t : State} {rs : List Reg} {ps : List Part} (f : Frame s t rs ps)
    (h : ∀ q ∈ rs, .GINTSTS ≠ q ∧ q ≠ .DIEPTXF 0) : t.hostMode = s.hostMode := by
  rw [State.hostMode, State.hostMode, f.raw_eq h (by simp)]

/-- EPDISBLD of an endpoint that is not aborted and for which nothing waits, or that is Stalled (R285, R287). -/
theorem disableConfirmed_idle {s : State} {e : EpRef} (hen : (s.ep e).enabling = none)
    (hst : (s.ep e).state = .stalled ∨
      ((s.ep e).state ≠ .haltedPendingDisable ∧ (s.ep e).waits = false ∧ (s.ep e).rearm = false)) (h : Hooks) :
    ∃ u, disableConfirmed e h s = .ok ((), u) ∧ u.ep e = { s.ep e with disabling := false } ∧ Frame s u [] [.ep e] := by
  rcases hst with hst | ⟨hst, hw, hr⟩
  · cases hr : (s.ep e).rearm <;>
      simp [disableConfirmed, enableNow, startResume, isoResume, run_bind, hen, hst, hr]
  · simp [disableConfirmed, enableNow, startResume, run_bind, hen, hst, hw, hr]

end Sys2Proof.Machine

/-! PROOF. The FIFO-empty events of the host (R260, R264). -/

namespace Sys2Proof.Machine

open Sys2Proof

/-- A host IN channel that performs no split is requested again while the request queue has room (R260). -/
theorem continueChIn_requests {s : State} {c : Fin 16} (k : s.Calm) (hm : s.hostMode = true) (hc : c.val < s.hw.caps.nCh)
    (hd : (s.chan c).params.doSplit = false) (hq : s.queueRoom c ≠ 0) (h : Hooks) :
    ∃ u, continueChIn c h s = .ok (true, u) ∧ u.chan c = { s.chan c with requests := (s.chan c).requests + 1 } ∧
      bitOf (u.raw (.HCCHAR c)) 31 = true ∧ Frame s u [.HCCHAR c] [.ch c, .fifo] := by
  cases hp : typePeriodic (s.chan c).params.epType <;>
    simp [continueChIn, requestAgain, run_bind, k, hm, hc, hd, hq, hp, bitOf_bit1]

/-- CONTINUE_TRANSFER of a host IN channel with a transfer and no halt under way (R260). -/
theorem continueTransfer_chIn {s : State} {c : Fin 16} (hs : s.isSlave = true) (hx : (s.chan c).x.active ≠ none)
    (hn : (s.chan c).haltStatus = .noHalt) (hf : (s.chan c).haltDeferred = none) (hdir : (s.chan c).params.epDir = .IN)
    (h : Hooks) : continueTransfer (.ch c) h s = continueChIn c h s := by
  simp [continueTransfer, hs, hx, hn, hf, hdir]

theorem mem_of_nextServed {last : Option (Fin 16)} {l : List (Fin 16)} {c : Fin 16} (h : nextServed last l = some c) :
    c ∈ l := by
  cases last with
  | none => exact List.mem_of_head? h
  | some p =>
    rcases (Option.orElse_eq_some _ _ _).mp h with h | ⟨_, h⟩
    · exact List.mem_of_find?_eq_some h
    · exact List.mem_of_head? h

theorem State.mem_serviceList (s : State) (periodic : Bool) (c : Fin 16) :
    c ∈ s.serviceList periodic ↔ c ∈ s.channels ∧ (s.chan c).allocated = true ∧
      typePeriodic (s.chan c).params.epType = periodic ∧ (s.chan c).needsService = true := by
  simp [State.serviceList, and_assoc]

theorem ChRec.needsService_running {r : ChRec} (hf : r.haltDeferred = none) (h : r.needsService = true) :
    r.x.active ≠ none ∧ r.haltStatus = .noHalt ∧ r.params.doSplit = false := by
  simp [ChRec.needsService, hf] at h
  simp [h]

theorem State.channels_lt {s : State} {c : Fin 16} (h : c ∈ s.channels) : c.val < s.core.caps.nCh := by
  simpa [State.channels] using h

/-- The state in which a channel is the one served last. -/
def State.serving (s : State) (periodic : Bool) (c : Fin 16) : State :=
  if periodic then { s with rrP := some c } else { s with rrNp := some c }

section
variable {s : State} (periodic : Bool) (c : Fin 16)

@[simp] theorem State.hw_of_serving : (s.serving periodic c).hw = s.hw := by cases periodic <;> rfl
@[simp] theorem State.ctx_of_serving : (s.serving periodic c).ctx = s.ctx := by cases periodic <;> rfl
@[simp] theorem State.hostMode_of_serving : (s.serving periodic c).hostMode = s.hostMode := by cases periodic <;> rfl
@[simp] theorem State.isSlave_of_serving : (s.serving periodic c).isSlave = s.isSlave := by cases periodic <;> rfl
@[simp] theorem State.chan_of_serving (d : Fin 16) : (s.serving periodic c).chan d = s.chan d := by cases periodic <;> rfl
@[simp] theorem State.queueRoom_of_inCtx (x : Ctx) (d : Fin 16) : (s.inCtx x).queueRoom d = s.queueRoom d := rfl
@[simp] theorem State.queueRoom_of_serving (d : Fin 16) : (s.serving periodic c).queueRoom d = s.queueRoom d := by
  cases periodic <;> rfl
@[simp] theorem State.calm_serving : (s.serving periodic c).Calm ↔ s.Calm := by
  cases periodic <;> exact State.calm_congr rfl rfl rfl rfl
theorem State.lastServed_serving : (s.serving periodic c).lastServed periodic = some c := by cases periodic <;> rfl
theorem State.lastServed_serving_other : (s.serving periodic c).lastServed (!periodic) = s.lastServed (!periodic) := by
  cases periodic <;> rfl

theorem frame_serving {rs : List Reg} {ps : List Part} (h : .served ∈ ps) : Frame s (s.serving periodic c) rs ps := by
  cases periodic <;> exact { Frame.refl s rs ps with served := fun m => absurd h m }

end

/-- What was served last is no part of a frame that does not list it. -/
theorem Frame.lastServed_eq {s t : State} {rs : List Reg} {ps : List Part} (f : Frame s t rs ps) (hs : .served ∉ ps)
    (hr : .records ∉ ps) (b : Bool) : t.lastServed b = s.lastServed b :=
  State.lastServed_of (f.served hs hr).1 (f.served hs hr).2 b

/-- In host slave mode the FIFO-empty events have their handler (R151, R264). -/
theorem exec_fifoEmpty {s : State} (hm : s.hostMode = true) (hs : s.isSlave = true) (periodic : Bool) :
    let i := if periodic then Instr.topPtxfemp else .topNptxfemp
    exec i s = runEvt i (serveFifoEmpty periodic) s := by
  cases periodic
  · exact runEvt_congr (by simp [evtNptxfemp, State.hostSlave, hm, hs])
  · exact runEvt_congr (by simp [evtPtxfemp, State.hostSlave, hm, hs])

/-- Settles O44. -/
theorem fifoEmptyEventsServeTheNextChannel : Obligations.FifoEmptyEventsServeTheNextChannel := by
  intro s periodic a hr hs i
  refine ⟨fun hnone => ?_, fun c hc hf hdir hq => ?_⟩
  · rw [exec_fifoEmpty hr.mode hs periodic]
    have hnext (l : Option (Fin 16)) : nextServed l [] = none := by cases l <;> rfl
    have hbit : fifoEmptyBit periodic = if periodic then 26 else 5 := rfl
    have hword : s.stored .GINTMSK (s.raw .GINTMSK &&& ~~~(bit1 (fifoEmptyBit periodic))) =
        s.raw .GINTMSK &&& ~~~(bit1 (fifoEmptyBit periodic)) := by
      rw [← withBit_false]
      exact s.stored_gintmsk (by cases periodic <;> decide) false
    refine runEvt_of ?_
    simp [serveFifoEmpty, hnone, hnext, maskFifoEmpty, a.calm, withBit_false, ← hbit, hword]
  · obtain ⟨hmem, halloc, htype, hneed⟩ := (s.mem_serviceList periodic c).mp (mem_of_nextServed hc)
    obtain ⟨hx, hn, hsplit⟩ := ChRec.needsService_running hf hneed
    have hlt : c.val < s.hw.caps.nCh := hr.caps ▸ State.channels_lt hmem
    rw [exec_fifoEmpty hr.mode hs periodic]
    obtain ⟨u, hu, hch, hena, hfr⟩ := continueChIn_requests (s := (s.inCtx .isr).serving periodic c) (c := c)
      (by simpa using a.calm) (by simpa using hr.mode) (by simpa using hlt) (by simpa using hsplit) (by simpa using hq)
      (hooksAt s.level)
    have hcont : continueTransfer (.ch c) (hooksAt s.level) ((s.inCtx .isr).serving periodic c) = .ok (true, u) := by
      rw [continueTransfer_chIn (by simpa using hs) (by simpa using hx) (by simpa using hn) (by simpa using hf)
        (by simpa using hdir), hu]
    have hlist : c ∈ u.serviceList periodic := by
      rw [State.mem_serviceList]
      have hcore : u.core = ((s.inCtx .isr).serving periodic c).core := hfr.core (by simp) (by simp)
      have hsame : ((s.inCtx .isr).serving periodic c).core = s.core := by cases periodic <;> rfl
      have hch' : u.chan c = { s.chan c with requests := (s.chan c).requests + 1 } := by simpa using hch
      refine ⟨?_, by rw [hch', halloc], by rw [hch', htype], by rw [hch']; exact hneed⟩
      rwa [State.channels, hcore, hsame, ← State.channels]
    have hserve : serveFifoEmpty periodic (hooksAt s.level) (s.inCtx .isr) = .ok ((), u) := by
      have hne : u.serviceList periodic ≠ [] := List.ne_nil_of_mem hlist
      have hset : setServed periodic c (hooksAt s.level) (s.inCtx .isr) = .ok ((), (s.inCtx .isr).serving periodic c) := rfl
      simp [serveFifoEmpty, run_bind, hc, hset, hcont, hne]
    have hbase : Frame s ((s.inCtx .isr).serving periodic c) [.HCCHAR c] [.context, .ch c, .served, .fifo] := by
      have hin : Frame s (s.inCtx .isr) [.HCCHAR c] [.context, .ch c, .served, .fifo] := by simp
      exact hin.trans (frame_serving periodic c (by simp))
    refine runEvt_of ⟨u, hserve, by simpa using hch, by simpa using hena, ?_, ?_, hbase.event_trans (hfr.mono (by simp) (by simp))⟩
    · rw [State.lastServed_of_inCtx, hfr.lastServed_eq (by simp) (by simp), State.lastServed_serving]
    · rw [State.lastServed_of_inCtx, hfr.lastServed_eq (by simp) (by simp), State.lastServed_serving_other,
        State.lastServed_of_inCtx]

end Sys2Proof.Machine

/-! PROOF. The routes from a summary event to the first pending leaf event (R475 to R478). -/

namespace Sys2Proof.Machine

open Sys2Proof

/-! Each leaf handler is the meaning of its event. -/

theorem exec_otgEvent (k : Fin 32) (s : State) : exec (otgEvent k) s = runEvt (otgEvent k) (leafOtg k) s := by
  fin_cases k <;> rfl

theorem exec_inEvent (n : Fin 16) (k : Fin 32) (s : State) : exec (inEvent n k) s = runEvt (inEvent n k) (leafIn n k) s := by
  fin_cases k <;> rfl

theorem exec_outEvent (n : Fin 16) (k : Fin 32) (s : State) :
    exec (outEvent n k) s = runEvt (outEvent n k) (leafOut n k) s := by
  fin_cases k <;> rfl

theorem exec_chEvent (c : Fin 16) (k : Fin 32) (s : State) : exec (chEvent c k) s = runEvt (chEvent c k) (leafCh c k) s := by
  fin_cases k <;> rfl

/-- An event that comes to the procedure of another event, in the state that one starts from, carries on as it. -/
theorem carriesOn_runEvt {i j : Instr} {p q : M Unit} {s u : State}
    (h : p (hooksAt s.level) (s.inCtx .isr) = q (hooksAt u.level) (u.inCtx .isr)) (hc : u.ctx = s.ctx)
    (hp : u.patience = s.patience) : CarriesOn (runEvt i p s) (runEvt j q u) s.patience := by
  rw [runEvt_eq i p s, runEvt_eq j q u, h, hc]
  cases q (hooksAt u.level) (u.inCtx .isr) with
  | ok x => exact ⟨fun t ht _ => ht, fun f hf => hf⟩
  | error e =>
    constructor
    · intro t ht hpat
      cases e <;> cases ht
      simp [State.again, hp] at hpat
    · intro f hf
      cases e <;> cases hf
      rfl

/-! Reading registers. -/

/-- The state after a row of register reads that change nothing. -/
def State.reading (s : State) : List Reg → State
  | [] => s
  | r :: l => (s.note (.rd r.offset (s.peek r))).reading l

@[simp] theorem State.reading_nil (s : State) : s.reading [] = s := rfl
theorem State.reading_cons (s : State) (r : Reg) (l : List Reg) :
    s.reading (r :: l) = (s.note (.rd r.offset (s.peek r))).reading l := rfl

@[simp] theorem frame_reading {s t : State} {rs : List Reg} {ps : List Part} (l : List Reg) :
    Frame t (s.reading l) rs ps ↔ Frame t s rs ps := by
  induction l generalizing s with
  | nil => rfl
  | cons r l ih => rw [State.reading_cons, ih, frame_note]

@[simp] theorem State.patience_reading (s : State) (l : List Reg) : (s.reading l).patience = s.patience := by
  induction l generalizing s with
  | nil => rfl
  | cons r l ih => rw [State.reading_cons, ih]; rfl

@[simp] theorem State.daint_of_inCtx (s : State) (c : Ctx) : (s.inCtx c).daint = s.daint := rfl
@[simp] theorem State.daint_of_note (s : State) (e : TraceEv) : (s.note e).daint = s.daint := rfl
@[simp] theorem State.haint_of_inCtx (s : State) (c : Ctx) : (s.inCtx c).haint = s.haint := rfl
@[simp] theorem State.haint_of_note (s : State) (e : TraceEv) : (s.note e).haint = s.haint := rfl
@[simp] theorem State.diepint_of_inCtx (s : State) (c : Ctx) (n : Fin 16) : (s.inCtx c).diepint n = s.diepint n := rfl
@[simp] theorem State.diepint_of_note (s : State) (e : TraceEv) (n : Fin 16) : (s.note e).diepint n = s.diepint n := rfl
theorem State.note_inCtx (s : State) (e : TraceEv) (c : Ctx) : (s.note e).inCtx c = (s.inCtx c).note e := rfl

section
variable {s : State} (a : s.Alone)
include a

/-- OTGINT reads GOTGINT. -/
theorem otgint_reads {k : Fin 32} (hk : firstEvent otgOrder (s.raw .GOTGINT) = some k) (h : Hooks) :
    evtOtgint h (s.inCtx .isr) = leafOtg k h ((s.reading [.GOTGINT]).inCtx .isr) := by
  simp [evtOtgint, run_bind, a.calm, handleFirst, hk, State.reading_cons, State.note_inCtx]

/-- IEPINT reads the summary and the registers of the lowest IN endpoint. -/
theorem iepint_reads (hm : s.hostMode = false) {n : Fin 16} {k : Fin 32} (hn : n.val < s.hw.caps.nEp)
    (hlow : lowestNum (s.daint &&& s.raw .DAINTMSK &&& 0xFFFF#32) = some n)
    (hk : firstEvent inOrder (s.diepint n &&& (s.raw .DIEPMSK ||| bitIf (bitOf (s.raw .DIEPEMPMSK) n.val) 7)) = some k)
    (h : Hooks) :
    evtIepint h (s.inCtx .isr) = leafIn n k h ((s.reading [.DAINT, .DAINTMSK, .DIEPINT n, .DIEPMSK, .DIEPEMPMSK]).inCtx .isr) := by
  simp [evtIepint, run_bind, a.calm, hm, hn, handleFirst, hk, State.reading_cons, State.note_inCtx, hlow, State.peek]

/-- OEPINT reads the summary and the registers of the lowest OUT endpoint. -/
theorem oepint_reads (hm : s.hostMode = false) {n : Fin 16} {k : Fin 32} (hn : n.val < s.hw.caps.nEp)
    (hlow : lowestNum ((s.daint &&& s.raw .DAINTMSK) >>> 16) = some n)
    (hk : firstEvent outOrder (s.raw (.DOEPINT n) &&& s.raw .DOEPMSK) = some k) (h : Hooks) :
    evtOepint h (s.inCtx .isr) = leafOut n k h ((s.reading [.DAINT, .DAINTMSK, .DOEPINT n, .DOEPMSK]).inCtx .isr) := by
  simp [evtOepint, run_bind, a.calm, hm, hn, handleFirst, hk, State.reading_cons, State.note_inCtx, hlow, State.peek]

/-- HCHINT reads the summary and the registers of the lowest channel. -/
theorem hchint_reads (hm : s.hostMode = true) {c : Fin 16} {k : Fin 32} (hn : c.val < s.hw.caps.nCh)
    (hlow : lowestNum (s.haint &&& s.raw .HAINTMSK) = some c)
    (hk : firstEvent chOrder (s.raw (.HCINT c) &&& s.raw (.HCINTMSK c)) = some k) (h : Hooks) :
    evtHchint h (s.inCtx .isr) = leafCh c k h ((s.reading [.HAINT, .HAINTMSK, .HCINT c, .HCINTMSK c]).inCtx .isr) := by
  simp [evtHchint, run_bind, a.calm, hm, hn, handleFirst, hk, State.reading_cons, State.note_inCtx, hlow, State.peek]

end

/-- A route that reads registers and runs a leaf handler carries on as the leaf's event. -/
theorem carriesOn_reading {s : State} {i j : Instr} {p q : M Unit} {l : List Reg}
    (h : p (hooksAt s.level) (s.inCtx .isr) = q (hooksAt s.level) ((s.reading l).inCtx .isr)) :
    ∃ u, Frame s u [] [] ∧ u.patience = s.patience ∧ CarriesOn (runEvt i p s) (runEvt j q u) s.patience := by
  have hf : Frame s (s.reading l) [] [] := by simp
  have hlevel : (s.reading l).level = s.level := by rw [State.level, hf.inputs.2.2.1, State.level]
  exact ⟨s.reading l, hf, by simp, carriesOn_runEvt (by rw [h, hlevel]) (hf.context (by simp)) (by simp)⟩

theorem State.Alone.calm_reading {s : State} (a : s.Alone) (l : List Reg) : ((s.reading l).inCtx .isr).Calm := by
  have hf : Frame s (s.reading l) [] [] := by simp
  refine ⟨.isr (hf.inputs.2.1.trans a.env) (hf.inputs.2.2.2.trans a.prompt) rfl, ?_⟩
  simpa [State.unsettled, hf.raw_eq] using a.settled

/-- An event handler that only clears its bit. -/
theorem runEvt_reading_clears {s : State} {i : Instr} {p q : M Unit} {l : List Reg} {r : Reg} {k : Nat}
    (h : p (hooksAt s.level) (s.inCtx .isr) = q (hooksAt s.level) ((s.reading l).inCtx .isr))
    (hq : ∃ u, q (hooksAt s.level) ((s.reading l).inCtx .isr) = .ok ((), u) ∧
      u.raw r = ((s.reading l).inCtx .isr).raw r &&& ~~~(bit1 k) ∧ Frame ((s.reading l).inCtx .isr) u [r] []) :
    ∃ t, runEvt i p s = .next t ∧ t.raw r = s.raw r &&& ~~~(bit1 k) ∧ Frame s t [r] [] := by
  obtain ⟨u, hu, hraw, hf⟩ := hq
  have hbase : Frame s ((s.reading l).inCtx .isr) [] [.context] := by simp
  have hsame : ((s.reading l).inCtx .isr).raw r = s.raw r := hbase.regs _ (by simp)
  exact runEvt_of ⟨u, h.trans hu, by rw [State.raw_of_inCtx, hraw, hsame],
    (hbase.mono (by simp) (by simp)).event_trans hf⟩

theorem clearEvent_only {s : State} {r : Reg} {k : Nat} (c : s.Calm) (ha : s.accessible r = true)
    (hk : bitOf (w1cMask r) k = true) (h : Hooks) :
    ∃ u, clearEvent r k h s = .ok ((), u) ∧ u.raw r = s.raw r &&& ~~~(bit1 k) ∧ Frame s u [r] [] := by
  have hfifo : r.keepsFifo = true := by
    rw [Reg.keepsFifo_iff]
    constructor <;> rintro n rfl <;> simp [w1cMask] at hk
  exact ⟨_, clearEvent_calm c ha k h, s.raw_cleared hk, by simp [State.cleared, hfifo]⟩

theorem lowestNum_bit (n : Fin 16) : lowestNum (bit1 n.val &&& 0xFFFF#32) = some n ∧ lowestNum (bit1 n.val) = some n ∧
    lowestNum (bit1 (16 + n.val) >>> 16) = some n := by
  revert n
  decide

/-- Settles O41. -/
theorem routesRunTheFirstPendingEvent : Obligations.RoutesRunTheFirstPendingEvent := by
  refine ⟨fun s a => ⟨fun k hk => ?_, fun hm n k hlow hn hk => ?_, fun hm n k hlow hn hk => ?_,
    fun hm c k hlow hc hk => ?_⟩, fun s a => ⟨fun hw => ?_, fun n hm hn hlow hw => ?_,
    fun n hm hn hlow hw hst hdis hre hwait hen => ?_, fun c hm hc hlow hw hall => ?_⟩⟩
  · simp only [exec_otgEvent]
    exact carriesOn_reading (otgint_reads a hk _)
  · simp only [exec_inEvent]
    exact carriesOn_reading ((inMode_same (s := s.inCtx .isr) (by simpa using hm) 18 _ _).trans (iepint_reads a hm hn hlow hk _))
  · simp only [exec_outEvent]
    exact carriesOn_reading ((inMode_same (s := s.inCtx .isr) (by simpa using hm) 19 _ _).trans (oepint_reads a hm hn hlow hk _))
  · simp only [exec_chEvent]
    exact carriesOn_reading ((inMode_same (s := s.inCtx .isr) (by simpa using hm) 25 _ _).trans (hchint_reads a hm hc hlow hk _))
  · have hk : firstEvent otgOrder (s.raw .GOTGINT) = some 8 := by rw [hw]; decide
    obtain ⟨t, ht, hraw, hf⟩ := runEvt_reading_clears (i := .topOtgint) (otgint_reads a hk _)
      (unhandledBit_clears (a.calm_reading _) (by simpa [State.reading_cons] using a.release) (by simp) (by simp) (by decide) _)
    exact ⟨t, ht, by rw [hraw, hw]; decide, hf⟩
  · have hlow' := hlow ▸ (lowestNum_bit n).1
    have hk : firstEvent inOrder (bit1 3) = some 3 := by decide
    refine runEvt_reading_clears (i := .topIepint) ((inMode_same (s := s.inCtx .isr) (by simpa using hm) 18 _ _).trans
      (iepint_reads a hm hn hlow' (hw ▸ hk) _)) ?_
    exact clearEvent_only (a.calm_reading _) (by simp [State.reading_cons, hm, hn]) (w1c_epInt ⟨n, .IN⟩ (k := 3) (by decide)) _
  · have hlow' := hlow ▸ (lowestNum_bit n).2.2
    have hk : firstEvent outOrder (bit1 1) = some 1 := by decide
    refine runEvt_reading_clears (i := .topOepint) ((inMode_same (s := s.inCtx .isr) (by simpa using hm) 19 _ _).trans
      (oepint_reads a hm hn hlow' (hw ▸ hk) _)) ?_
    obtain ⟨v, hv, hraw, hf⟩ := clearEvent_only (r := .DOEPINT n) (k := 1) (a.calm_reading [.DAINT, .DAINTMSK, .DOEPINT n, .DOEPMSK])
      (by simp [State.reading_cons, hm, hn]) (bitOf_allOnes 1) (hooksAt s.level)
    have hep : v.ep ⟨n, .OUT⟩ = s.ep ⟨n, .OUT⟩ := (hf.ep _ (by simp) (by simp)).trans (by simp [State.reading_cons])
    obtain ⟨u, hu, huep, huf⟩ := disableConfirmed_idle (s := v) (e := ⟨n, .OUT⟩) (by rw [hep, hen])
      (.inr (by simp [hep, hst, hwait, hre])) (hooksAt s.level)
    have hkeep : u.ep ⟨n, .OUT⟩ = v.ep ⟨n, .OUT⟩ := by rw [huep, hep, ← hdis]
    refine ⟨u, ?_, ?_, hf.trans ((huf.drop_ep hkeep).mono (by simp) (by simp))⟩
    · show (do clearEvent (.DOEPINT n) 1; disableConfirmed ⟨n, .OUT⟩ : M Unit) _ _ = _
      rw [run_bind_ok hv, hu]
    · rw [huf.raw_eq (by simp) (by simp), hraw]
  · have hlow' := hlow ▸ (lowestNum_bit c).2.1
    have hk : firstEvent chOrder (bit1 4) = some 4 := by decide
    refine runEvt_reading_clears (i := .topHchint) ((inMode_same (s := s.inCtx .isr) (by simpa using hm) 25 _ _).trans
      (hchint_reads a hm hc hlow' (hw ▸ hk) _)) ?_
    obtain ⟨u, hu, hraw, hf⟩ := clearEvent_only (r := .HCINT c) (k := 4) (a.calm_reading [.HAINT, .HAINTMSK, .HCINT c, .HCINTMSK c])
      (by simp [State.reading_cons, hm, hc]) (bitOf_allOnes 4) (hooksAt s.level)
    have hch : u.chan c = s.chan c := (hf.ch _ (by simp) (by simp)).trans (by simp [State.reading_cons])
    refine ⟨u, ?_, hraw, hf⟩
    show evtChNak c _ _ = _
    rw [evtChNak, channelEvent, run_bind_ok hu]
    simp [hch, hall]

end Sys2Proof.Machine

/-! PROOF. The handler (R471, R472): what it serves and when it returns. -/

namespace Sys2Proof.Machine

open Sys2Proof

/-- The pending events that are unmasked (R56). -/
def State.pending (s : State) : Word := s.gintsts &&& s.raw .GINTMSK &&& 0xFFFFFFFE

/-! Nothing is handled where nothing is pending. -/

theorem firstEvent_zero (order : List Nat) : firstEvent order 0#32 = none := by
  have hfind : order.find? (fun k => (0#32).getLsbD k) = none := by simp
  have hall : allBits.find? (fun k => (0#32).getLsbD k.val) = none := by simp
  rw [firstEvent, hfind]
  exact hall

theorem firstEvent_none {order : List Nat} (ho : ∀ k ∈ order, k < 32) {w : Word} (h : firstEvent order w = none) : w = 0#32 := by
  unfold firstEvent at h
  split at h
  · next k hk =>
    have hlt : k < 32 := ho k (List.mem_of_find?_eq_some hk)
    rw [dif_pos hlt] at h
    cases h
  · refine word_ext fun k hk => ?_
    have hbit := List.find?_eq_none.mp h ⟨k, hk⟩ (List.mem_finRange _)
    simpa [bitOf] using hbit

theorem topOrder_lt : ∀ k ∈ topOrder, k < 32 := by decide

/-! The two reads of the loop (R472). -/

/-- Of a core that is functional the handler reads the two registers. -/
theorem nextEvent_reads {s : State} (c : s.Calm) (hf : s.core.functional = true) (h : Hooks) :
    nextEvent h s = .ok (firstEvent topOrder s.pending, s.reading [.GINTSTS, .GINTMSK]) := by
  have hpeek : s.peek .GINTSTS = s.gintsts := rfl
  simp [nextEvent, run_bind, hf, c, hpeek, State.reading_cons, State.pending]

/-- Of a core that is not functional it reads none (R218). -/
theorem nextEvent_idle {s : State} (hf : s.core.functional = false) (h : Hooks) : nextEvent h s = .ok (none, s) := by
  simp [nextEvent, hf]

theorem isrLoop_none {s t : State} {h : Hooks} (e : nextEvent h s = .ok (none, t)) (n : Nat) :
    isrLoop (n + 1) h s = .ok (true, t) := by
  rw [isrLoop, run_bind_ok e]
  rfl

theorem isrLoop_some {s t u : State} {h : Hooks} {k : Fin 32} (e : nextEvent h s = .ok (some k, t))
    (hu : leafTop k h t = .ok ((), u)) (n : Nat) : isrLoop (n + 1) h s = isrLoop n h u := by
  rw [isrLoop, run_bind_ok e]
  exact run_bind_ok hu

/-- The loop ends where no event is left (R472, R218). -/
theorem isrLoop_ends {h : Hooks} (hh : h.Keep) {s0 : State} :
    ∀ {n : Nat} {s u : State}, s0.Held s → isrLoop n h s = .ok (true, u) → ∃ w, s0.Held w ∧ nextEvent h w = .ok (none, u)
  | 0, _, _, _, e => by cases e
  | n + 1, s, u, k, e => by
    rw [isrLoop, run_bind] at e
    split at e
    · next o v hv =>
      cases o with
      | none =>
        cases e
        exact ⟨s, k, hv⟩
      | some b =>
        have kv := keeps_nextEvent h hh s _ v k hv
        change (leafTop b >>= fun _ => isrLoop n) h v = .ok (true, u) at e
        rw [run_bind] at e
        split at e
        · next x w hw => exact isrLoop_ends hh (keeps_leafTop b h hh v x w kv hw) e
        · cases e
    · cases e

/-- A read of one of the two registers, settled or not. -/
theorem regRead_gint {s : State} (q : s.Quiet) {r : Reg} (hr : r = .GINTSTS ∨ r = .GINTMSK) (h : Hooks) :
    ∃ w v, regRead r h s = .ok (w, v) ∧ v.unsettled = s.unsettled ∧ v.Quiet := by
  have hacc : s.accessible r = true := by rcases hr with rfl | rfl <;> simp
  have hregs : ((s.note (.rd r.offset (s.readReg r).1)).readReg r).2.regs = s.regs := by
    rcases hr with rfl | rfl <;> cases hu : s.unsettled <;> simp [State.readReg, State.drawWord, hu]
  exact ⟨_, _, regRead_silent q.silent hacc h, State.unsettled_congr hregs,
    q.of (by simp) (by simp) (by simp) (by rw [State.raw_congr hregs])⟩

/-- Where the handler of a functional core finds no event, none is pending. -/
theorem pending_of_nextEvent {w u : State} (q : w.Quiet) {h : Hooks} (e : nextEvent h w = .ok (none, u))
    (hf : u.core.functional = true) (hu : u.unsettled = false) : u.pending = 0#32 := by
  cases hw : w.core.functional with
  | false =>
    rw [nextEvent_idle hw] at e
    cases e
    rw [hw] at hf
    cases hf
  | true =>
    have hsettled : w.unsettled = false := by
      obtain ⟨a, v, hv, hvu, hvq⟩ := regRead_gint q (.inl rfl) h
      obtain ⟨m, x, hx, hxu, -⟩ := regRead_gint hvq (.inr rfl) h
      rw [nextEvent, run_ask_bind, hw, if_pos rfl, run_bind_ok hv, run_bind_ok hx] at e
      obtain ⟨-, rfl⟩ := Prod.mk.inj (Except.ok.inj e)
      rw [← hvu, ← hxu, hu]
    rw [nextEvent_reads ⟨q, hsettled⟩ hw] at e
    obtain ⟨hnone, rfl⟩ := Prod.mk.inj (Except.ok.inj e)
    exact firstEvent_none topOrder_lt hnone

/-! The handler as one step. -/

/-- Where nothing else acts, ISR is the loop in handler context, and the return (R472). -/
theorem exec_isr_loop {s v u : State} (a : s.Alone)
    (hv : s.ctx = .isr ∧ v = s ∨ s.ctx = .task ∧ s.recordsExist = true ∧ s.core.functional = true ∧ v = s.enterHandler)
    (hloop : isrLoop isrFuel (hooksAt s.level) v = .ok (true, u)) : exec .isr s = .next u.leaveHandler := by
  have hrun : isrCmd (hooksAt s.level) s = .ok ((), u.leaveHandler) := by
    rcases hv with ⟨hc, rfl⟩ | ⟨hc, hex, hf, rfl⟩
    · simp [isrCmd, isrFunctional, isrStep, run_bind, assertThat_release, a.release, hc, hloop]
    · simp [isrCmd, isrFunctional, isrStep, run_bind, assertThat_release, a.release, hc, hex, hf, hloop]
  show runProc .isr isrCmd s = _
  rw [runProc, hrun]

/-- The handler has been entered and has read the two registers. -/
def State.entered (s : State) : State := s.enterHandler.reading [.GINTSTS, .GINTMSK]

section
variable {s : State} (a : s.Alone)
include a

theorem State.Alone.calm_entered : s.entered.Calm := by
  have h : s.enterHandler.Calm := (State.calm_note _ _).mpr a.calm
  simpa [State.entered, State.reading_cons] using h

/-- The handler serves one event and finds no other. -/
theorem exec_isr_one {u v : State} {k : Fin 32} (hc : s.ctx = .task) (hex : s.recordsExist = true)
    (hf : s.core.functional = true) (hk : firstEvent topOrder s.pending = some k)
    (hleaf : leafTop k (hooksAt s.level) s.entered = .ok ((), u)) (hnext : nextEvent (hooksAt s.level) u = .ok (none, v)) :
    exec .isr s = .next v.leaveHandler := by
  have hcalm : s.enterHandler.Calm := (State.calm_note _ _).mpr a.calm
  have hfirst := nextEvent_reads hcalm (show s.enterHandler.core.functional = true from hf) (hooksAt s.level)
  rw [show s.enterHandler.pending = s.pending from rfl, hk] at hfirst
  refine exec_isr_loop a (.inr ⟨hc, hex, hf, rfl⟩) ?_
  rw [show isrFuel = 4094 + 1 + 1 from rfl, isrLoop_some hfirst hleaf]
  exact isrLoop_none hnext _

end

theorem exec_topEvent {k : Fin 32} (s : State) : exec (topEvent k) s = runEvt (topEvent k) (leafTop k) s := by
  fin_cases k <;> rfl

/-- In a settled state of handler context the loop ends where nothing is pending or the core is not functional. -/
theorem nextEvent_ends {u : State} (c : u.Calm) (hp : u.pending = 0#32 ∨ u.core.functional = false) (h : Hooks) :
    ∃ v, nextEvent h u = .ok (none, v) ∧ Frame u v [] [] := by
  cases hf : u.core.functional with
  | false => exact ⟨u, nextEvent_idle hf h, by simp⟩
  | true =>
    refine ⟨_, ?_, (frame_reading [.GINTSTS, .GINTMSK]).mpr (.refl u [] [])⟩
    rw [nextEvent_reads c hf, hp.resolve_right (by simp [hf]), firstEvent_zero]

theorem frame_leaveHandler {u v : State} (f : Frame u v [] []) : Frame u v.leaveHandler [] [.context] := by
  show Frame u ((v.inCtx .task).note _) _ _
  rw [frame_note, frame_inCtx _ (by simp)]
  exact f.mono (by simp) (by simp)

/-- Settles O37: the last thing the handler does is to find no event. -/
theorem handlerLeavesNothingPending : Obligations.HandlerLeavesNothingPending := by
  intro s t he hp e hpat hctx hex hfun hun
  replace e : runProc .isr isrCmd s = .next t := e
  unfold runProc at e
  split at e
  · next u hu =>
    cases e
    simp only [isrCmd, run_ask_bind] at hu
    split at hu
    · rw [isrFunctional, run_ask_bind, run_bind] at hu
      split at hu
      · next v hv =>
        have held := keeps_assert _ _ _ (hooksAt_keep _) s _ v (.refl s) hv
        obtain ⟨x, y, hxc, hk, hxp, hy, ⟨hloop, rfl⟩ | ⟨-, rfl⟩⟩ := isrStep_cases (hooksAt_keep _) hu
        · obtain ⟨w, hw, hnone⟩ := isrLoop_ends (hooksAt_keep _) (.refl x) hloop
          have hxe : x.env = [] := (hk.mode (held.mode he).1).1
          have hxp' : x.prompt = false := hxp.trans (held.quiet he hp).1
          obtain ⟨hwp, hwc⟩ := hw.quiet hxe hxp'
          have hq : w.Quiet := .isr (hw.mode hxe).1 hwp (hwc.trans (hxc ▸ rfl))
          exact pending_of_nextEvent (u := y) hq hnone hfun hun
        · have hyc := (hy.quiet (hk.mode (held.mode he).1).1 (hxp.trans (held.quiet he hp).1)).2
          rw [hyc, ← hxc] at hctx
          cases hctx
      · cases hu
    · next hno =>
      cases hu
      exact absurd (by simp_all) hno
  · next x hx =>
    obtain ⟨-, rfl⟩ := stopOutcome_next e
    simp [State.again] at hpat

/-- A status bit that is stored, not computed, is gone from GINTSTS once it is cleared (R30). -/
theorem gintsts_of_cleared {s t : State} {k : Nat} (hraw : t.raw .GINTSTS = s.raw .GINTSTS &&& ~~~(bit1 k))
    (f : Frame s t [.GINTSTS] []) (hk : k < 32) (hl : bitOf s.levels k = false) :
    t.gintsts = s.gintsts &&& ~~~(bit1 k) := by
  have hlevels : t.levels = s.levels := by
    refine State.levels_congr (fun r _ hr => ?_) ?_ (f.fifo (by simp)) f.hw
    · refine f.regs _ ?_
      have hne : Reg.offset r ≠ Reg.offset .GINTSTS := by
        by_cases h0 : r = .DIEPTXF 0
        · subst h0
          decide
        · exact Reg.offset_ne hr h0 (by simp)
      simpa using hne
    · rw [State.slaveHw, State.slaveHw, f.raw_eq (by simp) (by simp)]
  rw [t.gintsts_eq, s.gintsts_eq, hlevels, hraw]
  refine word_ext fun j hj => ?_
  by_cases h : j = k
  · subst h
    simp [bitOf_not, bitOf_bit1, hj, hl]
  · simp [bitOf_not, bitOf_bit1, hj, h]

/-- The handler has been entered and has told UPPER of USBSUSP. -/
def State.suspended (s : State) : State := s.entered.reported 11 .suspend

/-- Settles O36: one turn of the loop. -/
theorem handlerServesOneEventAndReturns : Obligations.HandlerServesOneEventAndReturns := by
  refine fun s a => ⟨fun k u hc hex hf hk hu hpat he hp hun hend _ => ?_, fun hc hex hf hm _ hpend => ?_, fun hc hpend => ?_⟩
  · have hent : exec (topEvent k) s.entered = .next u := hu
    rw [exec_topEvent] at hent
    rcases runEvt_cases hent with ⟨x, hx, rfl⟩ | ⟨-, rfl⟩
    · have held := keeps_leafTop k _ (hooksAt_keep _) _ () x (.refl _) hx
      have hxc : x.ctx = .isr := (held.quiet a.env a.prompt).2
      have hxu : x.inCtx s.entered.ctx = x := by
        rw [show s.entered.ctx = x.ctx from hxc.symm]
        rfl
      rw [hxu] at he hp hun hend ⊢
      obtain ⟨v, hv, hfv⟩ := nextEvent_ends ⟨.isr he hp hxc, hun⟩ hend (hooksAt s.level)
      exact ⟨_, exec_isr_one a hc hex hf hk hx hv, rfl, frame_leaveHandler hfv⟩
    · simp [State.again, State.entered] at hpat
  · have hq : s.entered.Quiet := a.calm_entered.quiet
    have hleaf : leafTop 11 (hooksAt s.level) s.entered = .ok ((), s.suspended) :=
      (inMode_same (s := s.entered) hm 11 evtUsbsusp _).trans (clearAndTell_quiet hq a.replies 11 .suspend _)
    have hframe : Frame s.entered (s.suspended) [.GINTSTS] [] := (Frame.refl _ _ _).reported (by simp) _ _
    have hraw : s.suspended.raw .GINTSTS = s.raw .GINTSTS &&& ~~~(bit1 11) :=
      State.raw_reported s.entered (k := 11) (by decide) .suspend
    have hgint : s.suspended.gintsts = s.gintsts &&& ~~~(bit1 11) :=
      gintsts_of_cleared (s := s.entered) hraw hframe (by decide) (by simp [State.levels, bitOf_bitIf])
    have hmask : s.suspended.raw .GINTMSK = s.raw .GINTMSK := by
      rw [hframe.raw_eq (by simp) (by simp)]
      rfl
    have hnone : s.suspended.pending = 0#32 := by
      rw [State.pending, hgint, hmask, BitVec.and_assoc, BitVec.and_assoc, BitVec.and_comm (~~~(bit1 11)), ← BitVec.and_assoc,
        ← BitVec.and_assoc, hpend]
      decide
    have hcalm : s.suspended.Calm := by
      simpa [State.suspended, State.reported] using a.calm_entered
    have hnext := nextEvent_reads hcalm (hframe.core (by simp) (by simp) ▸ hf) (hooksAt s.level)
    rw [hnone, firstEvent_zero] at hnext
    refine ⟨_, exec_isr_one a hc hex hf (k := 11) (by rw [State.pending, hpend]; decide) hleaf hnext, rfl, hraw, ?_, ?_⟩
    · have htrace : (s.suspended.reading [.GINTSTS, .GINTMSK]).leaveHandler.trace =
          [.isrExit, .rd 0x018 (s.suspended.raw .GINTMSK),
            .rd 0x014 s.suspended.gintsts, .cb .suspend, .wr 0x014 (bit1 11),
            .rd 0x018 (s.raw .GINTMSK), .rd 0x014 s.gintsts, .isrEnter] ++ s.trace := rfl
      rw [htrace, hgint, hmask]
    · have hin : Frame s (s.suspended) [.GINTSTS] [.context] := by
        have hent : Frame s s.entered [.GINTSTS] [.context] := by
          rw [State.entered, frame_reading]
          show Frame s ((s.inCtx .isr).note _) _ _
          simp
        exact hent.trans (hframe.mono (by simp) (by simp))
      show Frame s (((s.suspended.reading [.GINTSTS, .GINTMSK]).inCtx .task).note _) _ _
      rw [frame_note, ← hc, frame_event, frame_reading]
      exact hin
  · obtain ⟨v, hv, hfv⟩ := nextEvent_ends ⟨.isr a.env a.prompt hc, a.settled⟩ (.inl hpend) (hooksAt s.level)
    exact ⟨_, exec_isr_loop a (.inl ⟨hc, rfl⟩) (isrLoop_none hv 4095), rfl, frame_leaveHandler hfv⟩

end Sys2Proof.Machine

/-! PROOF. The receive queue (R31, R265): the pop of a status entry, and what the entries do. -/

namespace Sys2Proof.Machine

open Sys2Proof

/-! The completion bits that wait for the pop. -/

@[simp] theorem run_linkCompletes (r : Reg) (w : Word) (h : Hooks) (s : State) :
    linkCompletes r w h s = .ok ((), if r.inRange s.hw.caps then s.post r w else s) := by
  simp [linkCompletes, State.when]

@[simp] theorem inRange_doepint (c : Caps) (n : Fin 16) : Reg.inRange c (.DOEPINT n) = decide (n.val < c.nEp) := rfl
@[simp] theorem inRange_hcint (c : Caps) (n : Fin 16) : Reg.inRange c (.HCINT n) = decide (n.val < c.nCh) := rfl

/-- The state after a status entry has been popped. -/
def State.popped (s : State) (v : Word) (l : List Word) : State :=
  (s.note (.rd 0x020 v)).withFifo { s.fifo with rxStatus := l }

section
variable {s : State} {v : Word} {l : List Word}

/-- RXFLVL pops the entry at the head and handles it. -/
theorem evtRxflvl_pops (a : s.Alone) (hs : s.isSlave = true) (hhw : s.slaveHw = true) (hl : s.fifo.rxStatus = v :: l)
    (h : Hooks) : evtRxflvl h (s.inCtx .isr) = rxEntry s.hostMode v h (((s.popped v l).inCtx .isr).afterPop v) := by
  have hread := regRead_silent a.quiet.silent (accessible_grxstsp _) h
  have hv := (readReg_rxStatus_shown (s := s.inCtx .isr) a.settled (v := v) (l := l) (by simpa using hhw) hl).2
  have hv' := (readReg_rxStatus_shown (s := (s.inCtx .isr).note (.rd (Reg.offset .GRXSTSP) v)) a.settled (v := v) (l := l)
    (by simpa using hhw) hl).2
  rw [hv, hv'] at hread
  have hmode : (((s.popped v l).inCtx .isr).afterPop v).hostMode = s.hostMode :=
    (State.afterPop_direct (s := (s.popped v l).inCtx .isr) a.direct v).2.2.hostMode_eq (by simp)
  rw [evtRxflvl, run_ask_bind, show (s.inCtx .isr).isSlave = true from hs, if_pos rfl, run_bind_ok hread, run_ask_bind]
  exact congrArg (rxEntry · v h _) hmode

end

/-- What LINK sets at the pop of an entry is what the entry's own event sets (device mode). -/
theorem rxEntry_device {s : State} (hm : s.hostMode = false) {v : Word} {i : Instr} (hi : decodeRxDevice v = some i) (h : Hooks) :
    ∃ p, (∀ u, exec i u = runEvt i p u) ∧ rxEntry false v h (s.afterPop v) = p h s := by
  have hdec := hi
  unfold decodeRxDevice at hi
  split at hi
  · next hp => cases hi; exact ⟨rxOutData _, fun _ => rfl, by simp [rxEntry, hdec, State.afterPop, hm, hp]⟩
  · next hp => cases hi; exact ⟨rxOutComplete _, fun _ => rfl, by simp [rxEntry, hdec, State.afterPop, hm, hp, rxOutComplete]⟩
  · next hp => cases hi; exact ⟨rxSetupComplete _, fun _ => rfl, by simp [rxEntry, hdec, State.afterPop, hm, hp, rxSetupComplete]⟩
  · next hp => cases hi; exact ⟨rxSetupData, fun _ => rfl, by simp [rxEntry, hdec, State.afterPop, hm, hp]⟩
  · cases hi

/-- What LINK sets at the pop of an entry is what the entry's own event sets (host mode). -/
theorem rxEntry_host {s : State} (hm : s.hostMode = true) {v : Word} {i : Instr} (hi : decodeRxHost v = some i) (h : Hooks) :
    ∃ p, (∀ u, exec i u = runEvt i p u) ∧ rxEntry true v h (s.afterPop v) = p h s := by
  have hdec := hi
  unfold decodeRxHost at hi
  split at hi
  · next hp => cases hi; exact ⟨rxInData _, fun _ => rfl, by simp [rxEntry, hdec, State.afterPop, hm, hp]⟩
  · next hp => cases hi; exact ⟨rxInComplete _, fun _ => rfl, by simp [rxEntry, hdec, State.afterPop, hm, hp, rxInComplete]⟩
  · next hp => cases hi; exact ⟨rxChannelHalted _, fun _ => rfl, by simp [rxEntry, hdec, State.afterPop, hm, hp, rxChannelHalted]⟩
  · cases hi

/-- An entry without a row sets nothing and is dropped. -/
theorem rxEntry_none {s : State} {v : Word} (hi : (if s.hostMode then decodeRxHost v else decodeRxDevice v) = none) (h : Hooks) :
    rxEntry s.hostMode v h (s.afterPop v) = .ok ((), s) := by
  cases hm : s.hostMode
  · rw [hm] at hi
    have hdec : decodeRxDevice v = none := hi
    have hcode := hdec
    unfold decodeRxDevice at hcode
    have hsame : s.afterPop v = s := by
      simp only [State.afterPop, hm, Bool.false_eq_true, if_false]
      split at hcode
      all_goals cases hcode
      simp
    simp [rxEntry, hdec, hsame]
  · rw [hm] at hi
    have hdec : decodeRxHost v = none := hi
    have hcode := hdec
    unfold decodeRxHost at hcode
    have hsame : s.afterPop v = s := by
      simp only [State.afterPop, hm, if_true]
      split at hcode
      all_goals cases hcode
      simp
    simp [rxEntry, hdec, hsame]

theorem decodeRxDevice_complete {v : Word} {e : RxEntry} (h : decodeRxDevice v = some (.rxsOutComplete e)) :
    pktSts v = 3 ∧ e = rxEntryOf v := by
  unfold decodeRxDevice at h
  split at h
  all_goals cases h
  next hp => exact ⟨hp, rfl⟩

/-- Settles O42. -/
theorem receiveEventPopsAndHandlesOneEntry : Obligations.ReceiveEventPopsAndHandlesOneEntry := by
  intro s v l a hs hhw hl
  have hrun := evtRxflvl_pops a hs hhw hl
  refine ⟨fun i hi => ?_, fun hnone => ?_, fun e hm he hn => ?_⟩
  · have hproc : ∃ p, (∀ u, exec i u = runEvt i p u) ∧
        rxEntry s.hostMode v (hooksAt s.level) (((s.popped v l).inCtx .isr).afterPop v) =
          p (hooksAt s.level) ((s.popped v l).inCtx .isr) := by
      cases hm : s.hostMode
      · rw [hm] at hi
        exact rxEntry_device (s := (s.popped v l).inCtx .isr) hm hi _
      · rw [hm] at hi
        exact rxEntry_host (s := (s.popped v l).inCtx .isr) hm hi _
    obtain ⟨p, hexec, hp⟩ := hproc
    rw [hexec]
    exact carriesOn_runEvt (u := s.popped v l) ((hrun _).trans hp) rfl rfl
  · have hdone := (hrun (hooksAt s.level)).trans (rxEntry_none (s := (s.popped v l).inCtx .isr) hnone _)
    exact runEvt_of ⟨_, hdone, rfl, by simp [State.popped]⟩
  · obtain ⟨hcode, rfl⟩ := decodeRxDevice_complete he
    have hpop : ((s.popped v l).inCtx .isr).afterPop v = ((s.popped v l).inCtx .isr).setBits (.DOEPINT (rxEntryOf v).num) 0x1 := by
      simp [State.afterPop, hcode, hm, hn, State.popped, State.post_direct, a.direct]
    have hdone := hrun (hooksAt s.level)
    rw [hm, hpop] at hdone
    have hpure (u : State) : rxEntry false v (hooksAt s.level) u = .ok ((), u) := by simp [rxEntry, he]
    exact runEvt_of ⟨_, hdone.trans (hpure _), rfl, by simp [State.popped], by simp [State.popped]⟩

end Sys2Proof.Machine

/-! PROOF. The Rx status entries (R265): the bytes of a packet are read from the FIFO and stored at the end of the request. -/

namespace Sys2Proof.Machine

open Sys2Proof

/-- A read of the FIFO window gives the word at its head. -/
theorem regRead_fifo_head {s : State} (c : s.Calm) {w : Word} {l : List Word} (hl : s.fifo.rxData = w :: l) (h : Hooks) :
    regRead (.FIFO 0) h s = .ok (w, (s.note (.rd (Reg.offset (.FIFO 0)) w)).withFifo { s.fifo with rxData := l }) := by
  have hread := regRead_silent c.quiet.silent (accessible_fifo s 0) h
  have hval := readReg_fifo_head c.settled 0 hl
  have hpop := readReg_fifo_head (s := s.note (.rd (Reg.offset (.FIFO 0)) w)) c.settled 0 (v := w) (l := l) hl
  rw [hread, congrArg Prod.fst hval, hpop]
  rfl

section
variable {s : State} {ws rest : List Word}

/-- The words of a packet are read from the head of the receive data (R265). -/
theorem popWords_run (c : s.Calm) (hl : s.fifo.rxData = ws ++ rest) (h : Hooks) :
    ∃ u, popWords ws.length h s = .ok (ws, u) ∧ u.fifo = { s.fifo with rxData := rest } ∧ Frame s u [] [.fifo] := by
  induction ws generalizing s with
  | nil =>
    refine ⟨s, rfl, ?_, by simp⟩
    rw [← show s.fifo.rxData = rest from hl]
  | cons w ws ih =>
    have hread := regRead_fifo_head c (w := w) (l := ws ++ rest) hl h
    obtain ⟨u, hu, hfifo, hf⟩ := ih (s := (s.note (.rd (Reg.offset (.FIFO 0)) w)).withFifo { s.fifo with rxData := ws ++ rest })
      (by simpa using c) rfl
    refine ⟨u, ?_, hfifo, Frame.trans (by simp) hf⟩
    rw [List.length_cons, popWords, run_bind_ok hread, run_bind_ok hu]
    rfl

theorem length_flatMap_wordBytes (ws : List Word) : (ws.flatMap wordBytes).length = 4 * ws.length := by
  induction ws with
  | nil => rfl
  | cons w ws ih => simp [ih, wordBytes]; omega

theorem length_unpackWords {n : Nat} (hn : n ≤ 4 * ws.length) : (unpackWords ws n).length = n := by
  rw [unpackWords, List.length_take, length_flatMap_wordBytes, min_eq_left hn]

/-- A packet is read from the FIFO. -/
theorem readPacket_run (c : s.Calm) {n : Nat} (hl : s.fifo.rxData = ws ++ rest) (hn : ws.length = (n + 3) / 4) (h : Hooks) :
    ∃ u, readPacket n h s = .ok (unpackWords ws n, u) ∧ u.fifo = { s.fifo with rxData := rest } ∧ Frame s u [] [.fifo] := by
  obtain ⟨u, hu, hfifo, hf⟩ := popWords_run c hl h
  refine ⟨u, ?_, hfifo, hf⟩
  rw [readPacket, show ceilDiv n 4 = ws.length from hn.symm, run_bind_ok hu]
  rfl

end

theorem Frame.xfer_eq {s t : State} {rs : List Reg} {ps : List Part} (f : Frame s t rs ps) {x : XRef} (h : partOf x ∉ ps)
    (hr : .records ∉ ps) : t.xfer x = s.xfer x := by
  cases x with
  | ep e => exact congrArg EpRec.x (f.ep e h hr)
  | ch c => exact congrArg ChRec.x (f.ch c h hr)

theorem Frame.takesData_eq {s t : State} {rs : List Reg} {ps : List Part} (f : Frame s t rs ps) {x : XRef} (h : partOf x ∉ ps)
    (hr : .records ∉ ps) : t.takesData x = s.takesData x := by
  have hw : t.waits x = s.waits x := by
    cases x with
    | ep e => exact congrArg EpRec.waits (f.ep e h hr)
    | ch c => rfl
  rw [State.takesData, State.takesData, f.xfer_eq h hr, hw]

/-- Received bytes go to the end of what the request has (R265). -/
theorem storeReceived_run {s : State} {x : XRef} {k : Nat} {q : Req} (ha : (s.xfer x).active = some (.pool k))
    (hq : s.pool[k]? = some (some q)) {bs : List Byte} (hl : bs.length ≤ 2 ^ 32) (h : Hooks) :
    ∃ u, storeReceived x bs h s = .ok ((), u) ∧ u.bytes (q.buf + BitVec.ofNat 32 q.done) bs.length = bs ∧
      u.pool = s.pool.set k (some { q with done := q.done + bs.length }) ∧
      (∀ b, (∀ j < bs.length, b ≠ q.buf + BitVec.ofNat 32 q.done + BitVec.ofNat 32 j) → u.byte b = s.byte b) ∧
      u.xfer x = s.xfer x ∧ Frame s u [] [.mem, .pool] := by
  have haddr : s.chunkAddr x = q.buf + BitVec.ofNat 32 q.done := by rw [State.chunkAddr, State.reqOf_pool ha hq]
  refine ⟨(s.setBytes (q.buf + BitVec.ofNat 32 q.done) bs).modReqAt (.pool k) fun q => { q with done := q.done + bs.length },
    ?_, ?_, ?_, fun b hb => ?_, ?_, ?_⟩
  · simp [storeReceived, haddr, ha]
  · simpa using State.bytes_setBytes hl s _
  · rw [State.pool_modReqAt (q := q) (by simpa using hq)]
    simp
  · simpa using State.byte_setBytes_out bs s _ b hb
  · simp
  · simp

/-- The records a received packet of a target changes beside the pool (R265). -/
def rxParts : XRef → List Part
  | .ep _ => []
  | .ch c => [.ch c]

/-- What a data entry does with the bytes: nothing, or it stores them; a channel counts those of its chunk (R265). -/
def rxData (x : XRef) (n : Nat) : M Unit := do
  let bs ← readPacket n
  let keep ← ask fun s => s.takesData x
  doIf keep (do
    storeReceived x bs
    match x with
    | .ep _ => pure ()
    | .ch c => modX (.ch c) fun t => { t with chunkDone := t.chunkDone + bs.length })

theorem exec_rxData {s : State} {e : RxEntry} {x : XRef} {i : Instr}
    (h : (i, x) ∈ [(Instr.rxsOutData e, XRef.ep ⟨e.num, .OUT⟩), (.rxsInData e, .ch e.num)]) :
    exec i s = runEvt i (rxData x e.bcnt.toNat) s ∧ (x = .ch e.num ∨ ∃ d, x = .ep d) := by
  rcases List.mem_pair.mp h with h | h
  · cases h
    exact ⟨rfl, .inr ⟨_, rfl⟩⟩
  · cases h
    exact ⟨rfl, .inl rfl⟩

section
variable {s : State} {x : XRef} {ws rest : List Word} {n : Nat} (a : s.Alone) (hl : s.fifo.rxData = ws ++ rest)
  (hn : ws.length = (n + 3) / 4)
include a hl hn

/-- Data that nobody wants is dropped. -/
theorem rxData_drops (hk : s.takesData x = false) {i : Instr} :
    ∃ t, runEvt i (rxData x n) s = .next t ∧ t.fifo = { s.fifo with rxData := rest } ∧ Frame s t [] [.fifo] := by
  obtain ⟨u, hu, hfifo, hf⟩ := readPacket_run a.calm hl hn (hooksAt s.level)
  have hkeep : u.takesData x = false := (hf.takesData_eq (by cases x <;> simp [partOf]) (by simp)).trans hk
  refine runEvt_of ⟨u, ?_, hfifo, ?_⟩
  · rw [rxData, run_bind_ok hu]
    simp [hkeep]
  · have hin : Frame s (s.inCtx .isr) [] [.context, .fifo] := by simp
    exact hin.event_trans hf

/-- Data that is wanted goes to the end of what the request has. -/
theorem rxData_stores {h : Nat} {q : Req} (hk : s.takesData x = true) (ha : (s.xfer x).active = some (.pool h))
    (hq : s.pool[h]? = some (some q)) (hlt : n < 2 ^ 32) {i : Instr} :
    ∃ t, runEvt i (rxData x n) s = .next t ∧ t.fifo = { s.fifo with rxData := rest } ∧
      t.bytes (q.buf + BitVec.ofNat 32 q.done) n = unpackWords ws n ∧
      t.pool = s.pool.set h (some { q with done := q.done + n }) ∧
      (∀ b, (∀ k < n, b ≠ q.buf + BitVec.ofNat 32 q.done + BitVec.ofNat 32 k) → t.byte b = s.byte b) ∧
      (∀ c, x = .ch c → t.chan c = { s.chan c with x := { (s.chan c).x with chunkDone := (s.chan c).x.chunkDone + n } }) ∧
      Frame s t [] ([.fifo, .mem, .pool] ++ rxParts x) := by
  have hlen : (unpackWords ws n).length = n := length_unpackWords (by omega)
  obtain ⟨u, hu, hfifo, hf⟩ := readPacket_run a.calm hl hn (hooksAt s.level)
  have hx : u.xfer x = s.xfer x := hf.xfer_eq (by cases x <;> simp [partOf]) (by simp)
  have hpool : u.pool = s.pool := hf.pool (by simp) (by simp)
  have hkeep : u.takesData x = true := (hf.takesData_eq (by cases x <;> simp [partOf]) (by simp)).trans hk
  obtain ⟨v, hv, hbytes, hvp, hout, hvx, hvf⟩ := storeReceived_run (s := u) (x := x) (q := q) (hx ▸ ha) (hpool ▸ hq)
    (bs := unpackWords ws n) (by omega) (hooksAt s.level)
  rw [hlen] at hbytes hvp hout
  have hbyte : ∀ b, (∀ k < n, b ≠ q.buf + BitVec.ofNat 32 q.done + BitVec.ofNat 32 k) → v.byte b = s.byte b :=
    fun b hb => (hout b hb).trans (hf.mem (by simp) b)
  have hvfifo : v.fifo = { s.fifo with rxData := rest } := (hvf.fifo (by simp)).trans hfifo
  have hin (ps : List Part) : Frame s v [] (.context :: [.fifo, .mem, .pool] ++ ps) := by
    have hisr : Frame s (s.inCtx .isr) [] (.context :: [.fifo, .mem, .pool] ++ ps) := by simp
    exact hisr.trans ((hf.mono (by simp) (by simp)).trans (hvf.mono (by simp) (by simp)))
  cases x with
  | ep d =>
    refine runEvt_of ⟨v, ?_, hvfifo, by simpa using hbytes, hvp.trans (by rw [hpool]), hbyte, nofun,
      frame_event.mpr (hin [])⟩
    rw [rxData, run_bind_ok hu]
    simpa [hkeep] using hv
  | ch c =>
    have hch : v.chan c = s.chan c := (hin []).ch c (by simp) (by simp)
    refine runEvt_of ⟨v.modX (.ch c) fun t => { t with chunkDone := t.chunkDone + n }, ?_, by simpa using hvfifo,
      by simpa using hbytes, by simpa using hvp.trans (by rw [hpool]), by simpa using hbyte, ?_, ?_⟩
    · rw [rxData, run_bind_ok hu]
      simp [hkeep, run_bind_ok hv, hlen]
    · rintro d ⟨⟩
      simp [State.modX, hch]
    · rw [frame_event, rxParts, frame_modX _ (by simp [partOf])]
      exact hin [.ch c]

end

/-- Settles O43. -/
theorem receiveEntriesMoveTheData : Obligations.ReceiveEntriesMoveTheData := by
  intro s e a
  refine ⟨fun x i hi ws rest hl hn => ?_, fun w0 w1 rest hl => ?_, fun p hp hr => ?_⟩
  · obtain ⟨hexec, hx⟩ := exec_rxData (s := s) hi
    have hlt : e.bcnt.toNat < 2 ^ 32 := by have := e.bcnt.isLt; omega
    refine ⟨fun hk => hexec ▸ rxData_drops a hl hn hk, fun h q hk ha hq => ?_⟩
    obtain ⟨t, ht, hfifo, hbytes, hpool, hout, hch, hf⟩ := rxData_stores a hl hn hk ha hq hlt (i := i)
    refine ⟨t, hexec ▸ ht, hfifo, length_unpackWords (by omega), hbytes, hpool, hout, hch _, ?_⟩
    cases x <;> exact hf
  · obtain ⟨u, hu, hfifo, hf⟩ := readPacket_run (n := 8) (ws := [w0, w1]) a.calm hl (by simp) (hooksAt s.level)
    have hep0 : u.ep0 = s.ep0 := hf.ep0 (by simp) (by simp)
    have hbytes : unpackWords [w0, w1] 8 = wordBytes w0 ++ wordBytes w1 := by simp [unpackWords, wordBytes]
    have hin : Frame s u [] [.context, .fifo, .ep0] := Frame.trans (t := s.inCtx .isr) (by simp) (hf.mono (by simp) (by simp))
    refine runEvt_of (p := rxSetupData) ⟨u.withEp0 { u.ep0 with setup := setupOfBytes (wordBytes w0 ++ wordBytes w1) }, ?_, hfifo,
      by rw [← hep0]; rfl, ?_⟩
    · rw [rxSetupData, run_bind_ok hu, hbytes]
      rfl
    · rw [frame_event, frame_withEp0 (by simp)]
      exact hin
  · have complete {i : Instr} (r : Reg) (w : Word) (hr : r.inRange s.hw.caps = true) (h0 : r ≠ .DIEPTXF 0) :
        ∃ t, runEvt i (linkCompletes r w) s = .next t ∧ t.raw r = s.raw r ||| w ∧ Frame s t [r] [] := by
      refine runEvt_of ?_
      simp [hr, State.post_direct, a.direct]
    simp only [List.mem_cons, List.not_mem_nil, or_false] at hp
    rcases hp with rfl | rfl | rfl | rfl
    · exact complete (i := .rxsOutComplete e) _ _ hr (by simp)
    · exact complete (i := .rxsSetupComplete e) _ _ hr (by simp)
    · exact complete (i := .rxsInComplete e) _ _ hr (by simp)
    · exact complete (i := .rxsChannelHalted e) _ _ hr (by simp)

end Sys2Proof.Machine

/-! PROOF. Programming a chunk of an endpoint in slave and buffer-DMA mode (R247, R249). -/

namespace Sys2Proof.Machine

open Sys2Proof

/-! The record of an endpoint (R246). -/

section
variable (s : State)

@[simp] theorem State.modX_ep (e : EpRef) (f : Xfer → Xfer) : s.modX (.ep e) f = s.modEp e fun r => { r with x := f r.x } := rfl
@[simp] theorem State.modX_ch (c : Fin 16) (f : Xfer → Xfer) : s.modX (.ch c) f = s.modCh c fun r => { r with x := f r.x } := rfl
@[simp] theorem State.xfer_ep (e : EpRef) : s.xfer (.ep e) = (s.ep e).x := rfl
@[simp] theorem State.xfer_ch (c : Fin 16) : s.xfer (.ch c) = (s.chan c).x := rfl
@[simp] theorem State.mpsOf_ep (e : EpRef) : s.mpsOf (.ep e) = (s.ep e).mps := rfl
@[simp] theorem State.mpsOf_ch (c : Fin 16) : s.mpsOf (.ch c) = (s.chan c).params.mps.toNat := rfl

@[simp] theorem State.ep_modEp_other {d e : EpRef} (f : EpRec → EpRec) (h : d ≠ e) : (s.modEp e f).ep d = s.ep d :=
  s.ep_modEp_ne f h

/-- The request of an endpoint is where its record says. -/
theorem State.reqOf_congr {s t : State} {x : XRef} (ha : (t.xfer x).active = (s.xfer x).active)
    (hr : ∀ i, (s.xfer x).active = some i → t.reqAt i = s.reqAt i) : t.reqOf x = s.reqOf x := by
  rw [State.reqOf, State.reqOf, ha]
  cases h : (s.xfer x).active with
  | none => rfl
  | some i => exact hr i h

@[simp] theorem State.chunkAddr_modEp (e : EpRef) (f : EpRec → EpRec) (h : (f (s.ep e)).x.active = (s.ep e).x.active) :
    (s.modEp e f).chunkAddr (.ep e) = s.chunkAddr (.ep e) := by
  rw [State.chunkAddr, State.chunkAddr, State.reqOf_congr (s := s) (by simpa using h) (by simp)]

end

@[simp] theorem State.ctlWritten_in_of_writeReg (s : State) (n : Fin 16) (v : Word) {q : Reg} (w : Word) (h : .DIEPCTL n ≠ q)
    (hq : q ≠ .DIEPTXF 0) : (s.writeReg q w).ctlWritten ⟨n, .IN⟩ v = s.ctlWritten ⟨n, .IN⟩ v :=
  s.ctlWritten_of_writeReg ⟨n, .IN⟩ v w h hq
@[simp] theorem State.ctlWritten_out_of_writeReg (s : State) (n : Fin 16) (v : Word) {q : Reg} (w : Word)
    (h : .DOEPCTL n ≠ q) (hq : q ≠ .DIEPTXF 0) : (s.writeReg q w).ctlWritten ⟨n, .OUT⟩ v = s.ctlWritten ⟨n, .OUT⟩ v :=
  s.ctlWritten_of_writeReg ⟨n, .OUT⟩ v w h hq

/-! What keeps a state ready. -/

section
variable (s : State)

@[simp] theorem State.ready_modEp (e : EpRef) (f : EpRec → EpRec) : (s.modEp e f).Ready ↔ s.Ready :=
  State.ready_congr (by simp) (by simp) (by simp) (by simp) (by simp)
@[simp] theorem State.ready_modX (x : XRef) (f : Xfer → Xfer) : (s.modX x f).Ready ↔ s.Ready :=
  State.ready_congr (by simp) (by simp) (by simp) (by simp) (by simp)
@[simp] theorem State.ready_modReqAt (i : ReqId) (f : Req → Req) : (s.modReqAt i f).Ready ↔ s.Ready :=
  State.ready_congr (by simp) (by simp) (by simp) (by simp) (by simp)
@[simp] theorem State.ready_withPool (l : List (Option Req)) : (s.withPool l).Ready ↔ s.Ready :=
  State.ready_congr rfl rfl rfl rfl rfl
@[simp] theorem State.ready_withIso (l : List IsoRec) : (s.withIso l).Ready ↔ s.Ready :=
  State.ready_congr rfl rfl rfl rfl rfl

@[simp] theorem State.ready_writeReg_epInt (e : EpRef) (v : Word) : (s.writeReg (epInt e) v).Ready ↔ s.Ready :=
  State.ready_writeReg v (by simp) (by simp) (by simp) (by simp)
@[simp] theorem State.ready_writeReg_epSiz (e : EpRef) (v : Word) : (s.writeReg (epSiz e) v).Ready ↔ s.Ready :=
  State.ready_writeReg v (by simp) (by simp) (by simp) (by simp)
@[simp] theorem State.ready_writeReg_epDma (e : EpRef) (v : Word) : (s.writeReg (epDma e) v).Ready ↔ s.Ready :=
  State.ready_writeReg v (by simp) (by simp) (by simp) (by simp)
@[simp] theorem State.ready_writeReg_epMsk (e : EpRef) (v : Word) : (s.writeReg (epMsk e) v).Ready ↔ s.Ready :=
  State.ready_writeReg v (by simp) (by simp) (by simp) (by simp)

/-- The control word of an endpoint may be written, but for a disable. -/
theorem State.Ready.writeCtl {s : State} (k : s.Ready) (e : EpRef) {v : Word} (h30 : bitOf v 30 = false) :
    (s.writeReg (epCtl e) v).Ready := by
  by_cases h0 : epCtl e = .DIEPCTL 0
  · have hshut : (s.writeReg (epCtl e) v).Shut := by
      simpa [State.Shut] using k.shut
    refine ⟨by simpa using k.env, hshut, by simpa using k.settled, fun hp => ?_⟩
    have hidle := k.idle (by simpa using hp)
    have h30' : bitOf ((s.writeReg (epCtl e) v).raw (epCtl e)) 30 = bitOf (s.raw (epCtl e)) 30 := by
      have hrw : bitOf (rwMask s.hw (epCtl e)) 30 = false := by
        rw [(epCtl_masks s.hw e).1]
        cases e.dir <;> rfl
      rw [s.raw_writeReg_ctl, s.bitOf_ctlWritten e v (by decide) (by decide) (by decide), h30, hrw]
      simp
    rw [h0] at h30'
    simp only [State.disablePending, State.present, State.accessible_writeReg] at hidle ⊢
    rw [← hidle, h0]
    exact congrArg (s.accessible (.DIEPCTL 0) && ·) h30'
  · exact (State.ready_writeReg v (by simp) (by simp) h0 (by simp)).mpr k

end

/-! The words of a chunk. -/

/-- The bits of XFERSIZE and PKTCNT that an endpoint has (R51). -/
def State.sizeBits (s : State) (e : EpRef) : Nat × Nat :=
  if e.num = 0 then (s.hw.ep0Xw, s.hw.ep0Pw) else (s.hw.caps.xw, s.hw.caps.pw)

theorem bitOf_size_rw (s : State) (e : EpRef) {k : Nat} (hk : k < 29) :
    bitOf (rwMask s.hw (epSiz e)) k = bitOf (sizeMask (s.sizeBits e).1 (s.sizeBits e).2) k := by
  have hpid : bitOf 0x60000000#32 k = false := by
    have hall : ∀ j : Fin 29, bitOf 0x60000000#32 j = false := by decide
    exact hall ⟨k, hk⟩
  obtain ⟨n, d⟩ := e
  by_cases h0 : n = 0 <;> cases d <;> simp [rwMask, State.sizeBits, h0, hpid]

section
variable {s : State} {r : Reg} {xw pw : Nat} (hc : w1cMask r = 0#32) (hs : w1sMask r = 0#32)
  (hlow : s.raw r &&& 0x1FFFFFFF#32 &&& ~~~(rwMask s.hw r) = 0#32)
  (hmask : ∀ k < 29, bitOf (rwMask s.hw r) k = bitOf (sizeMask xw pw) k)
include hc hs hlow hmask

/-- A register with the bits of a transfer size takes those bits that the hardware has (R42, R51). -/
theorem State.bitOf_stored_size (v : Word) {k : Nat} (hk : k < 29) :
    bitOf (s.stored r v) k = (bitOf v k && decide (k < min xw 19 ∨ 19 ≤ k ∧ k < 19 + min pw 10)) := by
  rw [State.stored, bitOf_writeWord (by omega), hc, hs, ← bitOf_sizeMask, ← hmask k hk]
  cases hm : bitOf (rwMask s.hw r) k
  · have h0 : bitOf (s.raw r &&& 0x1FFFFFFF#32 &&& ~~~(rwMask s.hw r)) k = false := by rw [hlow, bitOf_zero]
    rw [bitOf_and, bitOf_and, show bitOf 0x1FFFFFFF#32 k = decide (k < 29) from bitOf_sizeBits, bitOf_not (by omega),
      hm] at h0
    simpa [hk] using h0
  · simp

/-- A size that fits is read back. -/
theorem State.field_stored_size {v : Word} (hx : field v 0 19 < 2 ^ xw) : field (s.stored r v) 0 19 = field v 0 19 := by
  refine field_congr fun k hk => ?_
  rw [State.bitOf_stored_size hc hs hlow hmask v (by omega)]
  by_cases hin : k < xw
  · simp [hin, hk]
  · have hz := Nat.testBit_lt_two_pow (lt_of_lt_of_le hx (Nat.pow_le_pow_right (by decide) (Nat.le_of_not_lt hin)))
    rw [testBit_field, decide_eq_true hk, Bool.true_and] at hz
    rw [hz, Bool.false_and]

/-- A packet count that fits is read back. -/
theorem State.field_stored_count {v : Word} (hp : field v 19 10 < 2 ^ pw) : field (s.stored r v) 19 10 = field v 19 10 := by
  refine field_congr fun k hk => ?_
  rw [State.bitOf_stored_size hc hs hlow hmask v (by omega)]
  by_cases hin : k < pw
  · simp [hin, hk]
  · have hz := Nat.testBit_lt_two_pow (lt_of_lt_of_le hp (Nat.pow_le_pow_right (by decide) (Nat.le_of_not_lt hin)))
    rw [testBit_field, decide_eq_true hk, Bool.true_and] at hz
    rw [hz, Bool.false_and]

end

/-- The three fields of a size word (R51). -/
theorem field_sizeWord (x p d : Nat) :
    field (fld 0 19 x ||| fld 19 10 p ||| fld 29 2 d) 0 19 = x % 2 ^ 19 ∧
      field (fld 0 19 x ||| fld 19 10 p ||| fld 29 2 d) 19 10 = p % 2 ^ 10 ∧
      field (fld 0 19 x ||| fld 19 10 p ||| fld 29 2 d) 29 2 = d % 2 ^ 2 := by
  refine ⟨?_, ?_, ?_⟩ <;> rw [field_or, field_or]
  · rw [field_fld_same x (by decide), field_fld_other p (by decide), field_fld_other d (by decide), Nat.or_zero, Nat.or_zero]
  · rw [field_fld_other x (by decide), field_fld_same p (by decide), field_fld_other d (by decide), Nat.or_zero, Nat.zero_or]
  · rw [field_fld_other x (by decide), field_fld_other p (by decide), field_fld_same d (by decide), Nat.or_zero, Nat.zero_or]

theorem field_epSizeWord (e : EpRef) (periodic : Bool) (mps len pkts : Nat) :
    field (epSizeWord e periodic mps len pkts) 0 19 = (if e.dir = .IN then len else pkts * mps) % 2 ^ 19 ∧
      field (epSizeWord e periodic mps len pkts) 19 10 = pkts % 2 ^ 10 := by
  obtain ⟨n, d⟩ := e
  cases d
  case IN =>
    obtain ⟨hx, hp, _⟩ := field_sizeWord len pkts (if periodic then pkts else 1)
    exact ⟨hx, hp⟩
  case OUT =>
    obtain ⟨hx, hp, _⟩ := field_sizeWord (pkts * mps) pkts (if n = 0 then 1 else 0)
    exact ⟨hx, hp⟩

theorem epSiz_plain (e : EpRef) : w1cMask (epSiz e) = 0#32 ∧ w1sMask (epSiz e) = 0#32 := by
  obtain ⟨n, d⟩ := e
  cases d <;> exact ⟨rfl, rfl⟩

/-- The bits of XFERSIZE and PKTCNT that the hardware does not have read 0 in the register of an endpoint (R51). -/
def State.sizeLow (s : State) (e : EpRef) : Prop := s.raw (epSiz e) &&& 0x1FFFFFFF#32 &&& ~~~(rwMask s.hw (epSiz e)) = 0#32

theorem State.reservedLow.epSiz {s : State} (low : s.reservedLow) (e : EpRef) : s.sizeLow e :=
  low.size (n := e.num) (by obtain ⟨n, d⟩ := e; cases d <;> simp)

theorem State.sizeLow_congr {s t : State} {e : EpRef} (hr : t.raw (epSiz e) = s.raw (epSiz e)) (hw : t.hw = s.hw) :
    t.sizeLow e ↔ s.sizeLow e := by rw [State.sizeLow, State.sizeLow, hr, hw]

section
variable {s : State} {e : EpRef} (low : s.sizeLow e)
include low

/-- The size that a chunk leaves in the register of an endpoint (R249). -/
theorem State.field_chunk_size (periodic : Bool) {mps len pkts : Nat} (hx : (s.sizeBits e).1 ≤ 19)
    (hv : (if e.dir = .IN then len else pkts * mps) < 2 ^ (s.sizeBits e).1) :
    field (s.stored (epSiz e) (epSizeWord e periodic mps len pkts)) 0 19 = (if e.dir = .IN then len else pkts * mps) := by
  have hsize := (field_epSizeWord e periodic mps len pkts).1
  generalize epSizeWord e periodic mps len pkts = v at hsize ⊢
  have h19 : 2 ^ (s.sizeBits e).1 ≤ 2 ^ 19 := Nat.pow_le_pow_right (by decide) hx
  rw [Nat.mod_eq_of_lt (lt_of_lt_of_le hv h19)] at hsize
  obtain ⟨hc, hs⟩ := epSiz_plain e
  rw [State.field_stored_size hc hs low (fun _ hk => bitOf_size_rw s e hk) (hsize ▸ hv), hsize]

/-- The packet count that a chunk leaves in the register of an endpoint (R249). -/
theorem State.field_chunk_count (periodic : Bool) {mps len pkts : Nat} (hw : (s.sizeBits e).2 ≤ 10)
    (hv : pkts < 2 ^ (s.sizeBits e).2) :
    field (s.stored (epSiz e) (epSizeWord e periodic mps len pkts)) 19 10 = pkts := by
  have hcount := (field_epSizeWord e periodic mps len pkts).2
  generalize epSizeWord e periodic mps len pkts = v at hcount ⊢
  have h10 : 2 ^ (s.sizeBits e).2 ≤ 2 ^ 10 := Nat.pow_le_pow_right (by decide) hw
  rw [Nat.mod_eq_of_lt (lt_of_lt_of_le hv h10)] at hcount
  obtain ⟨hc, hs⟩ := epSiz_plain e
  rw [State.field_stored_count hc hs low (fun _ hk => bitOf_size_rw s e hk) (hcount ▸ hv), hcount]

end

/-- What one chunk takes at most fits the fields (R13). -/
theorem chunk_fits {top count mps len : Nat} (h1 : 1 ≤ mps) (hm : mps ≤ top) (hc : 1 ≤ count)
    (hl : len ≤ min top (count * mps) / mps * mps) :
    len ≤ top ∧ pktCount len mps * mps ≤ top ∧ pktCount len mps ≤ count := by
  have hpk : pktCount len mps ≤ min top (count * mps) / mps := by
    refine max_le ((Nat.le_div_iff_mul_le h1).mpr ?_) ?_
    · have h2 : mps ≤ count * mps := Nat.le_mul_of_pos_left mps hc
      omega
    · rw [ceilDiv]
      refine Nat.le_of_lt_succ ((Nat.div_lt_iff_lt_mul h1).mpr ?_)
      rw [Nat.succ_mul]
      omega
  have hall := Nat.div_mul_le_self (min top (count * mps)) mps
  have hcnt : min top (count * mps) / mps ≤ count :=
    (Nat.div_le_div_right (min_le_right _ _)).trans (Nat.mul_div_cancel _ h1).le
  exact ⟨by omega, (Nat.mul_le_mul_right mps hpk).trans (by omega), hpk.trans hcnt⟩

/-! Programming. -/

/-- The registers that programming a chunk writes (R249). -/
def chunkRegs (e : EpRef) (len : Nat) : List Reg :=
  [epSiz e, epDma e, epCtl e] ++ if e.dir = .IN ∧ 0 < len then [.DIEPEMPMSK] else []

theorem chunkRegs_subset (e : EpRef) (len : Nat) : chunkRegs e len ⊆ [epSiz e, epDma e, epCtl e, .DIEPEMPMSK] := by
  unfold chunkRegs
  split <;> simp

@[simp] theorem chunkRegs_zero (e : EpRef) : chunkRegs e 0 = [epSiz e, epDma e, epCtl e] := by simp [chunkRegs]

@[simp] theorem chunkRegs_out (n : Fin 16) (len : Nat) :
    chunkRegs ⟨n, .OUT⟩ len = [.DOEPTSIZ n, .DOEPDMA n, .DOEPCTL n] := by simp [chunkRegs]

/-- The parity bit that goes with a chunk: an isochronous endpoint names the parity of the next frame (R249). -/
def State.chunkParity (s : State) (e : EpRef) : Word :=
  if (s.ep e).type = .isochronous then
    if (field (s.raw .DSTS) 8 14 + 1) % 2 = 0 then bit1 28 else bit1 29
  else 0

theorem State.chunkParity_congr {s t : State} {e : EpRef} (ht : (t.ep e).type = (s.ep e).type) (hr : t.raw .DSTS = s.raw .DSTS) :
    t.chunkParity e = s.chunkParity e := by
  rw [State.chunkParity, State.chunkParity, ht, hr]

theorem State.bitOf_chunkParity (s : State) (e : EpRef) {k : Nat} (h28 : k ≠ 28) (h29 : k ≠ 29) :
    bitOf (s.chunkParity e) k = false := by
  unfold State.chunkParity
  split
  · split <;> simp [bitOf_bit1, h28, h29]
  · exact bitOf_zero k

/-- From `s` to `t` a chunk of `len` bytes in `pkts` packets has been programmed on an endpoint (R249). -/
structure State.ChunkProgrammed (s t : State) (e : EpRef) (len pkts : Nat) : Prop where
  size : t.raw (epSiz e) = s.stored (epSiz e) (epSizeWord e (typePeriodic (s.ep e).type) (s.ep e).mps len pkts)
  addr : t.raw (epDma e) = (if s.core.dmaMode = .bufferDma then s.chunkAddr (.ep e) else s.raw (epDma e))
  ctl : t.raw (epCtl e) = s.ctlWritten e (keepControl (s.raw (epCtl e)) ||| cnakEpena ||| s.chunkParity e)
  empty : s.isSlave = true → e.dir = .IN →
    bitOf (t.raw .DIEPEMPMSK) e.num.val = (decide (0 < len) || bitOf (s.raw .DIEPEMPMSK) e.num.val)
  frame : Frame s t (chunkRegs e len) [.ep e]
  trace : s.trace <:+ t.trace

/-- The DMA registers take every word (R42, R51). -/
@[simp] theorem State.stored_epDma (s : State) (e : EpRef) (v : Word) : s.stored (epDma e) v = v := by
  obtain ⟨n, d⟩ := e
  cases d <;> exact s.stored_keep rfl rfl fun k hk hm => by
    rw [show rwMask s.hw _ = 0xFFFFFFFF#32 from rfl, bitOf_allOnes ⟨k, hk⟩] at hm
    cases hm

/-- A bit of the FIFO-empty mask is set or cleared (R48). -/
@[simp] theorem State.bitOf_stored_empty (s : State) (n : Fin 16) (w : Word) (b : Bool) :
    bitOf (s.stored .DIEPEMPMSK (withBit w n.val b)) n.val = b := by
  have hall : ∀ j : Fin 16, bitOf 0xFFFF#32 j = true := by decide
  rw [State.stored, bitOf_writeWord (by omega), show rwMask s.hw .DIEPEMPMSK = 0xFFFF#32 from rfl, hall n, bitOf_withBit]
  simp [w1cMask, w1sMask, show n.val < 32 by omega]

theorem isoParity_plain {s : State} {e : EpRef} (hi : (s.ep e).type ≠ .isochronous) (h : Hooks) :
    isoParity e h s = .ok (0, s) := by
  simp [isoParity, hi]

/-- An isochronous endpoint reads the frame number for its parity (R249). -/
theorem isoParity_iso {s : State} {e : EpRef} (k : s.Ready) (hm : s.hostMode = false) (hi : (s.ep e).type = .isochronous) (h : Hooks) :
    isoParity e h s = .ok (s.chunkParity e, s.note (.rd 0x808 (s.raw .DSTS))) := by
  simp [isoParity, run_bind, hi, k, hm, State.chunkParity]
  rfl

theorem isoParity_run {s : State} {e : EpRef} (k : s.Ready) (hm : s.hostMode = false) (h : Hooks) :
    ∃ u, isoParity e h s = .ok (s.chunkParity e, u) ∧ (u = s ∨ u = s.note (.rd 0x808 (s.raw .DSTS))) := by
  by_cases hi : (s.ep e).type = .isochronous
  · exact ⟨_, isoParity_iso k hm hi h, .inr rfl⟩
  · exact ⟨s, by rw [isoParity_plain hi, State.chunkParity, if_neg hi], .inl rfl⟩

section
variable {s : State} {e : EpRef} (k : s.Ready) (hm : s.hostMode = false) (hn : e.num.val < s.hw.caps.nEp)
include k hm hn

/-- The first part of the programming: the size, and the buffer address in buffer-DMA mode. -/
theorem chunkHead_run (len pkts : Nat) (h : Hooks) : ∃ v, (∀ p : M Unit, (do
      regWrite (epSiz e) (epSizeWord e (typePeriodic (s.ep e).type) (s.ep e).mps len pkts)
      doIf (decide (s.core.dmaMode = DmaMode.bufferDma)) (regWrite (epDma e) (s.chunkAddr (.ep e)))
      p) h s = p h v) ∧ v.Ready ∧ v.ep e = s.ep e ∧
      v.raw (epSiz e) = s.stored (epSiz e) (epSizeWord e (typePeriodic (s.ep e).type) (s.ep e).mps len pkts) ∧
      v.raw (epDma e) = (if s.core.dmaMode = .bufferDma then s.chunkAddr (.ep e) else s.raw (epDma e)) ∧
      s.trace <:+ v.trace ∧ Frame s v [epSiz e, epDma e] [] := by
  by_cases hb : s.core.dmaMode = .bufferDma <;>
    exact ⟨_, fun p => by simp [run_bind, k, hm, hn, hb]; rfl, by simp [k, hb, List.suffix_cons_iff]⟩

/-- The second part of the programming: the endpoint is enabled. -/
theorem chunkTail_run (len : Nat) (h : Hooks) : ∃ u, (do
      let par ← isoParity e
      regUpdate (epCtl e) fun w => keepControl w ||| cnakEpena ||| par
      doIf (s.isSlave && decide (e.dir = Dir.IN) && decide (0 < len)) (setEmptyMask e.num true)) h s = .ok ((), u) ∧
      u.ep e = s.ep e ∧ u.raw (epCtl e) = s.ctlWritten e (keepControl (s.raw (epCtl e)) ||| cnakEpena ||| s.chunkParity e) ∧
      (s.isSlave = true → e.dir = .IN →
        bitOf (u.raw .DIEPEMPMSK) e.num.val = (decide (0 < len) || bitOf (s.raw .DIEPEMPMSK) e.num.val)) ∧
      s.trace <:+ u.trace ∧ Frame s u (epCtl e :: if e.dir = .IN ∧ 0 < len then [.DIEPEMPMSK] else []) [] := by
  have hw (t : State) (kt : t.Ready) (x : Word) : (t.writeReg (epCtl e) (keepControl x ||| cnakEpena ||| s.chunkParity e)).Ready :=
    kt.writeCtl e (by simp [cnakEpena, s.bitOf_chunkParity])
  obtain ⟨v, hv, hvs⟩ := isoParity_run k hm (e := e) h
  rw [run_bind_ok hv]
  rcases hvs with hvs | hvs <;> subst v <;> by_cases he : (s.isSlave = true ∧ e.dir = .IN) ∧ 0 < len
  all_goals simp [run_bind, k, hm, hn, setEmptyMask, hw, he, List.suffix_cons_iff]
  all_goals exact fun hs hd hl => absurd ⟨⟨hs, hd⟩, hl⟩ he


theorem programEpDirect_run (len pkts : Nat) (h : Hooks) :
    ∃ u, programEpDirect e len pkts h s = .ok ((), u) ∧ u.ep e = s.ep e ∧ s.ChunkProgrammed u e len pkts := by
  obtain ⟨v, hv, kv, hep, hsize, haddr, htr, hf⟩ := chunkHead_run k hm hn len pkts h
  have hctl : v.raw (epCtl e) = s.raw (epCtl e) := hf.raw_eq (by simp) (by simp)
  have hslave : v.isSlave = s.isSlave := by simp only [State.isSlave, hf.core (by simp) (by simp)]
  obtain ⟨u, hu, hue, huc, hum, hut, huf⟩ := chunkTail_run (s := v) (e := e) kv ((hf.hostMode_eq (by simp)).trans hm)
    (hf.hw ▸ hn) len h
  rw [hslave] at hu hum
  rw [hf.raw_eq (by simp) (by simp)] at hum
  rw [State.chunkParity_congr (s := s) (by rw [hep]) (hf.raw_eq (by simp) (by simp)), hctl,
    State.ctlWritten_congr hctl hf.hw] at huc
  refine ⟨u, (hv _).trans hu, hue.trans hep, (huf.raw_eq ?_ (by simp)).trans hsize, (huf.raw_eq ?_ (by simp)).trans haddr, huc, hum,
    ?_, htr.trans hut⟩
  · split <;> simp
  · split <;> simp
  · exact (hf.mono (by simp [chunkRegs]) (by simp)).trans (huf.mono (by simp [chunkRegs]) (by simp))

/-- The next chunk of an endpoint in slave and buffer-DMA mode (R247). -/
theorem programChunk_direct (hd : s.isDesc = false) (h : Hooks) :
    ∃ u, programChunk (.ep e) h s = .ok ((), u) ∧
      u.ep e = { s.ep e with x := { (s.ep e).x with chunkLen := s.nextChunk (.ep e), chunkDone := 0 } } ∧
      s.ChunkProgrammed u e (s.nextChunk (.ep e)) (pktCount (s.nextChunk (.ep e)) (s.ep e).mps) := by
  obtain ⟨u, hu, hep, p⟩ := programEpDirect_run (s := s.modEp e fun r =>
    { r with x := { r.x with chunkLen := s.nextChunk (.ep e), chunkDone := 0 } }) (e := e) (by simpa using k) (by simpa using hm)
    (by simpa using hn) (s.nextChunk (.ep e)) (pktCount (s.nextChunk (.ep e)) (s.ep e).mps) h
  refine ⟨u, by simpa [programChunk, run_bind, hd] using hu, by simpa using hep, ?_⟩
  obtain ⟨hsize, haddr, hctl, hempty, hf, htr⟩ := p
  rw [State.chunkParity_congr (s := s) (by simp) (by simp)] at hctl
  refine ⟨by simpa using hsize, by simpa using haddr, by simpa using hctl, by simpa using hempty, ?_, by simpa using htr⟩
  exact Frame.trans (t := s.modEp e fun r =>
    { r with x := { r.x with chunkLen := s.nextChunk (.ep e), chunkDone := 0 } }) (by simp) hf

end

section
variable {s t : State} {e : EpRef} {len pkts : Nat} (p : s.ChunkProgrammed t e len pkts)
include p

theorem State.ChunkProgrammed.enabled : bitOf (t.raw (epCtl e)) 31 = true := by
  rw [p.ctl, s.bitOf_ctlWritten e _ (by decide) (by decide) (by decide)]
  simp [cnakEpena, s.bitOf_chunkParity]

theorem State.ChunkProgrammed.ready : bitOf (t.raw (epCtl e)) 17 = false := by
  rw [p.ctl, s.bitOf_ctlWritten_nak]
  simp [cnakEpena, bitOf_keepControl, s.bitOf_chunkParity]

end

end Sys2Proof.Machine

/-! PROOF. The procedures of endpoint 0 (R305, R320, R325, R326) in slave and buffer-DMA mode. -/

namespace Sys2Proof.Machine

open Sys2Proof

/-! The sizes of a chunk (R13, R247). -/

/-- The bytes that a chunk of an endpoint moves at most, its periodic bound apart (R247). -/
def State.epClamp (s : State) (e : EpRef) : Nat :=
  min (2 ^ (s.sizeBits e).1 - 1) ((2 ^ (s.sizeBits e).2 - 1) * (s.ep e).mps) / (s.ep e).mps * (s.ep e).mps

section
variable {s : State} {e : EpRef} (hc : s.core.caps = s.hw.caps)
include hc

theorem State.xferLimits_ep : s.xferLimits (.ep e) = (2 ^ (s.sizeBits e).1 - 1, 2 ^ (s.sizeBits e).2 - 1) := by
  by_cases h0 : e.num = 0 <;> simp [State.xferLimits, State.sizeBits, h0, hc]

variable (hd : s.isDesc = false)
include hd

theorem State.nextChunk_ep : s.nextChunk (.ep e) =
    min (if (s.ep e).x.zlpPhase then 0 else (s.reqOf (.ep e)).length - (s.reqOf (.ep e)).done)
      (if typePeriodic (s.ep e).type then min (s.epClamp e) ((s.ep e).multiCount * (s.ep e).mps) else s.epClamp e) := by
  simp [State.nextChunk, State.chunkLimit, State.xferLimits_ep hc, hd, State.epClamp, State.typeOf, State.packetsPer,
    State.isoForm, State.splits, State.multiOf]
  rfl

theorem State.nextChunk_le : s.nextChunk (.ep e) ≤ s.epClamp e := by
  rw [State.nextChunk_ep hc hd]
  refine (min_le_right _ _).trans ?_
  split
  · exact min_le_left _ _
  · exact le_refl _

end

/-- The two numbers that a chunk leaves in the size register of an endpoint (R249). -/
theorem State.ChunkProgrammed.fields {s t : State} {e : EpRef} {len : Nat}
    (p : s.ChunkProgrammed t e len (pktCount len (s.ep e).mps)) (low : s.sizeLow e) (h1 : 1 ≤ (s.ep e).mps)
    (hm : (s.ep e).mps ≤ 2 ^ (s.sizeBits e).1 - 1) (hp : 1 ≤ (s.sizeBits e).2) (hx : (s.sizeBits e).1 ≤ 19)
    (hw : (s.sizeBits e).2 ≤ 10) (hl : len ≤ s.epClamp e) :
    field (t.raw (epSiz e)) 0 19 = (if e.dir = .IN then len else pktCount len (s.ep e).mps * (s.ep e).mps) ∧
      field (t.raw (epSiz e)) 19 10 = pktCount len (s.ep e).mps := by
  have hp2 : 1 ≤ 2 ^ (s.sizeBits e).2 - 1 := Nat.le_sub_one_of_lt (Nat.one_lt_two_pow (by omega))
  obtain ⟨hlen, hmps, hcount⟩ := chunk_fits h1 hm hp2 hl
  have htop := Nat.two_pow_pos (s.sizeBits e).1
  rw [p.size]
  exact ⟨State.field_chunk_size low _ hx (by split <;> omega), State.field_chunk_count low _ hw (by omega)⟩

/-! Endpoint 0. -/

theorem State.epClamp_zero {s : State} {d : Dir} (hm : (s.ep ⟨0, d⟩).mps = 64) : s.epClamp ⟨0, d⟩ = s.ep0Room := by
  simp [State.epClamp, State.sizeBits, hm, State.ep0Room]

/-- A field of RW bits takes what is written (R23). -/
theorem State.field_stored_rw (s : State) {r : Reg} {lo len : Nat} (hc : w1cMask r = 0#32) (hs : w1sMask r = 0#32)
    (hlen : lo + len ≤ 32) (h : ∀ k < len, bitOf (rwMask s.hw r) (lo + k) = true) (v : Word) :
    field (s.stored r v) lo len = field v lo len := by
  refine field_congr fun k hk => ?_
  rw [State.stored, bitOf_writeWord (by omega), hc, hs, h k hk]
  simp

/-- From `s` to `t` the reception of a SETUP packet has been armed by size and address (R305). -/
structure State.SetupArmed (s t : State) : Prop where
  size : field (t.raw (.DOEPTSIZ 0)) 0 19 = 8
  count : field (t.raw (.DOEPTSIZ 0)) 19 10 = 1
  packets : field (t.raw (.DOEPTSIZ 0)) 29 2 = 1
  ctl : t.raw (.DOEPCTL 0) = s.raw (.DOEPCTL 0) ||| bit1 31
  addr : t.raw (.DOEPDMA 0) = if s.isSlave then s.raw (.DOEPDMA 0) else s.ep0.setupBuf
  frame : Frame s t [.DOEPTSIZ 0, .DOEPDMA 0, .DOEPCTL 0] []

/-- From `s` to `t` endpoint 0 has stalled, with the reception of the next SETUP packet armed (R325). -/
structure State.Stalled0 (s t : State) : Prop where
  ep0 : t.ep0 = { s.ep0 with state := .stall }
  inCtl : t.raw (.DIEPCTL 0) = s.raw (.DIEPCTL 0) ||| bit1 21
  outCtl : t.raw (.DOEPCTL 0) = s.raw (.DOEPCTL 0) ||| 0x80200000
  size : field (t.raw (.DOEPTSIZ 0)) 0 19 = 8
  count : field (t.raw (.DOEPTSIZ 0)) 19 10 = 1
  packets : field (t.raw (.DOEPTSIZ 0)) 29 2 = 1
  addr : t.raw (.DOEPDMA 0) = if s.isSlave then s.raw (.DOEPDMA 0) else s.ep0.setupBuf
  idle : (t.ep ⟨0, .IN⟩).x.active = none ∧ (t.ep ⟨0, .OUT⟩).x.active = none
  frame : Frame s t [.DIEPCTL 0, .DOEPCTL 0, .DOEPTSIZ 0, .DOEPDMA 0, .DIEPEMPMSK] [.ep0, .ep ⟨0, .IN⟩, .ep ⟨0, .OUT⟩]

/-- The size word of the SETUP reception. -/
theorem field_setupSize {s : State} (hraw : s.sizeLow ⟨0, .OUT⟩)
    (hx : 4 ≤ s.hw.ep0Xw) (hp : 1 ≤ s.hw.ep0Pw) :
    field (s.stored (.DOEPTSIZ 0) 0x20080008#32) 0 19 = 8 ∧ field (s.stored (.DOEPTSIZ 0) 0x20080008#32) 19 10 = 1 ∧
      field (s.stored (.DOEPTSIZ 0) 0x20080008#32) 29 2 = 1 := by
  have hmask : ∀ k < 29, bitOf (rwMask s.hw (.DOEPTSIZ 0)) k = bitOf (sizeMask s.hw.ep0Xw s.hw.ep0Pw) k :=
    fun k hk => bitOf_size_rw s ⟨0, .OUT⟩ hk
  have h16 : 2 ^ 4 ≤ 2 ^ s.hw.ep0Xw := Nat.pow_le_pow_right (by decide) hx
  have h2 : 2 ^ 1 ≤ 2 ^ s.hw.ep0Pw := Nat.pow_le_pow_right (by decide) hp
  have h8 : field 0x20080008#32 0 19 = 8 := by decide
  have h1 : field 0x20080008#32 19 10 = 1 := by decide
  refine ⟨?_, ?_, ?_⟩
  · rw [State.field_stored_size (r := .DOEPTSIZ 0) rfl rfl hraw hmask (by omega), h8]
  · rw [State.field_stored_count (r := .DOEPTSIZ 0) rfl rfl hraw hmask (by omega), h1]
  · refine (s.field_stored_rw rfl rfl (by decide) (fun k hk => ?_) _).trans (by decide)
    have hpid : ∀ j : Fin 2, bitOf 0x60000000#32 (29 + j) = true := by decide
    rw [show rwMask s.hw (.DOEPTSIZ 0) = sizeMask s.hw.ep0Xw s.hw.ep0Pw ||| 0x60000000#32 from rfl, bitOf_or, hpid ⟨k, hk⟩,
      Bool.or_true]

/-- A frame without the registers that readiness depends on, and without the context, keeps a state ready. -/
theorem Frame.ready {s t : State} {rs : List Reg} {ps : List Part} (f : Frame s t rs ps) (k : s.Ready) (hc : .context ∉ ps)
    (h : ∀ q ∈ rs, q ∉ [.GAHBCFG, .GRSTCTL, .GINTSTS, .DIEPCTL 0, .DIEPTXF 0]) : t.Ready := by
  have raw {r : Reg} (hr : r ∈ [.GAHBCFG, .GRSTCTL, .GINTSTS, .DIEPCTL 0, .DIEPTXF 0]) (h0 : r ≠ .DIEPTXF 0) :
      t.raw r = s.raw r :=
    f.raw_eq (fun q hq => ⟨fun e => h q hq (e ▸ hr), fun e => h q hq (by simp [e])⟩) h0
  obtain ⟨_, henv, _, hprompt⟩ := f.inputs
  have hmode : t.hostMode = s.hostMode := by rw [State.hostMode, State.hostMode, raw (by simp) (by simp)]
  have hacc : t.accessible (.DIEPCTL 0) = s.accessible (.DIEPCTL 0) := by rw [State.accessible, State.accessible, hmode, f.hw]
  refine ⟨henv.trans k.env, ?_, ?_, fun hp => ?_⟩
  · rw [State.Shut, f.context hc, raw (by simp) (by simp)]
    exact k.shut
  · rw [State.unsettled, raw (by simp) (by simp)]
    exact k.settled
  · have hidle := k.idle (hprompt ▸ hp)
    rw [State.disablePending, State.present] at hidle ⊢
    simp only [ctlOf, epCtl_in] at hidle ⊢
    rw [hacc, raw (by simp) (by simp)]
    exact hidle

section
variable {s : State} (k : s.Ready) (hm : s.hostMode = false) (hn : 1 ≤ s.hw.caps.nEp)
include k hm hn

/-- The reception of a SETUP packet by size and address (R305). -/
theorem ep0ArmSetup_direct (hlow : s.sizeLow ⟨0, .OUT⟩) (hd : s.isDesc = false) (hx : 4 ≤ s.hw.ep0Xw) (hp : 1 ≤ s.hw.ep0Pw)
    (h : Hooks) : ∃ u, ep0ArmSetup h s = .ok ((), u) ∧ s.SetupArmed u := by
  obtain ⟨hsize, hcount, hpid⟩ := field_setupSize hlow hx hp
  have hn0 : 0 < s.hw.caps.nEp := hn
  have hctl := s.ctlWritten_enable ⟨0, .OUT⟩
  have hdma (v : Word) : s.stored (.DOEPDMA 0) v = v := s.stored_epDma ⟨0, .OUT⟩ v
  rw [epCtl_out] at hctl
  cases hmode : s.core.dmaMode with
  | descDma => simp [State.isDesc, hmode] at hd
  | slave =>
    refine ⟨_, by simp [ep0ArmSetup, run_bind, k, hm, hn0, hmode, hd]; rfl, ?_⟩
    constructor <;> simp [hsize, hcount, hpid, hctl, State.isSlave, hmode]
  | bufferDma =>
    refine ⟨_, by simp [ep0ArmSetup, run_bind, k, hm, hn0, hmode, hd]; rfl, ?_⟩
    constructor <;> simp [hsize, hcount, hpid, hctl, State.isSlave, hmode, hdma]

/-- Leaving a transfer of endpoint 0 whose IN direction does not run (R326). -/
theorem ep0Abandon_idle (h31 : bitOf (s.raw (.DIEPCTL 0)) 31 = false) (h : Hooks) :
    ∃ u, ep0Abandon h s = .ok ((), u) ∧
      u.ep ⟨0, .IN⟩ = { s.ep ⟨0, .IN⟩ with x := { (s.ep ⟨0, .IN⟩).x with active := none, zlpPhase := false } } ∧
      u.ep ⟨0, .OUT⟩ = { s.ep ⟨0, .OUT⟩ with x := { (s.ep ⟨0, .OUT⟩).x with active := none } } ∧
      u.patience = s.patience ∧ Frame s u [.DIEPEMPMSK] [.ep ⟨0, .IN⟩, .ep ⟨0, .OUT⟩] := by
  have hn0 : 0 < s.hw.caps.nEp := hn
  cases hs : s.isSlave <;>
    simp [ep0Abandon, run_bind, k, hm, hn0, h31, hs, setEmptyMask, clearActive, ep0In, ep0Out]

/-- Both directions of endpoint 0 stall, and what follows goes on from there. -/
theorem stallBoth_run (h : Hooks) : ∃ u,
    (∀ p : M Unit, (do
      regUpdate (.DIEPCTL 0) fun w => keepControl w ||| bit1 21
      regUpdate (.DOEPCTL 0) fun w => keepControl w ||| bit1 21
      setEp0State .stall
      p) h s = p h u) ∧ u.Ready ∧
      u.raw (.DIEPCTL 0) = s.raw (.DIEPCTL 0) ||| bit1 21 ∧ u.raw (.DOEPCTL 0) = s.raw (.DOEPCTL 0) ||| bit1 21 ∧
      u.ep0 = { s.ep0 with state := .stall } ∧ Frame s u [.DIEPCTL 0, .DOEPCTL 0] [.ep0] := by
  have hn0 : 0 < s.hw.caps.nEp := hn
  have hin := s.ctlWritten_stall ⟨0, .IN⟩
  have hout := s.ctlWritten_stall ⟨0, .OUT⟩
  rw [epCtl_in] at hin
  rw [epCtl_out] at hout
  have hw (t : State) (kt : t.Ready) (x : Word) : (t.writeReg (.DIEPCTL 0) (keepControl x ||| bit1 21)).Ready :=
    kt.writeCtl ⟨0, .IN⟩ (by simp [bitOf_bit1, bitOf_keepControl])
  refine ⟨_, fun p => by simp [run_bind, k, hm, hn0, setEp0State, hw]; rfl, ?_⟩
  simp [k, hw, hin, hout]

/-- Endpoint 0 whose IN direction does not run stalls (R325). -/
theorem ep0Stall_idle (hlow : s.sizeLow ⟨0, .OUT⟩) (hd : s.isDesc = false) (hx : 4 ≤ s.hw.ep0Xw) (hp : 1 ≤ s.hw.ep0Pw) (h31 : bitOf (s.raw (.DIEPCTL 0)) 31 = false)
    (h : Hooks) : ∃ u, ep0Stall h s = .ok ((), u) ∧ s.Stalled0 u := by
  obtain ⟨v, hv, hin, hout, _, hf⟩ := ep0Abandon_idle k hm hn h31 h
  have hraw (r : Reg) (hr : r ≠ .DIEPEMPMSK) (h0 : r ≠ .DIEPTXF 0) : v.raw r = s.raw r := hf.raw_eq (by simpa using hr) h0
  obtain ⟨u, hu, ku, hui, huo, hu0, huf⟩ := stallBoth_run (hf.ready k (by simp) (by simp))
    ((hf.hostMode_eq (by simp)).trans hm) (hf.hw ▸ hn) h
  have f : Frame s u [.DIEPCTL 0, .DOEPCTL 0, .DIEPEMPMSK] [.ep0, .ep ⟨0, .IN⟩, .ep ⟨0, .OUT⟩] :=
    (hf.mono (by simp) (by simp)).trans (huf.mono (by simp) (by simp))
  have hcore : u.core = s.core := f.core (by simp) (by simp)
  have hsiz : u.raw (.DOEPTSIZ 0) = s.raw (.DOEPTSIZ 0) := f.raw_eq (by simp) (by simp)
  obtain ⟨t, ht, hsize, hcount, hpid, hctl, haddr, hft⟩ := ep0ArmSetup_direct ku ((f.hostMode_eq (by simp)).trans hm) (f.hw ▸ hn)
    ((State.sizeLow_congr hsiz f.hw).mpr hlow) (by rwa [State.isDesc, hcore]) (f.hw ▸ hx) (f.hw ▸ hp) h
  have hv0 : v.ep0 = s.ep0 := hf.ep0 (by simp) (by simp)
  have hep (d : Dir) : t.ep ⟨0, d⟩ = v.ep ⟨0, d⟩ :=
    (hft.ep _ (by simp) (by simp)).trans (huf.ep _ (by simp) (by simp))
  refine ⟨t, by rw [ep0Stall, run_bind_ok hv, hu, ht], ?_, ?_, ?_, hsize, hcount, hpid, ?_, ?_, ?_⟩
  · rw [hft.ep0 (by simp) (by simp), hu0, hv0]
  · rw [hft.raw_eq (by simp) (by simp), hui, hraw _ (by simp) (by simp)]
  · rw [hctl, huo, hraw _ (by simp) (by simp), BitVec.or_assoc]
    rfl
  · rw [haddr, hu0, hv0, State.isSlave, hcore, f.raw_eq (by simp) (by simp)]
    rfl
  · rw [hep, hep, hin, hout]
    exact ⟨rfl, rfl⟩
  · exact (f.mono (by simp) (by simp)).trans (hft.mono (by simp) (by simp))

end

/-! A chunk of endpoint 0. -/

/-- The bytes of the next chunk of endpoint 0 (R247). -/
def State.zeroChunk (s : State) (d : Dir) : Nat :=
  min (if (s.ep ⟨0, d⟩).x.zlpPhase then 0 else s.ep0.request.length - s.ep0.request.done) s.ep0Room

theorem pktCount_64 (len : Nat) : pktCount len 64 = max 1 ((len + 63) / 64) := by simp [pktCount, ceilDiv]

/-- Endpoint 0 in one direction is ready for a chunk of its own request. -/
structure State.ZeroReady (s : State) (d : Dir) : Prop where
  ready : s.Ready
  mode : s.hostMode = false
  caps : s.core.caps = s.hw.caps
  exist : 1 ≤ s.hw.caps.nEp
  size : 7 ≤ s.hw.ep0Xw ∧ s.hw.ep0Xw ≤ 19
  count : 1 ≤ s.hw.ep0Pw ∧ s.hw.ep0Pw ≤ 10
  direct : s.isDesc = false
  packet : (s.ep ⟨0, d⟩).mps = 64
  kind : (s.ep ⟨0, d⟩).type = .control
  low : s.sizeLow ⟨0, d⟩

/-- In a running device endpoint 0 is ready for the data phase to the host. -/
theorem State.ControlReady.zeroReady {s : State} (c : s.ControlReady) (low : s.reservedLow) (a : s.Alone) :
    (s.inCtx .isr).ZeroReady .IN where
  ready := a.calm.ready
  mode := by simpa using c.mode
  caps := c.caps
  exist := c.exist.1
  size := c.size
  count := c.count
  direct := c.direct
  packet := c.packet
  kind := c.kind
  low := (State.sizeLow_congr (by simp) (by simp)).mpr (low.epSiz _)

theorem State.ZeroReady.of_frame {s t : State} {d : Dir} {rs : List Reg} {ps : List Part} (r : s.ZeroReady d)
    (f : Frame s t rs ps) (hp : .context ∉ ps ∧ .core ∉ ps ∧ .records ∉ ps)
    (hr : ∀ q ∈ rs, q ∉ [.GAHBCFG, .GRSTCTL, .GINTSTS, .DIEPCTL 0, .DIEPTXF 0, epSiz ⟨0, d⟩])
    (hm : (t.ep ⟨0, d⟩).mps = (s.ep ⟨0, d⟩).mps) (ht : (t.ep ⟨0, d⟩).type = (s.ep ⟨0, d⟩).type) : t.ZeroReady d := by
  obtain ⟨hcontext, hcore, hrecords⟩ := hp
  have hcr : t.core = s.core := f.core hcore hrecords
  have avoid {q g : Reg} (hq : q ∈ rs) (hg : g ∈ [.GAHBCFG, .GRSTCTL, .GINTSTS, .DIEPCTL 0, .DIEPTXF 0, epSiz ⟨0, d⟩]) :
      g ≠ q := fun e => hr q hq (e ▸ hg)
  refine ⟨f.ready r.ready hcontext fun q hq hg => hr q hq ?_, (f.hostMode_eq fun q hq => ⟨avoid hq (by simp),
    (avoid hq (by simp)).symm⟩).trans r.mode, ?_, f.hw ▸ r.exist, f.hw ▸ r.size, f.hw ▸ r.count, ?_, hm.trans r.packet,
    ht.trans r.kind, (State.sizeLow_congr (f.raw_eq (fun q hq => ⟨avoid hq (by simp), (avoid hq (by simp)).symm⟩)
      (by simp)) f.hw).mpr r.low⟩
  · simp only [List.mem_cons, List.not_mem_nil, or_false] at hg ⊢
    tauto
  · rw [hcr, f.hw, r.caps]
  · rw [State.isDesc, hcr]
    exact r.direct

/-- From `s` to `t` a chunk of `len` bytes from `a` on has been programmed on endpoint 0 (R249). -/
structure State.ZeroProgrammed (s t : State) (d : Dir) (len : Nat) (a : Word) : Prop where
  size : field (t.raw (epSiz ⟨0, d⟩)) 0 19 = if d = .IN then len else max 1 ((len + 63) / 64) * 64
  count : field (t.raw (epSiz ⟨0, d⟩)) 19 10 = max 1 ((len + 63) / 64)
  addr : s.isSlave = false → t.raw (epDma ⟨0, d⟩) = a
  enabled : bitOf (t.raw (epCtl ⟨0, d⟩)) 31 = true
  ready : bitOf (t.raw (epCtl ⟨0, d⟩)) 17 = false
  frame : Frame s t (chunkRegs ⟨0, d⟩ len) [.ep ⟨0, d⟩]
  trace : s.trace <:+ t.trace

theorem programChunk_zero {s : State} {d : Dir} (z : s.ZeroReady d) (ha : (s.ep ⟨0, d⟩).x.active = some .ep0) (h : Hooks) :
    ∃ u, programChunk (.ep ⟨0, d⟩) h s = .ok ((), u) ∧
      u.ep ⟨0, d⟩ = { s.ep ⟨0, d⟩ with x := { (s.ep ⟨0, d⟩).x with chunkLen := s.zeroChunk d, chunkDone := 0 } } ∧
      s.ZeroProgrammed u d (s.zeroChunk d) (s.ep0.request.buf + BitVec.ofNat 32 s.ep0.request.done) := by
  have hreq : s.reqOf (.ep ⟨0, d⟩) = s.ep0.request := State.reqOf_active (x := .ep ⟨0, d⟩) ha
  have hbits : s.sizeBits ⟨0, d⟩ = (s.hw.ep0Xw, s.hw.ep0Pw) := by simp [State.sizeBits]
  have hlen : s.nextChunk (.ep ⟨0, d⟩) = s.zeroChunk d := by
    rw [State.nextChunk_ep z.caps z.direct, hreq, z.kind, State.epClamp_zero z.packet]
    rfl
  obtain ⟨u, hu, hep, p⟩ := programChunk_direct (e := ⟨0, d⟩) z.ready z.mode (show ((0 : Fin 16) : Nat) < _ from z.exist)
    z.direct h
  have h128 : 2 ^ 7 ≤ 2 ^ s.hw.ep0Xw := Nat.pow_le_pow_right (by decide) z.size.1
  obtain ⟨hsize, hcount⟩ := p.fields z.low (by simp [z.packet]) (by rw [z.packet, hbits]; show 64 ≤ 2 ^ s.hw.ep0Xw - 1; omega) (by simp [hbits, z.count])
    (by simp [hbits, z.size]) (by simp [hbits, z.count]) (State.nextChunk_le z.caps z.direct)
  rw [z.packet, pktCount_64, hlen] at hsize hcount
  refine ⟨u, hu, hlen ▸ hep, hsize, hcount, fun hs => ?_, p.enabled, p.ready, hlen ▸ p.frame, p.trace⟩
  have hmode : s.core.dmaMode = .bufferDma := by
    have hd := z.direct
    cases hmode : s.core.dmaMode <;> simp_all [State.isSlave, State.isDesc]
  rw [p.addr, if_pos hmode, State.chunkAddr, hreq]

/-- From `s` to `t` endpoint 0 has begun a phase whose first chunk has `len` bytes, from the start of the reply buffer (R320). -/
structure State.ZeroBegun (s t : State) (d : Dir) (len : Nat) : Prop where
  size : field (t.raw (epSiz ⟨0, d⟩)) 0 19 = if d = .IN then len else max 1 ((len + 63) / 64) * 64
  count : field (t.raw (epSiz ⟨0, d⟩)) 19 10 = max 1 ((len + 63) / 64)
  addr : s.isSlave = false → t.raw (epDma ⟨0, d⟩) = s.ep0.reply
  enabled : bitOf (t.raw (epCtl ⟨0, d⟩)) 31 = true
  ready : bitOf (t.raw (epCtl ⟨0, d⟩)) 17 = false
  frame : Frame s t (chunkRegs ⟨0, d⟩ len) [.ep0, .ep ⟨0, d⟩]
  trace : s.trace <:+ t.trace

/-- Endpoint 0 takes up the request of a phase. -/
def State.withPhase (s : State) (d : Dir) (n : Nat) (z : Bool) (f : Xfer → Xfer) : State :=
  (s.withEp0 { s.ep0 with request := { blankReq with buf := s.ep0.reply, length := n, zeroFlag := z } }).modEp ⟨0, d⟩
    fun r => { r with x := f r.x }

theorem State.ZeroReady.withPhase {s : State} {d : Dir} (r : s.ZeroReady d) (n : Nat) (z : Bool) (f : Xfer → Xfer) :
    (s.withPhase d n z f).ZeroReady d := by
  obtain ⟨hready, hmode, hcaps, hexist, hsize, hcount, hdirect, hpacket, hkind, hlow⟩ := r
  refine ⟨?_, ?_, ?_, ?_, ?_, ?_, ?_, ?_, ?_, ?_⟩
  case refine_10 => exact (State.sizeLow_congr (by simp [State.withPhase]) (by simp [State.withPhase])).mpr hlow
  all_goals simpa [State.withPhase]

theorem frame_withPhase (s : State) (d : Dir) (n : Nat) (z : Bool) (f : Xfer → Xfer) (rs : List Reg) :
    Frame s (s.withPhase d n z f) rs [.ep0, .ep ⟨0, d⟩] := by simp [State.withPhase]

/-- EP0 IN begins to send `n` bytes of the reply buffer (R320). -/
theorem ep0Send_run {s : State} (r : s.ZeroReady .IN) (n : Nat) (z : Bool) (h : Hooks) :
    ∃ u, ep0Send n z h s = .ok ((), u) ∧
      u.ep0 = { s.ep0 with request := { blankReq with buf := s.ep0.reply, length := n, zeroFlag := z } } ∧
      u.ep ⟨0, .IN⟩ = { s.ep ⟨0, .IN⟩ with x := { (s.ep ⟨0, .IN⟩).x with
        active := some .ep0, zlpPhase := false, chunkLen := min n s.ep0Room, chunkDone := 0 } } ∧
      s.ZeroBegun u .IN (min n s.ep0Room) := by
  have hroom : (s.withPhase .IN n z fun t => { t with active := some .ep0, zlpPhase := false }).zeroChunk .IN =
      min n s.ep0Room := by
    simp [State.withPhase, State.zeroChunk, State.ep0Room, blankReq]
  obtain ⟨u, hu, hep, p⟩ := programChunk_zero (r.withPhase n z fun t => { t with active := some .ep0, zlpPhase := false })
    (by simp [State.withPhase]) h
  rw [hroom] at hep p
  refine ⟨u, by simpa [ep0Send, setEp0Request, ep0In, run_bind, State.withPhase] using hu, ?_, by simpa [State.withPhase] using hep, ?_⟩
  · rw [p.frame.ep0 (by simp) (by simp)]
    simp [State.withPhase]
  · exact ⟨p.size, p.count, fun hs => (p.addr (by simpa [State.withPhase] using hs)).trans (by simp [State.withPhase, blankReq]),
      p.enabled, p.ready, (frame_withPhase s .IN n z _ _).trans (p.frame.mono (by simp) (by simp)),
      by simpa [State.withPhase] using p.trace⟩

/-- EP0 OUT is armed for `n` bytes (R320). -/
theorem ep0Receive_run {s : State} (r : s.ZeroReady .OUT) {n : Nat} (hn : n ≤ s.ep0.replyCap)
    (hz : (s.ep ⟨0, .OUT⟩).x.zlpPhase = false) (h : Hooks) :
    ∃ u, ep0Receive n h s = .ok ((), u) ∧
      u.ep0 = { s.ep0 with request := { blankReq with buf := s.ep0.reply, length := n } } ∧
      u.ep ⟨0, .OUT⟩ = { s.ep ⟨0, .OUT⟩ with x := { (s.ep ⟨0, .OUT⟩).x with
        active := some .ep0, chunkLen := min n s.ep0Room, chunkDone := 0 } } ∧
      s.ZeroBegun u .OUT (min n s.ep0Room) := by
  have hroom : (s.withPhase .OUT n false fun t => { t with active := some .ep0 }).zeroChunk .OUT = min n s.ep0Room := by
    simp [State.withPhase, State.zeroChunk, State.ep0Room, blankReq, hz]
  obtain ⟨u, hu, hep, p⟩ := programChunk_zero (r.withPhase n false fun t => { t with active := some .ep0 })
    (by simp [State.withPhase]) h
  rw [hroom] at hep p
  refine ⟨u, by simpa [ep0Receive, setEp0Request, ep0Out, run_bind, State.withPhase, Nat.not_lt.mpr hn] using hu, ?_,
    by simpa [State.withPhase] using hep, ?_⟩
  · rw [p.frame.ep0 (by simp) (by simp)]
    simp [State.withPhase, blankReq]
  · exact ⟨p.size, p.count, fun hs => (p.addr (by simpa [State.withPhase] using hs)).trans (by simp [State.withPhase, blankReq]),
      p.enabled, p.ready, (frame_withPhase s .OUT n false _ _).trans (p.frame.mono (by simp) (by simp)),
      by simpa [State.withPhase] using p.trace⟩

end Sys2Proof.Machine

/-! PROOF. Refused requests (R310 to R317, R325). -/

namespace Sys2Proof.Machine

open Sys2Proof

/-- A request that its handler refuses stalls endpoint 0, in any state but Disconnected (R301, R322). -/
theorem conclude_stall (n : Nat) (h : Hooks) (s : State) :
    ep0Conclude n .stall h s = if s.ep0.state = .disconnected then .ok ((), s) else ep0Stall h s := by
  by_cases ho : s.ep0.state = .outData
  · simp [ep0Conclude, ep0AfterData, ho]
  · simp [ep0Conclude, ep0Apply, ep0Refuse, run_bind, ho]

section
variable {s : State} (c : s.ControlReady)
include c

theorem State.ControlReady.sizes : 4 ≤ s.hw.ep0Xw ∧ 1 ≤ s.hw.ep0Pw := ⟨by have := c.size.1; omega, c.count.1⟩

/-- A refused request as one step. -/
theorem runReq_stall (a : s.Alone) (low : s.reservedLow) (h31 : bitOf (s.raw (.DIEPCTL 0)) 31 = false) {i : Instr}
    {n : BitVec 16} {p : M ReqResult} (hp : ∀ h, p h (s.inCtx .isr) = .ok (.stall, s.inCtx .isr)) :
    (s.ep0.state = .disconnected → ∃ t, runReq i n p s = .next t ∧ Frame s t [] []) ∧
      (s.ep0.state ≠ .disconnected → ∃ t, runReq i n p s = .next t ∧ s.Stalled0 t) := by
  refine ⟨fun hd => runEvt_of ⟨s.inCtx .isr, ?_, by simp⟩, fun hd => ?_⟩
  · rw [run_bind_ok (hp _), conclude_stall, if_pos (by simpa using hd)]
  · obtain ⟨u, hu, st⟩ := ep0Stall_idle (s := s.inCtx .isr) a.calm.ready (by simpa using c.mode) c.exist.1
      ((State.sizeLow_congr (by simp) (by simp)).mpr (low.epSiz _)) (by simpa using c.direct) c.sizes.1 c.sizes.2
      (by simpa using h31) (hooksAt s.level)
    obtain ⟨hep0, hin, hout, hsize, hcount, hpid, haddr, hidle, hf⟩ := st
    refine runEvt_of ⟨u, ?_, ?_⟩
    · rw [run_bind_ok (hp _), conclude_stall, if_neg (by simpa using hd), hu]
    · exact ⟨hep0, by simpa using hin, by simpa using hout, hsize, hcount, hpid, by simpa using haddr, hidle,
        (Frame.event_trans (s := s) (u := s.inCtx .isr) (by simp) hf)⟩

end

/-- The requests that a wrong direction or a missing configuration refuses. -/
theorem request_refused {s : State} {f : SetupFields} {i : Instr}
    (hi : i ∈ (if f.dir = .OUT then [Instr.getStatus f, .getDescriptor f] else
        [.clearFeature f, .setFeature f, .setAddress f, .setConfiguration f, .setInterface f]) ++
        (if s.ep0.config = 0 then [.setInterface f] else [])) :
    ∃ p : M ReqResult, (∀ h, p h (s.inCtx .isr) = .ok (.stall, s.inCtx .isr)) ∧ exec i s = runReq i f.wLength p s := by
  rcases List.mem_append.mp hi with hm | hm
  · cases hd : f.dir with
    | OUT =>
      simp only [hd, if_true, List.mem_cons, List.not_mem_nil, or_false] at hm
      rcases hm with rfl | rfl
      · exact ⟨getStatusReq f, fun h => by simp [getStatusReq, hd], rfl⟩
      · exact ⟨getDescriptorReq f, fun h => by simp [getDescriptorReq, hd], rfl⟩
    | IN =>
      simp only [hd, reduceCtorEq, if_false, List.mem_cons, List.not_mem_nil, or_false] at hm
      rcases hm with rfl | rfl | rfl | rfl | rfl
      · exact ⟨clearFeatureReq f, fun h => by simp [clearFeatureReq, hd], rfl⟩
      · exact ⟨setFeatureReq f, fun h => by simp [setFeatureReq, hd], rfl⟩
      · exact ⟨setAddressReq f, fun h => by simp [setAddressReq, hd], rfl⟩
      · exact ⟨setConfigurationReq f, fun h => by simp [setConfigurationReq, hd], rfl⟩
      · exact ⟨setInterfaceReq f, fun h => by simp [setInterfaceReq, hd], rfl⟩
  · by_cases hc : s.ep0.config = 0
    · obtain rfl : i = .setInterface f := by simpa [hc] using hm
      exact ⟨setInterfaceReq f, fun h => by simp [setInterfaceReq, hc], rfl⟩
    · rw [if_neg hc] at hm
      cases hm

/-- Settles O60. -/
theorem refusedRequestsStallEndpointZero : Obligations.RefusedRequestsStallEndpointZero := by
  intro s f a low c h31 i hi
  obtain ⟨p, hp, he⟩ := request_refused hi
  rw [he]
  obtain ⟨hdis, hstall⟩ := runReq_stall c a low h31 (i := i) (n := f.wLength) hp
  refine ⟨hdis, fun hd => ?_⟩
  obtain ⟨t, ht, st⟩ := hstall hd
  exact ⟨t, ht, st.ep0, st.inCtl, st.outCtl, st.size, st.count, st.packets, st.idle.1, st.idle.2, st.frame⟩

end Sys2Proof.Machine

/-! PROOF. Descriptors (R117, R160, R253): writing one, and the arrays that DMA is walking. -/

namespace Sys2Proof.Machine

open Sys2Proof

/-- A frame without the registers that calm depends on, and without the context, keeps a state calm. -/
theorem Frame.calm {s t : State} {rs : List Reg} {ps : List Part} (f : Frame s t rs ps) (k : s.Calm) (hc : .context ∉ ps)
    (h : ∀ q ∈ rs, q ∉ [.GAHBCFG, .GRSTCTL, .DIEPTXF 0]) : t.Calm := by
  have raw {r : Reg} (hr : r ∈ [.GAHBCFG, .GRSTCTL, .DIEPTXF 0]) (h0 : r ≠ .DIEPTXF 0) : t.raw r = s.raw r :=
    f.raw_eq (fun q hq => ⟨fun e => h q hq (e ▸ hr), fun e => h q hq (by simp [e])⟩) h0
  obtain ⟨_, henv, _, hprompt⟩ := f.inputs
  refine ⟨⟨henv.trans k.quiet.env, hprompt.trans k.quiet.prompt, ?_⟩, ?_⟩
  · rw [State.Shut, f.context hc, raw (by simp) (by simp)]
    exact k.quiet.shut
  · rw [State.unsettled, raw (by simp) (by simp)]
    exact k.settled

/-- An array that DMA is not walking is spared as long as nothing is enabled. -/
theorem State.Spared.mono {s t : State} {a : Word} (h : s.Spared a) (hp : t.plat.descArrays = s.plat.descArrays)
    (hw : t.hw = s.hw) (hwalk : ∀ x, t.walking x = true → s.walking x = true) : t.Spared a := by
  intro p hm hk
  rw [hw]
  exact h p (hp ▸ hm) (hwalk _ hk)

/-- Whether DMA walks a chain is a matter of the enable bits and the modes. -/
theorem State.walking_congr {s t : State} {x : XRef} (ha : ∀ r, t.accessible r = s.accessible r)
    (he : t.enabledHw x = s.enabledHw x) (hm : t.hostMode = s.hostMode) (hs : t.slaveHw = s.slaveHw)
    (hd : t.raw .DCFG = s.raw .DCFG) (hh : t.raw .HCFG = s.raw .HCFG) : t.walking x = s.walking x := by
  simp [State.walking, State.present, State.descHw, ha, he, hm, hs, hd, hh]

/-- A control word that does not enable its endpoint enables nothing. -/
theorem State.enabledHw_writeCtl (s : State) (e : EpRef) {v : Word} (h31 : bitOf v 31 = false) (x : XRef) :
    (s.writeReg (epCtl e) v).enabledHw x = s.enabledHw x := by
  have hrw : bitOf (rwMask s.hw (epCtl e)) 31 = false := by
    rw [(epCtl_masks s.hw e).1]
    cases e.dir <;> rfl
  rw [State.enabledHw, State.enabledHw]
  by_cases hx : ctlOf x = epCtl e
  · rw [hx, s.raw_writeReg_ctl, s.bitOf_ctlWritten e v (by decide) (by decide) (by decide), h31, hrw]
    simp
  · rw [s.raw_writeReg_other v hx (by cases x <;> simp [ctlOf]) (by simp)]

theorem State.enabledHw_writeReg (s : State) {r : Reg} (v : Word) (x : XRef) (h : ctlOf x ≠ r) (h0 : r ≠ .DIEPTXF 0) :
    (s.writeReg r v).enabledHw x = s.enabledHw x := by
  rw [State.enabledHw, State.enabledHw, s.raw_writeReg_other v h (by cases x <;> simp [ctlOf]) h0]

section
variable {s : State} (a : Word)

theorem State.spared_congr {t : State} (hp : t.plat.descArrays = s.plat.descArrays) (hw : t.hw = s.hw)
    (hr : t.regs = s.regs) : t.Spared a ↔ s.Spared a := by
  have hraw (r : Reg) : t.raw r = s.raw r := State.raw_congr hr r
  have hwalk (x : XRef) : t.walking x = s.walking x :=
    State.walking_congr (fun r => State.accessible_congr hw hr r) (by simp [State.enabledHw, hraw])
      (by simp [State.hostMode, hraw]) (by simp [State.slaveHw, hraw]) (hraw _) (hraw _)
  exact ⟨fun h => h.mono hp.symm hw.symm fun x hx => (hwalk x).symm ▸ hx, fun h => h.mono hp hw fun x hx => hwalk x ▸ hx⟩

/-- A register that neither enables anything nor selects a mode spares what was spared. -/
theorem State.Spared.writeReg (h : s.Spared a) {r : Reg} (v : Word) (hr : ∀ x, ctlOf x ≠ r) (h0 : r ≠ .DIEPTXF 0)
    (hg : r ≠ .GAHBCFG) (hd : r ≠ .DCFG) (hh : r ≠ .HCFG) : (s.writeReg r v).Spared a :=
  h.mono (by simp) (by simp) fun x hx => by
    rwa [State.walking_congr (s := s) (by simp) (s.enabledHw_writeReg v x (hr x) h0) (by simp) (by simp [hg])
      (s.raw_writeReg_other v hd.symm (by simp) h0) (s.raw_writeReg_other v hh.symm (by simp) h0)] at hx

theorem State.Spared.writeCtl (h : s.Spared a) (e : EpRef) {v : Word} (h31 : bitOf v 31 = false) :
    (s.writeReg (epCtl e) v).Spared a :=
  h.mono (by simp) (by simp) fun x hx => by
    rwa [State.walking_congr (s := s) (by simp) (s.enabledHw_writeCtl e h31 x) (by simp) (by simp) (by simp) (by simp)] at hx

@[simp] theorem State.spared_note (e : TraceEv) : (s.note e).Spared a ↔ s.Spared a := State.spared_congr a rfl rfl rfl
@[simp] theorem State.spared_inCtx (c : Ctx) : (s.inCtx c).Spared a ↔ s.Spared a := State.spared_congr a rfl rfl rfl
@[simp] theorem State.spared_setBytes (b : Word) (bs : List Byte) : (s.setBytes b bs).Spared a ↔ s.Spared a :=
  State.spared_congr a (by simp) (by simp) (by simp)
@[simp] theorem State.spared_setWord (b w : Word) : (s.setWord b w).Spared a ↔ s.Spared a :=
  State.spared_congr a (by simp) (by simp) (by simp)
@[simp] theorem State.spared_modEp (e : EpRef) (f : EpRec → EpRec) : (s.modEp e f).Spared a ↔ s.Spared a :=
  State.spared_congr a (by simp) (by simp) (by simp)
@[simp] theorem State.spared_withEp0 (x : Ep0Rec) : (s.withEp0 x).Spared a ↔ s.Spared a := State.spared_congr a rfl rfl rfl
@[simp] theorem State.spared_withPool (x : List (Option Req)) : (s.withPool x).Spared a ↔ s.Spared a :=
  State.spared_congr a rfl rfl rfl
@[simp] theorem State.spared_withIso (x : List IsoRec) : (s.withIso x).Spared a ↔ s.Spared a :=
  State.spared_congr a rfl rfl rfl

@[simp] theorem owned_of_spared (h : s.Spared a) : s.owned a = false := h.not_owned

end

/-! One descriptor. -/

theorem descBase_own {s : State} {x : XRef} {d : Word} (hx : (s.xfer x).desc = some d) (h : Hooks) :
    descBase x h s = .ok (d, s) := by
  simp only [descBase, run_ask_bind, hx]
  rfl

theorem descBase_platform {s : State} {x : XRef} {d : Word} (hx : (s.xfer x).desc = none) (ha : s.descArray x false = some d)
    (h : Hooks) : descBase x h s = .ok (d, s) := by
  simp only [descBase, run_ask_bind, hx, ha]
  rfl

/-- The four bytes of each half of a descriptor are different ones. -/
theorem descHalf_ne (d : Word) {j k : Nat} (hj : j < 4) (hk : k < 4) : d + BitVec.ofNat 32 j ≠ d + 4#32 + BitVec.ofNat 32 k := by
  bv_omega

/-- A descriptor is written, where DMA does not own it (R253, R117). -/
theorem writeDesc_run {s : State} (k : s.Calm) {a : Word} (ha : s.Spared a) (ha4 : s.Spared (a + 4#32)) (buf st : Word)
    (h : Hooks) : ∃ u, writeDesc a buf st h s = .ok ((), u) ∧ u.word a = st ∧ u.word (a + 4#32) = buf ∧
      (∀ b, (∀ j < 8, b ≠ a + BitVec.ofNat 32 j) → u.byte b = s.byte b) ∧ Frame s u [] [.mem] := by
  refine ⟨((((((s.setWord a hostBusyWord).note (.mw a.toNat hostBusyWord)).setWord (a + 4#32) buf).note
    (.mw (a + 4#32).toNat buf)).setWord a st).note (.mw a.toNat st)), ?_, ?_, ?_, fun b hb => ?_, by simp⟩
  · simp [writeDesc, run_bind, k, ha, ha4]
  · simp
  · rw [State.word_of_note, State.word_congr_bytes fun j hj =>
      State.byte_setWord_out _ _ fun i hi => (descHalf_ne a hi hj).symm]
    simp
  · have hout : ∀ j < 4, b ≠ a + BitVec.ofNat 32 j := fun j hj => hb j (by omega)
    have hout4 : ∀ j < 4, b ≠ a + 4#32 + BitVec.ofNat 32 j := fun j hj => by
      have := hb (4 + j) (by omega)
      bv_omega
    rw [State.byte_of_note, State.byte_setWord_out _ _ hout, State.byte_of_note, State.byte_setWord_out _ _ hout4,
      State.byte_of_note, State.byte_setWord_out _ _ hout]

end Sys2Proof.Machine

/-! PROOF. ENUMDONE (R482). -/

namespace Sys2Proof.Machine

open Sys2Proof

/-- The control word of endpoint 0 in use (R482). -/
theorem State.ctlWritten_useEp0 (s : State) : s.ctlWritten ⟨0, .IN⟩ 0x08008040#32 =
    (s.raw (.DIEPCTL 0) &&& 0xFC137800#32) ||| 0x00028040#32 := by
  have hall : ∀ k : Fin 32, k ≠ 16 → k ≠ 17 →
      bitOf 0x00028040#32 k.val = (bitOf 0x03EC87FF#32 k.val && bitOf 0x08008040#32 k.val) ∧
      bitOf 0xFC137800#32 k.val = !bitOf 0x03EC87FF#32 k.val ∧ (bitOf 0x08008040#32 k.val && decide (30 ≤ k.val)) = false := by
    decide
  refine word_ext fun k hk => ?_
  by_cases h16 : k = 16
  · subst h16
    simp [s.bitOf_ctlWritten_dpid]
  · by_cases h17 : k = 17
    · subst h17
      simp [s.bitOf_ctlWritten_nak]
    · obtain ⟨hset, hkeep, hw1s⟩ := hall ⟨k, hk⟩ (by simpa [Fin.ext_iff] using h16) (by simpa [Fin.ext_iff] using h17)
      rw [s.bitOf_ctlWritten _ _ hk h16 h17, bitOf_or, bitOf_and, hset, hkeep, hw1s, (epCtl_masks _ _).1]
      cases bitOf 0x03EC87FF#32 k <;> simp

/-- The control word of EP0 OUT in use (R482). -/
theorem State.ctlWritten_useEp0_out (s : State) :
    field (s.ctlWritten ⟨0, .OUT⟩ 0x08008040#32) 0 11 = 64 ∧ bitOf (s.ctlWritten ⟨0, .OUT⟩ 0x08008040#32) 15 = true ∧
      bitOf (s.ctlWritten ⟨0, .OUT⟩ 0x08008040#32) 17 = true := by
  have hrw : rwMask s.hw (epCtl ⟨0, .OUT⟩) = 0x002C87FF#32 := rfl
  refine ⟨(field_eq_iff (by decide)).mpr fun k hk => ?_, ?_, ?_⟩
  · have hall : ∀ j : Fin 11, bitOf 0x002C87FF#32 (0 + j) = true ∧ bitOf 0x08008040#32 (0 + j) = Nat.testBit 64 j ∧ ¬ 30 ≤ j.val := by
      decide
    obtain ⟨hm, hv, h30⟩ := hall ⟨k, hk⟩
    rw [s.bitOf_ctlWritten _ _ (by omega) (by omega) (by omega), hrw, hm, if_pos rfl, hv]
    simp [show ¬ 30 ≤ k by omega]
  · rw [s.bitOf_ctlWritten _ _ (by decide) (by decide) (by decide), hrw]
    rfl
  · simp [s.bitOf_ctlWritten_nak]

section
variable {s : State} (k : s.Calm) (hm : s.hostMode = false) (hn : 1 ≤ s.hw.caps.nEp)
include k hm hn

/-- The reception of a SETUP packet by one descriptor (R305). -/
theorem ep0ArmSetup_desc (hd : s.isDesc = true) (hx : (s.ep ⟨0, .OUT⟩).x.desc = none) {d : Word}
    (ha : s.descArray ep0Out false = some d) (hs : s.Spared d) (hs4 : s.Spared (d + 4#32)) (h : Hooks) :
    ∃ u, ep0ArmSetup h s = .ok ((), u) ∧ u.raw (.DOEPDMA 0) = d ∧ u.word d = 0x0A000040 ∧ u.word (d + 4#32) = s.ep0.setupBuf ∧
      bitOf (u.raw (.DOEPCTL 0)) 31 = true ∧ (∀ a, (∀ j < 8, a ≠ d + BitVec.ofNat 32 j) → u.byte a = s.byte a) ∧
      Frame s u [.DOEPTSIZ 0, .DOEPDMA 0, .DOEPCTL 0] [.mem] := by
  have hn0 : 0 < s.hw.caps.nEp := hn
  have hmode : s.core.dmaMode = .descDma := by simpa [State.isDesc] using hd
  have hsiz : ∀ x, ctlOf x ≠ .DOEPTSIZ 0 := fun x => by cases x <;> simp [ctlOf]
  obtain ⟨v, hv, hword, hbuf, hmem, hf⟩ := writeDesc_run (s := (s.writeReg (.DOEPTSIZ 0) 0x20080008#32).note
    (.wr (Reg.offset (.DOEPTSIZ 0)) 0x20080008#32)) (by simpa using k) (a := d)
    (by simpa using hs.writeReg d _ hsiz (by simp) (by simp) (by simp) (by simp))
    (by simpa using hs4.writeReg _ _ hsiz (by simp) (by simp) (by simp) (by simp)) s.ep0.setupBuf setupDescWord h
  have hbase : descBase ep0Out h ((s.writeReg (.DOEPTSIZ 0) 0x20080008#32).note
      (.wr (Reg.offset (.DOEPTSIZ 0)) 0x20080008#32)) = .ok (d, _) :=
    descBase_platform (by simpa [ep0Out] using hx) (by simpa using ha) h
  have kv : v.Calm := hf.calm (by simpa using k) (by simp) (by simp)
  have hmv : v.hostMode = false := (hf.hostMode_eq (by simp)).trans (by simpa using hm)
  have hnv : 0 < v.hw.caps.nEp := by rw [hf.hw]; simpa using hn0
  have hdma (t : State) (w : Word) : t.stored (.DOEPDMA 0) w = w := t.stored_epDma ⟨0, .OUT⟩ w
  refine ⟨_, by simp [ep0ArmSetup, run_bind, k, hm, hn0, hmode, hd, hbase, hv, kv, hmv, hnv]; rfl, ?_⟩
  have h31 : bitOf (v.ctlWritten ⟨0, .OUT⟩ (keepControl (v.raw (.DOEPCTL 0)) ||| bit1 31)) 31 = true := by
    rw [show v.ctlWritten ⟨0, .OUT⟩ (keepControl (v.raw (.DOEPCTL 0)) ||| bit1 31) = _ from v.ctlWritten_enable ⟨0, .OUT⟩]
    simp [bitOf_bit1]
  have f : Frame s v [.DOEPTSIZ 0, .DOEPDMA 0, .DOEPCTL 0] [.mem] :=
    Frame.trans (t := (s.writeReg (.DOEPTSIZ 0) 0x20080008#32).note (.wr (Reg.offset (.DOEPTSIZ 0)) 0x20080008#32)) (by simp)
      (hf.mono (by simp) (by simp))
  simp [hdma, hword, hbuf, h31, f]
  exact ⟨rfl, fun a ha => by simpa using hmem a ha⟩

/-- Endpoint 0 is taken into use, and what follows goes on from there (R482). -/
theorem enumBegin_run (h : Hooks) : ∃ u,
    (∀ p : M Unit, (do
      regWrite .GINTSTS (bit1 13)
      regWrite (.DIEPCTL 0) 0x08008040
      regWrite (.DOEPCTL 0) 0x08008040
      modEp ⟨0, .IN⟩ useEp0
      modEp ⟨0, .OUT⟩ useEp0
      setEp0State .idle
      p) h s = p h u) ∧ u.Calm ∧
      u.raw .GINTSTS = s.raw .GINTSTS &&& ~~~(bit1 13) ∧
      u.raw (.DIEPCTL 0) = s.ctlWritten ⟨0, .IN⟩ 0x08008040#32 ∧ u.raw (.DOEPCTL 0) = s.ctlWritten ⟨0, .OUT⟩ 0x08008040#32 ∧
      u.ep0 = { s.ep0 with state := .idle } ∧ (∀ d, u.ep ⟨0, d⟩ = useEp0 (s.ep ⟨0, d⟩)) ∧
      (∀ a, s.Spared a → u.Spared a) ∧ u.hostMode = false ∧
      Frame s u [.GINTSTS, .DIEPCTL 0, .DOEPCTL 0] [.ep0, .ep ⟨0, .IN⟩, .ep ⟨0, .OUT⟩] := by
  have hn0 : 0 < s.hw.caps.nEp := hn
  have hev : ∀ x, ctlOf x ≠ .GINTSTS := fun x => by cases x <;> simp [ctlOf]
  refine ⟨_, fun p => by simp [run_bind, k, hm, hn0, setEp0State]; rfl, ?_⟩
  have hclear := s.stored_clear (r := .GINTSTS) (k := 13) (by decide)
  simp only [State.calm_withEp0, State.calm_modEp]
  refine ⟨by simp [k], by simp [hclear], by simp, by simp, by simp, fun d => by cases d <;> simp, fun a ha => ?_, by simp [hm],
    by simp⟩
  have h1 := (State.spared_note a (.wr (Reg.offset .GINTSTS) (bit1 13))).mpr
    (ha.writeReg a (bit1 13) hev (by simp) (by simp) (by simp) (by simp))
  have h2 := (State.spared_note a (.wr (Reg.offset (.DIEPCTL 0)) 0x08008040#32)).mpr
    (h1.writeCtl a ⟨0, .IN⟩ (v := 0x08008040#32) (by simp))
  simpa using h2.writeCtl a ⟨0, .OUT⟩ (v := 0x08008040#32) (by simp)

end

/-- Settles O40: endpoint 0 is taken into use, then the SETUP reception is armed. -/
theorem enumerationArmsEndpointZero : Obligations.EnumerationArmsEndpointZero := by
  intro s a low hm hn hx hp
  obtain ⟨u, hu, ku, hgint, hin, hout, hep0, hep, hspared, hmu, hf⟩ := enumBegin_run (s := s.inCtx .isr) a.calm
    (by simpa using hm) (by simpa using hn) (hooksAt s.level)
  have hsf : Frame s (s.inCtx .isr) [.GINTSTS, .DIEPCTL 0, .DOEPCTL 0]
    (.context :: [.ep0, .ep ⟨0, .IN⟩, .ep ⟨0, .OUT⟩]) := by simp
  have hcore : u.core = s.core := hf.core (by simp) (by simp)
  have hsiz : u.raw (.DOEPTSIZ 0) = s.raw (.DOEPTSIZ 0) := by rw [hf.raw_eq (by simp) (by simp), State.raw_of_inCtx]
  have hrun (v : State) (ht : ep0ArmSetup (hooksAt s.level) u = .ok ((), v)) :
      inMode false 13 evtEnumdone (hooksAt s.level) (s.inCtx .isr) = .ok ((), v) := by
    rw [inMode_same (by simpa using hm)]
    exact (hu _).trans ht
  obtain ⟨h11, h15, h17⟩ := (s.inCtx .isr).ctlWritten_useEp0_out
  refine ⟨fun hd => runEvt_of ?_, fun d hd hxd ha hs hs4 => runEvt_of ?_⟩
  · obtain ⟨t, ht, hsize, hcount, hpid, hctl, haddr, hft⟩ := ep0ArmSetup_direct ku.ready hmu (by simpa [hf.hw] using hn)
      ((State.sizeLow_congr hsiz hf.hw).mpr (low.epSiz ⟨0, .OUT⟩)) (by rwa [State.isDesc, hcore]) (by simpa [hf.hw] using hx)
      (by simpa [hf.hw] using hp) (hooksAt s.level)
    have hw : field (bit1 31) 0 11 = 0 := field_bit1_other (by decide)
    refine ⟨t, hrun _ ht, ?_, ?_, ?_, ?_, ?_, hsize, hcount, hpid, ?_, ?_, ?_, ?_, ?_⟩
    · rw [State.raw_of_inCtx, hft.raw_eq (by simp) (by simp), hin, State.ctlWritten_useEp0, State.raw_of_inCtx]
      rfl
    · rw [State.raw_of_inCtx, hctl, hout, field_or, h11, hw, Nat.or_zero]
    · rw [State.raw_of_inCtx, hctl, hout, bitOf_or, h15, Bool.true_or]
    · rw [State.raw_of_inCtx, hctl, hout, bitOf_or, h17, Bool.true_or]
    · rw [State.raw_of_inCtx, hctl, bitOf_or]
      simp [bitOf_bit1]
    · rw [State.raw_of_inCtx, haddr, State.isSlave, hcore, hep0, hf.raw_eq (by simp) (by simp)]
      rfl
    · exact (hft.ep0 (by simp) (by simp)).trans hep0
    · exact fun d => (hft.ep _ (by simp) (by simp)).trans (hep d)
    · rw [State.raw_of_inCtx, hft.raw_eq (by simp) (by simp), hgint, State.raw_of_inCtx]
    · exact ((hsf.trans (hf.mono (by simp) (by simp))).mono (by simp) (by simp)).event_trans (hft.mono (by simp) (by simp))
  · obtain ⟨t, ht, hdma, hword, hbuf, h31, hmem, hft⟩ := ep0ArmSetup_desc ku hmu (by simpa [hf.hw] using hn)
      (by rwa [State.isDesc, hcore]) (by rw [hep]; exact hxd) (d := d)
      (by rw [ep0Out, State.descArray, hf.plat (by simp)]; exact ha) (hspared _ (by simpa using hs))
      (hspared _ (by simpa using hs4)) (hooksAt s.level)
    refine ⟨t, hrun _ ht, by simpa using hdma, by simpa using hword, ?_, by simpa using h31, ?_, fun b hb => ?_, ?_⟩
    · rw [hep0] at hbuf
      exact hbuf
    · exact congrArg Ep0Rec.state ((hft.ep0 (by simp) (by simp)).trans hep0)
    · rw [State.byte_of_inCtx, hmem b hb, hf.mem (by simp) b, State.byte_of_inCtx]
    · exact ((hsf.trans (hf.mono (by simp) (by simp))).mono (by simp) (by simp)).event_trans (hft.mono (by simp) (by simp))

end Sys2Proof.Machine

/-! PROOF. The handlers of the requests leave the phase of endpoint 0 as it is (R306): where nothing but the sequencer acts and
UPPER issues no command from a callback, only the phase itself moves on. -/

namespace Sys2Proof.Machine

open Sys2Proof

/-- The handler runs, and nothing else acts. -/
structure State.Still (s : State) : Prop where
  env : s.env = []
  prompt : s.prompt = false
  ctx : s.ctx = .isr
  replies : s.replies = []

/-- Stillness and the phase of endpoint 0 are the same in two states. -/
structure State.SamePhase (s t : State) : Prop where
  env : t.env = s.env
  prompt : t.prompt = s.prompt
  ctx : t.ctx = s.ctx
  replies : t.replies = s.replies
  phase : t.ep0.state = s.ep0.state

theorem State.SamePhase.still {s t : State} (p : s.SamePhase t) (k : s.Still) : t.Still :=
  ⟨p.env.trans k.env, p.prompt.trans k.prompt, p.ctx.trans k.ctx, p.replies.trans k.replies⟩

/-- A procedure that keeps the phase of endpoint 0 while nothing else acts. -/
def KeepsPhase {α : Type} (p : M α) : Prop :=
  ∀ n s a t, s.Still → p (hooksAt n) s = .ok (a, t) → s.SamePhase t

section
variable {α β : Type}

theorem State.SamePhase.trans {s t u : State} (p : s.SamePhase t) (q : t.SamePhase u) : s.SamePhase u :=
  ⟨q.env.trans p.env, q.prompt.trans p.prompt, q.ctx.trans p.ctx, q.replies.trans p.replies, q.phase.trans p.phase⟩

theorem phase_pure (a : α) : KeepsPhase (pure a : M α) := by
  intro n s b t _ e
  cases e
  exact ⟨rfl, rfl, rfl, rfl, rfl⟩

theorem phase_stop (e : Stop) : KeepsPhase (stopWith e : M α) := by
  intro n s b t _ h
  cases h

theorem phase_bind {p : M α} {f : α → M β} (hp : KeepsPhase p) (hf : ∀ a, KeepsPhase (f a)) : KeepsPhase (p >>= f) := by
  intro n s b t k e
  rw [run_bind] at e
  split at e
  · next a u hu =>
    have hpu := hp n s a u k hu
    exact hpu.trans (hf a n u b t (hpu.still k) e)
  · cases e

theorem phase_ask (g : State → α) : KeepsPhase (ask g) := by
  intro n s b t _ e
  cases e
  exact ⟨rfl, rfl, rfl, rfl, rfl⟩

theorem phase_asks {g : State → α} {f : α → M β} (hf : ∀ a, KeepsPhase (f a)) : KeepsPhase (ask g >>= f) :=
  phase_bind (phase_ask g) hf

theorem phase_act {f : State → State} (hf : ∀ s : State, s.SamePhase (f s)) : KeepsPhase (act f) := by
  intro n s b t _ e
  cases e
  exact hf s

theorem phase_ite {c : Prop} [Decidable c] {p q : M α} (hp : KeepsPhase p) (hq : KeepsPhase q) :
    KeepsPhase (if c then p else q) := by
  split
  · exact hp
  · exact hq

theorem phase_doIf {c : Bool} {p : M Unit} (hp : KeepsPhase p) : KeepsPhase (doIf c p) := phase_ite hp (phase_pure _)

theorem phase_forEach {l : List α} {p : α → M Unit} (h : ∀ a, KeepsPhase (p a)) : KeepsPhase (forEach l p) := by
  induction l with
  | nil => exact phase_pure _
  | cons a l ih => exact phase_bind (h a) fun _ => ih

theorem phase_between : KeepsPhase between := by
  intro n s a t k e
  have hb : between (hooksAt n) s = .ok ((), s) := by
    simp [between, tick_silent k.env k.prompt, State.irqDue, k.ctx]
  rw [hb] at e
  cases e
  exact ⟨rfl, rfl, rfl, rfl, rfl⟩

theorem phase_regRead (r : Reg) : KeepsPhase (regRead r) :=
  phase_bind phase_between fun _ => phase_asks fun _ => phase_ite
    (phase_asks fun _ => phase_bind (phase_act fun _ => by constructor <;> simp) fun _ => phase_pure _) (phase_stop _)

theorem phase_regWrite (r : Reg) (v : Word) : KeepsPhase (regWrite r v) :=
  phase_bind phase_between fun _ => phase_asks fun _ => phase_ite (phase_act fun _ => by constructor <;> simp) (phase_stop _)

theorem phase_update (r : Reg) (f : Word → Word) : KeepsPhase (regUpdate r f) :=
  phase_bind (phase_regRead r) fun _ => phase_regWrite r _

theorem phase_memWrite (a v : Word) : KeepsPhase (memWrite32 a v) :=
  phase_bind phase_between fun _ => phase_asks fun _ => phase_ite (phase_stop _) (phase_act fun _ => by constructor <;> simp)

theorem phase_assert (c : Bool) (a : Assertion) : KeepsPhase (assertThat c a) :=
  phase_asks fun _ => phase_ite (phase_stop _) (phase_pure _)

theorem phase_callback (c : Callback) : KeepsPhase (callback c) := by
  intro n s a t k e
  rw [callback_idle n c k.replies] at e
  cases e
  exact ⟨rfl, rfl, rfl, rfl, rfl⟩

theorem phase_critical {p : M α} (hp : KeepsPhase p) : KeepsPhase (critical p) := by
  intro n s a t k e
  rw [critical_isr k.ctx] at e
  exact hp n s a t k e

end

/-! The records. -/

theorem phase_modEp (e : EpRef) (f : EpRec → EpRec) : KeepsPhase (modEp e f) := phase_act fun _ => by constructor <;> simp

theorem phase_modX (e : EpRef) (f : Xfer → Xfer) : KeepsPhase (modX (.ep e) f) := phase_act fun _ => by constructor <;> simp

theorem phase_freeSlot (h : Nat) : KeepsPhase (freeSlot h) := phase_act fun _ => ⟨rfl, rfl, rfl, rfl, rfl⟩

theorem phase_modReq (x : XRef) (f : Req → Req) : KeepsPhase (modReq x f) := by
  refine phase_act fun s => ?_
  cases (s.xfer x).active with
  | none => exact ⟨rfl, rfl, rfl, rfl, rfl⟩
  | some i => cases i <;> exact ⟨rfl, rfl, rfl, rfl, rfl⟩

/-! The engine of the endpoints. -/

theorem phase_descBase (x : XRef) : KeepsPhase (descBase x) := by
  refine phase_asks fun o => ?_
  cases o with
  | none => exact phase_stop _
  | some d => exact phase_pure _

theorem phase_writeDesc (a b w : Word) : KeepsPhase (writeDesc a b w) :=
  phase_bind (phase_memWrite _ _) fun _ => phase_bind (phase_memWrite _ _) fun _ => phase_memWrite _ _

theorem phase_buildChain (iso rc : Bool) (m : Nat) (a b : Word) (n : Nat) : KeepsPhase (buildChain iso rc m a b n) := by
  have hdraw : KeepsPhase (drawFrame iso) :=
    phase_ite (phase_asks fun _ => phase_bind (phase_act fun _ => by constructor <;> simp) fun _ => phase_pure _) (phase_pure _)
  exact phase_bind hdraw fun _ => phase_forEach fun _ => phase_writeDesc _ _ _

theorem phase_programChunk (e : EpRef) : KeepsPhase (programChunk (.ep e)) := by
  have hdesc (n : Nat) : KeepsPhase (programEpDesc e n) :=
    phase_asks fun _ => phase_bind (phase_descBase _) fun _ => phase_bind (phase_buildChain _ _ _ _ _ _) fun _ =>
      phase_bind (phase_regWrite _ _) fun _ => phase_update _ _
  have hparity : KeepsPhase (isoParity e) :=
    phase_asks fun _ => phase_ite (phase_bind (phase_regRead _) fun _ => phase_pure _) (phase_pure _)
  have hdirect (n m : Nat) : KeepsPhase (programEpDirect e n m) :=
    phase_asks fun _ => phase_bind (phase_regWrite _ _) fun _ => phase_bind (phase_doIf (phase_regWrite _ _)) fun _ =>
      phase_bind hparity fun _ => phase_bind (phase_update _ _) fun _ => phase_doIf (phase_update _ _)
  exact phase_asks fun _ => phase_bind (phase_modX _ _) fun _ => phase_ite (hdesc _) (hdirect _ _)

theorem phase_startTransfer (e : EpRef) (h : Nat) : KeepsPhase (startTransfer (.ep e) h) :=
  phase_asks fun _ => phase_bind (phase_assert _ _) fun _ => phase_ite
    (phase_bind (phase_assert _ _) fun _ => phase_bind (phase_assert _ _) fun _ => phase_ite (phase_modEp _ _)
      (phase_bind (phase_modX _ _) fun _ => phase_bind (phase_modEp _ _) fun _ => phase_programChunk e)) (phase_stop _)

theorem phase_nextRequest (e : EpRef) : KeepsPhase (nextRequest (.ep e)) := by
  refine phase_asks fun s => phase_ite ?_ (phase_pure _)
  cases (s.xfer (.ep e)).queue with
  | nil => exact phase_pure _
  | cons h hs => exact phase_bind (phase_modX _ _) fun _ => phase_startTransfer e h

theorem phase_doneCallback (i : ReqId) (q : Req) (st : Status) : KeepsPhase (doneCallback i q st) := by
  cases i
  · exact phase_callback _
  · exact phase_pure _

theorem phase_detachRequest (e : EpRef) (i : ReqId) (st : Status) : KeepsPhase (detachRequest (.ep e) i st) := by
  have hfree : KeepsPhase (freeRequest i) := by
    cases i
    · exact phase_freeSlot _
    · exact phase_pure _
  exact phase_bind (phase_modReq _ _) fun _ => phase_bind (phase_modX _ _) fun _ =>
    phase_bind (phase_modEp _ _) fun _ => hfree

theorem phase_completeRequest (e : EpRef) (st : Status) : KeepsPhase (completeRequest (.ep e) st) := by
  refine phase_asks fun s => ?_
  cases (s.xfer (.ep e)).active with
  | none => exact phase_assert _ _
  | some i =>
    exact phase_bind (phase_detachRequest e i st) fun _ => phase_bind (phase_nextRequest e) fun _ => phase_doneCallback _ _ _

theorem phase_completeKeep (e : EpRef) (st : Status) : KeepsPhase (completeKeep (.ep e) st) := by
  refine phase_asks fun s => ?_
  cases (s.xfer (.ep e)).active with
  | none => exact phase_pure _
  | some i => exact phase_bind (phase_detachRequest e i st) fun _ => phase_doneCallback _ _ _

theorem phase_deactivate (e : EpRef) : KeepsPhase (deactivate e) :=
  phase_asks fun _ => phase_bind (phase_regWrite _ _) fun _ => phase_bind (phase_update _ _) fun _ =>
    phase_bind (phase_doIf (phase_update _ _)) fun _ => phase_modEp _ _

theorem phase_finishAbort (e : EpRef) : KeepsPhase (finishAbort e) :=
  phase_asks fun _ => phase_bind (phase_doIf (phase_modEp _ _)) fun _ => phase_bind (phase_doIf (phase_modX _ _)) fun _ =>
    phase_bind (phase_doIf (phase_completeRequest _ _)) fun _ =>
      phase_bind (phase_doIf (phase_forEach fun _ => phase_asks fun _ => phase_bind (phase_freeSlot _) fun _ =>
        phase_doneCallback _ _ _)) fun _ => phase_asks fun _ => phase_doIf (phase_deactivate e)

theorem phase_abortEndpoint (e : EpRef) (st : Status) (all : Bool) : KeepsPhase (abortEndpoint e st all) :=
  phase_asks fun _ => phase_ite (phase_modEp _ _) (phase_bind (phase_modEp _ _) fun _ => phase_bind (phase_regRead _) fun _ =>
    phase_asks fun _ => phase_ite (phase_bind (phase_modEp _ _) fun _ => phase_doIf (phase_bind (phase_update _ _) fun _ =>
      phase_update _ _)) (phase_finishAbort e))

theorem phase_disableEndpoint (e : EpRef) : KeepsPhase (disableEndpoint e) :=
  phase_asks fun _ => phase_ite (phase_pure _) (phase_critical (phase_bind (phase_modEp _ _) fun _ => phase_asks fun _ =>
    phase_bind (phase_doIf (phase_abortEndpoint _ _ _)) fun _ => phase_asks fun _ =>
      phase_bind (phase_doIf (phase_deactivate _)) fun _ => phase_pure _))

theorem phase_isoResume (e : EpRef) : KeepsPhase (isoResume e) := by
  have harm : KeepsPhase (isoArmCurrent (.ep e)) := by
    refine phase_asks fun o => ?_
    cases o with
    | none => exact phase_pure _
    | some r =>
      refine phase_asks fun s => ?_
      cases s.isoOf (.ep e) with
      | none => exact phase_pure _
      | some r => exact phase_bind (phase_doIf (phase_regWrite _ _)) fun _ => phase_bind (phase_regWrite _ _) fun _ =>
          phase_update _ _
  exact phase_asks fun _ => phase_ite (phase_modEp _ _) (phase_doIf (phase_bind (phase_modEp _ _) fun _ => harm))

theorem phase_epUnstall (e : EpRef) : KeepsPhase (epUnstall e) := by
  have hclear : KeepsPhase (epClearStall e) :=
    phase_asks fun _ => phase_ite (phase_bind (phase_update _ _) fun _ => phase_bind (phase_modEp _ _) fun _ =>
      phase_nextRequest e) (phase_pure _)
  have hresume : KeepsPhase (startResume e) :=
    phase_asks fun _ => phase_doIf (phase_bind (phase_modEp _ _) fun _ => phase_programChunk e)
  exact phase_asks fun _ => phase_bind hclear fun _ => phase_bind (phase_doIf hresume) fun _ =>
    phase_doIf (phase_bind (phase_modEp _ _) fun _ => phase_isoResume e)

theorem phase_epSetStall (e : EpRef) : KeepsPhase (epSetStall e) :=
  phase_bind (phase_regRead _) fun _ => phase_bind (phase_regWrite _ _) fun _ => phase_bind (phase_doIf (phase_modEp _ _)) fun _ =>
    phase_bind (phase_completeKeep _ _) fun _ => phase_modEp _ _

/-! The requests. -/

/-- A field of endpoint 0 other than its phase. -/
theorem phase_modEp0 {f : Ep0Rec → Ep0Rec} (hf : ∀ r, (f r).state = r.state) : KeepsPhase (modEp0 f) :=
  phase_act fun _ => ⟨rfl, rfl, rfl, rfl, hf _⟩

theorem phase_disableQuietly (e : EpRef) : KeepsPhase (disableQuietly e) :=
  phase_bind (phase_disableEndpoint e) fun _ => phase_pure _

theorem phase_disableIfEnabled (e : EpRef) : KeepsPhase (disableIfEnabled e) :=
  phase_asks fun _ => phase_doIf (phase_disableQuietly e)

theorem phase_dropConfiguration : KeepsPhase dropConfiguration :=
  phase_bind (phase_asks fun _ => phase_forEach phase_disableIfEnabled) fun _ => phase_modEp0 fun _ => rfl

theorem phase_activateConfiguration : ∀ l done, KeepsPhase (activateConfiguration l done)
  | [], _ => phase_pure _
  | _ :: ds, _ => phase_asks fun _ => phase_ite
      (phase_bind (phase_critical (phase_asks fun _ => phase_bind (phase_modEp _ _) fun _ =>
        phase_bind (phase_doIf (phase_regWrite _ _)) fun _ => phase_update _ _)) fun _ => phase_activateConfiguration ds _)
      (phase_bind (phase_forEach phase_disableQuietly) fun _ => phase_pure _)

theorem phase_delegate (p : SetupPkt) : KeepsPhase (delegate p) := by
  have hanswer : KeepsPhase classAnswer := by
    refine phase_asks fun s => ?_
    cases s.plat.answers with
    | nil => exact phase_bind (phase_act fun _ => ⟨rfl, rfl, rfl, rfl, rfl⟩) fun _ => phase_pure _
    | cons c rest => cases c <;> exact phase_bind (phase_act fun _ => ⟨rfl, rfl, rfl, rfl, rfl⟩) fun _ => phase_pure _
  refine phase_asks fun _ => phase_bind (phase_callback _) fun _ => phase_bind hanswer fun a => ?_
  cases a with
  | none => exact phase_pure _
  | some bs => exact phase_asks fun _ => phase_bind (phase_assert _ _) fun _ =>
      phase_bind (phase_act fun _ => by constructor <;> simp) fun _ => phase_ask _

theorem phase_dispatchSetup (p : SetupPkt) : KeepsPhase (dispatchSetup p) := by
  unfold dispatchSetup
  split
  case h_1 f _ => exact phase_asks fun _ => phase_pure _
  case h_2 f _ =>
    exact phase_asks fun _ => phase_ite (phase_pure _) (phase_ite (phase_bind (phase_modEp0 fun _ => rfl) fun _ => phase_pure _)
      (phase_ite (phase_ite (phase_pure _) (phase_ite (phase_bind (phase_epUnstall _) fun _ => phase_pure _) (phase_pure _)))
        (phase_pure _)))
  case h_3 f _ =>
    exact phase_asks fun _ => phase_ite (phase_pure _) (phase_ite (phase_bind (phase_modEp0 fun _ => rfl) fun _ => phase_pure _)
      (phase_ite (phase_ite (phase_pure _) (phase_ite (phase_bind (phase_epSetStall _) fun _ => phase_pure _) (phase_pure _)))
        (phase_pure _)))
  case h_4 f _ =>
    exact phase_ite (phase_pure _) (phase_bind (phase_modEp0 fun _ => rfl) fun _ => phase_bind (phase_bind (phase_regRead _)
      fun _ => phase_asks fun _ => phase_regWrite _ _) fun _ => phase_pure _)
  case h_5 f _ => exact phase_asks fun _ => phase_ite (phase_pure _) (phase_ite (phase_delegate _) (phase_pure _))
  case h_6 f _ =>
    refine phase_asks fun s => phase_ite (phase_pure _) (phase_ite (phase_bind phase_dropConfiguration fun _ => phase_pure _) ?_)
    cases s.configEndpoints (f.wValue.extractLsb' 0 8) with
    | none => exact phase_pure _
    | some l => exact phase_bind (phase_doIf phase_dropConfiguration) fun _ =>
        phase_bind (phase_activateConfiguration l []) fun _ =>
          phase_ite (phase_bind (phase_modEp0 fun _ => rfl) fun _ => phase_pure _) (phase_pure _)
  case h_7 f _ =>
    refine phase_asks fun s => phase_ite (phase_pure _) ?_
    cases s.ifaceEndpoints f.wIndex f.wValue with
    | none => exact phase_pure _
    | some l => exact phase_bind (phase_forEach fun _ => phase_disableIfEnabled _) fun _ =>
        phase_bind (phase_activateConfiguration l []) fun _ => phase_pure _
  case h_8 => exact phase_delegate p

end Sys2Proof.Machine

/-! PROOF. Replies of the data phase (R307, R310, R314, R317, R320). -/

namespace Sys2Proof.Machine

open Sys2Proof

@[simp] theorem frame_withPlat {s t : State} {rs : List Reg} {ps : List Part} (h : .plat ∈ ps) (x : Platform) :
    Frame s (t.withPlat x) rs ps ↔ Frame s t rs ps :=
  Frame.iff_of { Frame.refl t rs ps with plat := fun m => absurd h m }

/-- A reply as it was told from a state in which nothing but memory and the platform had changed. -/
theorem State.Replied.event {s u t : State} {n : Nat} {bs : List Byte} (r : u.Replied t n bs)
    (f : Frame s u [] [.context, .mem, .plat])
    (hm : ∀ a, (∀ k < bs.length, a ≠ s.ep0.reply + BitVec.ofNat 32 k) → u.byte a = s.byte a) :
    s.Replied (t.inCtx s.ctx) n bs := by
  have he : u.ep0 = s.ep0 := f.ep0 (by simp) (by simp)
  have hc : u.core = s.core := f.core (by simp) (by simp)
  obtain ⟨hstored, hreq, hphase, hact, hsize, haddr, hstart, hmem, hf⟩ := r
  rw [he] at hstored hreq hmem
  refine ⟨by simpa using hstored, by simpa using hreq, by simpa using hphase, by simpa using hact, by simpa using hsize,
    fun hs => ?_, by simpa using hstart, fun a ha => ?_, ?_⟩
  · rw [State.raw_of_inCtx, haddr (by rwa [State.isSlave, hc]), he]
  · rw [State.byte_of_inCtx, hmem a ha, hm a ha]
  · exact (f.mono (by simp) (by simp)).event_trans hf

/-- The reply of `n` bytes at most is in its buffer (R307). -/
def State.replyStored (s : State) (n : Nat) (bs : List Byte) : State :=
  (s.setBytes s.ep0.reply (bs.take (min n bs.length))).withEp0 { s.ep0 with totalLength := min n bs.length }

theorem frame_replyStored (s : State) (n : Nat) (bs : List Byte) : Frame s (s.replyStored n bs) [] [.mem, .ep0] := by
  simp [State.replyStored]

theorem take_min_length {α : Type} (n : Nat) (l : List α) : l.take (min n l.length) = l.take n := by
  rcases Nat.le_total n l.length with h | h
  · rw [min_eq_left h]
  · rw [min_eq_right h, List.take_length, List.take_of_length_le h]

theorem State.bytes_replyStored (s : State) (n : Nat) {bs : List Byte} (hb : bs.length ≤ 2 ^ 32) :
    (s.replyStored n bs).bytes s.ep0.reply (min n bs.length) = bs.take n := by
  have h := s.bytes_setBytes (bs := bs.take (min n bs.length)) (by simp; omega) s.ep0.reply
  rw [List.length_take, Nat.min_assoc, Nat.min_self] at h
  rw [State.replyStored, State.bytes_of_withEp0, h, take_min_length]

theorem State.byte_replyStored (s : State) (n : Nat) (bs : List Byte) {a : Word}
    (ha : ∀ k < bs.length, a ≠ s.ep0.reply + BitVec.ofNat 32 k) : (s.replyStored n bs).byte a = s.byte a := by
  rw [State.replyStored, State.byte_of_withEp0]
  exact State.byte_setBytes_out _ s _ a fun k hk => ha k (by simp at hk; omega)

theorem State.bytes_congr {s t : State} (h : ∀ a, t.byte a = s.byte a) (n : Nat) : ∀ a, t.bytes a n = s.bytes a n := by
  induction n with
  | zero => exact fun _ => rfl
  | succ n ih => exact fun a => congrArg₂ List.cons (h a) (ih (a + 1))

/-- A chunk of endpoint 0 is shorter than memory. -/
theorem State.ep0Room_lt {s : State} (h : s.hw.ep0Xw ≤ 19) : s.ep0Room < 2 ^ 32 := by
  have h19 : 2 ^ s.hw.ep0Xw ≤ 2 ^ 19 := Nat.pow_le_pow_right (by decide) h
  have hdiv := Nat.div_mul_le_self (min (2 ^ s.hw.ep0Xw - 1) ((2 ^ s.hw.ep0Pw - 1) * 64)) 64
  rw [State.ep0Room]
  omega

/-- A reply in the data phase goes to the reply buffer, and EP0 IN sends it (R307, R320). -/
theorem conclude_reply {s : State} (r : s.ZeroReady .IN) (hs : s.ep0.state = .inData) {bs : List Byte}
    (hb : bs.length ≤ s.ep0Room) (n : Nat) (h : Hooks) :
    ∃ u, ep0Conclude n (.reply bs) h s = .ok ((), u) ∧ s.Replied u n bs ∧ u.plat = s.plat ∧
      s.trace <:+ u.trace := by
  have hroom := s.ep0Room_lt r.size.2
  have hf := frame_replyStored s n bs
  obtain ⟨u, hu, hep0, hep, b⟩ := ep0Send_run (r.of_frame hf (by simp) (by simp) (by simp [State.replyStored])
    (by simp [State.replyStored])) (min n bs.length) (decide (min n bs.length < n)) h
  have hlen : min (min n bs.length) (s.replyStored n bs).ep0Room = min n bs.length := by
    rw [show (s.replyStored n bs).ep0Room = s.ep0Room by simp [State.ep0Room, State.replyStored]]
    omega
  rw [hlen] at hep b
  have hmem (a : Word) : u.byte a = (s.replyStored n bs).byte a := b.frame.mem (by simp) a
  refine ⟨u, ?_, ⟨?_, ?_, ?_, ?_, ⟨b.size, b.count⟩, ?_, b.enabled, fun a ha => ?_, ?_⟩, ?_⟩
  · simpa [ep0Conclude, ep0Apply, run_bind, hs, State.replyStored] using hu
  · rw [State.bytes_congr hmem]
    exact s.bytes_replyStored n (by omega)
  · rw [hep0]
    simp [State.replyStored]
  · rw [hep0]
    simp [State.replyStored, hs]
  · rw [hep]
    simp
  · simpa [State.replyStored] using b.addr
  · rw [hmem, s.byte_replyStored n bs ha]
  · exact (hf.mono (by simp) (by simp)).trans (b.frame.mono (List.Subset.trans (chunkRegs_subset _ _) (by simp)) (by simp))
  · exact ⟨by rw [b.frame.plat (by simp), hf.plat (by simp)], by simpa [State.replyStored] using b.trace⟩

/-- A request whose handler answers with data. -/
theorem runReq_reply {s u : State} (a : s.Alone) (low : s.reservedLow) (c : s.ControlReady) (hs : s.ep0.state = .inData)
    {bs : List Byte} (hb : bs.length ≤ s.ep0Room) {i : Instr} {n : BitVec 16} {p : M ReqResult}
    (hp : p (hooksAt s.level) (s.inCtx .isr) = .ok (.reply bs, u)) (f : Frame (s.inCtx .isr) u [] [.mem, .plat])
    (hm : ∀ a, (∀ k < bs.length, a ≠ s.ep0.reply + BitVec.ofNat 32 k) → u.byte a = s.byte a) :
    ∃ t, runReq i n p s = .next t ∧ s.Replied t n.toNat bs ∧ t.plat = u.plat ∧ u.trace <:+ t.trace := by
  have hep0 : u.ep0 = s.ep0 := f.ep0 (by simp) (by simp)
  have hep : u.ep ⟨0, .IN⟩ = s.ep ⟨0, .IN⟩ := f.ep _ (by simp) (by simp)
  have hroom : u.ep0Room = s.ep0Room := by rw [State.ep0Room, f.hw]; rfl
  obtain ⟨t, ht, r, hplat, htr⟩ := conclude_reply ((c.zeroReady low a).of_frame f (by simp) (by simp) (by rw [hep]; rfl)
    (by rw [hep]; rfl)) (hep0 ▸ hs) (hroom ▸ hb) n.toNat (hooksAt s.level)
  refine runEvt_of ⟨t, (run_bind_ok hp).trans ht, ?_, hplat, htr⟩
  exact r.event (Frame.trans (t := s.inCtx .isr) (by simp) (f.mono (by simp) (by simp))) hm

/-- UPPER answers a delegated request with data (R317). -/
theorem delegate_reply {s : State} {b : List Byte} {rest : List ClassAnswer} (hr : s.replies = [])
    (ha : s.plat.answers = .value b :: rest) (hs : s.ep0.state = .inData) (hc : b.length ≤ s.ep0.replyCap)
    (hb : b.length ≤ 2 ^ 32) (p : SetupPkt) (n : Nat) :
    delegate p (hooksAt n) s = .ok (.reply b, ((s.note (.cb (.classRequest p s.ep0.reply))).withPlat
      { s.plat with answers := rest }).setBytes s.ep0.reply b) := by
  have hbytes (t : State) : (t.setBytes s.ep0.reply b).bytes s.ep0.reply b.length = b := t.bytes_setBytes hb _
  have hplat : (s.note (.cb (.classRequest p s.ep0.reply))).plat.answers = .value b :: rest := ha
  have hclass : classAnswer (hooksAt n) (s.note (.cb (.classRequest p s.ep0.reply))) = .ok (some b,
      (s.note (.cb (.classRequest p s.ep0.reply))).withPlat { s.plat with answers := rest }) := by
    simp only [classAnswer, run_ask_bind, id_eq, hplat]
    rfl
  simp [delegate, run_bind, hr, hclass, Nat.not_lt.mpr hc, assertThat, hs, hbytes]

/-- GET_DESCRIPTOR of a standard descriptor that UPPER has (R314). -/
theorem getDescriptor_finds {s : State} {f : SetupFields} (hd : f.dir = .IN) (hr : f.recip = 0)
    (hk : [1, 2, 3, 6, 7].contains (f.wValue.toNat / 256) = true) {b : List Byte}
    (hl : s.descLookup f.wValue f.wIndex = some b) (h : Hooks) :
    getDescriptorReq f h s = .ok (.reply b, s) := by
  have hval : (f.wValue.extractLsb' 8 8).toNat = f.wValue.toNat / 256 := by
    rw [BitVec.extractLsb'_toNat, Nat.shiftRight_eq_div_pow]
    exact Nat.mod_eq_of_lt (by have := f.wValue.isLt; omega)
  have hreply : getDescriptorReq f h s = .ok (match s.descLookup f.wValue f.wIndex with
      | none => .stall
      | some d => .reply d, s) := by
    simp only [getDescriptorReq, run_ask_bind, hval, hk, hd, hr]
    rfl
  rw [hreply, hl]

theorem State.ControlReady.room {s : State} (c : s.ControlReady) : 64 ≤ s.ep0Room := by
  have hx : 2 ^ 7 ≤ 2 ^ s.hw.ep0Xw := Nat.pow_le_pow_right (by decide) c.size.1
  have hp : 2 ^ 1 ≤ 2 ^ s.hw.ep0Pw := Nat.pow_le_pow_right (by decide) c.count.1
  have hdiv : 1 ≤ min (2 ^ s.hw.ep0Xw - 1) ((2 ^ s.hw.ep0Pw - 1) * 64) / 64 := by
    rw [Nat.one_le_div_iff (by decide)]
    omega
  rw [State.ep0Room]
  omega

/-- Settles O57: each request by its handler. -/
theorem repliesAreSentToTheHost : Obligations.RepliesAreSentToTheHost := by
  intro s f a low c hs hd
  have hroom := s.ep0Room_lt c.size.2
  have hroom64 := c.room
  refine ⟨fun b hrecip hb => ?_, fun b hrecip hk hl hb => ?_, fun p b rest ha hb hcap => ?_⟩
  · have hlen : b.length ≤ s.ep0Room := by
      rw [hb]
      exact le_trans (show 2 ≤ 64 by decide) hroom64
    obtain ⟨t, ht, r, hplat, _⟩ := runReq_reply a low c hs hlen (u := s.inCtx .isr) (i := .getStatus f) (n := f.wLength)
      (p := getStatusReq f) (by simp [getStatusReq, hd, hrecip, hb]) (by simp) (by simp)
    exact ⟨t, ht, r, hplat⟩
  · obtain ⟨t, ht, r, hplat, _⟩ := runReq_reply a low c hs hb (u := s.inCtx .isr) (i := .getDescriptor f) (n := f.wLength)
      (p := getDescriptorReq f) (getDescriptor_finds (s := s.inCtx .isr) hd hrecip hk hl _) (by simp) (by simp)
    exact ⟨t, ht, r, hplat⟩
  · have hrun := delegate_reply (s := s.inCtx .isr) (by simpa using a.replies) ha hs hcap (by omega) p s.level
    obtain ⟨t, ht, r, hplat, htr⟩ := runReq_reply a low c hs hb (i := .delegatedRequest p) (n := p.wLength) hrun (by simp)
      (fun x hx => (State.byte_setBytes_out b _ _ _ hx).trans (by simp))
    obtain ⟨l, hl⟩ := htr
    exact ⟨t, l ++ [.cb (.classRequest p s.ep0.reply)], ht, r, by simpa using hplat, by simpa using hl.symm, by simp⟩

end Sys2Proof.Machine

/-! PROOF. The SETUP packet of endpoint 0 (R303, R326). -/

namespace Sys2Proof.Machine

open Sys2Proof

/-! The packet and its request. -/

/-- The bytes of a word are those it is made of (R103). -/
theorem wordBytes_of_append (a b c d : Byte) : wordBytes (d ++ c ++ b ++ a) = [a, b, c, d] := by
  have hbit (i : Nat) : (d ++ c ++ b ++ a).getLsbD i = if i < 8 then a.getLsbD i else if i - 8 < 8 then b.getLsbD (i - 8) else
      if i - 8 - 8 < 8 then c.getLsbD (i - 8 - 8) else d.getLsbD (i - 8 - 8 - 8) := by
    rw [BitVec.getLsbD_append, BitVec.getLsbD_append, BitVec.getLsbD_append]
  have hbyte (k : Nat) {x : Byte} (h : ∀ i < 8, (d ++ c ++ b ++ a).getLsbD (8 * k + i) = x.getLsbD i) :
      byteOf (d ++ c ++ b ++ a) k = x :=
    BitVec.eq_of_getLsbD_eq fun i hi => by rw [byteOf, BitVec.getLsbD_extractLsb', h i hi, decide_eq_true hi, Bool.true_and]
  have h0 : byteOf (d ++ c ++ b ++ a) 0 = a := hbyte 0 fun i hi => by
    rw [hbit, if_pos (by omega), Nat.mul_zero, Nat.zero_add]
  have h1 : byteOf (d ++ c ++ b ++ a) 1 = b := hbyte 1 fun i hi => by
    rw [hbit, if_neg (by omega), if_pos (by omega), show 8 * 1 + i - 8 = i by omega]
  have h2 : byteOf (d ++ c ++ b ++ a) 2 = c := hbyte 2 fun i hi => by
    rw [hbit, if_neg (by omega), if_neg (by omega), if_pos (by omega), show 8 * 2 + i - 8 - 8 = i by omega]
  have h3 : byteOf (d ++ c ++ b ++ a) 3 = d := hbyte 3 fun i hi => by
    rw [hbit, if_neg (by omega), if_neg (by omega), if_neg (by omega), show 8 * 3 + i - 8 - 8 - 8 = i by omega]
  rw [wordBytes, h0, h1, h2, h3]

theorem State.wordBytes_word (s : State) (a : Word) : wordBytes (s.word a) = s.bytes a 4 := by
  rw [State.word, wordBytes_of_append]
  simp [State.bytes, BitVec.add_assoc]

/-- The instruction of a SETUP packet is its request (R306). -/
theorem exec_decodeSetup (p : SetupPkt) (s : State) :
    exec (decodeSetup p) s = runReq (decodeSetup p) p.wLength (dispatchSetup p) s := by
  unfold dispatchSetup decodeSetup
  split
  · split <;> rfl
  · rfl

/-- A request by itself, outside a data phase to the device, goes on as one that a SETUP packet has selected (R307). -/
theorem dispatch_apply {v : State} (k : v.Still) (hs : v.ep0.state ≠ .outData) (p : SetupPkt) (n m : Nat) :
    (do let r ← dispatchSetup p; ep0Apply n r) (hooksAt m) v = (do let r ← dispatchSetup p; ep0Conclude n r) (hooksAt m) v := by
  rw [run_bind, run_bind]
  cases hr : dispatchSetup p (hooksAt m) v with
  | error e => rfl
  | ok x =>
    have hphase := (phase_dispatchSetup p m v x.1 x.2 k hr).phase
    simp [ep0Conclude, hphase, hs]

/-- A request by itself after its data has arrived (R322). -/
theorem dispatch_afterData {v : State} (k : v.Still) (hs : v.ep0.state = .outData) (p : SetupPkt) (n m : Nat) :
    (do let r ← dispatchSetup p; ep0AfterData r) (hooksAt m) v = (do let r ← dispatchSetup p; ep0Conclude n r) (hooksAt m) v := by
  rw [run_bind, run_bind]
  cases hr : dispatchSetup p (hooksAt m) v with
  | error e => rfl
  | ok x =>
    have hphase := (phase_dispatchSetup p m v x.1 x.2 k hr).phase
    simp [ep0Conclude, hphase, hs]

theorem setupPhase_outData (p : SetupPkt) :
    setupPhase p = .outData ↔ p.wLength ≠ 0 ∧ p.bmRequestType.getLsbD 7 = false := by
  unfold setupPhase
  split
  · simp_all
  · split <;> simp_all

/-- A handler's state is what it goes on from after its context has been left (R470). -/
theorem State.inCtx_back {u : State} (h : u.ctx = .isr) (c : Ctx) : (u.inCtx c).inCtx .isr = u := by
  rw [← h]
  rfl

/-- In a running device endpoint 0 is ready for the data phase from the host. -/
theorem State.ControlReady.zeroReadyOut {s : State} (c : s.ControlReady) (low : s.reservedLow) (a : s.Alone)
    (hm : (s.ep ⟨0, .OUT⟩).mps = 64) (ht : (s.ep ⟨0, .OUT⟩).type = .control) : (s.inCtx .isr).ZeroReady .OUT :=
  { c.zeroReady low a with
    packet := hm
    kind := ht
    low := (State.sizeLow_congr (by simp) (by simp)).mpr (low.epSiz _) }

/-- A chunk that is not empty needs a packet (R249). -/
theorem max_one_div {n : Nat} (h : 0 < n) : max 1 ((n + 63) / 64) = (n + 63) / 64 := by omega

/-! The event. -/

/-- The SETUP packet of endpoint 0 is in its record, or in its buffer (R303). -/
def State.setupPacket (s : State) : SetupPkt :=
  if s.isSlave then s.ep0.setup else setupOfBytes (s.bytes s.ep0.setupBuf 8)

/-- From `s` to `u` a SETUP packet has been taken and has selected its phase (R303, R326). -/
structure State.SetupTaken (s u : State) : Prop where
  ep0 : u.ep0 = { s.ep0 with setup := s.setupPacket, totalLength := s.setupPacket.wLength.toNat, state := setupPhase s.setupPacket }
  epIn : u.ep ⟨0, .IN⟩ = { s.ep ⟨0, .IN⟩ with x := { (s.ep ⟨0, .IN⟩).x with active := none, zlpPhase := false } }
  epOut : u.ep ⟨0, .OUT⟩ = { s.ep ⟨0, .OUT⟩ with x := { (s.ep ⟨0, .OUT⟩).x with active := none } }
  event : u.raw (.DOEPINT 0) = s.raw (.DOEPINT 0) &&& ~~~0x8#32
  patience : u.patience = s.patience
  frame : Frame s u [.DOEPINT 0, .DIEPEMPMSK] [.ep0, .ep ⟨0, .IN⟩, .ep ⟨0, .OUT⟩]

/-- `ep0.setup` is read from its buffer outside slave mode (R303). -/
theorem readSetup_run {s : State} (k : s.Calm) (h : Hooks) :
    ∃ u, (∀ p : M Unit, (do doIf (!s.isSlave) (readSetup s.ep0.setupBuf); p) h s = p h u) ∧ u.Calm ∧
      u.ep0 = { s.ep0 with setup := s.setupPacket } ∧ u.patience = s.patience ∧ Frame s u [] [.ep0] := by
  cases hs : s.isSlave with
  | true => exact ⟨s, fun p => by simp [run_bind], k, by simp [State.setupPacket, hs], rfl, by simp⟩
  | false =>
    have hbytes : setupOfBytes (wordBytes (s.word s.ep0.setupBuf) ++ wordBytes (s.word (s.ep0.setupBuf + 4#32))) = s.setupPacket := by
      rw [s.wordBytes_word, s.wordBytes_word, State.setupPacket, hs]
      simp [State.bytes, BitVec.add_assoc]
    refine ⟨_, fun p => by simp [readSetup, run_bind, k]; rfl, ?_⟩
    simp [k, hbytes]

theorem evtSetup0_disconnected {s : State} (k : s.Calm) (hm : s.hostMode = false) (hn : 1 ≤ s.hw.caps.nEp)
    (hd : s.ep0.state = .disconnected) (h : Hooks) : evtSetup0 h s = .ok ((), s.cleared (.DOEPINT 0) 3) := by
  have hclear := clearEvent_calm k (accessible_doepint hm (n := 0) hn) 3 h
  rw [evtSetup0, show (regWrite (.DOEPINT 0) 0x8 : M Unit) = clearEvent (.DOEPINT 0) 3 from rfl, run_bind_ok hclear]
  simp [State.cleared, hd]

theorem evtSetup0_run {s : State} (k : s.Calm) (hm : s.hostMode = false) (hn : 1 ≤ s.hw.caps.nEp)
    (h31 : bitOf (s.raw (.DIEPCTL 0)) 31 = false) (hd : s.ep0.state ≠ .disconnected) (h : Hooks) :
    ∃ u, s.SetupTaken u ∧ evtSetup0 h s = (if setupPhase s.setupPacket = .outData then ep0Receive s.setupPacket.wLength.toNat
      else do
        let r ← dispatchSetup s.setupPacket
        ep0Apply s.setupPacket.wLength.toNat r) h u := by
  have hclear := clearEvent_calm k (accessible_doepint hm (n := 0) hn) 3 h
  have k0 : (s.cleared (.DOEPINT 0) 3).Calm := by simp [State.cleared, k]
  have hf0 : Frame s (s.cleared (.DOEPINT 0) 3) [.DOEPINT 0] [] := by simp [State.cleared]
  have hpkt : (s.cleared (.DOEPINT 0) 3).setupPacket = s.setupPacket := by simp [State.cleared, State.setupPacket, State.isSlave]
  obtain ⟨v, hv, kv, hve, hvp, hvf⟩ := readSetup_run k0 h
  have hf1 : Frame s v [.DOEPINT 0] [.ep0] := (hf0.mono (by simp) (by simp)).trans (hvf.mono (by simp) (by simp))
  obtain ⟨w, hw, hin, hout, hwp, hwf⟩ := ep0Abandon_idle kv.ready ((hf1.hostMode_eq (by simp)).trans hm) (hf1.hw ▸ hn)
    (by rwa [hf1.raw_eq (by simp) (by simp)]) h
  have hwe : w.ep0 = { s.ep0 with setup := s.setupPacket } := by
    rw [hwf.ep0 (by simp) (by simp), hve, hpkt, hf0.ep0 (by simp) (by simp)]
  have hep (e : EpRef) : v.ep e = s.ep e := hf1.ep e (by simp) (by simp)
  refine ⟨(w.withEp0 { s.ep0 with setup := s.setupPacket, totalLength := s.setupPacket.wLength.toNat }).withEp0
    { s.ep0 with setup := s.setupPacket, totalLength := s.setupPacket.wLength.toNat, state := setupPhase s.setupPacket }, ⟨by simp, by simpa [hep] using hin, by simpa [hep] using hout, ?_, ?_, ?_⟩, ?_⟩
  · rw [State.raw_of_withEp0, State.raw_of_withEp0, hwf.raw_eq (by simp) (by simp), hvf.raw_eq (by simp) (by simp)]
    exact State.raw_cleared s (r := .DOEPINT 0) rfl
  · simp [hwp, hvp, State.cleared]
  · refine (frame_withEp0 (by simp) _).mpr ((frame_withEp0 (by simp) _).mpr ?_)
    exact (hf1.mono (by simp) (by simp)).trans (hwf.mono (by simp) (by simp))
  · have hsetup : v.ep0.setup = s.setupPacket := by rw [hve, hpkt]
    have hst : (s.cleared (.DOEPINT 0) 3).ep0.state ≠ .disconnected := by simpa [State.cleared] using hd
    rw [evtSetup0, show (regWrite (.DOEPINT 0) 0x8 : M Unit) = clearEvent (.DOEPINT 0) 3 from rfl, run_bind_ok hclear,
      run_ask_bind, id_eq, if_neg hst, hv, run_ask_bind, hsetup, run_bind_ok hw]
    simp [run_bind, setEp0State, hwe]

/-- Settles O56: the packet is taken, then its phase begins. -/
theorem setupPacketSelectsThePhase : Obligations.SetupPacketSelectsThePhase := by
  intro s a low c h31 p
  have hn0 : (0 : Nat) < s.hw.caps.nEp := c.exist.1
  have hc : (s.inCtx .isr).Calm := a.calm
  have hm : (s.inCtx .isr).hostMode = false := by simpa using c.mode
  have h31' : bitOf ((s.inCtx .isr).raw (.DIEPCTL 0)) 31 = false := by simpa using h31
  refine ⟨fun hd => ?_, fun hd hp => ?_, fun hd hp hdir hlen hmps htype hz => ?_⟩
  · refine runEvt_of ⟨_, evtSetup0_disconnected hc hm c.exist.1 hd _, ?_, ?_⟩
    · exact State.raw_cleared (s.inCtx .isr) (r := .DOEPINT 0) rfl
    · simp [State.cleared]
  · obtain ⟨u, ⟨hep0, hin, hout, hint, hpat, hf⟩, hu⟩ := evtSetup0_run hc hm c.exist.1 h31' hd (hooksAt s.level)
    have hphase : setupPhase p = if p.wLength = 0 then .inStatus else .inData := by
      unfold setupPhase
      split
      · rfl
      · next h => rw [if_pos (hp.resolve_left h)]
    have hne : setupPhase p ≠ .outData := by
      rw [hphase]
      split <;> simp
    have hstill : u.Still := ⟨hf.inputs.2.1.trans a.env, hf.inputs.2.2.2.trans a.prompt, hf.context (by simp),
      hf.inputs.2.2.1.trans a.replies⟩
    have hback : (u.inCtx s.ctx).inCtx .isr = u := State.inCtx_back hstill.ctx _
    have hlevel : (u.inCtx s.ctx).level = s.level := congrArg (fun l => 4 * (l.length + 1) + 4) hf.inputs.2.2.1
    refine ⟨u.inCtx s.ctx, ?_, hpat, congrArg Ep0Rec.setup hep0, (congrArg Ep0Rec.state hep0).trans hphase,
      congrArg Ep0Rec.totalLength hep0, by simp [hin], by simp [hout], by simpa using hint, ?_⟩
    · rw [exec_decodeSetup]
      refine carriesOn_runEvt ?_ rfl hpat
      rw [hlevel, hback]
      exact hu.trans ((run_ite _ _ _ _ _).trans ((if_neg hne).trans (dispatch_apply hstill (by rwa [hep0]) p _ _)))
    · exact Frame.event_trans (s := s) (u := s.inCtx .isr) (by simp) hf
  · obtain ⟨u, ⟨hep0, hin, hout, hint, hpat, hf⟩, hu⟩ := evtSetup0_run hc hm c.exist.1 h31' hd (hooksAt s.level)
    have hphase : setupPhase p = .outData := (setupPhase_outData p).mpr ⟨hp, hdir⟩
    have hep0' : u.ep0 = { s.ep0 with setup := p, totalLength := p.wLength.toNat, state := setupPhase p } := hep0
    obtain ⟨t, ht, hte, htep, b⟩ := ep0Receive_run ((c.zeroReadyOut low a hmps htype).of_frame hf (by simp) (by simp)
      (by rw [hout]) (by rw [hout])) (n := p.wLength.toNat) (by rw [hep0']; exact hlen) (by rw [hout]; exact hz) (hooksAt s.level)
    have hroom : u.ep0Room = s.ep0Room := by rw [State.ep0Room, hf.hw]; rfl
    have hpos : 0 < min p.wLength.toNat s.ep0Room := by
      have hne : p.wLength.toNat ≠ 0 := fun e => hp (BitVec.eq_of_toNat_eq e)
      have hroom := c.room
      omega
    rw [hroom] at htep b
    refine runEvt_of ⟨t, hu.trans ((run_ite _ _ _ _ _).trans ((if_pos hphase).trans ht)), ?_, ?_, ?_, ?_, ?_,
      ?_, ?_, ?_, ?_, ?_, ?_, ?_⟩
    · simp [hte, hep0', hphase]
    · simp [hte, hep0']
    · simp [hte, hep0']
    · simp [hte, hep0']
    · simp [htep]
    · simp [htep]
    · simpa [max_one_div hpos] using b.count
    · simpa [max_one_div hpos] using b.size
    · simpa using b.enabled
    · simpa using b.ready
    · rw [State.raw_of_inCtx, b.frame.raw_eq (by simp) (by simp), hint]
      rfl
    · exact ((Frame.trans (t := s.inCtx .isr) (by simp) (hf.mono (by simp) (by simp)))).event_trans (b.frame.mono (by simp) (by simp))

end Sys2Proof.Machine

/-! PROOF. The end of a chunk (R273). -/

namespace Sys2Proof.Machine

open Sys2Proof

/-- What the size register of an endpoint tells of its finished chunk (R273). -/
def State.endResult (s : State) (e : EpRef) : ChunkResult :=
  if e.dir = .IN then ⟨(s.ep e).x.chunkLen - field (s.raw (epSiz e)) 0 19, false, false⟩
  else ⟨pktCount (s.ep e).x.chunkLen (s.ep e).mps * (s.ep e).mps - field (s.raw (epSiz e)) 0 19,
    decide (0 < field (s.raw (epSiz e)) 0 19), false⟩

theorem State.endResult_err (s : State) (e : EpRef) : (s.endResult e).err = false := by
  unfold State.endResult
  split <;> rfl

theorem chunkResult_direct {s : State} {e : EpRef} (k : s.Ready) (hm : s.hostMode = false) (hn : e.num.val < s.hw.caps.nEp)
    (hd : s.isDesc = false) (h : Hooks) :
    chunkResult (.ep e) h s = .ok (s.endResult e, s.note (.rd (epSiz e).offset (s.raw (epSiz e)))) := by
  cases hdir : e.dir <;> simp [chunkResult, run_bind, hd, sizOf, k, hm, hn, State.transmits, State.endResult, hdir]

/-! What follows the end of a chunk (R273). -/

section
variable {s : State} {x : XRef} {i : ReqId} {short : Bool} (ha : (s.xfer x).active = some i) (f : M Unit) (h : Hooks)
include ha

theorem advanceWith_chunk (hz : (s.xfer x).zlpPhase = false) (hs : short = false) (hl : (s.reqAt i).done < (s.reqAt i).length) :
    advanceWith x short f h s = programChunk x h s := by
  simp [advanceWith, advanceChoice, State.reqOf_active ha, hz, hs, hl]

theorem advanceWith_zlp (hz : (s.xfer x).zlpPhase = false) (hs : short = false) (hl : (s.reqAt i).length ≤ (s.reqAt i).done)
    (hf : (s.reqAt i).zeroFlag = true) (h0 : 0 < (s.reqAt i).length) (hp : (s.reqAt i).length % s.mpsOf x = 0) :
    advanceWith x short f h s = programChunk x h (s.modX x fun t => { t with zlpPhase := true }) := by
  simp [advanceWith, advanceChoice, State.reqOf_active ha, run_bind, hz, hs, Nat.not_lt.mpr hl, hf, h0, hp]

theorem advanceWith_finish (hd : (s.xfer x).zlpPhase = true ∨ short = true ∨ ((s.reqAt i).length ≤ (s.reqAt i).done ∧
    ¬((s.reqAt i).zeroFlag = true ∧ 0 < (s.reqAt i).length ∧ (s.reqAt i).length % s.mpsOf x = 0))) :
    advanceWith x short f h s = f h s := by
  have hc : advanceChoice (s.xfer x).zlpPhase short (s.reqAt i).done (s.reqAt i).length (s.mpsOf x) (s.reqAt i).zeroFlag =
      .finish := by
    unfold advanceChoice
    rcases hd with hz | hs | ⟨hl, hp⟩
    · rw [if_pos hz]
    · simp [hs]
    · split
      · rfl
      · rw [if_neg (fun h => absurd h.1 (Nat.not_lt.mpr hl)), if_neg (fun h => hp ⟨h.1, h.2.1, h.2.2.1⟩)]
  simp [advanceWith, State.reqOf_active ha, hc]

end

end Sys2Proof.Machine

/-! PROOF. The completions of endpoint 0 (R321, R322). -/

namespace Sys2Proof.Machine

open Sys2Proof

/-- The bytes that a finished chunk of endpoint 0 moved are counted. -/
def Ep0Rec.counted (r : Ep0Rec) (n : Nat) : Ep0Rec := { r with request := { r.request with done := r.request.done + n } }

/-- The end of a chunk of endpoint 0: what follows goes on with the bytes counted. -/
theorem chunkEnd_run {s : State} {d : Dir} (z : s.ZeroReady d) (ha : (s.ep ⟨0, d⟩).x.active = some .ep0) (c : Bool) (h : Hooks) :
    ∃ u, (∀ p : ChunkResult → M Unit, (do
      let r ← chunkResult (.ep ⟨0, d⟩)
      if r.err then ep0Stall
      else do
        countMoved (.ep ⟨0, d⟩) c r.moved
        p r) h s = p (s.endResult ⟨0, d⟩) h u) ∧
      u.ep0 = s.ep0.counted (if c then (s.endResult ⟨0, d⟩).moved else 0) ∧
      u.patience = s.patience ∧ Frame s u [] [.ep0] := by
  have hres := chunkResult_direct (e := ⟨0, d⟩) z.ready z.mode z.exist z.direct h
  have herr := s.endResult_err ⟨0, d⟩
  have hreq (t : State) (f : Req → Req) : t.modReqAt .ep0 f = t.withEp0 { t.ep0 with request := f t.ep0.request } := rfl
  cases c with
  | false => exact ⟨_, fun p => by rw [run_bind_ok hres]; simp [herr, countMoved, run_bind]; rfl, by simp [Ep0Rec.counted]⟩
  | true =>
    exact ⟨_, fun p => by rw [run_bind_ok hres]; simp [herr, countMoved, run_bind, ha, hreq]; rfl, by simp [Ep0Rec.counted]⟩

/-- What endpoint 0 has sent when its chunk ends. -/
def State.sent0 (s : State) : Nat :=
  s.ep0.request.done + ((s.ep ⟨0, .IN⟩).x.chunkLen - field (s.raw (.DIEPTSIZ 0)) 0 19)

/-- The zero-length packet is due when the chunk of endpoint 0 ends (R273). -/
def State.packet0 (s : State) : Prop :=
  s.ep0.request.length ≤ s.sent0 ∧ s.ep0.request.zeroFlag = true ∧ 0 < s.ep0.request.length ∧ s.ep0.request.length % 64 = 0

/-- The reception of a SETUP packet is armed in `t`, from the buffer that `s` names (R305). -/
def State.Rearmed (s t : State) : Prop :=
  field (t.raw (.DOEPTSIZ 0)) 0 19 = 8 ∧ field (t.raw (.DOEPTSIZ 0)) 19 10 = 1 ∧ field (t.raw (.DOEPTSIZ 0)) 29 2 = 1 ∧
    bitOf (t.raw (.DOEPCTL 0)) 31 = true ∧ t.raw (.DOEPDMA 0) = (if s.isSlave then s.raw (.DOEPDMA 0) else s.ep0.setupBuf)

theorem State.Rearmed.of_frame {s v t : State} (r : v.Rearmed t) {rs : List Reg} {ps : List Part} (f : Frame s v rs ps)
    (hc : .core ∉ ps ∧ .records ∉ ps) (hr : ∀ q ∈ rs, Reg.DOEPDMA 0 ≠ q ∧ q ≠ .DIEPTXF 0)
    (he : v.ep0.setupBuf = s.ep0.setupBuf) : s.Rearmed t := by
  obtain ⟨hsize, hcount, hpid, hen, haddr⟩ := r
  refine ⟨hsize, hcount, hpid, hen, haddr.trans ?_⟩
  rw [State.isSlave, f.core hc.1 hc.2, f.raw_eq hr (by simp), he]
  rfl

/-- The status phase of endpoint 0 has ended (R321, R322). -/
theorem statusEnd_run {s : State} (z : s.ZeroReady .OUT) (d : Dir) (h : Hooks) : ∃ u,
    (do
      clearActive (.ep ⟨0, d⟩)
      setEp0State .idle
      ep0ArmSetup) h s = .ok ((), u) ∧ u.ep0 = { s.ep0 with state := .idle } ∧ (u.ep ⟨0, d⟩).x.active = none ∧ s.Rearmed u ∧
      Frame s u [.DOEPTSIZ 0, .DOEPDMA 0, .DOEPCTL 0] [.ep0, .ep ⟨0, d⟩] := by
  have hf : Frame s ((s.modEp ⟨0, d⟩ fun r => { r with x := { r.x with active := none } }).withEp0
      { s.ep0 with state := .idle }) [] [.ep0, .ep ⟨0, d⟩] := by simp
  obtain ⟨u, hu, hsize, hcount, hpid, hctl, haddr, huf⟩ := ep0ArmSetup_direct (s := (s.modEp ⟨0, d⟩ fun r =>
      { r with x := { r.x with active := none } }).withEp0 { s.ep0 with state := .idle }) (by simp [z.ready])
    (by simpa using z.mode) (by simpa using z.exist) ((State.sizeLow_congr (by simp) (by simp)).mpr z.low)
    (by simpa [State.isDesc] using z.direct) (by have := z.size.1; simp; omega) (by simpa using z.count.1) h
  refine ⟨u, by simpa [run_bind, clearActive, setEp0State] using hu, ?_, ?_, ⟨hsize, hcount, hpid, ?_, ?_⟩, ?_⟩
  · simp [huf.ep0]
  · simp [huf.ep]
  · simp [hctl, bitOf_or, bitOf_bit1]
  · simpa [State.isSlave] using haddr
  · exact (hf.mono (by simp) (by simp)).trans (huf.mono (by simp) (by simp))

/-! The direction to the host. -/

section
variable {s : State} (ha : (s.ep ⟨0, .IN⟩).x.active = some .ep0) (h : Hooks)
include ha

theorem ep0InComplete_data (zi : s.ZeroReady .IN) (hs : s.ep0.state = .inData) : ∃ u,
    ep0InComplete h s = advanceWith ep0In false (do
      clearActive ep0In
      setEp0State .outStatus
      ep0Receive 0) h u ∧
    u.ep0 = s.ep0.counted (if (s.ep ⟨0, .IN⟩).x.zlpPhase then 0 else (s.ep ⟨0, .IN⟩).x.chunkLen - field (s.raw (.DIEPTSIZ 0)) 0 19) ∧
    Frame s u [] [.ep0] := by
  obtain ⟨u, hu, hep0, _, hf⟩ := chunkEnd_run zi ha (!(s.ep ⟨0, .IN⟩).x.zlpPhase) h
  refine ⟨u, ?_, ?_, hf⟩
  · have hx : (s.xfer ep0In).active = some .ep0 := ha
    simp only [ep0InComplete, run_ask_bind, id_eq, hx, hs]
    exact hu _
  · rw [hep0]
    cases (s.ep ⟨0, .IN⟩).x.zlpPhase <;> rfl

theorem ep0InComplete_ends (zi : s.ZeroReady .IN) (zo : s.ZeroReady .OUT) (hs : s.ep0.state = .inData) (ho : (s.ep ⟨0, .OUT⟩).x.zlpPhase = false)
    (hsent : (s.ep ⟨0, .IN⟩).x.zlpPhase = true ∨ (¬s.sent0 < s.ep0.request.length ∧ ¬s.packet0)) : ∃ u,
    ep0InComplete h s = .ok ((), u) ∧ u.ep0.state = .outStatus ∧ u.ep0.request = { blankReq with buf := s.ep0.reply } ∧
      (u.ep ⟨0, .IN⟩).x.active = none ∧ (u.ep ⟨0, .OUT⟩).x.active = some .ep0 ∧ (u.ep ⟨0, .OUT⟩).x.chunkLen = 0 ∧
      field (u.raw (.DOEPTSIZ 0)) 0 19 = 64 ∧ field (u.raw (.DOEPTSIZ 0)) 19 10 = 1 ∧
      bitOf (u.raw (.DOEPCTL 0)) 31 = true ∧ bitOf (u.raw (.DOEPCTL 0)) 17 = false ∧
      Frame s u [.DOEPTSIZ 0, .DOEPDMA 0, .DOEPCTL 0] [.ep0, .ep ⟨0, .IN⟩, .ep ⟨0, .OUT⟩] := by
  obtain ⟨v, hv, hv0, hvf⟩ := ep0InComplete_data ha h zi hs
  have hep (e : EpRef) : v.ep e = s.ep e := hvf.ep e (by simp) (by simp)
  have hva : (v.xfer ep0In).active = some .ep0 := (congrArg (fun r : EpRec => r.x.active) (hep _)).trans ha
  have hvz : (v.xfer ep0In).zlpPhase = (s.ep ⟨0, .IN⟩).x.zlpPhase := congrArg (fun r : EpRec => r.x.zlpPhase) (hep _)
  have hfin : (v.xfer ep0In).zlpPhase = true ∨ false = true ∨ ((v.reqAt .ep0).length ≤ (v.reqAt .ep0).done ∧
      ¬((v.reqAt .ep0).zeroFlag = true ∧ 0 < (v.reqAt .ep0).length ∧ (v.reqAt .ep0).length % v.mpsOf ep0In = 0)) := by
    cases hz : (s.ep ⟨0, .IN⟩).x.zlpPhase with
    | true => exact .inl (hvz.trans hz)
    | false =>
      obtain ⟨hmore, hpacket⟩ := hsent.resolve_left (by simp [hz])
      have hv0' : v.reqAt .ep0 = { s.ep0.request with done := s.sent0 } := by
        rw [State.reqAt, hv0, hz]
        rfl
      have hmps : v.mpsOf ep0In = 64 := (congrArg EpRec.mps (hep _)).trans zi.packet
      rw [hv0', hmps]
      exact .inr (.inr ⟨Nat.le_of_not_lt hmore, fun hp => hpacket ⟨Nat.le_of_not_lt hmore, hp⟩⟩)
  have hwf : Frame v ((v.modEp ⟨0, .IN⟩ fun r => { r with x := { r.x with active := none } }).withEp0
      { v.ep0 with state := .outStatus }) [] [.ep0, .ep ⟨0, .IN⟩] := by simp
  have hsw : Frame s _ [] [.ep0, .ep ⟨0, .IN⟩] := (hvf.mono (by simp) (by simp)).trans (hwf.mono (by simp) (by simp))
  obtain ⟨u, hu, hu0, huo, b⟩ := ep0Receive_run (zo.of_frame hsw (by simp) (by simp) (by simp [hep]) (by simp [hep])) (n := 0)
    (Nat.zero_le _) (by simpa [hep] using ho) h
  refine ⟨u, (hv.trans (advanceWith_finish hva _ h hfin)).trans ?_, ?_, ?_, ?_, ?_, ?_, ?_, ?_, b.enabled, b.ready, ?_⟩
  · simpa [run_bind, clearActive, ep0In, setEp0State] using hu
  · simp [hu0]
  · simp [hu0, hv0, Ep0Rec.counted, blankReq]
  · simp [b.frame.ep]
  · simp [huo]
  · simp [huo]
  · simpa using b.size
  · simpa using b.count
  · exact (hsw.mono (by simp) (by simp)).trans (b.frame.mono (by simp) (by simp))

theorem ep0InComplete_goes (zi : s.ZeroReady .IN) (hs : s.ep0.state = .inData) (hz : (s.ep ⟨0, .IN⟩).x.zlpPhase = false)
    (hsent : s.sent0 < s.ep0.request.length ∨ s.packet0) : ∃ u,
    ep0InComplete h s = .ok ((), u) ∧ u.ep0 = { s.ep0 with request := { s.ep0.request with done := s.sent0 } } ∧
      (u.ep ⟨0, .IN⟩).x.active = some .ep0 ∧ (u.ep ⟨0, .IN⟩).x.zlpPhase = decide (s.ep0.request.length ≤ s.sent0) ∧
      (u.ep ⟨0, .IN⟩).x.chunkLen = min (s.ep0.request.length - s.sent0) s.ep0Room ∧
      field (u.raw (.DIEPTSIZ 0)) 0 19 = (u.ep ⟨0, .IN⟩).x.chunkLen ∧ bitOf (u.raw (.DIEPCTL 0)) 31 = true ∧
      Frame s u [.DIEPTSIZ 0, .DIEPDMA 0, .DIEPCTL 0, .DIEPEMPMSK] [.ep0, .ep ⟨0, .IN⟩] := by
  obtain ⟨v, hv, hv0, hvf⟩ := ep0InComplete_data ha h zi hs
  have hve : v.ep ⟨0, .IN⟩ = s.ep ⟨0, .IN⟩ := hvf.ep _ (by simp) (by simp)
  have hva : (v.xfer ep0In).active = some .ep0 := (congrArg (fun r : EpRec => r.x.active) hve).trans ha
  have hvz : (v.xfer ep0In).zlpPhase = false := (congrArg (fun r : EpRec => r.x.zlpPhase) hve).trans hz
  have hroom : v.ep0Room = s.ep0Room := by rw [State.ep0Room, hvf.hw]; rfl
  have zv : v.ZeroReady .IN := zi.of_frame hvf (by simp) (by simp) (by rw [hve]) (by rw [hve])
  rw [hz] at hv0
  have hv0' : v.ep0 = { s.ep0 with request := { s.ep0.request with done := s.sent0 } } := hv0
  by_cases hmore : s.sent0 < s.ep0.request.length
  · have hchunk : v.zeroChunk .IN = min (s.ep0.request.length - s.sent0) s.ep0Room := by
      rw [State.zeroChunk, hve, hz, hv0', hroom]
      rfl
    obtain ⟨u, hu, hep, p⟩ := programChunk_zero zv hva h
    rw [hchunk] at hep p
    refine ⟨u, hv.trans ((advanceWith_chunk hva _ h hvz rfl (by rw [State.reqAt, hv0']; exact hmore)).trans hu), ?_, ?_, ?_, ?_,
      ?_, p.enabled, ?_⟩
    · rw [p.frame.ep0 (by simp) (by simp), hv0']
    · rw [hep]
      exact hva
    · rw [hep, decide_eq_false (Nat.not_le.mpr hmore)]
      exact hvz
    · rw [hep]
    · rw [hep]
      exact p.size
    · exact (hvf.mono (by simp) (by simp)).trans (p.frame.mono (List.Subset.trans (chunkRegs_subset _ _) (by simp)) (by simp))
  · obtain ⟨hle, hflag, hpos, hmod⟩ := hsent.resolve_left hmore
    have hwf : Frame v (v.modX ep0In fun t => { t with zlpPhase := true }) [] [.ep ⟨0, .IN⟩] := by simp [ep0In]
    have hwe : (v.modX ep0In fun t => { t with zlpPhase := true }).ep ⟨0, .IN⟩ =
        { v.ep ⟨0, .IN⟩ with x := { (v.ep ⟨0, .IN⟩).x with zlpPhase := true } } := by simp [ep0In]
    obtain ⟨u, hu, hep, p⟩ := programChunk_zero (zv.of_frame hwf (by simp) (by simp) (by rw [hwe]) (by rw [hwe]))
      (by rw [hwe]; exact hva) h
    have hchunk : (v.modX ep0In fun t => { t with zlpPhase := true }).zeroChunk .IN = 0 := by
      simp [State.zeroChunk, hwe]
    have hnone : min (s.ep0.request.length - s.sent0) s.ep0Room = 0 := by omega
    rw [hchunk] at hep p
    refine ⟨u, hv.trans ((advanceWith_zlp hva _ h hvz rfl (by rw [State.reqAt, hv0']; exact hle)
      (by rw [State.reqAt, hv0']; exact hflag) (by rw [State.reqAt, hv0']; exact hpos)
      (by rw [State.reqAt, hv0', ep0In, State.mpsOf_ep, zv.packet]; exact hmod)).trans hu), ?_, ?_, ?_, ?_, ?_, p.enabled, ?_⟩
    · rw [p.frame.ep0 (by simp) (by simp), hwf.ep0 (by simp) (by simp), hv0']
    · rw [hep, hwe]
      exact hva
    · rw [hep, hwe, decide_eq_true hle]
    · rw [hep, hnone]
    · rw [hep]
      exact p.size
    · exact (hvf.mono (by simp) (by simp)).trans ((hwf.mono (by simp) (by simp)).trans (p.frame.mono (by simp) (by simp)))

end

/-! The direction from the host. -/

/-- What endpoint 0 has received when its chunk ends; slave mode counted it as it came (R265). -/
def State.got0 (s : State) : Nat :=
  if s.isSlave then s.ep0.request.done
  else s.ep0.request.done + (max 1 (((s.ep ⟨0, .OUT⟩).x.chunkLen + 63) / 64) * 64 - field (s.raw (.DOEPTSIZ 0)) 0 19)

section
variable {s : State} (zo : s.ZeroReady .OUT) (ha : (s.ep ⟨0, .OUT⟩).x.active = some .ep0) (hs : s.ep0.state = .outData) (h : Hooks)
include zo ha hs

theorem ep0OutComplete_data : ∃ u,
    ep0OutComplete h s = (if s.got0 < s.ep0.totalLength ∧ field (s.raw (.DOEPTSIZ 0)) 0 19 = 0 then programChunk ep0Out
      else ep0OutEnd) h u ∧
    u.ep0 = { s.ep0 with request := { s.ep0.request with done := s.got0 } } ∧ u.patience = s.patience ∧ Frame s u [] [.ep0] := by
  obtain ⟨u, hu, hep0, hp, hf⟩ := chunkEnd_run zo ha (!s.isSlave) h
  have hx : (s.xfer ep0Out).active = some .ep0 := ha
  have hu0 : u.ep0 = { s.ep0 with request := { s.ep0.request with done := s.got0 } } := by
    rw [hep0, Ep0Rec.counted, State.got0]
    cases s.isSlave with
    | true => rfl
    | false =>
      have hmoved : (s.endResult ⟨0, .OUT⟩).moved =
          max 1 (((s.ep ⟨0, .OUT⟩).x.chunkLen + 63) / 64) * 64 - field (s.raw (.DOEPTSIZ 0)) 0 19 := by
        rw [← pktCount_64, ← zo.packet]
        rfl
      simp [hmoved]
  have hshort : (s.endResult ⟨0, .OUT⟩).short = false ↔ field (s.raw (.DOEPTSIZ 0)) 0 19 = 0 := by
    rw [show (s.endResult ⟨0, .OUT⟩).short = decide (0 < field (s.raw (.DOEPTSIZ 0)) 0 19) from rfl, decide_eq_false_iff_not]
    omega
  refine ⟨u, ?_, hu0, hp, hf⟩
  simp only [ep0OutComplete, run_ask_bind, id_eq, hx, hs]
  refine (hu fun r => do
    let t ← ask id
    if t.ep0.request.done < t.ep0.totalLength ∧ r.short = false then programChunk ep0Out else ep0OutEnd).trans ?_
  simp only [run_ask_bind, id_eq, hu0, hshort]

theorem ep0OutComplete_goes (hz : (s.ep ⟨0, .OUT⟩).x.zlpPhase = false) (hgot : s.got0 < s.ep0.totalLength)
    (hrem : field (s.raw (.DOEPTSIZ 0)) 0 19 = 0) : ∃ u,
    ep0OutComplete h s = .ok ((), u) ∧ u.ep0 = { s.ep0 with request := { s.ep0.request with done := s.got0 } } ∧
      (u.ep ⟨0, .OUT⟩).x.active = some .ep0 ∧
      (u.ep ⟨0, .OUT⟩).x.chunkLen = min (s.ep0.request.length - s.got0) s.ep0Room ∧
      bitOf (u.raw (.DOEPCTL 0)) 31 = true ∧ bitOf (u.raw (.DOEPCTL 0)) 17 = false ∧
      Frame s u [.DOEPTSIZ 0, .DOEPDMA 0, .DOEPCTL 0] [.ep0, .ep ⟨0, .OUT⟩] := by
  obtain ⟨v, hv, hv0, _, hvf⟩ := ep0OutComplete_data zo ha hs h
  have hve : v.ep ⟨0, .OUT⟩ = s.ep ⟨0, .OUT⟩ := hvf.ep _ (by simp) (by simp)
  obtain ⟨u, hu, hep, p⟩ := programChunk_zero (zo.of_frame hvf (by simp) (by simp) (by rw [hve]) (by rw [hve]))
    (by rw [hve]; exact ha) h
  have hchunk : v.zeroChunk .OUT = min (s.ep0.request.length - s.got0) s.ep0Room := by
    rw [State.zeroChunk, hve, hz, hv0, State.ep0Room, hvf.hw]
    rfl
  rw [hchunk] at hep p
  refine ⟨u, hv.trans ((run_ite _ _ _ _ _).trans ((if_pos ⟨hgot, hrem⟩).trans hu)), ?_, ?_, ?_, p.enabled, p.ready, ?_⟩
  · rw [p.frame.ep0 (by simp) (by simp), hv0]
  · rw [hep, hve]
    exact ha
  · rw [hep]
  · exact (hvf.mono (by simp) (by simp)).trans (p.frame.mono (by simp) (by simp))

/-- All the data of a phase from the host has arrived, or a short packet ended it (R322). -/
theorem ep0OutComplete_ends (hgot : s.ep0.totalLength ≤ s.got0 ∨ 0 < field (s.raw (.DOEPTSIZ 0)) 0 19) : ∃ u,
    ep0OutComplete h s = (if s.got0 ≠ s.ep0.totalLength then ep0Stall else do
      let r ← dispatchSetup s.ep0.setup
      ep0AfterData r) h u ∧
    u.ep0 = { s.ep0 with request := { s.ep0.request with done := s.got0 } } ∧
    u.ep ⟨0, .OUT⟩ = { s.ep ⟨0, .OUT⟩ with x := { (s.ep ⟨0, .OUT⟩).x with active := none } } ∧
    u.patience = s.patience ∧ Frame s u [] [.ep0, .ep ⟨0, .OUT⟩] := by
  obtain ⟨v, hv, hv0, hp, hvf⟩ := ep0OutComplete_data zo ha hs h
  have hend : ¬(s.got0 < s.ep0.totalLength ∧ field (s.raw (.DOEPTSIZ 0)) 0 19 = 0) := by omega
  refine ⟨v.modEp ⟨0, .OUT⟩ fun r => { r with x := { r.x with active := none } },
    hv.trans ((run_ite _ _ _ _ _).trans ((if_neg hend).trans ?_)), ?_, ?_, ?_, ?_⟩
  · simp [ep0OutEnd, run_bind, clearActive, ep0Out, hv0]
  · simp [hv0]
  · simp [hvf.ep]
  · simp [hp]
  · exact (frame_modEp _ (by simp)).mpr (hvf.mono (by simp) (by simp))

end

/-! The events. -/

section
variable {s : State} (a : s.Alone) (c : s.ControlReady)

/-- The handler's state after its first write, the clearing of XFERCOMPL. -/
def State.completed0 (s : State) (d : Dir) : State := (s.inCtx .isr).cleared (epInt ⟨0, d⟩) 0

theorem frame_completed0 (s : State) (d : Dir) : Frame (s.inCtx .isr) (s.completed0 d) [epInt ⟨0, d⟩] [] := by
  simp [State.completed0, State.cleared]

@[simp] theorem State.ep_completed0 (s : State) (d : Dir) (e : EpRef) : (s.completed0 d).ep e = s.ep e := by
  simp [State.completed0, State.cleared]

@[simp] theorem State.ep0_completed0 (s : State) (d : Dir) : (s.completed0 d).ep0 = s.ep0 := by
  simp [State.completed0, State.cleared]

@[simp] theorem State.raw_completed0 (s : State) (d : Dir) {r : Reg} (h : r ≠ epInt ⟨0, d⟩) (h0 : r ≠ .DIEPTXF 0) :
    (s.completed0 d).raw r = s.raw r := by
  simp [State.completed0, State.cleared, h, h0]

@[simp] theorem State.hw_completed0 (s : State) (d : Dir) : (s.completed0 d).hw = s.hw := by
  simp [State.completed0, State.cleared]

@[simp] theorem State.isSlave_completed0 (s : State) (d : Dir) : (s.completed0 d).isSlave = s.isSlave := by
  simp [State.completed0, State.cleared, State.isSlave]

@[simp] theorem State.ep0Room_completed0 (s : State) (d : Dir) : (s.completed0 d).ep0Room = s.ep0Room := by
  simp [State.ep0Room]

@[simp] theorem State.sent0_completed0 (s : State) (d : Dir) : (s.completed0 d).sent0 = s.sent0 := by
  rw [State.sent0, State.raw_completed0 s d (by cases d <;> simp) (by simp), State.ep_completed0, State.ep0_completed0, State.sent0]

theorem State.packet0_completed0 (s : State) (d : Dir) : (s.completed0 d).packet0 ↔ s.packet0 := by
  rw [State.packet0, State.sent0_completed0, State.ep0_completed0, State.packet0]

@[simp] theorem State.rem_completed0 (s : State) (d : Dir) : (s.completed0 d).raw (.DOEPTSIZ 0) = s.raw (.DOEPTSIZ 0) :=
  State.raw_completed0 s d (by cases d <;> simp) (by simp)

@[simp] theorem State.got0_completed0 (s : State) (d : Dir) : (s.completed0 d).got0 = s.got0 := by simp [State.got0]

theorem State.raw_completed0_int (s : State) (d : Dir) :
    (s.completed0 d).raw (epInt ⟨0, d⟩) = s.raw (epInt ⟨0, d⟩) &&& ~~~0x1#32 := by
  have hk : bitOf (w1cMask (epInt ⟨0, d⟩)) 0 = true := by cases d <;> rfl
  exact (s.inCtx .isr).raw_cleared hk

theorem State.Rearmed.completed0 {d : Dir} {t : State} (r : (s.completed0 d).Rearmed t) : s.Rearmed t :=
  State.Rearmed.of_frame (s := s.inCtx .isr) r (frame_completed0 s d) (by simp) (by cases d <;> simp) (by simp)

/-- What the handler leaves of the state before, and of the event. -/
theorem completed0_frame {d : Dir} {u : State} {rs : List Reg} {ps : List Part} (f : Frame (s.completed0 d) u rs ps)
    (hr : epInt ⟨0, d⟩ ∉ rs ∧ ∀ q ∈ rs, q ≠ .DIEPTXF 0) :
    (u.inCtx s.ctx).raw (epInt ⟨0, d⟩) = s.raw (epInt ⟨0, d⟩) &&& ~~~0x1#32 ∧
      Frame s (u.inCtx s.ctx) (epInt ⟨0, d⟩ :: rs) ps := by
  constructor
  · rw [State.raw_of_inCtx, f.raw_eq (r := epInt ⟨0, d⟩) (fun q hq => ⟨fun e => hr.1 (e ▸ hq), hr.2 q hq⟩) (by cases d <;> simp), State.raw_completed0_int]
  · exact (Frame.trans (t := s.inCtx .isr) (by simp) ((frame_completed0 s d).mono (by simp) (by simp))).event_trans
      (f.mono (by simp) (by simp))

include a c

theorem State.completed0_ready (low : s.reservedLow) : (s.completed0 .IN).ZeroReady .IN :=
  (c.zeroReady low a).of_frame (frame_completed0 s .IN) (by simp) (by simp) (by simp) (by simp)

theorem State.completed0_readyOut (low : s.reservedLow) (hm : (s.ep ⟨0, .OUT⟩).mps = 64)
    (ht : (s.ep ⟨0, .OUT⟩).type = .control) (d : Dir) : (s.completed0 d).ZeroReady .OUT :=
  (c.zeroReadyOut low a hm ht).of_frame (frame_completed0 s d) (by simp) (by cases d <;> simp) (by simp) (by simp)

theorem inXfercompl_zero {Q : State → Prop}
    (h : ∃ u, ep0InComplete (hooksAt s.level) (s.completed0 .IN) = .ok ((), u) ∧ Q (u.inCtx s.ctx)) :
    ∃ t, exec (.inXfercompl 0) s = .next t ∧ Q t :=
  runEvt_cleared a (accessible_diepint c.mode (n := 0) c.exist.1) h

theorem outXfercompl_zero {Q : State → Prop}
    (h : ∃ u, ep0OutComplete (hooksAt s.level) (s.completed0 .OUT) = .ok ((), u) ∧ Q (u.inCtx s.ctx)) :
    ∃ t, exec (.outXfercompl 0) s = .next t ∧ Q t :=
  runEvt_cleared a (accessible_doepint c.mode (n := 0) c.exist.1) h

end

/-- Settles O59: each phase by its end. -/
theorem endpointZeroCompletionsAdvanceThePhases : Obligations.EndpointZeroCompletionsAdvanceThePhases := by
  intro s a low c hmps htype hoz q sent more packet rem got armed outRegs
  have zi := s.completed0_ready a c low
  have zo := s.completed0_readyOut a c low hmps htype
  refine ⟨fun hn => ?_, fun hn => ?_, fun ha hs => ⟨fun hd => ?_, fun hz hd => ?_⟩, fun ha hs => ?_, fun ha hs => ?_, fun ha hs => ⟨fun hg hr => ?_, fun hg he => ?_, fun hg he h31 => ?_⟩⟩
  · refine inXfercompl_zero a c ⟨s.completed0 .IN, ?_, completed0_frame (Frame.refl _ _ _) (by simp)⟩
    simp [ep0InComplete, ep0In, hn]
  · refine outXfercompl_zero a c ⟨s.completed0 .OUT, ?_, completed0_frame (Frame.refl _ _ _) (by simp)⟩
    simp [ep0OutComplete, ep0Out, hn]
  · obtain ⟨u, hu, hst, hreq, hin, hout, hlen, hsize, hcount, hen, hnak, hf⟩ := ep0InComplete_ends (by simpa using ha)
      (hooksAt s.level) zi (zo .IN) (by simpa using hs) (by simpa using hoz)
      (by rw [State.packet0_completed0, State.sent0_completed0, State.ep0_completed0, State.ep_completed0]; exact hd)
    exact inXfercompl_zero a c ⟨u, hu, hst, by simpa using hreq, by simpa using hin, by simpa using hout, by simpa using hlen,
      by simpa using hsize, by simpa using hcount, by simpa using hen, by simpa using hnak, completed0_frame hf (by simp)⟩
  · obtain ⟨u, hu, hu0, hin, hzlp, hlen, hsize, hen, hf⟩ := ep0InComplete_goes (by simpa using ha)
      (hooksAt s.level) zi (by simpa using hs) (by simpa using hz)
      (by rw [State.packet0_completed0, State.sent0_completed0, State.ep0_completed0]; exact hd)
    simp only [State.sent0_completed0, State.ep0_completed0, State.ep0Room_completed0] at hu0 hzlp hlen
    exact inXfercompl_zero a c ⟨u, hu, hu0, by simpa using hin, by rw [State.ep_of_inCtx]; exact hzlp,
      by rw [State.ep_of_inCtx]; exact hlen, by simpa using hsize, by simpa using hen, completed0_frame hf (by simp)⟩
  · obtain ⟨u, hu, hu0, hin, harm, hf⟩ := statusEnd_run (zo .IN) .IN (hooksAt s.level)
    refine inXfercompl_zero a c ⟨u, ?_, by simpa using hu0, by simpa using hin, ?_, (completed0_frame hf (by simp)).2⟩
    · simpa [ep0InComplete, ep0In, ha, hs] using hu
    · exact harm.completed0
  · obtain ⟨u, hu, hu0, hin, harm, hf⟩ := statusEnd_run (zo .OUT) .OUT (hooksAt s.level)
    refine outXfercompl_zero a c ⟨u, ?_, by simpa using hu0, by simpa using hin, ?_, (completed0_frame hf (by simp)).2⟩
    · simpa [ep0OutComplete, ep0Out, ha, hs] using hu
    · exact harm.completed0
  · obtain ⟨u, hu, hu0, hout, hlen, hen, hnak, hf⟩ := ep0OutComplete_goes (zo .OUT) (by simpa using ha) (by simpa using hs)
      (hooksAt s.level) (by simpa using hoz) (by rw [State.got0_completed0, State.ep0_completed0]; exact hg)
      (by rw [State.rem_completed0]; exact hr)
    simp only [State.got0_completed0, State.ep0_completed0, State.ep0Room_completed0] at hu0 hlen
    exact outXfercompl_zero a c ⟨u, hu, hu0, by simpa using hout, by rw [State.ep_of_inCtx]; exact hlen, by simpa using hen,
      by simpa using hnak, (completed0_frame hf (by simp)).2⟩
  · obtain ⟨u, hu, hu0, hout, hpat, hf⟩ := ep0OutComplete_ends (zo .OUT) (by simpa using ha) (by simpa using hs)
      (hooksAt s.level) (by rw [State.got0_completed0, State.rem_completed0, State.ep0_completed0]; exact hg)
    simp only [State.got0_completed0, State.ep0_completed0] at hu hu0
    have f := frame_completed0 s .OUT
    have hstill : u.Still := ⟨hf.inputs.2.1.trans (f.inputs.2.1.trans a.env), hf.inputs.2.2.2.trans (f.inputs.2.2.2.trans a.prompt),
      (hf.context (by simp)).trans (f.context (by simp)), hf.inputs.2.2.1.trans (f.inputs.2.2.1.trans a.replies)⟩
    have hpat' : u.patience = s.patience := hpat.trans (by simp [State.completed0, State.cleared])
    have hlevel : (u.inCtx s.ctx).level = s.level :=
      congrArg (fun l => 4 * (l.length + 1) + 4) (hf.inputs.2.2.1.trans f.inputs.2.2.1)
    refine ⟨u.inCtx s.ctx, ?_, hpat', hu0, by simp [hout], (completed0_frame hf (by simp)).2⟩
    rw [exec_decodeSetup]
    refine carriesOn_runEvt (p := evtOutXfercompl 0) ?_ rfl hpat'
    rw [hlevel, State.inCtx_back hstill.ctx]
    refine (run_bind_ok (clearEvent_calm a.calm (accessible_doepint (s := s.inCtx .isr) (n := 0) (by simpa using c.mode) c.exist.1) 0 _)).trans ?_
    exact hu.trans ((run_ite _ _ _ _ _).trans ((if_neg (not_not.mpr he)).trans
      (dispatch_afterData hstill (by rw [hu0]; exact hs) _ _ _)))
  · obtain ⟨v, hv, hv0, hout, _, hvf⟩ := ep0OutComplete_ends (zo .OUT) (by simpa using ha) (by simpa using hs)
      (hooksAt s.level) (by rw [State.got0_completed0, State.rem_completed0, State.ep0_completed0]; exact hg)
    simp only [State.got0_completed0, State.ep0_completed0] at hv hv0
    have zv : v.ZeroReady .OUT := (zo .OUT).of_frame hvf (by simp) (by simp) (by rw [hout]) (by rw [hout])
    have h31' : bitOf (v.raw (.DIEPCTL 0)) 31 = false := by
      rw [hvf.raw_eq (by simp) (by simp), State.raw_completed0 s .OUT (by simp) (by simp)]
      exact h31
    obtain ⟨u, hu, st⟩ := ep0Stall_idle zv.ready zv.mode zv.exist zv.low zv.direct (by have := zv.size.1; omega) zv.count.1 h31'
      (hooksAt s.level)
    have hf : Frame (s.completed0 .OUT) u [.DIEPCTL 0, .DIEPEMPMSK, .DOEPTSIZ 0, .DOEPDMA 0, .DOEPCTL 0]
        [.ep0, .ep ⟨0, .IN⟩, .ep ⟨0, .OUT⟩] := (hvf.mono (by simp) (by simp)).trans (st.frame.mono (by simp) (by simp))
    have harm : v.Rearmed u := ⟨st.size, st.count, st.packets, by simp [st.outCtl, bitOf_or], st.addr⟩
    refine outXfercompl_zero a c ⟨u, hv.trans ((run_ite _ _ _ _ _).trans ((if_pos he).trans hu)), ?_, ?_, ?_, ?_, ?_,
      (completed0_frame hf (by simp)).2⟩
    · simp [st.ep0]
    · simp [st.idle]
    · simp [st.inCtl, bitOf_or, bitOf_bit1]
    · simp [st.outCtl, bitOf_or]
    · exact (harm.of_frame hvf (by simp) (by simp) (by rw [hv0, State.ep0_completed0])).completed0

end Sys2Proof.Machine

/-! PROOF. The procedures that enable, stall and release an endpoint (R272, R280, R282, R287, R288), where nothing but the sequencer
acts. -/

namespace Sys2Proof.Machine

open Sys2Proof

theorem withBit_true (w : Word) {k : Nat} (hk : k < 32) : withBit w k true = w ||| bit1 k := by
  refine word_ext fun j hj => ?_
  rw [bitOf_withBit, bitOf_or, bitOf_bit1]
  by_cases h : j = k
  · subst h
    simp [hj]
  · simp [h]

/-- A critical section that is not disturbed (R245). -/
theorem critical_calm {s : State} (k : s.Calm) : (∀ {α : Type} (p : M α) h, critical p h s = p h s) ∨
    (∀ {α : Type} (p : M α) h, critical p h s = p h (s.note (.rd 0x008 (s.raw .GAHBCFG)))) := by
  cases hc : s.ctx with
  | isr => exact .inl fun p h => critical_isr hc p h
  | task => exact .inr fun p h => critical_closed k.quiet hc k.settled p h

/-- The summary mask of the endpoints takes every word (R47). -/
@[simp] theorem State.stored_daintmsk (s : State) (v : Word) : s.stored .DAINTMSK v = v :=
  s.stored_keep rfl rfl fun k hk hm => by
    rw [show rwMask s.hw .DAINTMSK = 0xFFFFFFFF#32 from rfl, bitOf_allOnes ⟨k, hk⟩] at hm
    cases hm

theorem daintBit_lt (e : EpRef) : daintBit e < 32 := by
  obtain ⟨n, d⟩ := e
  cases d <;> simp only [daintBit] <;> omega

/-! The end of a request (R272). -/

@[simp] theorem run_freeSlot (n : Nat) (h : Hooks) (s : State) : freeSlot n h s = .ok ((), s.withPool (s.pool.set n none)) := rfl

/-- The record of an endpoint whose request has ended (R272). -/
def EpRec.ended (r : EpRec) : EpRec :=
  { r with
    state := if r.state = .active then .idle else r.state
    waits := false
    x := { r.x with active := none, zlpPhase := false, chunkLen := 0, chunkDone := 0 } }

theorem State.modReqAt_pool (s : State) (n : Nat) (f : Req → Req) :
    s.modReqAt (.pool n) f = s.withPool (s.pool.modify n fun o => o.map f) := rfl

theorem detachRequest_pool {s : State} {e : EpRef} {n : Nat} (ha : (s.ep e).x.active = some (.pool n))
    (st : Status) (h : Hooks) :
    ∃ u, detachRequest (.ep e) (.pool n) st h s = .ok ((), u) ∧ u.pool = s.pool.set n none ∧ u.ep e = (s.ep e).ended ∧
      u.trace = s.trace ∧ Frame s u [] [.ep e, .pool] := by
  refine ⟨_, by simp [detachRequest, run_bind, ha, markIdle, freeRequest]; rfl, ?_⟩
  have hset (l : List (Option Req)) (f : Req → Req) : (l.modify n fun o => o.map f).set n none = l.set n none := by
    rw [List.modify_eq_set_getElem?]
    cases l[n]? <;> simp
  simp [State.modReqAt_pool, hset, EpRec.ended]

/-- The active request of an endpoint ends, and the next one does not start (R287). -/
theorem completeKeep_pool {s : State} {e : EpRef} {n : Nat} {q : Req} (ha : (s.ep e).x.active = some (.pool n))
    (hq : s.pool[n]? = some (some q)) (hr : s.replies = []) (st : Status) (m : Nat) :
    ∃ u, completeKeep (.ep e) st (hooksAt m) s = .ok ((), u) ∧ u.pool = s.pool.set n none ∧ u.ep e = (s.ep e).ended ∧
      u.trace = .cb (.transferComplete q.cb q.ctx st q.done) :: s.trace ∧ Frame s u [] [.ep e, .pool] := by
  obtain ⟨u, hu, hpool, hep, htr, hf⟩ := detachRequest_pool ha st (hooksAt m)
  have hreq : s.reqAt (.pool n) = q := State.reqAt_pool hq
  have hru : u.replies = [] := hf.inputs.2.2.1.trans hr
  refine ⟨u.note (.cb (.transferComplete q.cb q.ctx st q.done)), ?_, by simpa using hpool, by simpa using hep, by simp [htr],
    by simpa using hf⟩
  simp [completeKeep, ha, run_bind_ok hu, doneCallback, hreq, hru]

theorem completeKeep_none {s : State} {e : EpRef} (ha : (s.ep e).x.active = none) (st : Status) (h : Hooks) :
    completeKeep (.ep e) st h s = .ok ((), s) := by
  simp [completeKeep, ha]

theorem epUnstall_other {s : State} {e : EpRef} (hs : (s.ep e).state ≠ .stalled) (h : Hooks) : epUnstall e h s = .ok ((), s) := by
  simp [epUnstall, epClearStall, run_bind, hs]

/-! The arming of an isochronous chain (R436). -/

/-- From `s` to `t` the chain of buffer `b` has been armed on an endpoint (R436). -/
structure State.ChainArmed (s t : State) (e : EpRef) (r : IsoRec) (b : Bool) : Prop where
  size : e.dir = .OUT → t.raw (epSiz e) = s.stored (epSiz e) (fld 19 10 r.pktPerBuf)
  addr : t.raw (epDma e) = r.chain b
  ctl : t.raw (epCtl e) = s.ctlWritten e (keepControl (s.raw (epCtl e)) ||| cnakEpena)
  frame : Frame s t [epSiz e, epDma e, epCtl e] []
  trace : s.trace <:+ t.trace

theorem isoArm_run {s : State} {e : EpRef} (k : s.Ready) (hm : s.hostMode = false) (hn : e.num.val < s.hw.caps.nEp) {r : IsoRec}
    (hi : s.isoOf (.ep e) = some r) (b : Bool) (h : Hooks) :
    ∃ u, isoArm (.ep e) b h s = .ok ((), u) ∧ s.ChainArmed u e r b := by
  cases hd : e.dir with
  | IN =>
    refine ⟨_, by simp [isoArm, run_bind, hi, k, hm, hn, hd]; rfl, ?_⟩
    constructor <;> simp [List.suffix_cons_iff, hd]
  | OUT =>
    refine ⟨_, by simp [isoArm, run_bind, hi, k, hm, hn, hd]; rfl, ?_⟩
    constructor <;> simp [List.suffix_cons_iff]

section
variable {s t : State} {e : EpRef} {r : IsoRec} {b : Bool} (p : s.ChainArmed t e r b)
include p

theorem State.ChainArmed.enabled : bitOf (t.raw (epCtl e)) 31 = true := by
  rw [p.ctl, s.bitOf_ctlWritten e _ (by decide) (by decide) (by decide)]
  simp [cnakEpena]

theorem State.ChainArmed.ready : bitOf (t.raw (epCtl e)) 17 = false := by
  rw [p.ctl, s.bitOf_ctlWritten_nak]
  simp [cnakEpena, bitOf_keepControl]

theorem State.ChainArmed.stall : bitOf (t.raw (epCtl e)) 21 = bitOf (s.raw (epCtl e)) 21 := by
  rw [p.ctl, s.bitOf_ctlWritten_keep e _ (by decide) (by decide) (by decide)]
  simp [cnakEpena]

end

/-! ENABLE_ENDPOINT (R280). -/

section
variable {s : State} (k : s.Calm) (hm : s.hostMode = false)
include k hm

theorem enableAccepted_run {d : Epd} (hn : (epdRef d).num.val < s.hw.caps.nEp) (h : Hooks) :
    ∃ u, enableAccepted d h s = .ok ((), u) ∧
      u.ep (epdRef d) = (s.ep (epdRef d)).reenabled d (s.descArray (.ep (epdRef d)) false) ∧
      u.raw (epCtl (epdRef d)) = (if (s.ep (epdRef d)).disabling then s.raw (epCtl (epdRef d))
        else s.ctlWritten (epdRef d) (enableWord d)) ∧
      u.raw .DAINTMSK = s.raw .DAINTMSK ||| bit1 (daintBit (epdRef d)) ∧
      Frame s u [epCtl (epdRef d), .DAINTMSK] [.ep (epdRef d)] := by
  have hbit := daintBit_lt (epdRef d)
  rcases critical_calm k with hc | hc <;> cases hd : (s.ep (epdRef d)).disabling <;>
    simp [enableAccepted, hc, run_bind, k, hm, hn, State.disabling, hd, withBit_true _ hbit]

/-! ENDPOINT_HALT is set (R287). -/

section
variable {e : EpRef} (hn : e.num.val < s.hw.caps.nEp)
include hn

/-- The first part of a stall: the control word, and what stays known of the disable. -/
theorem stallCtl_run (h : Hooks) : ∃ u,
    (∀ p : M Unit, (do
      let t ← regRead (epCtl e)
      regWrite (epCtl e) (stallWord e t)
      doIf (stallDisables e t) (modEp e fun r => { r with disabling := true })
      p) h s = p h u) ∧ u.Calm ∧
      u.ep e = { s.ep e with disabling := (s.ep e).disabling || stallDisables e (s.raw (epCtl e)) } ∧
      u.raw (epCtl e) = s.ctlWritten e (stallWord e (s.raw (epCtl e))) ∧ s.trace <:+ u.trace ∧
      Frame s u [epCtl e] [.ep e] := by
  cases hs : stallDisables e (s.raw (epCtl e)) <;>
    exact ⟨_, fun p => by simp [run_bind, k, hm, hn, hs]; rfl, by simp [k, List.suffix_cons_iff]⟩

theorem epSetStall_none (ha : (s.ep e).x.active = none) (h : Hooks) : ∃ u,
    epSetStall e h s = .ok ((), u) ∧
      u.ep e = { s.ep e with state := .stalled, disabling := (s.ep e).disabling || stallDisables e (s.raw (epCtl e)) } ∧
      u.raw (epCtl e) = s.ctlWritten e (stallWord e (s.raw (epCtl e))) ∧ Frame s u [epCtl e] [.ep e] := by
  obtain ⟨v, hv, _, hep, hctl, _, hf⟩ := stallCtl_run k hm hn h
  refine ⟨v.modEp e fun r => { r with state := .stalled }, ?_, by simp [hep], by simpa using hctl, by simpa using hf⟩
  refine (hv _).trans ?_
  rw [run_bind_ok (completeKeep_none (by simpa [hep] using ha) _ _)]
  rfl

theorem epSetStall_pool {n : Nat} {q : Req} (ha : (s.ep e).x.active = some (.pool n)) (hq : s.pool[n]? = some (some q))
    (hr : s.replies = []) (m : Nat) : ∃ u, epSetStall e (hooksAt m) s = .ok ((), u) ∧ u.pool = s.pool.set n none ∧
      u.ep e = { (s.ep e).ended with
        state := .stalled
        disabling := (s.ep e).disabling || stallDisables e (s.raw (epCtl e)) } ∧
      u.raw (epCtl e) = s.ctlWritten e (stallWord e (s.raw (epCtl e))) ∧
      (∃ l, u.trace = .cb (.transferComplete q.cb q.ctx .stalled q.done) :: l ∧ s.trace <:+ l) ∧
      Frame s u [epCtl e] [.ep e, .pool] := by
  obtain ⟨v, hv, _, hep, hctl, htr, hf⟩ := stallCtl_run k hm hn (hooksAt m)
  have hpool : v.pool = s.pool := hf.pool (by simp) (by simp)
  obtain ⟨w, hw, hwp, hwe, hwt, hwf⟩ := completeKeep_pool (s := v) (by rw [hep]; exact ha) (by rw [hpool]; exact hq)
    (hf.inputs.2.2.1.trans hr) .stalled m
  refine ⟨w.modEp e fun r => { r with state := .stalled }, ?_, ?_, ?_, ?_, ⟨v.trace, ?_, htr⟩, ?_⟩
  · refine (hv _).trans ?_
    rw [run_bind_ok hw]
    rfl
  · simp [hwp, hpool]
  · simp [hwe, hep, EpRec.ended]
  · rw [State.raw_of_modEp, hwf.raw_eq (by simp) (by simp), hctl]
  · simpa using hwt
  · exact (frame_modEp _ (by simp)).mpr ((hf.mono (by simp) (by simp)).trans (hwf.mono (by simp) (by simp)))

/-! ENDPOINT_HALT is cleared (R288). -/

/-- The control word that ends a stall. -/
def unstallWord (r : EpRec) (w : Word) : Word :=
  keepControl (withBit w 21 false) ||| bitIf (decide (r.type ≠ .isochronous)) 28

/-- A Stalled endpoint with no request, and nothing that waits for the end of the stall alone. -/
theorem epUnstall_idle (hs : (s.ep e).state = .stalled) (ha : (s.ep e).x.active = none) (hq : (s.ep e).x.queue = [])
    (hw : (s.ep e).waits = false) (hr : (s.ep e).rearm = false ∨ (s.ep e).disabling = true) (h : Hooks) : ∃ u,
    epUnstall e h s = .ok ((), u) ∧ u.ep e = { s.ep e with state := .idle } ∧
      u.raw (epCtl e) = s.ctlWritten e (unstallWord (s.ep e) (s.raw (epCtl e))) ∧ Frame s u [epCtl e] [.ep e] := by
  rcases hr with hr | hr <;>
    simp [epUnstall, epClearStall, nextRequest, startResume, run_bind, k, hm, hn, hs, ha, hq, hw, hr, State.xIdle, State.haltPends,
      unstallWord]

/-- A Stalled endpoint whose disable is still unconfirmed: the first queued request is the active one, and its first chunk waits. -/
theorem epUnstall_waits (hd : s.hw.debug = false) (hs : (s.ep e).state = .stalled) (ha : (s.ep e).x.active = none) {n : Nat}
    {l : List Nat} (hq : (s.ep e).x.queue = n :: l) (hdis : (s.ep e).disabling = true) (h : Hooks) : ∃ u,
    epUnstall e h s = .ok ((), u) ∧
      u.ep e = { s.ep e with
        state := .active
        waits := true
        x := { (s.ep e).x with active := some (.pool n), queue := l, zlpPhase := false } } ∧
      u.raw (epCtl e) = s.ctlWritten e (unstallWord (s.ep e) (s.raw (epCtl e))) ∧ Frame s u [epCtl e] [.ep e] := by
  simp [epUnstall, epClearStall, nextRequest, startTransfer, startResume, waitTransfer, run_bind, k, hm, hn, hs, ha, hq, hdis,
    State.xIdle, State.haltPends, State.started, State.disabling, EpRec.waiting, unstallWord, assertThat_release, hd]

/-- A Stalled endpoint whose isochronous chain has waited for the end of the stall: the chain is armed (R436). -/
theorem epUnstall_rearms {r : IsoRec} (hs : (s.ep e).state = .stalled) (ha : (s.ep e).x.active = none)
    (hq : (s.ep e).x.queue = []) (hw : (s.ep e).waits = false) (hr : (s.ep e).rearm = true) (hdis : (s.ep e).disabling = false)
    (hen : (s.ep e).enabled = true) (hi : s.isoOf (.ep e) = some r) (h : Hooks) : ∃ v u,
    epUnstall e h s = .ok ((), u) ∧ v.ep e = { s.ep e with state := .active, rearm := false } ∧
      v.raw (epCtl e) = s.ctlWritten e (unstallWord (s.ep e) (s.raw (epCtl e))) ∧ v.ChainArmed u e r r.procBuf ∧
      Frame s v [epCtl e] [.ep e] := by
  have hv : ∃ v, epUnstall e h s = isoArm (.ep e) r.procBuf h v ∧ v.Calm ∧ v.isoOf (.ep e) = some r ∧
      v.ep e = { s.ep e with state := .active, rearm := false } ∧
      v.raw (epCtl e) = s.ctlWritten e (unstallWord (s.ep e) (s.raw (epCtl e))) ∧ Frame s v [epCtl e] [.ep e] := by
    refine ⟨_, by simp [epUnstall, epClearStall, nextRequest, startResume, isoResume, isoArmCurrent, markActive, run_bind, k, hm,
      hn, hs, ha, hq, hw, hr, hdis, hen, State.xIdle, State.haltPends, State.scheduled, hi]; rfl, ?_⟩
    simp [k, hi, hdis, hen, hw, unstallWord]
  obtain ⟨v, hv, kv, hiv, hep, hctl, hf⟩ := hv
  obtain ⟨u, hu, p⟩ := isoArm_run kv.ready ((hf.hostMode_eq (by simp)).trans hm) (hf.hw ▸ hn) hiv r.procBuf h
  exact ⟨v, u, hv.trans hu, hep, hctl, p, hf⟩

end

end

/-! The bits that these words leave (R49). -/

section
variable (s : State) (e : EpRef)

/-- STALL can be written (R49). -/
theorem bitOf_rw_stall (hw : HwParams) : bitOf (rwMask hw (epCtl e)) 21 = true := by
  rw [(epCtl_masks hw e).1]
  cases e.dir <;> rfl

theorem State.bitOf_stalled (w : Word) : bitOf (s.ctlWritten e (stallWord e w)) 21 = true := by
  rw [s.bitOf_ctlWritten e _ (by decide) (by decide) (by decide), bitOf_rw_stall]
  simp [stallWord, bitOf_bit1]

theorem State.bitOf_stall_disables {w : Word} (h : stallDisables e w = true) :
    bitOf (s.ctlWritten e (stallWord e w)) 30 = true := by
  rw [s.bitOf_ctlWritten e _ (by decide) (by decide) (by decide)]
  simp [stallWord, h, haltWord]

theorem State.bitOf_unstalled (r : EpRec) (w : Word) : bitOf (s.ctlWritten e (unstallWord r w)) 21 = false := by
  rw [s.bitOf_ctlWritten e _ (by decide) (by decide) (by decide), bitOf_rw_stall]
  simp [unstallWord, bitOf_keepControl, bitOf_withBit, bitOf_bitIf]

theorem State.bitOf_unstalled_dpid {r : EpRec} (w : Word) (h : r.type ≠ .isochronous) :
    bitOf (s.ctlWritten e (unstallWord r w)) 16 = false := by
  rw [s.bitOf_ctlWritten_dpid]
  simp [unstallWord, bitOf_keepControl, bitOf_bitIf, h]

end

end Sys2Proof.Machine

/-! PROOF. Accepted requests without data (R311 to R313, R315, R316, R320). -/

namespace Sys2Proof.Machine

open Sys2Proof

/-- What the status packet adds to the state `u` that an accepted request has left. -/
structure State.AckSent (u t : State) : Prop where
  ep0 : t.ep0 = { u.ep0 with request := { blankReq with buf := u.ep0.reply } }
  frame : Frame u t [.DIEPTSIZ 0, .DIEPDMA 0, .DIEPCTL 0] [.ep0, .ep ⟨0, .IN⟩, .context]
  trace : u.trace <:+ t.trace

section
variable {u t : State} (k : u.AckSent t)
include k

theorem State.AckSent.ep {e : EpRef} (h : e.num ≠ 0) : t.ep e = u.ep e :=
  k.frame.ep e (by simp; rintro rfl; exact h rfl) (by simp)

theorem State.AckSent.ctl {e : EpRef} (h : e.num ≠ 0) : t.raw (epCtl e) = u.raw (epCtl e) :=
  k.frame.raw_eq (by simp [h]) (by simp)

theorem State.AckSent.dma {e : EpRef} (h : e.num ≠ 0) : t.raw (epDma e) = u.raw (epDma e) :=
  k.frame.raw_eq (by simp [h]) (by simp)

end

/-- A request whose handler accepts it: the status packet follows (R307). -/
theorem runReq_ack {s u : State} (a : s.Alone) (low : s.reservedLow) (c : s.ControlReady) {i : Instr} {n : BitVec 16}
    {p : M ReqResult} {regs : List Reg} {parts : List Part} (hp : p (hooksAt s.level) (s.inCtx .isr) = .ok (.ack, u))
    (hst : u.ep0.state = .inStatus) (hrep : u.ep0.reply = s.ep0.reply) (hep : u.ep ⟨0, .IN⟩ = s.ep ⟨0, .IN⟩)
    (f : Frame (s.inCtx .isr) u regs (.ep0 :: parts)) (hparts : .context ∉ parts ∧ .core ∉ parts ∧ .records ∉ parts)
    (hregs : ∀ q ∈ regs, q ∉ [.GAHBCFG, .GRSTCTL, .GINTSTS, .DIEPCTL 0, .DIEPTXF 0, .DIEPTSIZ 0]) :
    ∃ t, runReq i n p s = .next t ∧ s.Acknowledged t regs parts ∧ u.AckSent t := by
  have z : u.ZeroReady .IN := (c.zeroReady low a).of_frame f (by simpa using hparts) hregs (by rw [hep]; rfl) (by rw [hep]; rfl)
  obtain ⟨v, hv, hv0, hve, b⟩ := ep0Send_run z 0 false (hooksAt s.level)
  rw [Nat.zero_min] at hve b
  refine runEvt_of ⟨v, ?_, ⟨?_, ?_, ?_, ?_, ?_, ?_⟩, ?_, ?_, ?_⟩
  · rw [run_bind_ok hp]
    simpa [ep0Conclude, ep0Apply, hst] using hv
  · simp [hv0, hrep, blankReq]
  · simpa [hv0] using hst
  · simp [hve]
  · exact ⟨by simpa using b.size, by simpa using b.count⟩
  · simpa using b.enabled
  · refine Frame.event_trans (s := s) (u := s.inCtx .isr) (by simp) ((f.mono ?_ ?_).trans (b.frame.mono ?_ ?_)) <;> simp
  · simp [hv0, blankReq]
  · simpa using b.frame.mono (by simp) (by simp)
  · exact b.trace

/-! The handlers. -/

theorem forEach_idle {α : Type} {p : α → M Unit} {h : Hooks} {s : State} :
    ∀ {l : List α}, (∀ a ∈ l, p a h s = .ok ((), s)) → forEach l p h s = .ok ((), s)
  | [], _ => rfl
  | a :: l, hl => by
    rw [forEach, run_bind_ok (hl a (by simp))]
    exact forEach_idle fun b hb => hl b (by simp [hb])

theorem disableIfEnabled_idle {s : State} {e : EpRef} (he : (s.ep e).enabled = false) (h : Hooks) :
    disableIfEnabled e h s = .ok ((), s) := by
  simp [disableIfEnabled, he]

/-- Where no data endpoint is enabled none is disabled (R319). -/
theorem dropConfiguration_idle {s : State} (hen : ∀ e : EpRef, e.num ≠ 0 → (s.ep e).enabled = false) (h : Hooks) :
    dropConfiguration h s = .ok ((), s.withEp0 { s.ep0 with config := 0 }) := by
  have hall : deactivateAll h s = .ok ((), s) := by
    simp only [deactivateAll, run_ask_bind]
    refine forEach_idle fun e he => disableIfEnabled_idle (hen e fun h0 => ?_) h
    obtain ⟨n, hn, he⟩ := List.mem_flatMap.mp he
    have hne : n.val ≠ 0 := by
      have hp := (List.mem_filter.mp hn).2
      simp only [Bool.and_eq_true, decide_eq_true_eq] at hp
      exact hp.1
    have hnum : e.num = n := by
      simp only [List.mem_cons, List.not_mem_nil, or_false] at he
      rcases he with rfl | rfl <;> rfl
    exact hne (by rw [← hnum, h0]; rfl)
  rw [dropConfiguration, run_bind_ok hall]
  rfl

/-- A configuration of one endpoint is activated (R318). -/
theorem activateConfiguration_one {s : State} {d : Epd} (hd : s.enableCheck d = .ok) {u : State} {h : Hooks}
    (hu : enableAccepted d h s = .ok ((), u)) : activateConfiguration [d] [] h s = .ok (true, u) := by
  simp [activateConfiguration, hd, run_bind, hu]

/-- A descriptor that passes the checks of R280. -/
theorem State.enableCheck_ok {s : State} {d : Epd} (hd : s.enableCheck d = .ok) :
    (epdRef d).num ≠ 0 ∧ (epdRef d).num.val < s.core.caps.nEp ∧ (s.ep (epdRef d)).enabled = false := by
  unfold State.enableCheck at hd
  split at hd
  · cases hd
  · next hb =>
    split at hd
    · cases hd
    · next he => simp_all [epdBad]

section
variable {s : State} (h : Hooks)

/-- DCFG takes the device address (R313). -/
theorem setDevAddr_run (k : s.Calm) (hm : s.hostMode = false) {n : Nat} (hn : n < 128) :
    ∃ u, setDevAddr n h s = .ok ((), u) ∧ field (u.raw .DCFG) 4 7 = n ∧ u.ep0 = s.ep0 ∧ Frame s u [.DCFG] [] := by
  have hall : ∀ j : Fin 7, bitOf 0x008007F3#32 (4 + j) = true := by decide
  have hf (w : Word) : field (s.stored .DCFG (withField w 4 7 n)) 4 7 = n := by
    rw [s.field_stored_rw (r := .DCFG) (lo := 4) (len := 7) rfl rfl (by decide) (fun j hj => hall ⟨j, hj⟩), field_withField_same w n (by decide)]
    exact Nat.mod_eq_of_lt hn
  refine ⟨_, by simp [setDevAddr, k, hm, State.keepDma, k.settled]; rfl, by simp [hf]⟩

end

/-- What is told of an endpoint that an acknowledged request has enabled. -/
theorem State.AckSent.enabled {u t : State} (k : u.AckSent t) {d : Epd} {r : EpRec} {desc : Option Word} {w : Word}
    (h0 : (epdRef d).num ≠ 0) (hep : u.ep (epdRef d) = r.reenabled d desc)
    (hda : u.raw .DAINTMSK = w ||| bit1 (daintBit (epdRef d))) :
    (t.ep (epdRef d)).enabled = true ∧ (t.ep (epdRef d)).mps = epdMps d ∧
      bitOf (t.raw .DAINTMSK) (daintBit (epdRef d)) = true := by
  have hbit := daintBit_lt (epdRef d)
  rw [k.ep h0, hep, k.frame.raw_eq (by simp) (by simp), hda, bitOf_or, bitOf_bit1]
  exact ⟨rfl, rfl, by simp [hbit]⟩

section
variable {s : State} {f : SetupFields} (a : s.Alone) (low : s.reservedLow) (c : s.ControlReady) (hs : s.ep0.state = .inStatus)
  (hdir : f.dir = .OUT) (hlen : f.wLength = 0)
include a low c hs hdir hlen

theorem remoteWakeup_acknowledged (hr : f.recip = 0) (hv : f.wValue = 1) :
    (∃ t, exec (.setFeature f) s = .next t ∧ t.ep0.remoteWakeup = true ∧ s.Acknowledged t [] []) ∧
      (∃ t, exec (.clearFeature f) s = .next t ∧ t.ep0.remoteWakeup = false ∧ s.Acknowledged t [] []) := by
  constructor
  · obtain ⟨t, ht, hack, hsent⟩ := runReq_ack a low c (i := .setFeature f) (n := f.wLength) (p := setFeatureReq f) (regs := [])
      (parts := []) (u := (s.inCtx .isr).withEp0 { s.ep0 with remoteWakeup := true })
      (by simp [setFeatureReq, hdir, hlen, isRemoteWakeup, hr, hv, run_bind]) (by simpa using hs) (by simp) (by simp) (by simp)
      (by simp) (by simp)
    exact ⟨t, ht, by simp [hsent.ep0], hack⟩
  · obtain ⟨t, ht, hack, hsent⟩ := runReq_ack a low c (i := .clearFeature f) (n := f.wLength) (p := clearFeatureReq f) (regs := [])
      (parts := []) (u := (s.inCtx .isr).withEp0 { s.ep0 with remoteWakeup := false })
      (by simp [clearFeatureReq, hdir, hlen, isRemoteWakeup, hr, hv, run_bind]) (by simpa using hs) (by simp) (by simp) (by simp)
      (by simp) (by simp)
    exact ⟨t, ht, by simp [hsent.ep0], hack⟩

theorem address_acknowledged (hr : f.recip = 0) (hv : f.wValue.toNat ≤ 127) :
    ∃ t, exec (.setAddress f) s = .next t ∧ t.ep0.address.toNat = f.wValue.toNat ∧
      field (t.raw .DCFG) 4 7 = f.wValue.toNat ∧ s.Acknowledged t [.DCFG] [] := by
  obtain ⟨u, hu, haddr, hu0, hf⟩ := setDevAddr_run (s := (s.inCtx .isr).withEp0 { s.ep0 with address := f.wValue.setWidth 7 })
    (hooksAt s.level) (by simpa using a.calm) (by simpa using c.mode) (n := f.wValue.toNat) (by omega)
  have hsu : Frame (s.inCtx .isr) u [.DCFG] [.ep0] :=
    Frame.trans (t := (s.inCtx .isr).withEp0 { s.ep0 with address := f.wValue.setWidth 7 }) (by simp) (hf.mono (by simp) (by simp))
  obtain ⟨t, ht, hack, hsent⟩ := runReq_ack a low c (i := .setAddress f) (n := f.wLength) (p := setAddressReq f) (regs := [.DCFG])
    (parts := []) (u := u) (by simp [setAddressReq, hdir, hlen, hr, Nat.not_lt.mpr hv, run_bind, hu]) (by simpa [hu0] using hs)
    (by simp [hu0]) (by simp [hf.ep]) hsu (by simp) (by simp)
  exact ⟨t, ht, by simp [hsent.ep0, hu0]; omega, by rw [hsent.frame.raw_eq (by simp) (by simp), haddr], hack⟩

theorem unconfigured_acknowledged (hr : f.recip = 0) (hv : f.wValue.toNat % 256 = 0)
    (hen : ∀ e : EpRef, e.num ≠ 0 → (s.ep e).enabled = false) :
    ∃ t, exec (.setConfiguration f) s = .next t ∧ t.ep0.config = 0 ∧ s.Acknowledged t [] [] := by
  have hval : f.wValue.extractLsb' 0 8 = 0#8 := BitVec.eq_of_toNat_eq (by simpa [BitVec.extractLsb'_toNat] using hv)
  obtain ⟨t, ht, hack, hsent⟩ := runReq_ack a low c (i := .setConfiguration f) (n := f.wLength) (p := setConfigurationReq f)
    (regs := []) (parts := []) (u := (s.inCtx .isr).withEp0 { s.ep0 with config := 0 })
    (by simp [setConfigurationReq, hdir, hlen, hr, hval, run_bind, dropConfiguration_idle (s := s.inCtx .isr) hen])
    (by simpa using hs) (by simp) (by simp) (by simp) (by simp) (by simp)
  exact ⟨t, ht, by simp [hsent.ep0], hack⟩

section
variable {d : Epd} (hd : s.enableCheck d = .ok)
include hd

theorem configuration_acknowledged (hr : f.recip = 0) (hcfg : s.ep0.config = 0) (hv : f.wValue.toNat % 256 ≠ 0)
    (hl : s.configEndpoints (f.wValue.extractLsb' 0 8) = some [d]) :
    ∃ t, exec (.setConfiguration f) s = .next t ∧ t.ep0.config = f.wValue.extractLsb' 0 8 ∧
      (t.ep (epdRef d)).enabled = true ∧ (t.ep (epdRef d)).mps = epdMps d ∧
      bitOf (t.raw .DAINTMSK) (daintBit (epdRef d)) = true ∧
      s.Acknowledged t [epCtl (epdRef d), .DAINTMSK] [.ep (epdRef d)] := by
  have hval : f.wValue.extractLsb' 0 8 ≠ 0#8 := fun e =>
    hv (by simpa [BitVec.extractLsb'_toNat] using congrArg BitVec.toNat e)
  obtain ⟨h0, hn, hen⟩ := State.enableCheck_ok hd
  obtain ⟨u, hu, hep, _, hda, hf⟩ := enableAccepted_run a.calm (by simpa using c.mode) (d := d) (c.caps ▸ hn) (hooksAt s.level)
  have hu0 : u.ep0 = s.ep0 := hf.ep0 (by simp) (by simp)
  have hact := activateConfiguration_one (s := s.inCtx .isr) hd hu
  have hl' : (s.inCtx .isr).configEndpoints (f.wValue.extractLsb' 0 8) = some [d] := hl
  have hf0 : u.ep ⟨0, .IN⟩ = s.ep ⟨0, .IN⟩ := hf.ep _ (by simp; exact fun e => h0 (e ▸ rfl)) (by simp)
  obtain ⟨t, ht, hack, hsent⟩ := runReq_ack a low c (i := .setConfiguration f) (n := f.wLength) (p := setConfigurationReq f)
    (regs := [epCtl (epdRef d), .DAINTMSK]) (parts := [.ep (epdRef d)])
    (u := u.withEp0 { s.ep0 with config := f.wValue.extractLsb' 0 8 })
    (by simp [setConfigurationReq, hdir, hlen, hr, hval, hl', hcfg, run_bind, hact, hu0]) (by simpa using hs) (by simp)
    (by simpa using hf0) (by simpa using hf.mono (by simp) (by simp)) (by simp) (by simp [h0])
  obtain ⟨hen', hmps, hbit⟩ := hsent.enabled h0 (by simpa using hep) (by simpa using hda)
  exact ⟨t, ht, by simp [hsent.ep0], hen', hmps, hbit, hack⟩

theorem interface_acknowledged (hr : f.recip = 1) (hcfg : s.ep0.config ≠ 0) (hl : s.ifaceEndpoints f.wIndex f.wValue = some [d]) :
    ∃ t, exec (.setInterface f) s = .next t ∧ t.ep0.config = s.ep0.config ∧ (t.ep (epdRef d)).enabled = true ∧
      bitOf (t.raw .DAINTMSK) (daintBit (epdRef d)) = true ∧
      s.Acknowledged t [epCtl (epdRef d), .DAINTMSK] [.ep (epdRef d)] := by
  obtain ⟨h0, hn, hen⟩ := State.enableCheck_ok hd
  obtain ⟨u, hu, hep, _, hda, hf⟩ := enableAccepted_run a.calm (by simpa using c.mode) (d := d) (c.caps ▸ hn) (hooksAt s.level)
  have hu0 : u.ep0 = s.ep0 := hf.ep0 (by simp) (by simp)
  have hact := activateConfiguration_one (s := s.inCtx .isr) hd hu
  have hl' : (s.inCtx .isr).ifaceEndpoints f.wIndex f.wValue = some [d] := hl
  have hcfg' : s.ep0.config ≠ 0#8 := hcfg
  have hidle := disableIfEnabled_idle (s := s.inCtx .isr) (by simpa using hen) (hooksAt s.level)
  have hf0 : u.ep ⟨0, .IN⟩ = s.ep ⟨0, .IN⟩ := hf.ep _ (by simp; exact fun e => h0 (e ▸ rfl)) (by simp)
  obtain ⟨t, ht, hack, hsent⟩ := runReq_ack a low c (i := .setInterface f) (n := f.wLength) (p := setInterfaceReq f)
    (regs := [epCtl (epdRef d), .DAINTMSK]) (parts := [.ep (epdRef d)]) (u := u)
    (by simp [setInterfaceReq, hdir, hlen, hr, hl', hcfg', run_bind, hidle, hact, forEach]) (by simpa [hu0] using hs)
    (by simp [hu0]) hf0 (hf.mono (by simp) (by simp)) (by simp) (by simp [h0])
  obtain ⟨hen', _, hbit⟩ := hsent.enabled h0 hep hda
  exact ⟨t, ht, by simp [hsent.ep0, hu0], hen', hbit, hack⟩

end

omit hdir hlen in
/-- An ENDPOINT_HALT request of an endpoint other than 0 that its handler accepts. -/
theorem halt_acknowledged {e : EpRef} (h0 : e.num ≠ 0) {i : Instr} {p : M ReqResult} {regs : List Reg} {parts : List Part} {u : State}
    (hp : p (hooksAt s.level) (s.inCtx .isr) = .ok (.ack, u)) (hf : Frame (s.inCtx .isr) u regs parts)
    (hregs : ∀ q ∈ regs, q ∈ [epCtl e, epSiz e, epDma e]) (hparts : ∀ q ∈ parts, q ∈ [Part.ep e, .pool]) :
    ∃ t, runReq i f.wLength p s = .next t ∧ s.Acknowledged t regs parts ∧ u.AckSent t := by
  have hne {q : Part} (hq : q ∉ [Part.ep e, .pool]) : q ∉ parts := fun h => hq (hparts q h)
  have hu0 : u.ep0 = s.ep0 := hf.ep0 (hne (by simp)) (hne (by simp))
  have hin : (⟨0, .IN⟩ : EpRef) ≠ e := fun h => h0 (h ▸ rfl)
  refine runReq_ack a low c hp (by rw [hu0]; exact hs) (by rw [hu0]) (hf.ep _ (hne (by simp [hin])) (hne (by simp)))
    (hf.mono (by simp) (by simp)) ⟨hne (by simp), hne (by simp), hne (by simp)⟩ fun q hq => ?_
  have hq' := hregs q hq
  simp only [List.mem_cons, List.not_mem_nil, or_false] at hq'
  rcases hq' with rfl | rfl | rfl <;> simp [h0]

end

section
variable {s : State} {f : SetupFields} {e : EpRef} (hdir : f.dir = .OUT) (hlen : f.wLength = 0) (hr : f.recip = 2) (hv : f.wValue = 0)
  (he : e = indexEp f.wIndex) (h0 : e.num ≠ 0) (hn : e.num.val < s.core.caps.nEp) (hen : (s.ep e).enabled = true) {h : Hooks} {u : State}
include hdir hlen hr hv he h0 hn hen

theorem setHalt_run (hu : epSetStall e h s = .ok ((), u)) : setFeatureReq f h s = .ok (.ack, u) := by
  subst he
  simp [setFeatureReq, hdir, hlen, isRemoteWakeup, isEndpointHalt, hr, hv, h0, State.epListed, hn, hen, run_bind, hu]

theorem clearHalt_run (hu : epUnstall e h s = .ok ((), u)) : clearFeatureReq f h s = .ok (.ack, u) := by
  subst he
  simp [clearFeatureReq, hdir, hlen, isRemoteWakeup, isEndpointHalt, hr, hv, h0, State.epListed, hn, hen, run_bind, hu]

end

/-- Settles O58. -/
theorem requestsAreAcknowledged : Obligations.RequestsAreAcknowledged := by
  intro s f a low c hs hdir hlen
  refine ⟨remoteWakeup_acknowledged a low c hs hdir hlen, address_acknowledged a low c hs hdir hlen,
    unconfigured_acknowledged a low c hs hdir hlen, fun d hd => ⟨configuration_acknowledged a low c hs hdir hlen hd,
      interface_acknowledged a low c hs hdir hlen hd⟩, fun hr hv h0 => ?_, fun e hr hv he h0 hn hen => ?_⟩
  · obtain ⟨t, ht, hack, _⟩ := runReq_ack a low c (i := .clearFeature f) (n := f.wLength) (p := clearFeatureReq f) (regs := [])
      (parts := []) (u := s.inCtx .isr)
      (by simp [clearFeatureReq, hdir, hlen, isRemoteWakeup, isEndpointHalt, hr, hv, h0]) (by simpa using hs) (by simp)
      (by simp) (by simp) (by simp) (by simp)
    exact ⟨t, ht, hack⟩
  · have k := a.calm
    have hm : (s.inCtx .isr).hostMode = false := by simpa using c.mode
    have hset {u : State} := setHalt_run (s := s.inCtx .isr) (h := hooksAt s.level) (u := u) hdir hlen hr hv he h0 (c.caps ▸ hn) hen
    have hclear {u : State} := clearHalt_run (s := s.inCtx .isr) (h := hooksAt s.level) (u := u) hdir hlen hr hv he h0 (c.caps ▸ hn) hen
    refine ⟨fun ha => ?_, fun h q ha hq => ?_, fun h l hst ha hq hdis => ?_, fun hst ha hq hw hre => ?_, fun r hst ha hq hw hre hdis hi => ?_,
      fun hst => ?_⟩
    · obtain ⟨u, hu, hep, hctl, hf⟩ := epSetStall_none k hm (e := e) hn ha (hooksAt s.level)
      obtain ⟨t, ht, hack, hsent⟩ := halt_acknowledged a low c hs (f := f) h0 (hset hu) hf (by simp) (by simp)
      refine ⟨t, ht, (hsent.ep h0).trans hep, ?_, fun hstop => ?_, hack⟩
      · rw [hsent.ctl h0, hctl, State.bitOf_stalled]
      · rw [hsent.ctl h0, hctl]
        exact State.bitOf_stall_disables _ _ hstop
    · obtain ⟨u, hu, hpool, hep, hctl, ⟨l, htr, hl⟩, hf⟩ := epSetStall_pool k hm (e := e) hn ha hq a.replies s.level
      obtain ⟨t, ht, hack, hsent⟩ := halt_acknowledged a low c hs (f := f) h0 (hset hu) hf (by simp) (by simp)
      obtain ⟨l₁, hl₁⟩ := hsent.trace
      obtain ⟨l₂, hl₂⟩ := hl
      have htep := (hsent.ep h0).trans hep
      refine ⟨t, l₁ ++ .cb (.transferComplete q.cb q.ctx .stalled q.done) :: l₂, ht, ?_, by rw [htep], by rw [htep]; rfl,
        by rw [htep]; rfl, ?_, fun hstop => ⟨?_, ?_⟩, ?_, by simp, hack⟩
      · rw [hsent.frame.pool (by simp) (by simp), hpool]
        rfl
      · rw [hsent.ctl h0, hctl, State.bitOf_stalled]
      · rw [hsent.ctl h0, hctl]
        exact State.bitOf_stall_disables _ _ hstop
      · rw [htep]
        show ((s.ep e).disabling || _) = true
        rw [show stallDisables e ((s.inCtx .isr).raw (epCtl e)) = true from hstop, Bool.or_true]
      · rw [← hl₁, htr, ← hl₂]
        simp
    · obtain ⟨u, hu, hep, hctl, hf⟩ := epUnstall_waits k hm (e := e) hn a.release hst ha hq hdis (hooksAt s.level)
      obtain ⟨t, ht, hack, hsent⟩ := halt_acknowledged a low c hs (f := f) h0 (hclear hu) hf (by simp) (by simp)
      exact ⟨t, ht, (hsent.ep h0).trans hep, by rw [hsent.ctl h0, hctl, State.bitOf_unstalled], hack⟩
    · obtain ⟨u, hu, hep, hctl, hf⟩ := epUnstall_idle k hm (e := e) hn hst ha hq hw hre (hooksAt s.level)
      obtain ⟨t, ht, hack, hsent⟩ := halt_acknowledged a low c hs (f := f) h0 (hclear hu) hf (by simp) (by simp)
      exact ⟨t, ht, (hsent.ep h0).trans hep, by rw [hsent.ctl h0, hctl, State.bitOf_unstalled],
        fun hty => by rw [hsent.ctl h0, hctl]; exact State.bitOf_unstalled_dpid _ _ _ hty, hack⟩
    · obtain ⟨v, u, hu, hep, hctl, p, hvf⟩ := epUnstall_rearms k hm (e := e) hn hst ha hq hw hre hdis hen hi (hooksAt s.level)
      have hf : Frame (s.inCtx .isr) u [epCtl e, epSiz e, epDma e] [.ep e] :=
        (hvf.mono (by simp) (by simp)).trans (p.frame.mono (by simp) (by simp))
      obtain ⟨t, ht, hack, hsent⟩ := halt_acknowledged a low c hs (f := f) h0 (hclear hu) hf (by simp) (by simp)
      refine ⟨t, ht, ?_, (hsent.dma h0).trans p.addr, by rw [hsent.ctl h0, p.enabled], by rw [hsent.ctl h0, p.ready], ?_, hack⟩
      · rw [hsent.ep h0, p.frame.ep e (by simp) (by simp), hep]
        rfl
      · rw [hsent.ctl h0, p.stall, hctl, State.bitOf_unstalled]
    · obtain ⟨t, ht, hack, _⟩ := halt_acknowledged a low c hs (f := f) h0 (hclear (epUnstall_other (by simpa using hst) _))
        (regs := []) (parts := []) (by simp) (by simp) (by simp)
      exact ⟨t, ht, hack⟩

end Sys2Proof.Machine

/-! PROOF. Enabling an endpoint (R280). -/

namespace Sys2Proof.Machine

open Sys2Proof

/-- A field of RW bits of a control register takes what is written (R49). -/
theorem State.field_ctlWritten (s : State) (e : EpRef) (v : Word) {lo len : Nat} (hlen : lo + len ≤ 30)
    (h16 : ∀ k < len, lo + k ≠ 16 ∧ lo + k ≠ 17) (hrw : ∀ k < len, bitOf (rwMask s.hw (epCtl e)) (lo + k) = true) :
    field (s.ctlWritten e v) lo len = field v lo len := by
  refine field_congr fun k hk => ?_
  rw [s.bitOf_ctlWritten e v (by omega) (h16 k hk).1 (h16 k hk).2, hrw k hk, decide_eq_false (show ¬30 ≤ lo + k by omega)]
  simp

theorem typeCode_epdType (d : Epd) : typeCode (epdType d) = (d.bmAttributes &&& 3).toNat := by
  have hand : (d.bmAttributes &&& 3).toNat = (d.bmAttributes.extractLsb' 0 2).toNat := by
    rw [BitVec.toNat_and, BitVec.extractLsb'_toNat, Nat.shiftRight_zero]
    exact Nat.and_two_pow_sub_one_eq_mod _ 2
  have hlt := (d.bmAttributes.extractLsb' 0 2).isLt
  rw [hand, epdType]
  generalize (d.bmAttributes.extractLsb' 0 2).toNat = v at hlt ⊢
  interval_cases v <;> rfl

theorem epdMps_lt (d : Epd) : epdMps d < 2 ^ 11 := (d.wMaxPacketSize.extractLsb' 0 11).isLt

/-- The RW bits of the fields of `enableWord` (R49). -/
theorem rw_enable (hw : HwParams) (e : EpRef) : (∀ k < 11, bitOf (rwMask hw (epCtl e)) (0 + k) = true) ∧
    bitOf (rwMask hw (epCtl e)) 15 = true ∧ (∀ k < 2, bitOf (rwMask hw (epCtl e)) (18 + k) = true) ∧
    (e.dir = .IN → ∀ k < 4, bitOf (rwMask hw (epCtl e)) (22 + k) = true) := by
  have hin : (∀ k < 11, bitOf 0x03EC87FF#32 (0 + k) = true) ∧ bitOf 0x03EC87FF#32 15 = true ∧
      (∀ k < 2, bitOf 0x03EC87FF#32 (18 + k) = true) ∧ (∀ k < 4, bitOf 0x03EC87FF#32 (22 + k) = true) := by decide
  have hout : (∀ k < 11, bitOf 0x002C87FF#32 (0 + k) = true) ∧ bitOf 0x002C87FF#32 15 = true ∧
      (∀ k < 2, bitOf 0x002C87FF#32 (18 + k) = true) := by decide
  rw [(epCtl_masks hw e).1]
  obtain ⟨n, d⟩ := e
  cases d
  case IN => exact ⟨hin.1, hin.2.1, hin.2.2.1, fun _ => hin.2.2.2⟩
  case OUT => exact ⟨hout.1, hout.2.1, hout.2.2, fun h => by cases h⟩

/-- The control register of an endpoint that has been enabled (R280). -/
structure EnabledWord (w : Word) (d : Epd) : Prop where
  mps : field w 0 11 = epdMps d
  usb : bitOf w 15 = true
  type : field w 18 2 = (d.bmAttributes &&& 3).toNat
  nak : bitOf w 17 = true
  dpid : bitOf w 16 = false
  fifo : (epdRef d).dir = .IN → field w 22 4 = (epdRef d).num.val

/-- TXFNUM of the control word of an IN endpoint (R280). -/
def fifoField (e : EpRef) : Word := if e.dir = .IN then fld 22 4 e.num.val else 0

theorem enableWord_eq (d : Epd) : enableWord d = fld 0 11 (epdMps d) ||| bit1 15 ||| fld 18 2 (typeCode (epdType d)) |||
    fifoField (epdRef d) ||| bit1 27 ||| bit1 28 := by
  cases hd : (epdRef d).dir <;> simp [enableWord, fifoField, hd]

theorem field_fifoField_low (e : EpRef) {lo len : Nat} (h : lo + len ≤ 22) : field (fifoField e) lo len = 0 := by
  unfold fifoField
  split
  · exact field_fld_other _ (.inr h)
  · exact (field_eq_iff (Nat.two_pow_pos len)).mpr fun k _ => by
      rw [Nat.zero_testBit]
      exact bitOf_zero _

theorem bitOf_fifoField (e : EpRef) {k : Nat} (h : k < 22 ∨ 26 ≤ k) : bitOf (fifoField e) k = false := by
  unfold fifoField
  split
  · rw [bitOf_fld]
    simp
    omega
  · exact bitOf_zero k

theorem State.enabledWord (s : State) (d : Epd) : EnabledWord (s.ctlWritten (epdRef d) (enableWord d)) d := by
  obtain ⟨hm, h15, ht, hf⟩ := rw_enable s.hw (epdRef d)
  have hmps := epdMps_lt d
  have htype : typeCode (epdType d) < 2 ^ 2 := by
    rw [typeCode_epdType, BitVec.toNat_and]
    exact Nat.and_lt_two_pow _ (by decide)
  refine ⟨?_, ?_, ?_, ?_, ?_, fun hin => ?_⟩
  · rw [s.field_ctlWritten _ _ (by decide) (by omega) hm, enableWord_eq]
    simp [field_fifoField_low, field_fld_other, field_bit1_other, field_fld_same]
    exact hmps
  · rw [s.bitOf_ctlWritten _ _ (by decide) (by decide) (by decide), h15, enableWord_eq]
    simp [bitOf_bit1]
  · rw [s.field_ctlWritten _ _ (by decide) (by omega) ht, enableWord_eq, ← typeCode_epdType]
    simp [field_fifoField_low, field_fld_other, field_bit1_other, field_fld_same]
    exact htype
  · rw [s.bitOf_ctlWritten_nak, enableWord_eq]
    simp [bitOf_bit1]
  · rw [s.bitOf_ctlWritten_dpid, enableWord_eq]
    simp [bitOf_bit1, bitOf_fifoField, bitOf_fld]
  · rw [s.field_ctlWritten _ _ (by decide) (by omega) (hf hin), enableWord_eq, fifoField, if_pos hin]
    simp [field_fld_other, field_bit1_other, field_fld_same, Nat.mod_eq_of_lt (epdRef d).num.isLt]

/-- ENABLE_ENDPOINT of a descriptor that a check refuses (R280). -/
theorem enableEndpoint_refused {s : State} {d : Epd} (hd : s.enableCheck d ≠ .ok) (h : Hooks) :
    enableEndpoint d h s = .ok (s.enableCheck d, s) := by
  simp [enableEndpoint, hd]

theorem enableEndpoint_ok {s u : State} {d : Epd} (hd : s.enableCheck d = .ok) {h : Hooks}
    (hu : enableAccepted d h s = .ok ((), u)) : enableEndpoint d h s = .ok (.ok, u) := by
  simp [enableEndpoint, hd, run_bind, hu]

/-- Settles O29. -/
theorem enableEndpointActivatesIt : Obligations.EnableEndpointActivatesIt := by
  intro s d a hsh ⟨hm, hp, hf, hcaps⟩ e desc status
  have hcheck : status = s.enableCheck d := by
    simp only [status, e, desc, State.enableCheck, epdBad, hcaps, State.isDesc, Bool.or_eq_true, decide_eq_true_eq, or_assoc]
  have hcmd (h : Hooks) : enableEndpointCmd d h s = (do let st ← enableEndpoint d; pure (Result.status st)) h s :=
    needFunctional_on hf _ h
  refine ⟨fun hok => ?_, fun hok => ?_⟩
  · rw [hcheck] at hok
    obtain ⟨h0, hn, hen⟩ := State.enableCheck_ok hok
    obtain ⟨u, hu, hep, hctl, hda, hfr⟩ := enableAccepted_run (a.calmTask hsh) hm (d := d) (hcaps ▸ hn) (hooksAt s.level)
    refine runCmd_of ⟨.status .ok, u, ?_, by simp, ?_⟩
    · rw [hcmd, run_bind_ok (enableEndpoint_ok hok hu)]
      rfl
    · have hepe : u.ep e = (s.ep e).reenabled d desc := hep
      have hw := s.enabledWord d
      simp only [State.ep_of_returned, State.raw_of_returned, frame_returned]
      rw [hepe]
      refine ⟨rfl, rfl, ?_, rfl, rfl, rfl, rfl, rfl, rfl, fun hd => ?_, fun hd => ⟨?_, ?_⟩, ?_, hfr⟩
      · cases hdir : e.dir <;> simp [EpRec.reenabled, enabledRecord, e, hdir]
      · have hctl' : u.raw (epCtl e) = s.ctlWritten e (enableWord d) := by
          rw [hctl, if_neg (by rw [hd]; exact Bool.false_ne_true)]
        rw [hctl']
        exact ⟨by simp [EpRec.reenabled, hd], hw.mps, hw.usb, hw.type, hw.nak, hw.dpid, hw.fifo⟩
      · simp [EpRec.reenabled, hd]
      · rw [hctl, if_pos hd]
      · rw [hda]
        cases hdir : e.dir <;> simp [daintBit, e, hdir]
  · rw [hcheck] at hok ⊢
    refine runCmd_of ⟨.status (s.enableCheck d), s, ?_, ?_, ?_⟩
    · rw [hcmd, run_bind_ok (enableEndpoint_refused hok _)]
      rfl
    · simp
    · simp

end Sys2Proof.Machine

/-! PROOF. Disabling an endpoint (R282, R284). -/

namespace Sys2Proof.Machine

open Sys2Proof

/-! The critical section of a command (R245). -/

/-- The state in which the body of a critical section runs: in task context GAHBCFG has been read. -/
def State.guarded (s : State) : State :=
  match s.ctx with
  | .isr => s
  | .task => s.note (.rd 0x008 (s.raw .GAHBCFG))

theorem State.guarded_cases (s : State) : s.guarded = s ∨ s.guarded = s.note (.rd 0x008 (s.raw .GAHBCFG)) := by
  unfold State.guarded
  split
  · exact .inl rfl
  · exact .inr rfl

theorem critical_guarded {α : Type} {s : State} (k : s.Calm) (p : M α) (h : Hooks) : critical p h s = p h s.guarded := by
  unfold State.guarded
  split
  · next hc => exact critical_isr hc p h
  · next hc => exact critical_closed k.quiet hc k.settled p h

section
variable (s : State)

/-- What a read of GAHBCFG does not change. -/
theorem State.guarded_same {α : Type} (g : State → α) (h : g (s.note (.rd 0x008 (s.raw .GAHBCFG))) = g s) : g s.guarded = g s := by
  rcases s.guarded_cases with e | e <;> rw [e]
  exact h

@[simp] theorem State.ep_guarded (e : EpRef) : s.guarded.ep e = s.ep e := s.guarded_same (·.ep e) rfl
@[simp] theorem State.chan_guarded (c : Fin 16) : s.guarded.chan c = s.chan c := s.guarded_same (·.chan c) rfl
@[simp] theorem State.raw_guarded (r : Reg) : s.guarded.raw r = s.raw r := s.guarded_same (·.raw r) rfl
@[simp] theorem State.hw_guarded : s.guarded.hw = s.hw := s.guarded_same (·.hw) rfl
@[simp] theorem State.core_guarded : s.guarded.core = s.core := s.guarded_same (·.core) rfl
@[simp] theorem State.plat_guarded : s.guarded.plat = s.plat := s.guarded_same (·.plat) rfl
@[simp] theorem State.pool_guarded : s.guarded.pool = s.pool := s.guarded_same (·.pool) rfl
@[simp] theorem State.iso_guarded : s.guarded.iso = s.iso := s.guarded_same (·.iso) rfl
@[simp] theorem State.fifo_guarded : s.guarded.fifo = s.fifo := s.guarded_same (·.fifo) rfl
@[simp] theorem State.htog_guarded : s.guarded.htog = s.htog := s.guarded_same (·.htog) rfl
@[simp] theorem State.replies_guarded : s.guarded.replies = s.replies := s.guarded_same (·.replies) rfl
@[simp] theorem State.hostMode_guarded : s.guarded.hostMode = s.hostMode := s.guarded_same (·.hostMode) rfl
@[simp] theorem State.isSlave_guarded : s.guarded.isSlave = s.isSlave := s.guarded_same (·.isSlave) rfl
@[simp] theorem State.isDesc_guarded : s.guarded.isDesc = s.isDesc := s.guarded_same (·.isDesc) rfl
@[simp] theorem State.peripheral_guarded : s.guarded.peripheral = s.peripheral := s.guarded_same (·.peripheral) rfl
@[simp] theorem State.reqAt_guarded (i : ReqId) : s.guarded.reqAt i = s.reqAt i := s.guarded_same (·.reqAt i) rfl
@[simp] theorem State.slotUsed_guarded (n : Nat) : s.guarded.slotUsed n = s.slotUsed n := s.guarded_same (·.slotUsed n) rfl
@[simp] theorem State.isoOf_guarded (x : XRef) : s.guarded.isoOf x = s.isoOf x := s.guarded_same (·.isoOf x) rfl
@[simp] theorem State.scheduled_guarded (x : XRef) : s.guarded.scheduled x = s.scheduled x := s.guarded_same (·.scheduled x) rfl
@[simp] theorem State.word_guarded (a : Word) : s.guarded.word a = s.word a := s.guarded_same (·.word a) rfl
@[simp] theorem State.byte_guarded (a : Word) : s.guarded.byte a = s.byte a := s.guarded_same (·.byte a) rfl
@[simp] theorem State.ctlWritten_guarded (e : EpRef) (v : Word) : s.guarded.ctlWritten e v = s.ctlWritten e v :=
  s.guarded_same (·.ctlWritten e v) rfl
@[simp] theorem State.stored_guarded (r : Reg) (v : Word) : s.guarded.stored r v = s.stored r v :=
  s.guarded_same (·.stored r v) rfl

@[simp] theorem State.calm_guarded : s.guarded.Calm ↔ s.Calm := by
  rcases s.guarded_cases with e | e <;> rw [e]
  exact s.calm_note _

theorem State.trace_guarded : s.trace <:+ s.guarded.trace := by
  rcases s.guarded_cases with e | e <;> rw [e]
  exact List.suffix_cons _ _

variable (t : State) {rs : List Reg} {ps : List Part}

@[simp] theorem frame_guarded : Frame t s.guarded rs ps ↔ Frame t s rs ps := by
  rcases s.guarded_cases with e | e <;> rw [e]
  exact frame_note _

@[simp] theorem frame_of_guarded : Frame s.guarded t rs ps ↔ Frame s t rs ps := by
  have h : Frame s s.guarded [] [] := by simp
  exact ⟨fun f => (h.mono (by simp) (by simp)).trans f, fun f => (h.symm.mono (by simp) (by simp)).trans f⟩

end

/-! DISABLE_ENDPOINT. -/

section
variable {s : State} {e : EpRef} (k : s.Calm) (hm : s.hostMode = false) (hn : e.num.val < s.hw.caps.nEp)
include k hm hn

/-- An endpoint is taken out of use (R282). -/
theorem deactivate_run (h : Hooks) : ∃ u, deactivate e h s = .ok ((), u) ∧
    u.ep e = { s.ep e with state := .idle } ∧ u.raw (epCtl e) = s.ctlWritten e (bit1 27) ∧
    u.raw .DAINTMSK = s.raw .DAINTMSK &&& ~~~(bit1 (daintBit e)) ∧
    (s.isSlave = true → e.dir = .IN → bitOf (u.raw .DIEPEMPMSK) e.num.val = false) ∧
    Frame s u [epCtl e, .DAINTMSK, .DIEPEMPMSK] [.ep e] := by
  have hbit := withBit_false (s.raw .DAINTMSK) (daintBit e)
  by_cases hs : s.isSlave = true ∧ e.dir = .IN
  · simp [deactivate, run_bind, k, hm, hn, hs, setEmptyMask, hbit]
  · have hs' : (s.isSlave && decide (e.dir = .IN)) = false := by simpa using hs
    simp only [deactivate, run_ask_bind, hs']
    simp [run_bind, k, hm, hn, hbit]
    exact fun h1 h2 => absurd ⟨h1, h2⟩ hs

variable (h0 : e.num ≠ 0) (hen : (s.ep e).enabled = true) (hs : (s.ep e).state ≠ .haltedPendingDisable)
include h0 hen hs

/-- An endpoint without a request is taken out of use at once (R282). -/
theorem disableEndpoint_idle (ha : (s.ep e).x.active = none) (hq : (s.ep e).x.queue = []) (h : Hooks) :
    ∃ u, disableEndpoint e h s = .ok (.ok, u) ∧
      u.ep e = { s.ep e with enabled := false, state := .idle } ∧ u.raw (epCtl e) = s.ctlWritten e (bit1 27) ∧
      u.raw .DAINTMSK = s.raw .DAINTMSK &&& ~~~(bit1 (daintBit e)) ∧
      (s.isSlave = true → e.dir = .IN → bitOf (u.raw .DIEPEMPMSK) e.num.val = false) ∧
      Frame s u [epCtl e, .DAINTMSK, .DIEPEMPMSK] [.ep e] := by
  obtain ⟨u, hu, hep, hctl, hda, hem, hf⟩ := deactivate_run (s := s.guarded.modEp e fun r => { r with enabled := false }) (e := e)
    (by simpa using k) (by simpa using hm) (by simpa using hn) h
  refine ⟨u, ?_, by simpa using hep, by simpa using hctl, by simpa using hda, by simpa using hem, ?_⟩
  · simp [disableEndpoint, h0, hen, critical_guarded k, run_bind, ha, hq, hs, hu]
  · exact Frame.trans (t := s.guarded.modEp e fun r => { r with enabled := false }) (by simp) hf

/-- The disable of an endpoint that runs is asked for, or awaited (R284). -/
theorem disableEndpoint_running (hreq : (s.ep e).x.active ≠ none ∨ (s.ep e).x.queue ≠ []) (h31 : bitOf (s.raw (epCtl e)) 31 = true)
    (h : Hooks) : ∃ u, disableEndpoint e h s = .ok (.ok, u) ∧
      u.ep e = { s.ep e with
        enabled := false
        state := .haltedPendingDisable
        pendingStatus := .cancelled
        pendingAll := true
        disabling := true
        rearm := false } ∧
      ((s.ep e).disabling = true → Frame s u [] [.ep e]) ∧
      ((s.ep e).disabling = false → u.raw (epMsk e) = s.raw (epMsk e) ||| 0x2 ∧
        u.raw (epCtl e) = s.raw (epCtl e) ||| 0x40020000 ∧ Frame s u [epCtl e, epMsk e] [.ep e]) := by
  have hf : Frame s (s.guarded.modEp e fun r => { r with enabled := false }) [] [.ep e] := by simp
  obtain ⟨u, hu, hep, hd1, hd2⟩ := abortEndpoint_running (s := s.guarded.modEp e fun r => { r with enabled := false }) (e := e)
    (by simpa using k) (by simpa using hm) (by simpa using hn) (by simpa using hs) (by simpa using h31) .cancelled true h
  refine ⟨u, ?_, by simpa using hep, fun hd => hf.trans (hd1 (by simpa using hd)), fun hd => ?_⟩
  · have hb : (decide ((s.ep e).x.active ≠ none) || !(s.ep e).x.queue.isEmpty) = true := by simpa using hreq
    simp only [disableEndpoint, run_ask_bind, h0, hen, false_or, Bool.true_eq_false, if_false, critical_guarded k]
    simp only [run_bind, run_modEp, run_ask, State.ep_modEp_same, State.ep_guarded, run_doIf, hb, if_true, hu, hep]
    simp
  · obtain ⟨hmsk, hctl, hfu⟩ := hd2 (by simpa using hd)
    exact ⟨by simpa using hmsk, by simpa using hctl, (hf.mono (by simp) (by simp)).trans hfu⟩

end

/-- Settles O30. -/
theorem disableEndpointOutcomes : Obligations.DisableEndpointOutcomes := by
  intro s e a hsh ⟨hm, hp, hfun, hcaps⟩ hn
  have k := a.calmTask hsh
  have hcmd (h : Hooks) : disableEndpointCmd e h s = (do let st ← disableEndpoint e; pure (Result.status st)) h s :=
    needFunctional_on hfun _ h
  have run {Q : State → Prop} {st : Status} (h : ∃ u, disableEndpoint e (hooksAt s.level) s = .ok (st, u) ∧
      Q (u.returned (.status st))) : ∃ t, exec (.disableEndpoint e) s = .next t ∧ t.result = .status st ∧ Q t := by
    obtain ⟨u, hu, hq⟩ := h
    exact runCmd_of ⟨.status st, u, by rw [hcmd, run_bind_ok hu]; rfl, by simp, hq⟩
  refine ⟨fun h => run ⟨s, ?_, by simp⟩, fun h0 hen hs ha hq => run ?_, fun h0 hen hs hreq h31 => run ?_⟩
  · simp [disableEndpoint, h]
  · obtain ⟨u, hu, hep, hctl, hda, hem, hf⟩ := disableEndpoint_idle k hm hn h0 hen hs ha hq (hooksAt s.level)
    refine ⟨u, hu, by simpa using hep, ?_, ?_, ?_, by simpa using hda, by simpa using hem, by simpa using hf⟩
    · rw [State.raw_of_returned, hctl, s.field_ctlWritten e _ (by decide) (by omega) (rw_enable s.hw e).1]
      rfl
    · rw [State.raw_of_returned, hctl, s.bitOf_ctlWritten e _ (by decide) (by decide) (by decide), (rw_enable s.hw e).2.1]
      rfl
    · rw [State.raw_of_returned, hctl, s.bitOf_ctlWritten_nak e]
      rfl
  · obtain ⟨u, hu, hep, hd1, hd2⟩ := disableEndpoint_running k hm hn h0 hen hs hreq h31 (hooksAt s.level)
    refine ⟨u, hu, by simpa using hep, fun hd => by simpa using hd1 hd, fun hd => ?_⟩
    obtain ⟨hmsk, hctl, hf⟩ := hd2 hd
    exact ⟨by simp [hctl, bitOf_or], by simp [hmsk, bitOf_or], by simpa using hf⟩

end Sys2Proof.Machine

/-! PROOF. The end of an endpoint's request (R272), and the end of its abort (R284). -/

namespace Sys2Proof.Machine

open Sys2Proof

section
variable {s : State} {e : EpRef} {n : Nat} {q : Req} (ha : (s.ep e).x.active = some (.pool n)) (hqu : (s.ep e).x.queue = [])
  (hq : s.pool[n]? = some (some q)) (hr : s.replies = []) (m : Nat)

omit hqu in
theorem nextRequest_none (hqu : (s.ep e).x.queue = []) (h : Hooks) : nextRequest (.ep e) h s = .ok ((), s) := by
  simp only [nextRequest, run_ask_bind, id, State.xfer_ep, hqu]
  exact (run_ite _ _ _ _ _).trans (ite_self _)

include ha hqu hq hr

/-- The last request of an endpoint ends (R272). -/
theorem completeRequest_last (st : Status) : ∃ u, completeRequest (.ep e) st (hooksAt m) s = .ok ((), u) ∧
    u.pool = s.pool.set n none ∧ u.ep e = (s.ep e).ended ∧ u.trace = .cb (.transferComplete q.cb q.ctx st q.done) :: s.trace ∧
    Frame s u [] [.ep e, .pool] := by
  obtain ⟨u, hu, hpool, hep, htr, hf⟩ := detachRequest_pool ha st (hooksAt m)
  have hreq : s.reqAt (.pool n) = q := State.reqAt_pool hq
  have hru : u.replies = [] := hf.inputs.2.2.1.trans hr
  have hnext := nextRequest_none (s := u) (e := e) (by rw [hep]; exact hqu) (hooksAt m)
  refine ⟨u.note (.cb (.transferComplete q.cb q.ctx st q.done)), ?_, by simpa using hpool, by simpa using hep, by simp [htr],
    by simpa using hf⟩
  simp [completeRequest, ha, run_bind_ok hu, afterRequest, run_bind_ok hnext, doneCallback, hreq, hru]

/-- An abort that takes the last request of an endpoint in use is over (R284). -/
theorem finishAbort_last (hen : (s.ep e).enabled = true) : ∃ u, finishAbort e (hooksAt m) s = .ok ((), u) ∧
    u.pool = s.pool.set n none ∧
    u.ep e = { (s.ep e).ended with
      state := if (s.ep e).state = .active ∨ (s.ep e).state = EpState.haltedPendingDisable then EpState.idle else (s.ep e).state } ∧
    u.trace = .cb (.transferComplete q.cb q.ctx (s.ep e).pendingStatus q.done) :: s.trace ∧ Frame s u [] [.ep e, .pool] := by
  have hx : { (s.ep e).x with active := some (.pool n), queue := [] } = (s.ep e).x := by rw [← hqu, ← ha]
  have hv : ∃ v, (∀ p : M Unit, (do
      doIf (decide ((s.ep e).state = EpState.haltedPendingDisable))
        (modEp e fun r => { r with state := if r.x.active = none then EpState.idle else EpState.active })
      doIf (s.ep e).pendingAll (modX (.ep e) fun t => { t with queue := [] })
      p) (hooksAt m) s = p (hooksAt m) v) ∧ v.ep e = { s.ep e with
        state := if (s.ep e).state = EpState.haltedPendingDisable then EpState.active else (s.ep e).state } ∧
      v.pool = s.pool ∧ v.trace = s.trace ∧ v.replies = s.replies ∧ Frame s v [] [.ep e] := by
    by_cases hs : (s.ep e).state = EpState.haltedPendingDisable <;> cases hp : (s.ep e).pendingAll <;>
      exact ⟨_, fun p => by simp [run_bind, hs]; rfl, by simp [ha, hs, hx]⟩
  obtain ⟨v, hv, hep, hpool, htr, hrep, hf⟩ := hv
  obtain ⟨u, hu, hup, hue, hut, huf⟩ := completeRequest_last (s := v) (by rw [hep]; exact ha) (by rw [hep]; exact hqu)
    (by rw [hpool]; exact hq) (hrep.trans hr) m (s.ep e).pendingStatus
  have hue' : (u.ep e).enabled = true := by rw [hue, hep]; exact hen
  refine ⟨u, ?_, by rw [hup, hpool], ?_, by rw [hut, htr], (hf.mono (by simp) (by simp)).trans huf⟩
  · simp only [finishAbort, run_ask_bind]
    rw [hv]
    simp [ha, hqu, run_bind, hu, hue', forEach]
  · rw [hue, hep]
    by_cases hs : (s.ep e).state = EpState.haltedPendingDisable <;> simp [EpRec.ended, hs]

end

end Sys2Proof.Machine

/-! PROOF. CANCEL and ISO_STOP: the owner of a request goes the way of a cancelled one (R283, R442). -/

namespace Sys2Proof.Machine

open Sys2Proof

/-- The abort of an endpoint that the hardware does not run ends its last request (R284). -/
theorem abortEndpoint_stopped {s : State} {e : EpRef} (k : s.Calm) (hm : s.hostMode = false) (hn : e.num.val < s.hw.caps.nEp)
    (hs : (s.ep e).state ≠ .haltedPendingDisable) (hen : (s.ep e).enabled = true) (h31 : bitOf (s.raw (epCtl e)) 31 = false)
    {n : Nat} {q : Req} (ha : (s.ep e).x.active = some (.pool n)) (hqu : (s.ep e).x.queue = []) (hq : s.pool[n]? = some (some q))
    (hr : s.replies = []) (st : Status) (all : Bool) (m : Nat) :
    ∃ u, abortEndpoint e st all (hooksAt m) s = .ok ((), u) ∧ u.pool = s.pool.set n none ∧
      u.ep e = { (s.ep e).ended with pendingStatus := st, pendingAll := all, rearm := false } ∧
      (∃ l, u.trace = .cb (.transferComplete q.cb q.ctx st q.done) :: l ∧ s.trace <:+ l) ∧ Frame s u [] [.ep e, .pool] := by
  have hv : ∃ v, abortEndpoint e st all (hooksAt m) s = finishAbort e (hooksAt m) v ∧
      v.ep e = { s.ep e with pendingStatus := st, pendingAll := all, rearm := false } ∧ v.pool = s.pool ∧ v.replies = s.replies ∧
      s.trace <:+ v.trace ∧ Frame s v [] [.ep e] :=
    ⟨_, by simp [abortEndpoint, run_bind, k, hm, hn, hs, h31]; rfl, by simp⟩
  obtain ⟨v, hv, hep, hpool, hrep, htr, hf⟩ := hv
  obtain ⟨u, hu, hup, hue, hut, huf⟩ := finishAbort_last (s := v) (by rw [hep]; exact ha) (by rw [hep]; exact hqu)
    (by rw [hpool]; exact hq) (hrep.trans hr) m (by rw [hep]; exact hen)
  refine ⟨u, hv.trans hu, by rw [hup, hpool], ?_, ⟨v.trace, by rw [hut, hep], htr⟩, (hf.mono (by simp) (by simp)).trans huf⟩
  rw [hue, hep]
  simp [EpRec.ended, hs]

/-- The bits that the abort of a running endpoint leaves in its registers (R284). -/
theorem abortEndpoint_asks {s : State} {e : EpRef} (k : s.Calm) (hm : s.hostMode = false) (hn : e.num.val < s.hw.caps.nEp)
    (hs : (s.ep e).state ≠ .haltedPendingDisable) (h31 : bitOf (s.raw (epCtl e)) 31 = true) (h : Hooks) :
    ∃ u, abortEndpoint e .cancelled true h s = .ok ((), u) ∧
      u.ep e = { s.ep e with
        state := .haltedPendingDisable
        pendingStatus := .cancelled
        pendingAll := true
        disabling := true
        rearm := false } ∧
      ((s.ep e).disabling = true → Frame s u [] [.ep e]) ∧
      ((s.ep e).disabling = false → bitOf (u.raw (epCtl e)) 30 = true ∧ bitOf (u.raw (epCtl e)) 31 = true ∧
        bitOf (u.raw (epCtl e)) 17 = true ∧ bitOf (u.raw (epMsk e)) 1 = true ∧ Frame s u [epCtl e, epMsk e] [.ep e]) := by
  obtain ⟨u, hrun, hep, hd1, hd2⟩ := abortEndpoint_running k hm hn hs h31 .cancelled true h
  refine ⟨u, hrun, hep, hd1, fun hd => ?_⟩
  obtain ⟨hmsk, hctl, hf⟩ := hd2 hd
  exact ⟨by simp [hctl, bitOf_or], by simp [hctl, bitOf_or, h31], by simp [hctl, bitOf_or], by simp [hmsk, bitOf_or], hf⟩

/-! CANCEL. -/

section
variable {s : State} {h : BitVec 16} (hctx : s.FromTask) (hfun : s.core.functional = true)
include hctx hfun

theorem cancelCmd_free (hu : s.slotUsed h.toNat = false) (hk : Hooks) : cancelCmd h hk s = .ok (.status .badHandle, s) := by
  simp [cancelCmd, needFunctional_on hfun, run_bind_ok (taskOnly_ok hctx hk), hu]

theorem exec_cancel (k : s.Calm) {x : XRef} (hu : s.slotUsed h.toNat = true) (ho : (s.reqAt (.pool h.toNat)).owner = some x) {Q : State → Prop}
    (hQ : ∃ u, cancelTarget x (hooksAt s.level) s.guarded = .ok ((), u) ∧ Q (u.returned (.status .ok))) :
    ∃ t, exec (.cancel h) s = .next t ∧ t.result = .status .ok ∧ Q t := by
  obtain ⟨u, hrun, hq⟩ := hQ
  refine runCmd_of ⟨.status .ok, u, ?_, by simp, hq⟩
  simp [cancelCmd, needFunctional_on hfun, run_bind_ok (taskOnly_ok hctx _), hu, ho, critical_guarded k, run_bind, hrun]

end

/-- Settles O28. -/
theorem cancelEntersTheHaltPath : Obligations.CancelEntersTheHaltPath := by
  intro s h a hsh htask hfun
  have k := a.calmTask hsh
  have hft : s.FromTask := .inr a.release
  refine ⟨fun e hu ho hm hn hs h31 => exec_cancel hft hfun k hu ho ?_,
    fun e n q hu ho hm hn hs hen h31 ha hqu hq => ?_,
    fun c hu ho hm hc hs h31 hroom => exec_cancel hft hfun k hu ho ?_,
    fun c hu ho hs => exec_cancel hft hfun k hu ho ?_,
    fun hu => ?_⟩
  · obtain ⟨u, hrun, hep, hd1, hd2⟩ := abortEndpoint_asks (s := s.guarded) (e := e) (by simpa using k) (by simpa using hm)
      (by simpa using hn) (by simpa using hs) (by simpa using h31) (hooksAt s.level)
    refine ⟨u, hrun, by simpa using hep, fun hd => by simpa using hd1 (by simpa using hd),
      fun hd => by simpa using hd2 (by simpa using hd)⟩
  · obtain ⟨u, hrun, hpool, hep, ⟨l, htr, hl⟩, hf⟩ := abortEndpoint_stopped (s := s.guarded) (e := e) (n := n) (q := q)
      (by simpa using k) (by simpa using hm) (by simpa using hn) (by simpa using hs) (by simpa using hen) (by simpa using h31)
      (by simpa using ha) (by simpa using hqu) (by simpa using hq) (by simpa using a.replies) .cancelled true s.level
    obtain ⟨l', rfl⟩ := (s.trace_guarded).trans hl
    obtain ⟨t, ht, hres, rfl⟩ := exec_cancel hft hfun k hu ho (Q := (· = u.returned (.status .ok))) ⟨u, hrun, rfl⟩
    refine ⟨_, .ret (.status .ok) :: .cb (.transferComplete q.cb q.ctx .cancelled q.done) :: l', ht, hres, by simpa using hpool, by simp [hep, EpRec.ended], by simpa [hep, EpRec.ended] using hqu,
      by simp [hep, EpRec.ended], by simp [hep, EpRec.ended], by simp [htr], by simp, by simpa using hf⟩
  · obtain ⟨u, hrun, hch, hmsk, h31', h30, hf⟩ := halt_asks (s := s.guarded.modCh c fun r => { r with cancelAll := true }) (c := c)
      (reason := .cancelled) (by simpa using k) (by simpa using hm) (by simpa using hc) (by simpa using hs) (by simpa using h31)
      (by rwa [State.queueRoom_congr (s := s) (by simp) (by simp) (by simp)]) (hooksAt s.level)
    refine ⟨u, ?_, by simpa using hch, by simpa using h31', by simpa using h30, by simp [hmsk, bitOf_or], ?_⟩
    · simp [cancelTarget, cancelChannel, run_bind, hs, hrun]
    · have hv : Frame s (s.guarded.modCh c fun r => { r with cancelAll := true }) [] [.ch c] := by simp
      simpa using (hv.mono (by simp) (by simp)).trans (hf.mono (by simp) (by simp))
  · refine ⟨_, by simp [cancelTarget, cancelChannel, run_bind, hs]; rfl, by simp⟩
  · exact runCmd_of ⟨.status .badHandle, s, cancelCmd_free hft hfun hu _, by simp, by simp⟩

/-! ISO_STOP. -/

theorem exec_isoStop {s : State} (hctx : s.FromTask) (hfun : s.core.functional = true) (k : s.Calm) {x : XRef}
    (hx : s.scheduled x = true) {Q : State → Prop}
    (hQ : ∃ u, isoStopTarget x (hooksAt s.level) (s.guarded.withIso (s.iso.filter fun r => decide (r.owner ≠ x))) = .ok ((), u) ∧
      Q (u.returned (.status .ok))) : ∃ t, exec (.isoStop x) s = .next t ∧ t.result = .status .ok ∧ Q t := by
  obtain ⟨u, hrun, hq⟩ := hQ
  have hdrop (h : Hooks) : dropIso x h s.guarded = .ok ((), s.guarded.withIso (s.iso.filter fun r => decide (r.owner ≠ x))) := by
    rw [← s.iso_guarded]
    rfl
  refine runCmd_of ⟨.status .ok, u, ?_, by simp, hq⟩
  simp only [isoStopCmd, needFunctional_on hfun, run_bind_ok (taskOnly_ok hctx _), run_ask_bind, id, hx, if_true, critical_guarded k]
  rw [run_bind_ok (hdrop _), run_bind_ok hrun]
  rfl

/-- Settles O33. -/
theorem isoStopDropsTheRecord : Obligations.IsoStopDropsTheRecord := by
  intro s x a hsh htask hfun
  have k := a.calmTask hsh
  have hft : s.FromTask := .inr a.release
  refine ⟨fun hx => ?_, fun hx => ⟨?_, ?_⟩⟩
  · refine runCmd_of ⟨.status .badHandle, s, ?_, by simp, by simp⟩
    simp [isoStopCmd, needFunctional_on hfun, run_bind_ok (taskOnly_ok hft _), hx]
  · rintro e rfl hm hn hs h31
    refine exec_isoStop hft hfun k hx ?_
    set l := s.iso.filter fun r => decide (r.owner ≠ .ep e)
    obtain ⟨u, hrun, hep, hd1, hd2⟩ := abortEndpoint_asks (s := s.guarded.withIso l) (e := e) (by simpa using k)
      (by simpa using hm) (by simpa using hn) (by simpa using hs) (by simpa using h31) (hooksAt s.level)
    have hv : Frame s (s.guarded.withIso l) [] [.iso] := by simp
    have hiso : u.iso = l := by
      cases hd : (s.ep e).disabling
      · exact ((hd2 (by simpa using hd)).2.2.2.2).iso (by simp) (by simp)
      · exact (hd1 (by simpa using hd)).iso (by simp) (by simp)
    refine ⟨u, hrun, by simpa using hiso, by simpa using hep, fun hd => ?_, fun hd => ?_⟩
    · simpa using (hv.mono (by simp) (by simp)).trans ((hd1 (by simpa using hd)).mono (by simp) (by simp))
    · obtain ⟨h30, _, h17, h1, hf⟩ := hd2 (by simpa using hd)
      exact ⟨by simpa using h30, by simpa using h17, by simpa using h1,
        by simpa using (hv.mono (by simp) (by simp)).trans (hf.mono (by simp) (by simp))⟩
  · rintro c rfl hm hc hs h31 hroom
    refine exec_isoStop hft hfun k hx ?_
    set l := s.iso.filter fun r => decide (r.owner ≠ .ch c)
    obtain ⟨u, hrun, hch, -, -, h30, hf⟩ := halt_asks (s := s.guarded.withIso l) (c := c) (reason := .cancelled)
      (by simpa using k) (by simpa using hm) (by simpa using hc) (by simpa using hs) (by simpa using h31)
      (by rwa [State.queueRoom_congr (s := s) (by simp) (by simp) (by simp)]) (hooksAt s.level)
    have hv : Frame s (s.guarded.withIso l) [] [.iso] := by simp
    refine ⟨u, ?_, by simpa using hf.iso (by simp) (by simp), by simp [hch], by simp [hch], by simpa using h30,
      by simpa using (hv.mono (by simp) (by simp)).trans (hf.mono (by simp) (by simp))⟩
    simp [isoStopTarget, cancelChannel, hs, hrun]

end Sys2Proof.Machine

/-! PROOF. The confirmed disable of an endpoint (R285). -/

namespace Sys2Proof.Machine

open Sys2Proof

/-- The isochronous records are as before. -/
theorem Frame.isoOf_eq {s t : State} {rs : List Reg} {ps : List Part} (f : Frame s t rs ps) (h : .iso ∉ ps) (hr : .records ∉ ps)
    (x : XRef) : t.isoOf x = s.isoOf x := by
  rw [State.isoOf, State.isoOf, f.iso h hr]

/-! The head of the event: its bit, and the flush of the Tx FIFO. -/

/-- What EPDISBLD clears and empties, before it goes on. -/
def State.Flushed (s t : State) (e : EpRef) : Prop :=
  t.raw (epInt e) = s.raw (epInt e) &&& ~~~0x2#32 ∧
    (e.dir = .OUT → t.fifo = s.fifo ∧ t.raw .GRSTCTL = s.raw .GRSTCTL) ∧
    (e.dir = .IN → t.fifo = { s.fifo with tx := s.fifo.tx.set (s.ep e).txFifo.val [] } ∧ t.unsettled = false)

theorem State.Flushed.of_frame {s t u : State} {e : EpRef} (h : s.Flushed t e) {rs : List Reg} {ps : List Part} (f : Frame t u rs ps)
    (hi : ∀ q ∈ rs, epInt e ≠ q ∧ .GRSTCTL ≠ q ∧ q ≠ .DIEPTXF 0) (hf : .fifo ∉ ps) : s.Flushed u e := by
  have hg : u.raw .GRSTCTL = t.raw .GRSTCTL := f.raw_eq (fun q hq => (hi q hq).2) (by simp)
  obtain ⟨hint, hout, hin⟩ := h
  refine ⟨(f.raw_eq (fun q hq => ⟨(hi q hq).1, (hi q hq).2.2⟩) (by simp)).trans hint, fun hd => ?_, fun hd => ?_⟩
  · exact ⟨(f.fifo hf).trans (hout hd).1, hg.trans (hout hd).2⟩
  · refine ⟨(f.fifo hf).trans (hin hd).1, ?_⟩
    rw [State.unsettled, hg]
    exact (hin hd).2

/-- The event EPDISBLD of an endpoint. -/
def disabledInstr (e : EpRef) : Instr := match e.dir with | .IN => .inEpdisbld e.num | .OUT => .outEpdisbld e.num

/-- What the obligation assumes of the machine: LINK finishes a flush at once, and nothing else acts. -/
structure State.Confirms (s : State) (e : EpRef) : Prop where
  env : s.env = []
  prompt : s.prompt = true
  still : s.tick = s
  settled : s.unsettled = false
  mode : s.hostMode = false
  exist : e.num.val < s.hw.caps.nEp
  polls : 1 ≤ s.hw.flushPollLimit

section
variable {s : State} {e : EpRef} (c : s.Confirms e)
include c

theorem State.Confirms.ready : (s.inCtx .isr).Ready :=
  ⟨c.env, .inl rfl, c.settled, fun _ => show s.disablePending _ = false from idle_of_tick c.env c.prompt c.settled c.still⟩

/-- The machine after the bit of the event has been cleared and, for an IN endpoint, the FIFO flushed. -/
def State.flushedAfter (s : State) (e : EpRef) : State :=
  let v := (s.inCtx .isr).cleared (epInt e) 1
  match e.dir with
  | .IN => v.afterFlushTx (s.ep e).txFifo.val
  | .OUT => v

theorem State.Confirms.ready_cleared : ((s.inCtx .isr).cleared (epInt e) 1).Ready := by
  simpa [State.cleared] using c.ready

theorem State.Confirms.ready_flushed : (s.flushedAfter e).Ready := by
  unfold State.flushedAfter
  split
  · exact State.ready_afterFlushTx c.ready_cleared (by simpa [State.cleared] using c.prompt) _
  · exact c.ready_cleared

omit c in
theorem frame_cleared (s : State) (e : EpRef) : Frame s ((s.inCtx .isr).cleared (epInt e) 1) [epInt e, .GRSTCTL] [.context, .fifo] := by
  simp [State.cleared]

omit c in
theorem frame_flushedAfter (s : State) (e : EpRef) : Frame s (s.flushedAfter e) [epInt e, .GRSTCTL] [.context, .fifo] := by
  unfold State.flushedAfter
  split
  · exact (frame_cleared s e).trans ((frame_afterFlushTx _ _).mono (by simp) (by simp))
  · exact frame_cleared s e

theorem State.Confirms.flushed : s.Flushed (s.flushedAfter e) e := by
  have hk : bitOf (w1cMask (epInt e)) 1 = true := w1c_epInt e (k := 1) (by decide)
  have hint : ((s.inCtx .isr).cleared (epInt e) 1).raw (epInt e) = s.raw (epInt e) &&& ~~~0x2#32 := by
    rw [State.raw_cleared _ hk, State.raw_of_inCtx]
    rfl
  have hfifo : ((s.inCtx .isr).cleared (epInt e) 1).fifo = s.fifo := by simp [State.cleared]
  have hrst : ((s.inCtx .isr).cleared (epInt e) 1).raw .GRSTCTL = s.raw .GRSTCTL := by simp [State.cleared]
  have hmode : ((s.inCtx .isr).cleared (epInt e) 1).hostMode = false := by simpa [State.cleared] using c.mode
  have hready := c.ready_flushed
  unfold State.flushedAfter at hready ⊢
  generalize (s.inCtx .isr).cleared (epInt e) 1 = v at hready hint hfifo hrst hmode ⊢
  cases hd : e.dir with
  | IN =>
    rw [hd] at hready
    refine ⟨((frame_afterFlushTx v _).raw_eq (by simp) (by simp)).trans hint, by simp [hd], fun _ => ⟨?_, hready.settled⟩⟩
    have hlt := (s.ep e).txFifo.isLt
    refine (fifo_afterFlushTx v (show (s.ep e).txFifo.val < 32 by omega)).trans ?_
    simp [State.flushTx, hfifo, hmode, show (s.ep e).txFifo.val ≠ 16 by omega]
  | OUT => exact ⟨hint, fun _ => ⟨hfifo, hrst⟩, by simp [hd]⟩

theorem confirmed_of {Q : State → Prop} {rs : List Reg} {ps : List Part} (hrs : ∀ q ∈ rs, epInt e ≠ q ∧ .GRSTCTL ≠ q ∧ q ≠ .DIEPTXF 0)
    (hps : .fifo ∉ ps) (tail : ∀ v, v.Ready → Frame s v [epInt e, .GRSTCTL] [.context, .fifo] →
      ∃ u, disableConfirmed e (hooksAt s.level) v = .ok ((), u) ∧ Q (u.inCtx s.ctx) ∧ Frame v u rs ps) :
    ∃ t, exec (disabledInstr e) s = .next t ∧ Q t ∧ s.Flushed t e ∧ Frame s t (epInt e :: .GRSTCTL :: rs) (.fifo :: ps) := by
  obtain ⟨u, hu, hq, hf⟩ := tail _ c.ready_flushed (frame_flushedAfter s e)
  have hflush : s.Flushed (u.inCtx s.ctx) e := by
    refine c.flushed.of_frame (rs := rs) (ps := .context :: ps) ?_ hrs (by simpa using hps)
    exact (frame_inCtx _ (List.mem_cons_self ..)).mpr (hf.mono (List.Subset.refl _) (List.subset_cons_self _ _))
  have hframe : Frame s (u.inCtx s.ctx) (epInt e :: .GRSTCTL :: rs) (.fifo :: ps) := by
    refine frame_event.mpr ?_
    refine ((frame_flushedAfter s e).mono (by simp) (by simp)).trans (hf.mono ?_ ?_)
    · exact fun q hq => by simp [hq]
    · exact fun q hq => by simp [hq]
  have hclear : clearEvent (epInt e) 1 (hooksAt s.level) (s.inCtx .isr) = .ok ((), (s.inCtx .isr).cleared (epInt e) 1) :=
    regWrite_ready c.ready (by simpa using accessible_epInt c.mode c.exist) _ _
  have hflushed := flushTxFifo_prompt c.ready_cleared (by simpa [State.cleared] using c.prompt) (by simpa [State.cleared] using c.polls)
    (hooksAt s.level) (s.ep e).txFifo.val
  have hep : ((s.inCtx .isr).cleared (epInt e) 1).ep e = s.ep e := by simp [State.cleared]
  obtain ⟨n, d⟩ := e
  cases d
  · exact runEvt_of ⟨u, (run_bind_ok hclear).trans hu, hq, hflush, hframe⟩
  · refine runEvt_of ⟨u, (run_bind_ok hclear).trans ?_, hq, hflush, hframe⟩
    rw [run_ask_bind, hep, run_bind_ok hflushed]
    exact hu

end

/-! What the confirmation brings. -/

/-- The record of an endpoint whose disable is confirmed (R285). -/
def EpRec.confirmed (r : EpRec) : EpRec := { r with disabling := false, rearm := false, enabling := none }

section
variable {v : State} {e : EpRef}

theorem disableConfirmed_eq (h : Hooks) : disableConfirmed e h v = (do
    enableNow e (v.ep e)
    doIf (decide ((v.ep e).state = EpState.haltedPendingDisable)) (finishAbort e)
    startResume e
    doIf (v.ep e).rearm (isoResume e)) h (v.modEp e EpRec.confirmed) := rfl

theorem startResume_nothing (hw : (v.ep e).waits = false) (h : Hooks) : startResume e h v = .ok ((), v) := by
  simp [startResume, hw]

theorem isoResume_nothing (hs : (v.ep e).state ≠ .stalled) (hsch : v.scheduled (.ep e) = false) (b : Bool) (h : Hooks) :
    doIf b (isoResume e) h v = .ok ((), v) := by
  simp [isoResume, hs, hsch]

theorem enableNow_nothing {r : EpRec} (hr : r.enabling = none) (h : Hooks) : enableNow e r h v = .ok ((), v) := by
  simp [enableNow, hr]

/-- The control word of an ENABLE_ENDPOINT that has waited. -/
theorem enableNow_run (k : v.Ready) (hm : v.hostMode = false) (h0 : e.num ≠ 0) (hn : e.num.val < v.hw.caps.nEp) (r : EpRec) (h : Hooks) :
    ∃ u, enableNow e r h v = .ok ((), u) ∧ u.Ready ∧ Frame v u [epCtl e] [] := by
  have hctl : epCtl e ≠ .DIEPCTL 0 := by
    obtain ⟨n, d⟩ := e
    cases d
    · simp
    · simpa using h0
  cases hw : r.enabling with
  | none => exact ⟨v, enableNow_nothing hw h, k, by simp⟩
  | some w =>
    cases hen : r.enabled
    · exact ⟨v, by simp [enableNow, hw, hen], k, by simp⟩
    · refine ⟨_, by simp [enableNow, hw, hen, k, hm, hn]; rfl, ?_, by simp⟩
      exact (State.ready_note _ _).mpr ((State.ready_writeReg _ (by simp) (by simp) hctl (by simp)).mpr k)

/-- An aborted endpoint in use, whose only request ends (R284). -/
theorem disableConfirmed_aborted (hs : (v.ep e).state = .haltedPendingDisable) (hen : (v.ep e).enabled = true)
    (hnow : (v.ep e).enabling = none) (hsch : v.scheduled (.ep e) = false) {n : Nat} {q : Req} (ha : (v.ep e).x.active = some (.pool n))
    (hqu : (v.ep e).x.queue = []) (hq : v.pool[n]? = some (some q)) (hr : v.replies = []) (m : Nat) :
    ∃ u, disableConfirmed e (hooksAt m) v = .ok ((), u) ∧ u.pool = v.pool.set n none ∧
      u.ep e = { (v.ep e).confirmed.ended with state := .idle } ∧
      u.trace = .cb (.transferComplete q.cb q.ctx (v.ep e).pendingStatus q.done) :: v.trace ∧ Frame v u [] [.ep e, .pool] := by
  have hfw : Frame v (v.modEp e EpRec.confirmed) [] [.ep e, .pool] := by simp
  obtain ⟨u, hu, hpool, hep, htr, hf⟩ := finishAbort_last (s := v.modEp e EpRec.confirmed) (e := e) (n := n) (q := q)
    (by simpa [EpRec.confirmed] using ha) (by simpa [EpRec.confirmed] using hqu) (by simpa using hq) (by simpa using hr) m
    (by simpa [EpRec.confirmed] using hen)
  have hue : u.ep e = { (v.ep e).confirmed.ended with state := .idle } := by
    rw [hep, State.ep_modEp_same]
    simp [hs, EpRec.confirmed]
  have hiso : u.scheduled (.ep e) = false := by
    rw [State.scheduled, (hfw.trans hf).isoOf_eq (by simp) (by simp)]
    exact hsch
  refine ⟨u, ?_, by simpa using hpool, hue, by simpa [EpRec.confirmed] using htr, hfw.trans hf⟩
  have hfin : doIf (decide ((v.ep e).state = .haltedPendingDisable)) (finishAbort e) (hooksAt m) (v.modEp e EpRec.confirmed) =
      .ok ((), u) := by simpa [hs] using hu
  rw [disableConfirmed_eq, run_bind_ok (enableNow_nothing hnow _), run_bind_ok hfin]
  rw [run_bind_ok (startResume_nothing (by simp [hue, EpRec.ended]) _), isoResume_nothing (by simp [hue]) hiso]

/-- The first chunk of a request that has waited is programmed (R246, R550). -/
theorem disableConfirmed_waits (k : v.Ready) (hm : v.hostMode = false) (h0 : e.num ≠ 0) (hn : e.num.val < v.hw.caps.nEp)
    (hd : v.isDesc = false) (hsch : v.scheduled (.ep e) = false) (hs : (v.ep e).state = .active) (hen : (v.ep e).enabled = true)
    (hw : (v.ep e).waits = true) (h : Hooks) : ∃ u n, disableConfirmed e h v = .ok ((), u) ∧
      u.ep e = { (v.ep e).confirmed with waits := false, x := { (v.ep e).x with chunkLen := n, chunkDone := 0 } } ∧
      bitOf (u.raw (epCtl e)) 31 = true ∧ bitOf (u.raw (epCtl e)) 17 = false ∧
      Frame v u [epSiz e, epDma e, epCtl e, .DIEPEMPMSK] [.ep e] := by
  obtain ⟨a, ha, ka, hfa⟩ := enableNow_run (v := v.modEp e EpRec.confirmed) (e := e) (by simpa using k) (by simpa using hm) h0
    (by simpa using hn) (v.ep e) h
  have haep : a.ep e = (v.ep e).confirmed := by
    rw [hfa.ep e (by simp) (by simp), State.ep_modEp_same]
  have hdesc : a.isDesc = false := by
    rw [State.isDesc, hfa.core (by simp) (by simp)]
    simpa [State.isDesc] using hd
  set b := a.modEp e fun r => { r with state := .active, waits := false } with hb
  obtain ⟨u, hu, hep, p⟩ := programChunk_direct (s := b) (e := e) (by simpa [hb] using ka)
    (by simpa [hb, hm] using hfa.hostMode_eq (by simp)) (by simpa [hb, hfa.hw] using hn) (by simpa [hb] using hdesc) h
  have hbe : b.ep e = { (v.ep e).confirmed with waits := false } := by simp [hb, haep, EpRec.confirmed, hs]
  have hvb : Frame v b [epSiz e, epDma e, epCtl e, .DIEPEMPMSK] [.ep e] := by
    have hv : Frame v (v.modEp e EpRec.confirmed) [] [.ep e] := by simp
    simpa [hb] using (hv.mono (by simp) (by simp)).trans (hfa.mono (by simp) (by simp))
  have hvu := hvb.trans (p.frame.mono (chunkRegs_subset e _) (List.Subset.refl _))
  have hue : u.ep e = { (v.ep e).confirmed with waits := false, x := { (v.ep e).x with chunkLen := b.nextChunk (.ep e), chunkDone := 0 } } := by
    rw [hep, hbe]
    rfl
  have hiso : u.scheduled (.ep e) = false := by
    rw [State.scheduled, hvu.isoOf_eq (by simp) (by simp)]
    exact hsch
  have hstart : startResume e h a = .ok ((), u) := by
    simpa [startResume, run_bind, haep, EpRec.confirmed, hw, hen, hs, markActive, ← hb] using hu
  refine ⟨u, _, ?_, hue, p.enabled, p.ready, hvu⟩
  have hfin : doIf (decide ((v.ep e).state = .haltedPendingDisable)) (finishAbort e) h a = .ok ((), a) := by simp [hs]
  rw [disableConfirmed_eq, run_bind_ok ha, run_bind_ok hfin, run_bind_ok hstart, isoResume_nothing (by simp [hue, EpRec.confirmed, hs]) hiso]

/-- The chain of an endpoint that is not Stalled is armed (R436). -/
theorem disableConfirmed_rearms (k : v.Ready) (hm : v.hostMode = false) (h0 : e.num ≠ 0) (hn : e.num.val < v.hw.caps.nEp)
    {r : IsoRec} (hi : v.isoOf (.ep e) = some r) (hr : (v.ep e).rearm = true) (hs : (v.ep e).state ≠ .haltedPendingDisable)
    (hst : (v.ep e).state ≠ .stalled) (hen : (v.ep e).enabled = true) (hw : (v.ep e).waits = false) (h : Hooks) :
    ∃ a u, disableConfirmed e h v = .ok ((), u) ∧ u.ep e = { (v.ep e).confirmed with state := .active, waits := false } ∧
      Frame v a [epCtl e] [.ep e] ∧ a.ChainArmed u e r r.procBuf := by
  obtain ⟨a, ha, ka, hfa⟩ := enableNow_run (v := v.modEp e EpRec.confirmed) (e := e) (by simpa using k) (by simpa using hm) h0
    (by simpa using hn) (v.ep e) h
  have haep : a.ep e = (v.ep e).confirmed := by
    rw [hfa.ep e (by simp) (by simp), State.ep_modEp_same]
  have hai : a.isoOf (.ep e) = some r := by
    rw [hfa.isoOf_eq (by simp) (by simp)]
    simpa using hi
  set b := a.modEp e fun r => { r with state := .active, waits := false } with hb
  have hvb : Frame v b [epCtl e] [.ep e] := by
    have hv : Frame v (v.modEp e EpRec.confirmed) [] [.ep e] := by simp
    simpa [hb] using (hv.mono (by simp) (by simp)).trans (hfa.mono (by simp) (by simp))
  obtain ⟨u, hu, p⟩ := isoArm_run (s := b) (e := e) (by simpa [hb] using ka) (by simpa [hb, hm] using hfa.hostMode_eq (by simp))
    (by simpa [hb, hfa.hw] using hn) (r := r) (by simpa [hb] using hai) r.procBuf h
  have hbi : b.isoOf (.ep e) = some r := by simpa [hb] using hai
  refine ⟨b, u, ?_, ?_, hvb, p⟩
  · have hwait : (a.ep e).waits = false := by simpa [haep, EpRec.confirmed] using hw
    have hfin : doIf (decide ((v.ep e).state = .haltedPendingDisable)) (finishAbort e) h a = .ok ((), a) := by simp [hs]
    rw [disableConfirmed_eq, run_bind_ok ha, run_bind_ok hfin, run_bind_ok (startResume_nothing hwait _), hr]
    simpa [isoResume, run_bind, haep, EpRec.confirmed, hst, hen, State.scheduled, hai, hbi, markActive, isoArmCurrent, ← hb] using hu
  · rw [p.frame.ep e (by simp) (by simp)]
    simp [hb, haep]

/-- The control word of an ENABLE_ENDPOINT that has waited is written (R280). -/
theorem disableConfirmed_enables (k : v.Ready) (hm : v.hostMode = false) (hn : e.num.val < v.hw.caps.nEp) {w : Word}
    (hnow : (v.ep e).enabling = some w) (hs : (v.ep e).state = .idle) (hen : (v.ep e).enabled = true) (hw : (v.ep e).waits = false)
    (hr : (v.ep e).rearm = false) (h : Hooks) : ∃ u, disableConfirmed e h v = .ok ((), u) ∧ u.ep e = (v.ep e).confirmed ∧
      u.raw (epCtl e) = v.ctlWritten e w ∧ Frame v u [epCtl e] [.ep e] := by
  rw [disableConfirmed_eq]
  simp [enableNow, startResume, run_bind, k, hm, hn, hnow, hs, hen, hr, EpRec.confirmed, hw, bitIf]

end

/-- Settles O50. -/
theorem confirmedDisableEndsTheRequest : Obligations.ConfirmedDisableEndsTheRequest := by
  intro s e he hr hp ht hdbg hu hlow hm h0 hn hl hen
  have c : s.Confirms e := ⟨he, hp, ht, hu, hm, hn, hl⟩
  have vep {v : State} (f : Frame s v [epInt e, .GRSTCTL] [.context, .fifo]) : v.ep e = s.ep e := f.ep e (by simp) (by simp)
  have vmode {v : State} (f : Frame s v [epInt e, .GRSTCTL] [.context, .fifo]) : v.hostMode = false :=
    (f.hostMode_eq (by simp)).trans hm
  have viso {v : State} (f : Frame s v [epInt e, .GRSTCTL] [.context, .fifo]) : v.isoOf (.ep e) = s.isoOf (.ep e) :=
    f.isoOf_eq (by simp) (by simp) _
  refine ⟨fun h q hsch hs ha hqu hq hnow => ?_, fun h hsch hd hs hw ha => ?_, fun r hi hr hs hst hw => ?_, fun hs hnow => ?_,
    fun d hnow hd hmps hs hw hr => ?_⟩
  · obtain ⟨t, hx, ⟨hpool, hep, htr⟩, hfl, hf⟩ := confirmed_of c (rs := []) (ps := [.ep e, .pool])
      (Q := fun t => t.pool = s.pool.set h none ∧ t.ep e = { (s.ep e).confirmed.ended with state := .idle } ∧
        t.trace.head? = some (.cb (.transferComplete q.cb q.ctx (s.ep e).pendingStatus q.done))) (by simp) (by simp)
      fun v k f => by
        have hpool : v.pool = s.pool := f.pool (by simp) (by simp)
        rw [← vep f] at hs ha hqu hnow hen ⊢
        rw [← hpool] at hq ⊢
        obtain ⟨u, hu, hup, hue, hut, huf⟩ := disableConfirmed_aborted hs hen hnow (by rw [State.scheduled, viso f]; exact hsch) ha hqu
          hq (f.inputs.2.2.1.trans hr) s.level
        exact ⟨u, hu, ⟨by simpa using hup, by simpa using hue, by simp [hut]⟩, huf⟩
    exact ⟨t, hx, hpool, by simp [hep], by simp [hep, EpRec.ended], by simpa [hep, EpRec.ended, EpRec.confirmed] using hen,
      by simp [hep, EpRec.ended, EpRec.confirmed], htr, hfl, hf.mono (by simp) (by simp)⟩
  · obtain ⟨t, hx, ⟨m, hep, h31, h17⟩, hfl, hf⟩ := confirmed_of c (rs := [epSiz e, epDma e, epCtl e, .DIEPEMPMSK]) (ps := [.ep e])
      (Q := fun t => ∃ n, t.ep e = { (s.ep e).confirmed with waits := false, x := { (s.ep e).x with chunkLen := n, chunkDone := 0 } } ∧
        bitOf (t.raw (epCtl e)) 31 = true ∧ bitOf (t.raw (epCtl e)) 17 = false) (by simp) (by simp)
      fun v k f => by
        have hdesc : v.isDesc = false := by
          rw [State.isDesc, f.core (by simp) (by simp)]
          exact hd
        rw [← vep f] at hs hw hen ⊢
        obtain ⟨u, n, hu, hue, h31, h17, huf⟩ := disableConfirmed_waits k (vmode f) h0 (f.hw ▸ hn) hdesc
          (by rw [State.scheduled, viso f]; exact hsch) hs hen hw (hooksAt s.level)
        exact ⟨u, hu, ⟨n, by simpa using hue, by simpa using h31, by simpa using h17⟩, huf⟩
    exact ⟨t, hx, by simpa [hep, EpRec.confirmed] using hs, by simpa [hep] using ha, by simp [hep], by simp [hep],
      by simp [hep, EpRec.confirmed], h31, h17, hfl, hf.mono (by simp) (by simp)⟩
  · obtain ⟨t, hx, ⟨hep, hdma, h31, h17⟩, hfl, hf⟩ := confirmed_of c (rs := [epSiz e, epDma e, epCtl e]) (ps := [.ep e])
      (Q := fun t => t.ep e = { (s.ep e).confirmed with state := .active, waits := false } ∧ t.raw (epDma e) = r.chain r.procBuf ∧
        bitOf (t.raw (epCtl e)) 31 = true ∧ bitOf (t.raw (epCtl e)) 17 = false) (by simp) (by simp)
      fun v k f => by
        rw [← vep f] at hr hs hst hw hen ⊢
        obtain ⟨a, u, hu, hue, hfa, p⟩ := disableConfirmed_rearms k (vmode f) h0 (f.hw ▸ hn) ((viso f).trans hi) hr hs hst hen hw
          (hooksAt s.level)
        exact ⟨u, hu, ⟨by simpa using hue, by simpa using p.addr, by simpa using p.enabled, by simpa using p.ready⟩,
          (hfa.mono (by simp) (by simp)).trans (p.frame.mono (by simp) (by simp))⟩
    refine ⟨t, hx, ?_, hdma, h31, h17, hfl, hf.mono (by simp) (by simp)⟩
    rw [hep, EpRec.confirmed, ← hw]
  · obtain ⟨t, hx, hep, hfl, hf⟩ := confirmed_of c (rs := []) (ps := [.ep e])
      (Q := fun t => t.ep e = { s.ep e with disabling := false }) (by simp) (by simp)
      fun v k f => by
        rw [← vep f] at hs hnow ⊢
        obtain ⟨u, hu, hue, huf⟩ := disableConfirmed_idle hnow hs (hooksAt s.level)
        exact ⟨u, hu, by simpa using hue, huf⟩
    exact ⟨t, hx, hep, hfl, hf.mono (by simp) (by simp)⟩
  · obtain ⟨t, hx, ⟨hep, word⟩, hfl, hf⟩ := confirmed_of c (rs := [epCtl e]) (ps := [.ep e])
      (Q := fun t => t.ep e = (s.ep e).confirmed ∧ EnabledWord (t.raw (epCtl e)) d) (by simp) (by simp)
      fun v k f => by
        rw [← vep f] at hnow hs hw hr hen ⊢
        obtain ⟨u, hu, hue, hctl, huf⟩ := disableConfirmed_enables k (vmode f) (f.hw ▸ hn) hnow hs hen hw hr (hooksAt s.level)
        refine ⟨u, hu, ⟨by simpa using hue, ?_⟩, huf⟩
        rw [State.raw_of_inCtx, hctl, ← hd]
        exact v.enabledWord d
    refine ⟨t, hx, ?_, word.mps, word.usb, word.type, word.nak, word.dpid, fun hdir => ?_, hfl, hf.mono (by simp) (by simp)⟩
    · rw [hep, EpRec.confirmed, ← hr]
    · exact hd ▸ word.fifo (hd.symm ▸ hdir)

end Sys2Proof.Machine

/-! PROOF. The completion of a data endpoint's chunk (R270, R271, R273, P2). -/

namespace Sys2Proof.Machine

open Sys2Proof

/-- A request of which `k` more bytes have been moved. -/
def Req.counted (q : Req) (k : Nat) : Req := { q with done := q.done + k }

/-- The bytes that the end of the chunk counts: none for the zero-length packet and for a receive of slave mode (R270, R271). -/
def State.countedBytes (s : State) (e : EpRef) : Nat :=
  if (s.ep e).x.zlpPhase = true ∨ (s.isSlave = true ∧ e.dir = .OUT) then 0 else (s.endResult e).moved

/-- What the end of the chunk asks before it counts. -/
theorem State.counts_iff (s : State) (e : EpRef) : (!(s.ep e).x.zlpPhase && !(s.isSlave && decide (e.dir = .OUT))) =
    !decide ((s.ep e).x.zlpPhase = true ∨ (s.isSlave = true ∧ e.dir = .OUT)) := by simp

theorem State.endResult_moved (s : State) (e : EpRef) : (s.endResult e).moved =
    if e.dir = .IN then (s.ep e).x.chunkLen - field (s.raw (epSiz e)) 0 19
    else max 1 (((s.ep e).x.chunkLen + (s.ep e).mps - 1) / (s.ep e).mps) * (s.ep e).mps - field (s.raw (epSiz e)) 0 19 := by
  unfold State.endResult
  split <;> rfl

theorem State.endResult_short (s : State) (e : EpRef) :
    (s.endResult e).short = (decide (e.dir = .OUT) && decide (0 < field (s.raw (epSiz e)) 0 19)) := by
  unfold State.endResult
  split
  · next h => simp [h]
  · next h => simp [show e.dir = .OUT by cases hd : e.dir <;> simp_all]

theorem countMoved_pool {s : State} {x : XRef} {n : Nat} {q : Req} (ha : (s.xfer x).active = some (.pool n))
    (hq : s.pool[n]? = some (some q)) (h : Hooks) (c : Bool) (m : Nat) : ∃ u, countMoved x c m h s = .ok ((), u) ∧ (s.Ready → u.Ready) ∧
    u.pool = s.pool.set n (some (q.counted (if c then m else 0))) ∧ Frame s u [] [.pool] := by
  cases c with
  | false =>
    have hself : s.pool.set n (some q) = s.pool := by
      obtain ⟨hlt, hget⟩ := List.getElem?_eq_some_iff.mp hq
      rw [← hget, List.set_getElem_self]
    exact ⟨s, by simp [countMoved], id, by simp [Req.counted, hself], by simp⟩
  | true => exact ⟨s.modReqAt (.pool n) fun q => q.counted m, by simp [countMoved, ha, Req.counted], by simp,
      State.pool_modReqAt hq _, by simp⟩

section
variable {s : State} {e : EpRef} {n : Nat} {q : Req} (ha : (s.ep e).x.active = some (.pool n)) (hq : s.pool[n]? = some (some q)) (h : Hooks)
include ha hq

variable (k : s.Ready) (hm : s.hostMode = false) (hn : e.num.val < s.hw.caps.nEp) (hd : s.isDesc = false)
  (hst : (s.ep e).state = .active) (hw : (s.ep e).waits = false)
include k hm hn hd hst hw

/-- The bytes of the finished chunk are counted, and the request goes on from there. -/
theorem epChunkDone_counts : ∃ u, epChunkDone e h s = advance (.ep e) (s.endResult e).short h u ∧ u.Ready ∧
    u.pool = s.pool.set n (some (q.counted (s.countedBytes e))) ∧ Frame s u [] [.pool] := by
  have hres := chunkResult_direct k hm hn hd h
  obtain ⟨u, hu, hk, hpool, hf⟩ := countMoved_pool (s := s.note (.rd (epSiz e).offset (s.raw (epSiz e)))) (x := .ep e) (by simpa using ha)
    (by simpa using hq) h (!decide ((s.ep e).x.zlpPhase = true ∨ (s.isSlave = true ∧ e.dir = .OUT))) (s.endResult e).moved
  refine ⟨u, ?_, hk (by simpa using k), ?_, Frame.trans (by simp) hf⟩
  case refine_2 =>
    simp only [Bool.not_eq_true', decide_eq_false_iff_not, ite_not] at hpool
    exact hpool
  have hgo : ¬((s.ep e).x.active = none ∨ (s.ep e).state ≠ .active ∨ (s.ep e).waits = true) := by simp [ha, hst, hw]
  simp only [epChunkDone, run_ask_bind, id, if_neg hgo, s.counts_iff]
  rw [run_bind_ok hres, s.endResult_err e, if_neg Bool.false_ne_true]
  exact run_bind_ok hu

end

/-- The event XFERCOMPL of an endpoint. -/
def completeInstr (e : EpRef) : Instr := match e.dir with | .IN => .inXfercompl e.num | .OUT => .outXfercompl e.num

/-- An event of a data endpoint that no isochronous record runs carries on as the end of its chunk. -/
theorem exec_complete {s : State} {e : EpRef} (a : s.Alone) (hm : s.hostMode = false) (h0 : e.num ≠ 0) (hn : e.num.val < s.hw.caps.nEp)
    (hsch : s.scheduled (.ep e) = false) {Q : State → Prop} {rs : List Reg} {ps : List Part}
    (hQ : ∃ u, epChunkDone e (hooksAt s.level) ((s.inCtx .isr).cleared (epInt e) 0) = .ok ((), u) ∧ Q (u.inCtx s.ctx) ∧
      Frame ((s.inCtx .isr).cleared (epInt e) 0) u rs ps) (hrs : ∀ q ∈ rs, epInt e ≠ q ∧ q ≠ .DIEPTXF 0)
    (hps : .iso ∉ ps ∧ .records ∉ ps) :
    ∃ t, exec (completeInstr e) s = .next t ∧ Q t ∧ t.raw (epInt e) = s.raw (epInt e) &&& ~~~0x1#32 ∧
      Frame s t (epInt e :: rs) ps := by
  obtain ⟨u, hu, hq, hf⟩ := hQ
  have hk : bitOf (w1cMask (epInt e)) 0 = true := w1c_epInt e (k := 0) (by decide)
  have hint : (u.inCtx s.ctx).raw (epInt e) = s.raw (epInt e) &&& ~~~0x1#32 := by
    rw [State.raw_of_inCtx, hf.raw_eq hrs (by simp), State.raw_cleared _ hk, State.raw_of_inCtx]
    rfl
  have hc : Frame s ((s.inCtx .isr).cleared (epInt e) 0) (epInt e :: rs) (.context :: ps) := by simp [State.cleared]
  have hframe := Frame.event_trans hc (hf.mono (List.subset_cons_self _ _) (List.Subset.refl _))
  have hclear : clearEvent (epInt e) 0 (hooksAt s.level) (s.inCtx .isr) = .ok ((), (s.inCtx .isr).cleared (epInt e) 0) :=
    clearEvent_calm a.calm (by simpa using accessible_epInt hm hn) _ _
  have hdata : dataComplete e (hooksAt s.level) ((s.inCtx .isr).cleared (epInt e) 0) = .ok ((), u) := by
    have hs : ((s.inCtx .isr).cleared (epInt e) 0).scheduled (.ep e) = false := by
      rw [← hsch, State.scheduled, State.scheduled, hc.isoOf_eq (by simp [hps]) (by simp [hps])]
    simpa [dataComplete, hs] using hu
  obtain ⟨n, d⟩ := e
  cases d
  all_goals
    refine runEvt_of ⟨u, (run_bind_ok hclear).trans ?_, hq, hint, hframe⟩
    rw [if_neg h0]
    exact hdata

/-! The numbers of a data endpoint's chunk (R13, R247, R249). -/

theorem State.sizeBits_data (s : State) {e : EpRef} (h0 : e.num ≠ 0) : s.sizeBits e = (s.hw.caps.xw, s.hw.caps.pw) := by
  simp [State.sizeBits, h0]

theorem State.epClamp_data (s : State) {e : EpRef} (h0 : e.num ≠ 0) : s.epClamp e =
    min (2 ^ s.hw.caps.xw - 1) ((2 ^ s.hw.caps.pw - 1) * (s.ep e).mps) / (s.ep e).mps * (s.ep e).mps := by
  rw [State.epClamp, s.sizeBits_data h0]

theorem State.ChunkProgrammed.addr_direct {s t : State} {e : EpRef} {len pkts : Nat} (p : s.ChunkProgrammed t e len pkts)
    (hd : s.isDesc = false) : t.raw (epDma e) = if s.isSlave then s.raw (epDma e) else s.chunkAddr (.ep e) := by
  rw [p.addr]
  cases hmode : s.core.dmaMode <;> simp_all [State.isSlave, State.isDesc]

theorem State.ChunkProgrammed.sizes {s t : State} {e : EpRef} {len : Nat} (p : s.ChunkProgrammed t e len (pktCount len (s.ep e).mps))
    (low : s.sizeLow e) (hf : s.hw.caps.fits) (h0 : e.num ≠ 0) (h1 : 1 ≤ (s.ep e).mps) (hm : (s.ep e).mps ≤ 1024)
    (hl : len ≤ s.epClamp e) : field (t.raw (epSiz e)) 0 19 = (if e.dir = .IN then len else pktCount len (s.ep e).mps * (s.ep e).mps) ∧
      field (t.raw (epSiz e)) 19 10 = pktCount len (s.ep e).mps := by
  obtain ⟨-, -, -, -, hx, hx', hp, hp', -⟩ := hf
  have hpow : 2 ^ 11 ≤ 2 ^ s.hw.caps.xw := Nat.pow_le_pow_right (by decide) hx
  refine p.fields low h1 ?_ ?_ ?_ ?_ hl <;> simp only [s.sizeBits_data h0] <;> omega

theorem State.ChunkProgrammed.sizes_zero {s t : State} {e : EpRef} (p : s.ChunkProgrammed t e 0 1) (low : s.sizeLow e)
    (hf : s.hw.caps.fits) (h0 : e.num ≠ 0) : (e.dir = .IN → field (t.raw (epSiz e)) 0 19 = 0) ∧ field (t.raw (epSiz e)) 19 10 = 1 := by
  obtain ⟨-, -, -, -, hx, hx', hp, hp', -⟩ := hf
  have h16 : 2 ^ 4 ≤ 2 ^ s.hw.caps.pw := Nat.pow_le_pow_right (by decide) hp
  have htop := Nat.two_pow_pos s.hw.caps.xw
  have hbits := s.sizeBits_data h0
  rw [p.size]
  refine ⟨fun hd => ?_, State.field_chunk_count low _ (by rw [hbits]; exact hp') (by rw [hbits]; exact Nat.lt_of_lt_of_le (by decide) h16)⟩
  have hsize := State.field_chunk_size low (typePeriodic (s.ep e).type) (mps := (s.ep e).mps) (len := 0) (pkts := 1)
    (by rw [hbits]; exact hx') (by rw [hbits, if_pos hd]; exact htop)
  rwa [if_pos hd] at hsize

/-! The three ways a chunk can end (R273). -/

/-- What is programmed does not depend on the rest of the endpoint's record. -/
theorem State.ChunkProgrammed.of_modEp {s t : State} {e : EpRef} {f : EpRec → EpRec} {len pkts : Nat}
    (p : (s.modEp e f).ChunkProgrammed t e len pkts) (ht : (f (s.ep e)).type = (s.ep e).type) (hm : (f (s.ep e)).mps = (s.ep e).mps)
    (hx : (f (s.ep e)).x.active = (s.ep e).x.active) : s.ChunkProgrammed t e len pkts := by
  obtain ⟨hsize, haddr, hctl, hempty, hf, htr⟩ := p
  rw [State.chunkParity_congr (s := s) (by simpa using ht) (by simp)] at hctl
  refine ⟨by simpa [ht, hm] using hsize, by simpa [hx] using haddr, by simpa using hctl, by simpa using hempty, ?_, by simpa using htr⟩
  exact Frame.trans (t := s.modEp e f) (by simp) hf

section
variable {s : State} {e : EpRef} {n : Nat} {q : Req} (ha : (s.ep e).x.active = some (.pool n)) (hq : s.pool[n]? = some (some q))
  (k : s.Ready) (hm : s.hostMode = false) (hn : e.num.val < s.hw.caps.nEp) (hd : s.isDesc = false)
include ha hq k hm hn hd

/-- The registers of the next chunk, from the request's own numbers. -/
theorem advance_chunk (hz : (s.ep e).x.zlpPhase = false) {short : Bool} (hsh : short = false) (hl : q.done < q.length) (h : Hooks) :
    ∃ u, advance (.ep e) short h s = .ok ((), u) ∧
      u.ep e = { s.ep e with x := { (s.ep e).x with chunkLen := s.nextChunk (.ep e), chunkDone := 0 } } ∧
      s.ChunkProgrammed u e (s.nextChunk (.ep e)) (pktCount (s.nextChunk (.ep e)) (s.ep e).mps) := by
  obtain ⟨u, hu, hep, p⟩ := programChunk_direct k hm hn hd h
  have hr : s.reqAt (.pool n) = q := State.reqAt_pool hq
  exact ⟨u, (advanceWith_chunk (x := .ep e) ha _ h hz hsh (hr.symm ▸ hl)).trans hu, hep, p⟩

/-- The zero-length packet that ends the request. -/
theorem advance_packet (hz : (s.ep e).x.zlpPhase = false) {short : Bool} (hsh : short = false) (hl : q.length ≤ q.done)
    (hf : q.zeroFlag = true) (h1 : 0 < q.length) (hp : q.length % (s.ep e).mps = 0) (h : Hooks) :
    ∃ u, advance (.ep e) short h s = .ok ((), u) ∧
      u.ep e = { s.ep e with x := { (s.ep e).x with zlpPhase := true, chunkLen := 0, chunkDone := 0 } } ∧
      s.ChunkProgrammed u e 0 1 := by
  have hr : s.reqAt (.pool n) = q := State.reqAt_pool hq
  have hnext : (s.modEp e fun r => { r with x := { r.x with zlpPhase := true } }).nextChunk (.ep e) = 0 := by simp [State.nextChunk]
  obtain ⟨u, hu, hep, p⟩ := programChunk_direct (s := s.modEp e fun r => { r with x := { r.x with zlpPhase := true } }) (e := e)
    (by simpa using k) (by simpa using hm) (by simpa using hn) (by simpa [State.isDesc] using hd) h
  have hone : pktCount 0 (s.ep e).mps = 1 := by
    simpa [pktCount, ceilDiv] using Nat.div_le_of_le_mul (m := (s.ep e).mps - 1) (k := (s.ep e).mps) (n := 1) (by omega)
  rw [hnext] at hep p
  refine ⟨u, (advanceWith_zlp (x := .ep e) ha _ h hz hsh (hr.symm ▸ hl) (hr.symm ▸ hf) (hr.symm ▸ h1) (hr.symm ▸ hp)).trans hu,
    by simpa using hep, ?_⟩
  have p' := p.of_modEp rfl rfl rfl
  rwa [State.ep_modEp_same, hone] at p'

end

/-- Settles O48. -/
theorem transferCompletionCountsAndFinishes : Obligations.TransferCompletionCountsAndFinishes := by
  intro s e n q a low hr hd h0 hn hsch hst hw ha hq
  have hm := hr.mode
  set c := (s.inCtx .isr).cleared (epInt e) 0 with hc
  have hcep : c.ep e = s.ep e := by simp [hc, State.cleared]
  have hcpool : c.pool = s.pool := by simp [hc, State.cleared]
  have kc : c.Ready := by simpa [hc, State.cleared] using a.calm.ready
  have hcm : c.hostMode = false := by simpa [hc, State.cleared] using hm
  obtain ⟨u, hu, ku, hup, huf⟩ := epChunkDone_counts (s := c) (e := e) (n := n) (q := q) (hcep ▸ ha) (hcpool ▸ hq) (hooksAt s.level) kc
    hcm (by simpa [hc, State.cleared] using hn) (by simpa [hc, State.cleared, State.isDesc] using hd) (hcep ▸ hst) (hcep ▸ hw)
  have hlen : n < s.pool.length := (List.getElem?_eq_some_iff.mp hq).1
  have hcsiz : c.raw (epSiz e) = s.raw (epSiz e) := by simp [hc, State.cleared]
  have hslave : c.isSlave = s.isSlave := by simp [hc, State.cleared]
  rw [State.endResult_short, hcsiz] at hu
  rw [State.countedBytes, State.endResult_moved, hcep, hcsiz, hslave, hcpool] at hup
  have huep : u.ep e = s.ep e := (huf.ep e (by simp) (by simp)).trans hcep
  intro i mps rem len moved short zlp done more packet
  rw [show Req.counted q _ = { q with done := done } from rfl] at hup
  have huq : u.pool[n]? = some (some { q with done := done }) := by
    rw [hup, List.getElem?_set_self hlen]
  have hun : e.num.val < u.hw.caps.nEp := by simpa [huf.hw, hc, State.cleared] using hn
  have hum : u.hostMode = false := (huf.hostMode_eq (by simp)).trans hcm
  have hua := huep.symm ▸ ha
  have hur : u.replies = [] := by simpa [huf.inputs.2.2.1, hc, State.cleared] using a.replies
  have hud : u.isDesc = false := by
    rw [State.isDesc, huf.core (by simp) (by simp)]
    simpa [hc, State.cleared, State.isDesc] using hd
  have huhw : u.hw = s.hw := by simp [huf.hw, hc, State.cleared]
  have hucore : u.core = s.core := by simp [huf.core, hc, State.cleared]
  have hucaps : u.core.caps = u.hw.caps := by rw [hucore, huhw, hr.caps]
  have ulow : u.sizeLow e := (State.sizeLow_congr ((huf.raw_eq (by simp) (by simp)).trans hcsiz) huhw).mpr (low.epSiz e)
  have hureq : u.reqOf (.ep e) = { q with done := done } := State.reqOf_pool (x := .ep e) hua huq
  refine ⟨fun hmore hpkt hqu => ?_, fun hmore => ?_, fun hpkt hfits => ?_⟩
  · have hfin : (u.ep e).x.zlpPhase = true ∨ short = true ∨ (q.length ≤ done ∧ ¬(q.zeroFlag = true ∧ 0 < q.length ∧ q.length % (u.ep e).mps = 0)) := by
      rw [huep]
      by_cases hz : zlp = true
      · exact .inl hz
      · by_cases hs : short = true
        · exact .inr (.inl hs)
        · have hl : q.length ≤ done := Nat.le_of_not_lt fun hl => hmore ⟨by simpa using hz, hl, by simpa using hs⟩
          exact .inr (.inr ⟨hl, fun hp => hpkt ⟨by simpa using hz, hl, by simpa using hs, hp⟩⟩)
    obtain ⟨w, hw, hwp, hwe, hwt, hwf⟩ := completeRequest_last (s := u) hua (huep.symm ▸ hqu) huq hur s.level .ok
    obtain ⟨t, ht, rfl, hint, hf⟩ := exec_complete a hm h0 hn hsch (rs := []) (ps := [.ep e, .pool]) (Q := (· = w.inCtx s.ctx))
      ⟨w, hu.trans ((advanceWith_finish (x := .ep e) hua _ _ (by rw [State.reqAt_pool huq]; exact hfin)).trans hw), rfl,
        (huf.mono (by simp) (by simp)).trans hwf⟩ (by simp) (by simp)
    exact ⟨_, ht, by simp [hwp, hup], by simp [hwe, huep, hst, EpRec.ended], by simp [hwe, EpRec.ended],
      by simp [hwe, huep, hqu, EpRec.ended], by simp [hwe, huep, EpRec.ended], by simp [hwt], hint, hf⟩
  · obtain ⟨hz, hl, hs⟩ := hmore
    obtain ⟨w, hw, hwe, p⟩ := advance_chunk hua huq ku hum hun hud (huep.symm ▸ hz) hs hl (hooksAt s.level)
    obtain ⟨t, ht, rfl, hint, hf⟩ := exec_complete a hm h0 hn hsch (rs := [epSiz e, epDma e, epCtl e, .DIEPEMPMSK])
      (ps := [.ep e, .pool]) (Q := (· = w.inCtx s.ctx)) ⟨w, hu.trans hw, rfl, (huf.mono (by simp) (by simp)).trans
        (p.frame.mono (chunkRegs_subset e _) (by simp))⟩ (by simp) (by simp)
    have hnext : u.nextChunk (.ep e) = min (q.length - done) (if typePeriodic (s.ep e).type then
        min (s.epClamp e) ((s.ep e).multiCount * (s.ep e).mps) else s.epClamp e) := by
      rw [State.nextChunk_ep hucaps hud, hureq, huep, show s.epClamp e = u.epClamp e by
        simp [State.epClamp, State.sizeBits, huhw, huep]]
      simp [show (s.ep e).x.zlpPhase = false from hz]
    refine ⟨_, ht, ?_, by simpa [hwe, huep] using hst, by simpa [hwe, huep] using ha, by simp [hwe], ?_, fun hfits h1 h1024 hmul => ?_, ?_,
      by simpa using p.enabled, by simpa using p.ready, hint, hf⟩
    · simpa [p.frame.pool] using hup
    · simp only [State.ep_of_inCtx, hwe]
      exact hnext.le.trans (min_le_left _ _)
    · obtain ⟨hsize, hcount⟩ := p.sizes ulow (huhw ▸ hfits) h0 (huep.symm ▸ h1) (huep.symm ▸ h1024) (State.nextChunk_le hucaps hud)
      rw [huep, hnext, s.epClamp_data h0] at hsize hcount
      rw [State.raw_of_inCtx]
      refine ⟨?_, hsize, hcount⟩
      rw [State.ep_of_inCtx, hwe]
      exact hnext.trans (by rw [s.epClamp_data h0])
    · rw [State.raw_of_inCtx, p.addr_direct hud, State.chunkAddr, hureq, huf.raw_eq (by simp) (by simp), State.isSlave, hucore]
      simp [hc, State.cleared, State.isSlave]
  · obtain ⟨hz, hl, hs, hflag, h1, hp⟩ := hpkt
    obtain ⟨w, hw, hwe, p⟩ := advance_packet hua huq ku hum hun hud (huep.symm ▸ hz) hs hl hflag h1 (huep.symm ▸ hp) (hooksAt s.level)
    obtain ⟨t, ht, rfl, hint, hf⟩ := exec_complete a hm h0 hn hsch (rs := [epSiz e, epDma e, epCtl e])
      (ps := [.ep e, .pool]) (Q := (· = w.inCtx s.ctx)) ⟨w, hu.trans hw, rfl, (huf.mono (by simp) (by simp)).trans
        (p.frame.mono (by simp) (by simp))⟩ (by simp) (by simp)
    refine ⟨_, ht, ?_, by simpa [hwe, huep] using ha, by simp [hwe], by simp [hwe], ?_, ?_, by simpa using p.enabled, hf⟩
    · simpa [p.frame.pool] using hup
    · rw [State.raw_of_inCtx]
      exact (p.sizes_zero ulow (huhw ▸ hfits) h0).2
    · rw [State.raw_of_inCtx]
      exact (p.sizes_zero ulow (huhw ▸ hfits) h0).1

end Sys2Proof.Machine

/-! PROOF. START_TRANSFER on an endpoint (R246). -/

namespace Sys2Proof.Machine

open Sys2Proof

/-- The machine when a request has become the active one of an endpoint (R246). -/
def State.begun (s : State) (e : EpRef) (n : Nat) : State :=
  (s.modEp e fun r => { r with x := { r.x with active := some (.pool n), zlpPhase := false } }).modEp e fun r =>
    { r with state := .active, waits := false }

section
variable (s : State) (e : EpRef) (n : Nat)

theorem State.ep_begun : (s.begun e n).ep e = { s.ep e with
    state := .active
    waits := false
    x := { (s.ep e).x with active := some (.pool n), zlpPhase := false } } := by
  simp [State.begun]

theorem State.hw_begun : (s.begun e n).hw = s.hw := by simp [State.begun]
theorem State.core_begun : (s.begun e n).core = s.core := by simp [State.begun]
theorem State.calm_begun : (s.begun e n).Calm ↔ s.Calm := by simp [State.begun]
theorem State.reqAt_begun (i : ReqId) : (s.begun e n).reqAt i = s.reqAt i := by simp [State.begun]
theorem frame_begun : Frame s (s.begun e n) [] [.ep e] := by simp [State.begun]

theorem State.reqOf_begun : (s.begun e n).reqOf (.ep e) = s.reqAt (.pool n) := by
  rw [State.reqOf_active (x := .ep e) (i := .pool n) (by simp [State.ep_begun]), s.reqAt_begun]

end

/-! The command. -/

theorem runCmd_fault {i : Instr} {p : M Result} {s : State} {f : Fault} (h : p (hooksAt s.level) s = .error (.fault f)) :
    runCmd i p s = .fault f := by
  rw [runCmd, h]
  rfl

section
variable {s : State} {e : EpRef} {n : BitVec 16} (k : s.Calm) (hr : s.InDeviceRole) (hd : s.hw.debug = false)
  (hn : e.num.val < s.hw.caps.nEp) (hu : s.slotUsed n.toNat = true)
include k hr hn hu

theorem startTransferCmd_valid (h : Hooks) : startTransferCmd (.ep e) n h s =
    (do startTransfer (.ep e) n.toNat; pure (Result.status .ok)) h s.guarded := by
  have hlt : n.toNat < s.pool.length := by
    by_contra hge
    simp [State.slotUsed, List.getElem?_eq_none (Nat.le_of_not_lt hge)] at hu
  have hv : s.guarded.validX (.ep e) = true := by simp [State.validX, hr.role, hr.caps, hn]
  rw [startTransferCmd, needFunctional_on hr.functional, critical_guarded k]
  simp [hv, hlt]

include hd

theorem exec_startTransfer_active (ha : (s.ep e).x.active ≠ none) :
    exec (.startTransfer (.ep e) n) s = .fault .stuckTransferActive := by
  refine runCmd_fault ?_
  rw [startTransferCmd_valid k hr hn hu]
  simp [startTransfer, run_bind, assertThat_release, hd, State.started, ha, stopWith]

theorem exec_startTransfer_waits (ha : (s.ep e).x.active = none) (hs : (s.ep e).state = .idle) (hdis : (s.ep e).disabling = true) :
    ∃ t, exec (.startTransfer (.ep e) n) s = .next t ∧ t.result = .status .ok ∧ t.ep e = (s.ep e).waiting n.toNat ∧
      Frame s t [] [.ep e] := by
  refine runCmd_of ⟨.status .ok, s.guarded.modEp e fun r => r.waiting n.toNat, ?_, by simp, by simp, by simp⟩
  rw [startTransferCmd_valid k hr hn hu]
  simp [startTransfer, run_bind, assertThat_release, hd, State.started, State.haltPends, ha, State.xIdle, hs, State.disabling, hdis,
    waitTransfer]

/-- A request that may start begins (R246). -/
theorem exec_startTransfer_begins (ha : (s.ep e).x.active = none) (hs : (s.ep e).state = .idle) (hdis : (s.ep e).disabling = false)
    {Q : State → Prop} (hQ : ∃ u, programChunk (.ep e) (hooksAt s.level) (s.guarded.begun e n.toNat) = .ok ((), u) ∧
      Q (u.returned (.status .ok))) : ∃ t, exec (.startTransfer (.ep e) n) s = .next t ∧ t.result = .status .ok ∧ Q t := by
  obtain ⟨u, hrun, hq⟩ := hQ
  have hbegin : beginTransfer (.ep e) n.toNat (hooksAt s.level) s.guarded = .ok ((), u) := by
    simpa [beginTransfer, run_bind, markActive, State.begun] using hrun
  refine runCmd_of ⟨.status .ok, u, ?_, by simp, hq⟩
  rw [startTransferCmd_valid k hr hn hu]
  simp [startTransfer, run_bind, assertThat_release, hd, State.started, State.haltPends, ha, State.xIdle, hs, State.disabling, hdis,
    hbegin]

theorem exec_startTransfer_fault (ha : (s.ep e).x.active = none) (hs : (s.ep e).state = .idle) (hdis : (s.ep e).disabling = false)
    {f : Fault} (h : programChunk (.ep e) (hooksAt s.level) (s.guarded.begun e n.toNat) = .error (.fault f)) :
    exec (.startTransfer (.ep e) n) s = .fault f := by
  have hbegin : beginTransfer (.ep e) n.toNat (hooksAt s.level) s.guarded = .error (.fault f) := by
    simpa [beginTransfer, run_bind, markActive, State.begun] using h
  refine runCmd_fault ?_
  rw [startTransferCmd_valid k hr hn hu]
  simp [startTransfer, run_bind, assertThat_release, hd, State.started, State.haltPends, ha, State.xIdle, hs, State.disabling, hdis,
    hbegin]

end

/-- Settles O25. -/
theorem startTransferProgramsTheEndpoint : Obligations.StartTransferProgramsTheEndpoint := by
  intro s e n a hsh low hr hfits h0 hn hs hu howner hpend
  have k := a.calmTask hsh
  refine ⟨fun ha => exec_startTransfer_active k hr a.release hn hu ha, fun ha hdis =>
    exec_startTransfer_waits k hr a.release hn hu ha hs hdis, fun ha hdis hd h1 h1024 hmul hiso hdone => ?_⟩
  intro q mps top len pkts
  set v := s.guarded.begun e n.toNat with hv
  have hvs : Frame s v [] [.ep e] := by
    have hf := frame_begun s.guarded e n.toNat
    rwa [frame_of_guarded] at hf
  have hvep : v.ep e = { s.ep e with
    state := .active
    waits := false
    x := { (s.ep e).x with active := some (.pool n.toNat), zlpPhase := false } } := by simp [hv, State.ep_begun]
  have hvd : v.isDesc = false := by
    rw [State.isDesc, hvs.core (by simp) (by simp)]
    exact hd
  have hvcaps : v.core.caps = v.hw.caps := by simp [hv, State.core_begun, State.hw_begun, hr.caps]
  have hvq : v.reqOf (.ep e) = q := by simp [hv, State.reqOf_begun, q]
  have hvlow : v.sizeLow e := (State.sizeLow_congr (hvs.raw_eq (by simp) (by simp)) hvs.hw).mpr (low.epSiz e)
  obtain ⟨u, hrun, hep, p⟩ := programChunk_direct (s := v) (e := e) ((s.guarded.calm_begun e _).mpr (s.calm_guarded.mpr k)).ready
    (by simpa using (hvs.hostMode_eq (by simp)).trans hr.mode) (by simpa [hvs.hw] using hn) hvd (hooksAt s.level)
  have hnext : v.nextChunk (.ep e) = len := by
    rw [State.nextChunk_ep hvcaps hvd, hvq, hvep, hdone, show v.epClamp e = s.epClamp e by simp [State.epClamp, State.sizeBits, hvs.hw, hvep],
      s.epClamp_data h0]
    have hperiodic : typePeriodic (s.ep e).type = decide ((s.ep e).type = .interrupt) := by
      cases ht : (s.ep e).type <;> simp_all [typePeriodic]
    simp only [hperiodic, decide_eq_true_eq]
    rfl
  obtain ⟨hsize, hcount⟩ := p.sizes hvlow (hvs.hw ▸ hfits) h0 (hvep.symm ▸ h1) (hvep.symm ▸ h1024) (State.nextChunk_le hvcaps hvd)
  rw [hnext, hvep] at hsize hcount
  rw [hnext] at hep p
  refine exec_startTransfer_begins k hr a.release hn hu ha hs hdis ⟨u, hrun, ?_⟩
  simp only [State.raw_of_returned]
  refine ⟨hsize, hcount, ?_, p.enabled, p.ready, fun hsl hdir => ?_, by simp [hep, hvep], by simp [hep, hvep], by simp [hep, hvep],
    by simp [hep], by simp [hep], by simp [hep, hvep], ?_⟩
  · rw [p.addr_direct hvd, State.chunkAddr, hvq, hdone, hvs.raw_eq (by simp) (by simp), State.isSlave, hvs.core (by simp) (by simp)]
    simp [State.isSlave, q]
  · have hslave : v.isSlave = true := by
      rw [State.isSlave, hvs.core (by simp) (by simp)]
      exact hsl
    rw [p.empty hslave hdir, hvs.raw_eq (by simp) (by simp)]
  · exact (frame_returned _).mpr ((hvs.mono (by simp) (by simp)).trans (p.frame.mono (chunkRegs_subset e _) (by simp)))

end Sys2Proof.Machine

/-! PROOF. Descriptor chains (R253, R434): what the loop over their descriptors leaves in memory. -/

namespace Sys2Proof.Machine

open Sys2Proof

/-! Loops over the first numbers. -/

theorem forEach_append {α : Type} (p : α → M Unit) (h : Hooks) (l m : List α) :
    ∀ s, forEach (l ++ m) p h s = (do forEach l p; forEach m p) h s := by
  induction l with
  | nil => exact fun s => rfl
  | cons b bs ih =>
    intro s
    show (p b >>= fun _ => forEach (bs ++ m) p) h s = ((p b >>= fun _ => forEach bs p) >>= fun _ => forEach m p) h s
    rw [bind_assoc, run_bind, run_bind]
    cases p b h s with
    | error e => rfl
    | ok r => exact ih r.2

theorem forEach_one {α : Type} (p : α → M Unit) (h : Hooks) (a : α) (s : State) : forEach [a] p h s = p a h s := by
  show (p a >>= fun _ => pure ()) h s = p a h s
  rw [bind_pure_unit]

/-- A loop whose turns only read. -/
theorem forEach_reads {α : Type} {p : α → M Unit} {h : Hooks} {s : State} : ∀ {l : List α},
    (∀ a ∈ l, ∀ u, Frame s u [] [] → ∃ v, p a h u = .ok ((), v) ∧ Frame u v [] []) → ∀ u, Frame s u [] [] →
      ∃ v, forEach l p h u = .ok ((), v) ∧ Frame s v [] []
  | [], _, u, f => ⟨u, rfl, f⟩
  | a :: as, hl, u, f => by
    obtain ⟨v, hv, hf⟩ := hl a (by simp) u f
    obtain ⟨w, hw, hg⟩ := forEach_reads (l := as) (fun b hb => hl b (by simp [hb])) v (f.trans hf)
    exact ⟨w, by rw [forEach, run_bind_ok hv, hw], hg⟩

/-- A loop keeps what each of its turns takes one step further. -/
theorem forEach_range {f : Nat → M Unit} {h : Hooks} {P : Nat → State → Prop} {s : State} (n : Nat) (h0 : P 0 s)
    (turn : ∀ i u, i < n → P i u → ∃ v, f i h u = .ok ((), v) ∧ P (i + 1) v) :
    ∃ u, forEach (List.range n) f h s = .ok ((), u) ∧ P n u := by
  induction n with
  | zero => exact ⟨s, rfl, h0⟩
  | succ n ih =>
    obtain ⟨u, hu, hp⟩ := ih fun i u hi => turn i u (by omega)
    obtain ⟨v, hv, hq⟩ := turn n u (by omega) hp
    exact ⟨v, by rw [List.range_succ, forEach_append, run_bind_ok hu, forEach_one, hv], hq⟩

/-! What a frame keeps of the arrays that DMA walks. -/

section
variable {s t : State} {ps : List Part} (f : Frame s t [] ps)
include f

theorem Frame.raw_all (r : Reg) : t.raw r = s.raw r := f.regs _ (by simp)

theorem Frame.accessible_eq (r : Reg) : t.accessible r = s.accessible r := by
  simp only [State.accessible, State.hostMode, f.hw, f.raw_all]

theorem Frame.walking_eq (x : XRef) : t.walking x = s.walking x :=
  State.walking_congr f.accessible_eq (by rw [State.enabledHw, State.enabledHw, f.raw_all])
    (by rw [State.hostMode, State.hostMode, f.raw_all]) (by rw [State.slaveHw, State.slaveHw, f.raw_all]) (f.raw_all _) (f.raw_all _)

theorem Frame.spared {a : Word} (h : s.Spared a) (hp : .plat ∉ ps) : t.Spared a :=
  h.mono (by rw [f.plat hp]) f.hw fun x hx => f.walking_eq x ▸ hx

theorem Frame.owned_eq {a : Word} (hm : .mem ∉ ps) (hp : .plat ∉ ps) : t.owned a = s.owned a := by
  have hword (b : Word) : t.word b = s.word b := State.word_congr_bytes fun _ _ => f.mem hm _
  simp only [State.owned, State.ownedSlot, f.plat hp, f.hw, f.walking_eq, hword]

end

/-- A descriptor that DMA owns is not written (R117, U7). -/
theorem memWrite32_owned {s : State} (k : s.Calm) {a : Word} (h : s.owned a = true) (v : Word) (hk : Hooks) :
    memWrite32 a v hk s = .error (.fault .stuckOwnedDescriptor) := by
  rw [memWrite32, run_bind_ok (k.ready.between hk), run_ask_bind, h]
  rfl

/-! The chain. -/

/-- From `s` to `t` the first `i` descriptors of a chain have been written. -/
structure State.ChainUpTo (s t : State) (base : Word) (buf st : Nat → Word) (i : Nat) : Prop where
  status : ∀ j < i, t.word (base + BitVec.ofNat 32 (8 * j)) = st j
  addr : ∀ j < i, t.word (base + BitVec.ofNat 32 (8 * j) + 4) = buf j
  out : ∀ a, (∀ k < 8 * i, a ≠ base + BitVec.ofNat 32 k) → t.byte a = s.byte a

theorem State.chainUpTo_zero (s : State) {t : State} (base : Word) (buf st : Nat → Word) (h : ∀ a, t.byte a = s.byte a) :
    s.ChainUpTo t base buf st 0 := ⟨by simp, by simp, fun a _ => h a⟩

/-- A chain is a matter of the memory alone. -/
theorem State.ChainUpTo.congr {s t s' t' : State} {base : Word} {buf st : Nat → Word} {i : Nat} (c : s.ChainUpTo t base buf st i)
    (hs : ∀ a, s'.byte a = s.byte a) (ht : ∀ a, t'.byte a = t.byte a) : s'.ChainUpTo t' base buf st i where
  status j hj := (State.word_congr_bytes fun _ _ => ht _).trans (c.status j hj)
  addr j hj := (State.word_congr_bytes fun _ _ => ht _).trans (c.addr j hj)
  out a ha := (ht a).trans ((c.out a ha).trans (hs a).symm)

theorem slotAddr (base : Word) (i j : Nat) : base + BitVec.ofNat 32 (8 * i) + BitVec.ofNat 32 j = base + BitVec.ofNat 32 (8 * i + j) := by
  rw [BitVec.add_assoc, ← BitVec.ofNat_add]

theorem slotAddr_four (base : Word) (i : Nat) : base + BitVec.ofNat 32 (8 * i) + 4#32 = base + BitVec.ofNat 32 (8 * i + 4) := slotAddr base i 4

/-- A word outside a slot is as before. -/
theorem word_outside {u v : State} {base : Word} {i m : Nat} (hi : 8 * (i + 1) ≤ 2 ^ 32) (hm : m + 4 ≤ 8 * i)
    (hout : ∀ b, (∀ j < 8, b ≠ base + BitVec.ofNat 32 (8 * i) + BitVec.ofNat 32 j) → v.byte b = u.byte b) :
    v.word (base + BitVec.ofNat 32 m) = u.word (base + BitVec.ofNat 32 m) := by
  refine State.word_congr_bytes fun k hk => hout _ fun j hj he => ?_
  rw [slotAddr, BitVec.add_assoc, ← BitVec.ofNat_add] at he
  have := addr_inj (by omega) (by omega) he
  omega

/-- One more descriptor. -/
theorem State.ChainUpTo.succ {s u v : State} {base : Word} {buf st : Nat → Word} {i : Nat} (c : s.ChainUpTo u base buf st i)
    (hi : 8 * (i + 1) ≤ 2 ^ 32) (hst : v.word (base + BitVec.ofNat 32 (8 * i)) = st i)
    (hbuf : v.word (base + BitVec.ofNat 32 (8 * i) + 4#32) = buf i)
    (hout : ∀ b, (∀ j < 8, b ≠ base + BitVec.ofNat 32 (8 * i) + BitVec.ofNat 32 j) → v.byte b = u.byte b) :
    s.ChainUpTo v base buf st (i + 1) where
  status j hj := by
    rcases Nat.lt_succ_iff_lt_or_eq.mp hj with hj | rfl
    · rw [word_outside hi (by omega) hout, c.status j hj]
    · exact hst
  addr j hj := by
    rcases Nat.lt_succ_iff_lt_or_eq.mp hj with hj | rfl
    · have ha : base + BitVec.ofNat 32 (8 * j) + 4 = base + BitVec.ofNat 32 (8 * j + 4) := slotAddr base j 4
      have h := c.addr j hj
      rw [ha] at h ⊢
      rw [word_outside hi (by omega) hout, h]
    · exact hbuf
  out a ha := (hout a fun j hj => by rw [slotAddr]; exact ha _ (by omega)).trans (c.out a fun k hk => ha k (by omega))

/-- One descriptor of a chain is written. -/
theorem writeDesc_slot {s u : State} {base : Word} {buf st : Nat → Word} {i : Nat} (k : u.Calm) (c : s.ChainUpTo u base buf st i)
    (hi : 8 * (i + 1) ≤ 2 ^ 32) (hsp : ∀ k < 8 * (i + 1), u.Spared (base + BitVec.ofNat 32 k)) (h : Hooks) :
    ∃ v, writeDesc (base + BitVec.ofNat 32 (8 * i)) (buf i) (st i) h u = .ok ((), v) ∧ s.ChainUpTo v base buf st (i + 1) ∧
      Frame u v [] [.mem] := by
  obtain ⟨v, hv, hst, hbuf, hout, hf⟩ := writeDesc_run k (hsp (8 * i) (by omega)) (by rw [slotAddr_four]; exact hsp (8 * i + 4) (by omega))
    (buf i) (st i) h
  exact ⟨v, hv, c.succ hi hst hbuf hout, hf⟩

/-! The chain builder of the transfer engine (R253). -/

@[simp] theorem frame_drawn {s t : State} {rs : List Reg} {ps : List Part} (n : Nat) :
    Frame s (t.drawn n) rs ps ↔ Frame s t rs ps :=
  ((Frame.refl t rs ps).of_eq (u := t.drawn n) rfl).iff_of

theorem drawFrame_run (iso : Bool) (h : Hooks) (s : State) :
    ∃ u w, drawFrame iso h s = .ok (w, u) ∧ (∀ a, u.byte a = s.byte a) ∧ Frame s u [] [] := by
  cases iso
  · exact ⟨s, 0, rfl, fun _ => rfl, by simp⟩
  · exact ⟨s.drawn 1, s.drawWord.1, rfl, fun _ => rfl, by simp⟩

theorem buildChain_owned {s : State} (k : s.Calm) (iso receive : Bool) (mps : Nat) {base : Word} (buf : Word) (len : Nat)
    (ho : s.owned base = true) (h : Hooks) :
    buildChain iso receive mps base buf len h s = .error (.fault .stuckOwnedDescriptor) := by
  obtain ⟨v, frame, hv, -, hf⟩ := drawFrame_run iso h s
  have hfirst := memWrite32_owned (hf.calm k (by simp) (by simp)) (a := base + BitVec.ofNat 32 (8 * 0))
    (by rw [hf.owned_eq (by simp) (by simp)]; simpa using ho) hostBusyWord h
  obtain ⟨n, hn⟩ := Nat.exists_eq_succ_of_ne_zero (show descCount mps len ≠ 0 by unfold descCount; omega)
  rw [buildChain, run_bind_ok hv, hn, List.range_succ_eq_map]
  simp only [forEach, writeDesc, run_bind, hfirst]

theorem buildChain_run {s : State} (k : s.Calm) (iso receive : Bool) (mps : Nat) {base : Word} (buf : Word) {len : Nat}
    (hn : 8 * descCount mps len ≤ 2 ^ 32) (hsp : ∀ k < 8 * descCount mps len, s.Spared (base + BitVec.ofNat 32 k)) (h : Hooks) :
    ∃ u frame, buildChain iso receive mps base buf len h s = .ok ((), u) ∧
      s.ChainUpTo u base (fun i => buf + BitVec.ofNat 32 (i * maxPerDesc mps)) (descWord iso frame receive mps len) (descCount mps len) ∧
      Frame s u [] [.mem] := by
  obtain ⟨v, frame, hv, hbytes, hfv⟩ := drawFrame_run iso h s
  have hfv' : Frame s v [] [.mem] := hfv.mono (List.Subset.refl _) (List.nil_subset _)
  obtain ⟨u, hu, hc, hf⟩ := forEach_range (h := h) (s := v) (descCount mps len)
    (f := fun i => writeDesc (base + BitVec.ofNat 32 (8 * i)) (buf + BitVec.ofNat 32 (i * maxPerDesc mps))
      (descWord iso frame receive mps len i))
    (P := fun i u => s.ChainUpTo u base (fun i => buf + BitVec.ofNat 32 (i * maxPerDesc mps)) (descWord iso frame receive mps len) i ∧
      Frame s u [] [.mem]) ⟨s.chainUpTo_zero _ _ _ hbytes, hfv'⟩ fun i u hi ⟨hc, hf⟩ => by
        obtain ⟨w, hw, hcw, hfw⟩ := writeDesc_slot (hf.calm k (by simp) (by simp)) hc (by omega)
          (fun j hj => hf.spared (hsp j (by omega)) (by simp)) h
        exact ⟨w, hw, hcw, hf.trans hfw⟩
  exact ⟨u, frame, (run_bind_ok hv).trans hu, hc, hf⟩

/-- The fields of an isochronous status word (R161). -/
theorem isoStatusWord_fields (pktLen frame pid : Nat) (last : Bool) :
    field (isoStatusWord pktLen frame pid last) 0 12 = pktLen % 2 ^ 12 ∧ field (isoStatusWord pktLen frame pid last) 12 11 = frame % 2 ^ 11 ∧
    field (isoStatusWord pktLen frame pid last) 23 2 = pid % 2 ^ 2 ∧ bitOf (isoStatusWord pktLen frame pid last) 25 = last ∧
    bitOf (isoStatusWord pktLen frame pid last) 27 = last ∧ bitOf (isoStatusWord pktLen frame pid last) 26 = false ∧
    field (isoStatusWord pktLen frame pid last) 28 4 = 0 := by
  unfold isoStatusWord
  simp only [field_or, bitOf_or, bitOf_fld, bitOf_bitIf]
  refine ⟨?_, ?_, ?_, by simp, by simp, by simp, ?_⟩
  · rw [field_fld_same _ (by decide), field_fld_other _ (by decide), field_fld_other _ (by decide), field_bitIf_other (by decide),
      field_bitIf_other (by decide)]
    simp
  · rw [field_fld_other _ (by decide), field_fld_same _ (by decide), field_fld_other _ (by decide), field_bitIf_other (by decide),
      field_bitIf_other (by decide)]
    simp
  · rw [field_fld_other _ (by decide), field_fld_other _ (by decide), field_fld_same _ (by decide), field_bitIf_other (by decide),
      field_bitIf_other (by decide)]
    simp
  · rw [field_fld_other _ (by decide), field_fld_other _ (by decide), field_fld_other _ (by decide), field_bitIf_other (by decide),
      field_bitIf_other (by decide)]
    simp

end Sys2Proof.Machine

/-! PROOF. START_TRANSFER in descriptor-DMA mode (R252, R253). -/

namespace Sys2Proof.Machine

open Sys2Proof

/-! The fields of a status word (R160, R161). -/

theorem descStatusWord_fields (receive : Bool) (mps len i : Nat) :
    field (descStatusWord receive mps len i) 0 16 = descBytes receive mps len i % 2 ^ 16 ∧
    bitOf (descStatusWord receive mps len i) 25 = descLast mps len i ∧ bitOf (descStatusWord receive mps len i) 27 = descLast mps len i ∧
    bitOf (descStatusWord receive mps len i) 26 = descShort mps len i ∧ field (descStatusWord receive mps len i) 28 4 = 0 := by
  unfold descStatusWord
  simp only [field_or, bitOf_or, bitOf_fld, bitOf_bitIf]
  refine ⟨?_, by simp, by simp, by simp, ?_⟩
  · rw [field_fld_same _ (by decide), field_bitIf_other (by decide), field_bitIf_other (by decide), field_bitIf_other (by decide)]
    simp
  · rw [field_fld_other _ (by decide), field_bitIf_other (by decide), field_bitIf_other (by decide), field_bitIf_other (by decide)]
    simp

/-- The status word of a chain: its flags, and its count in the form of the target's type (R160, R161). -/
theorem descWord_fields (iso : Bool) (frame : Word) (receive : Bool) (mps len i : Nat) :
    (iso = false → field (descWord iso frame receive mps len i) 0 16 = descBytes receive mps len i % 2 ^ 16) ∧
    (iso = true → field (descWord iso frame receive mps len i) 0 12 = descBytes receive mps len i % 2 ^ 12 ∧
      field (descWord iso frame receive mps len i) 23 2 = slotPid (!receive) (descBytes receive mps len i) mps % 2 ^ 2) ∧
    bitOf (descWord iso frame receive mps len i) 27 = descLast mps len i ∧
    bitOf (descWord iso frame receive mps len i) 25 = descLast mps len i ∧
    bitOf (descWord iso frame receive mps len i) 26 = descShort mps len i ∧ field (descWord iso frame receive mps len i) 28 4 = 0 := by
  cases iso
  · obtain ⟨hb, h25, h27, h26, h28⟩ := descStatusWord_fields receive mps len i
    exact ⟨fun _ => hb, by simp, h27, h25, h26, h28⟩
  · obtain ⟨hb, -, hp, h25, h27, h26, h28⟩ := isoStatusWord_fields (descBytes receive mps len i) (field frame 0 11)
      (slotPid (!receive) (descBytes receive mps len i) mps) (descLast mps len i)
    simp only [descWord, if_true, field_or, bitOf_or, bitOf_bitIf, hb, hp, h25, h27, h26, h28]
    refine ⟨by simp, fun _ => ⟨?_, ?_⟩, by simp, by simp, by simp, ?_⟩
    all_goals rw [field_bitIf_other (by decide)]; simp

/-! The bytes of a descriptor (R253). -/

section
variable {mps : Nat} (h1 : 1 ≤ mps) (hm : mps ≤ 1024)
include h1

/-- Whole packets for what fits in `p` packets fit in them too. -/
theorem pktCount_le {n p : Nat} (hp : 1 ≤ p) (hn : n ≤ p * mps) : pktCount n mps ≤ p := by
  refine max_le hp (Nat.lt_succ_iff.mp ((Nat.div_lt_iff_lt_mul (by omega)).mpr ?_))
  rw [Nat.succ_mul]
  omega

theorem descBytes_le {receive : Bool} {len i p : Nat} (hp : 1 ≤ p) (hn : descChunk mps len i ≤ p * mps) :
    descBytes receive mps len i ≤ p * mps := by
  unfold descBytes
  split
  · exact Nat.mul_le_mul_right _ (pktCount_le h1 hp hn)
  · exact hn

include hm

theorem descBytes_lt (receive : Bool) (len i : Nat) : descBytes receive mps len i < 2 ^ 16 := by
  have hp : 1 ≤ 65535 / mps := (Nat.le_div_iff_mul_le (by omega)).mpr (by omega)
  have hle := descBytes_le (receive := receive) (len := len) (i := i) h1 hp (min_le_left _ _)
  have := Nat.div_mul_le_self 65535 mps
  omega

/-- A chain for at most so many descriptors' bytes has at most so many descriptors. -/
theorem descCount_le {len m : Nat} (hm1 : 1 ≤ m) (hl : len ≤ m * maxPerDesc mps) : descCount mps len ≤ m := by
  have hp : 1 ≤ 65535 / mps := (Nat.le_div_iff_mul_le (by omega)).mpr (by omega)
  have hpos : 1 ≤ maxPerDesc mps := Nat.mul_pos hp h1
  exact pktCount_le hpos hm1 hl

end

/-! Programming. -/

theorem programChunk_eq {s : State} {e : EpRef} (hd : s.isDesc = true) {len : Nat} (hl : s.nextChunk (.ep e) = len) (h : Hooks) :
    programChunk (.ep e) h s =
      programEpDesc e len h (s.modEp e fun r => { r with x := { r.x with chunkLen := len, chunkDone := 0 } }) := by
  simp [programChunk, run_bind, hd, hl]

theorem programEpDesc_eq {s : State} {e : EpRef} {d : Word} (hb : (s.ep e).x.desc = some d) {len : Nat} (h : Hooks) :
    programEpDesc e len h s = (do
      buildChain (s.isoForm (.ep e)) (decide (e.dir = Dir.OUT)) (s.ep e).mps d (s.chunkAddr (.ep e)) len
      regWrite (epDma e) d
      regUpdate (epCtl e) fun w => keepControl w ||| cnakEpena) h s := by
  rw [programEpDesc, run_ask_bind, run_bind_ok (descBase_own (x := .ep e) hb h)]
  rfl

section
variable {s : State} {e : EpRef} (k : s.Calm) (hm : s.hostMode = false) (hn : e.num.val < s.hw.caps.nEp) (hd : s.isDesc = true)
  {d : Word} (hb : (s.ep e).x.desc = some d) (h : Hooks)
include k hd hb

theorem programChunk_owned (ho : s.owned d = true) : programChunk (.ep e) h s = .error (.fault .stuckOwnedDescriptor) := by
  rw [programChunk_eq hd rfl, programEpDesc_eq (d := d) (by simpa using hb)]
  set w := s.modEp e fun r => { r with x := { r.x with chunkLen := s.nextChunk (.ep e), chunkDone := 0 } } with hw
  have hf : Frame s w [] [.ep e] := by simp [hw]
  rw [run_bind, buildChain_owned (hf.calm k (by simp) (by simp)) _ _ _ _ _ (by rw [hf.owned_eq (by simp) (by simp)]; exact ho)]

include hm hn

/-- The next chunk of an endpoint in descriptor-DMA mode (R247, R252). -/
theorem programChunk_desc (hlen : 8 * descCount (s.ep e).mps (s.nextChunk (.ep e)) ≤ 2 ^ 32)
    (hsp : ∀ k < 8 * descCount (s.ep e).mps (s.nextChunk (.ep e)), s.Spared (d + BitVec.ofNat 32 k)) :
    ∃ u frame, programChunk (.ep e) h s = .ok ((), u) ∧
      u.ep e = { s.ep e with x := { (s.ep e).x with chunkLen := s.nextChunk (.ep e), chunkDone := 0 } } ∧
      s.ChainUpTo u d (fun i => s.chunkAddr (.ep e) + BitVec.ofNat 32 (i * maxPerDesc (s.ep e).mps))
        (descWord (s.isoForm (.ep e)) frame (decide (e.dir = .OUT)) (s.ep e).mps (s.nextChunk (.ep e)))
        (descCount (s.ep e).mps (s.nextChunk (.ep e))) ∧
      u.raw (epDma e) = d ∧ bitOf (u.raw (epCtl e)) 31 = true ∧ Frame s u [epDma e, epCtl e] [.ep e, .mem] := by
  generalize hl : s.nextChunk (.ep e) = len at hlen hsp ⊢
  set w := s.modEp e fun r => { r with x := { r.x with chunkLen := len, chunkDone := 0 } } with hw
  have h31 (v : State) (x : Word) : bitOf (v.ctlWritten e (keepControl x ||| cnakEpena)) 31 = true := by
    rw [v.bitOf_ctlWritten e _ (by decide) (by decide) (by decide)]
    simp [cnakEpena]
  obtain ⟨v, frame, hv, hc, hf⟩ := buildChain_run (s := w) (by simpa [hw] using k) (s.isoForm (.ep e)) (decide (e.dir = .OUT))
    (s.ep e).mps (s.chunkAddr (.ep e)) hlen (fun j hj => by simpa [hw] using hsp j hj) h
  have kv : v.Calm := hf.calm (by simpa [hw] using k) (by simp) (by simp)
  have hvm : v.hostMode = false := (hf.hostMode_eq (by simp)).trans (by simpa [hw] using hm)
  have hvn : e.num.val < v.hw.caps.nEp := by simpa [hf.hw, hw] using hn
  have hvf : Frame s v [] [.ep e, .mem] := Frame.trans (t := w) (by simp [hw]) (hf.mono (by simp) (by simp))
  have hform : w.isoForm (.ep e) = s.isoForm (.ep e) := by
    have ht : w.typeOf (.ep e) = s.typeOf (.ep e) := by simp [hw, State.typeOf]
    have hdesc : w.isDesc = s.isDesc := by simp [hw, State.isDesc]
    simp only [State.isoForm, ht, hdesc]
  have hrun : programChunk (.ep e) h s = (do
      regWrite (epDma e) d
      regUpdate (epCtl e) fun w => keepControl w ||| cnakEpena) h v := by
    rw [programChunk_eq hd hl]
    exact (programEpDesc_eq (s := w) (by simpa [hw] using hb) h).trans (by rw [hform]; simpa [hw] using run_bind_ok hv)
  refine ⟨_, frame, by rw [hrun]; simp [run_bind, kv, hvm, hvn]; rfl, ?_, hc.congr (by simp [hw]) (by simp), by simp, by simp [h31], ?_⟩
  · simp [hf.ep, hw]
  · simpa using hvf.mono (by simp) (by simp)

end

/-- What one chunk takes at most in descriptor-DMA mode (R247). -/
def State.descTop (s : State) (e : EpRef) : Nat :=
  let l := s.hw.maxDesc * maxPerDesc (s.ep e).mps
  if typePeriodic (s.ep e).type then
    min l ((if (s.ep e).type = .isochronous then min (s.ep e).multiCount 3 else (s.ep e).multiCount) * (s.ep e).mps)
  else l

theorem State.nextChunk_desc {s : State} {e : EpRef} (hd : s.isDesc = true) (hz : (s.ep e).x.zlpPhase = false) :
    s.nextChunk (.ep e) = min ((s.reqOf (.ep e)).length - (s.reqOf (.ep e)).done) (s.descTop e) := by
  by_cases ht : (s.ep e).type = .isochronous <;>
    simp [State.nextChunk, State.chunkLimit, State.descTop, State.packetsPer, State.isoForm, State.splits, State.typeOf,
      State.multiOf, hd, hz, ht]

theorem State.descTop_le (s : State) (e : EpRef) : s.descTop e ≤ s.hw.maxDesc * maxPerDesc (s.ep e).mps := by
  unfold State.descTop
  split
  · exact min_le_left _ _
  · exact le_refl _

theorem State.descTop_iso {s : State} {e : EpRef} (h : (s.ep e).type = .isochronous) : s.descTop e ≤ 3 * (s.ep e).mps := by
  simp only [State.descTop, h, typePeriodic, if_true]
  exact (min_le_right _ _).trans (Nat.mul_le_mul_right _ (min_le_right _ _))

/-- Settles O26. -/
theorem startTransferBuildsTheChain : Obligations.StartTransferBuildsTheChain := by
  intro s e h d a hsh hr hd hn hs ha hb hdis h1 h1024 hdesc1 hdesc2 hu howner hpend q mps mpd iso packets top len n
  have k := a.calmTask hsh
  set v := s.guarded.begun e h.toNat with hv
  have hvs : Frame s v [] [.ep e] := by
    have hf := frame_begun s.guarded e h.toNat
    rwa [frame_of_guarded] at hf
  have kv : v.Calm := hvs.calm k (by simp) (by simp)
  have hvep : v.ep e = { s.ep e with
    state := .active
    waits := false
    x := { (s.ep e).x with active := some (.pool h.toNat), zlpPhase := false } } := by simp [hv, State.ep_begun]
  have hvd : v.isDesc = true := by
    rw [State.isDesc, hvs.core (by simp) (by simp)]
    exact hd
  have hvb : (v.ep e).x.desc = some d := by rw [hvep]; exact hb
  refine ⟨fun ho => ?_, fun hsp => ?_⟩
  · exact exec_startTransfer_fault k hr a.release hn hu ha hs hdis
      (programChunk_owned kv hvd hvb _ (by rw [hvs.owned_eq (by simp) (by simp)]; exact ho))
  · have hvq : v.reqOf (.ep e) = q := by simp [hv, State.reqOf_begun, q]
    have hnext : v.nextChunk (.ep e) = len := by
      rw [State.nextChunk_desc hvd (by simp [hvep]), hvq, State.descTop, hvep, hvs.hw]
      rfl
    have hcount : n ≤ s.hw.maxDesc := descCount_le h1 h1024 hdesc1 ((min_le_right _ _).trans (s.descTop_le e))
    obtain ⟨u, frame, hrun, hep, hc, hdma, h31, hf⟩ := programChunk_desc kv (e := e) (d := d) ((hvs.hostMode_eq (by simp)).trans hr.mode)
      (hvs.hw ▸ hn) hvd hvb (hooksAt s.level) (by rw [hnext, hvep]; show 8 * n ≤ 2 ^ 32; omega) (fun j hj => by
        rw [hnext, hvep] at hj
        exact hvs.spared (hsp j (by show j < 8 * s.hw.maxDesc; have : j < 8 * n := hj; omega)) (by simp))
    rw [hnext, hvep] at hc
    have hch : ∀ i, descChunk mps len i = min mpd (len - i * mpd) := fun _ => rfl
    refine exec_startTransfer_begins k hr a.release hn hu ha hs hdis ⟨u, hrun, ?_⟩
    simp only [State.raw_of_returned, State.ep_of_returned]
    refine ⟨hdma, h31, by simp [hep, hnext], hcount, fun i hi => ?_, fun b hb => ?_, ?_⟩
    · obtain ⟨hgen, hform, h27, h25, h26, h28⟩ := descWord_fields (v.isoForm (.ep e)) frame (decide (e.dir = .OUT)) mps len i
      have hst := hc.status i hi
      have hbuf := hc.addr i hi
      have hbytes : (if e.dir = .OUT then max 1 ((min mpd (len - i * mpd) + mps - 1) / mps) * mps else min mpd (len - i * mpd)) =
          descBytes (decide (e.dir = .OUT)) mps len i := by
        cases e.dir <;> rfl
      have hvform : v.isoForm (.ep e) = decide iso := by
        rw [State.isoForm, hvd, State.typeOf, hvep]
        exact Bool.true_and _
      rw [hvform] at hgen hform hst h27 h25 h26 h28
      simp only [State.word_of_returned, hst, hbuf, hbytes]
      refine ⟨?_, fun hi => ?_, fun hi => ?_, h27, h25, h26, h28⟩
      · rw [State.chunkAddr, hvq]
        rfl
      · rw [hgen (by simpa using hi), Nat.mod_eq_of_lt (descBytes_lt h1 h1024 _ _ _)]
      · have hlen : len ≤ 3 * mps := (min_le_right _ _).trans (State.descTop_iso hi)
        have hchunk : descChunk mps len i ≤ 3 * mps := (min_le_right _ _).trans ((Nat.sub_le _ _).trans hlen)
        have hle := descBytes_le (receive := decide (e.dir = .OUT)) h1 (by decide) hchunk
        have hpk := pktCount_le h1 (by decide) hle
        obtain ⟨hn12, hpid⟩ := hform (by simpa using hi)
        refine ⟨by rw [hn12, Nat.mod_eq_of_lt (lt_of_le_of_lt hle (show 3 * mps < 2 ^ 12 by omega))], ?_⟩
        rw [hpid]
        cases hdir : e.dir
        · rfl
        · rw [hdir] at hpk
          exact Nat.mod_eq_of_lt (Nat.lt_succ_of_le hpk)
    · rw [State.byte_of_returned, hc.out b hb, hvs.mem (by simp)]
    · exact (frame_returned _).mpr ((hvs.mono (by simp) (by simp)).trans hf)

end Sys2Proof.Machine

/-! PROOF. The isochronous scheduler's records and chains (R430, R434, R435). -/

namespace Sys2Proof.Machine

open Sys2Proof

/-! The records. -/

/-- The records after the one of `x` has been changed. -/
def changeIso (x : XRef) (f : IsoRec → IsoRec) (l : List IsoRec) : List IsoRec := l.map fun r => if r.owner = x then f r else r

@[simp] theorem run_modIso (x : XRef) (f : IsoRec → IsoRec) (h : Hooks) (s : State) :
    modIso x f h s = .ok ((), s.withIso (changeIso x f s.iso)) := rfl

theorem changeIso_changeIso (x : XRef) {f : IsoRec → IsoRec} (hf : ∀ r, (f r).owner = r.owner) (g : IsoRec → IsoRec) (l : List IsoRec) :
    changeIso x g (changeIso x f l) = changeIso x (fun r => g (f r)) l := by
  simp only [changeIso, List.map_map]
  refine List.map_congr_left fun r _ => ?_
  by_cases h : r.owner = x <;> simp [h, hf]

theorem changeIso_id (x : XRef) {f : IsoRec → IsoRec} (hf : ∀ r, f r = r) (l : List IsoRec) : changeIso x f l = l := by
  simp [changeIso, hf]

/-- Records of other owners are as before. -/
theorem changeIso_other {x : XRef} {l : List IsoRec} (h : ∀ r ∈ l, r.owner ≠ x) (f : IsoRec → IsoRec) : changeIso x f l = l := by
  conv_rhs => rw [← List.map_id l]
  exact List.map_congr_left fun r hr => if_neg (h r hr)

/-- The record of `x` after it has been changed. -/
theorem State.isoOf_changed {s t : State} {x : XRef} {f : IsoRec → IsoRec} (hf : ∀ r, (f r).owner = r.owner)
    (h : t.iso = changeIso x f s.iso) : t.isoOf x = (s.isoOf x).map f := by
  rw [State.isoOf, State.isoOf, h]
  generalize s.iso = l
  induction l with
  | nil => rfl
  | cons r rs ih =>
    by_cases ho : r.owner = x
    · have hfo := hf r
      simp_all [changeIso]
    · simpa [changeIso, ho] using ih

theorem State.isoOf_changed_other {s t : State} {x y : XRef} {f : IsoRec → IsoRec} (hf : ∀ r, (f r).owner = r.owner)
    (h : t.iso = changeIso x f s.iso) (hne : y ≠ x) : t.isoOf y = s.isoOf y := by
  rw [State.isoOf, State.isoOf, h]
  generalize s.iso = l
  induction l with
  | nil => rfl
  | cons r rs ih =>
    by_cases ho : r.owner = x
    · have hy : (f r).owner ≠ y := by rw [hf, ho]; exact hne.symm
      have hy' : r.owner ≠ y := by rw [ho]; exact hne.symm
      simpa [changeIso, ho, hy, hy', hne.symm] using ih
    · by_cases hy : r.owner = y
      · simp [changeIso, hy, hne]
      · simpa [changeIso, ho, hy] using ih

/-- A record whose frame number has advanced (R434). -/
def IsoRec.advanced (n : Nat) (r : IsoRec) : IsoRec := { r with nextFrame := r.nextFrame + BitVec.ofNat 14 n }

theorem IsoRec.advanced_advanced (m n : Nat) (r : IsoRec) : (r.advanced m).advanced n = r.advanced (m + n) := by
  simp only [IsoRec.advanced, BitVec.add_assoc, BitVec.ofNat_add]

/-! One chain (R434). -/

/-- The status word of slot `j` of a record's chain. -/
def State.isoSlotWord (s : State) (x : XRef) (r : IsoRec) (j : Nat) : Word :=
  isoStatusWord r.pktLen (r.advanced (j * s.intervalOf x)).nextFrame.toNat (slotPid (s.transmits x) r.pktLen (s.mpsOf x))
    (decide (j + 1 = r.pktPerBuf))

theorem isoBuildChain_run {s : State} (k : s.Calm) {x : XRef} {r : IsoRec} (hi : s.isoOf x = some r) (b : Bool) {n : Nat}
    (hn : 8 * n ≤ 2 ^ 32) (hsp : ∀ k < 8 * n, s.Spared (r.chain b + BitVec.ofNat 32 k)) (h : Hooks) :
    ∃ u, isoBuildChain x b n h s = .ok ((), u) ∧
      s.ChainUpTo u (r.chain b) (fun j => r.buf b + BitVec.ofNat 32 (j * r.pktLen)) (s.isoSlotWord x r) n ∧
      u.iso = changeIso x (IsoRec.advanced (n * s.intervalOf x)) s.iso ∧ Frame s u [] [.mem, .iso] := by
  refine forEach_range (P := fun n u => s.ChainUpTo u (r.chain b) (fun j => r.buf b + BitVec.ofNat 32 (j * r.pktLen)) (s.isoSlotWord x r) n ∧
    u.iso = changeIso x (IsoRec.advanced (n * s.intervalOf x)) s.iso ∧ Frame s u [] [.mem, .iso]) n
    ⟨s.chainUpTo_zero _ _ _ fun _ => rfl, ?_, by simp⟩ ?_
  · exact (changeIso_id x (fun r => by simp [IsoRec.advanced]) _).symm
  · rintro i u hin ⟨hc, hiso, hf⟩
    have hr : u.isoOf x = some (r.advanced (i * s.intervalOf x)) := by
      rw [State.isoOf_changed (f := IsoRec.advanced (i * s.intervalOf x)) (fun _ => rfl) hiso, hi]
      rfl
    have hiv : u.intervalOf x = s.intervalOf x := by
      cases x <;> simp [State.intervalOf, hf.ep, hf.ch]
    have htx : u.transmits x = s.transmits x := by
      cases x <;> simp [State.transmits, hf.ch]
    have hmps : u.mpsOf x = s.mpsOf x := by
      cases x <;> simp [hf.ep, hf.ch]
    obtain ⟨v, hv, hcv, hfv⟩ := writeDesc_slot (hf.calm k (by simp) (by simp)) hc (by omega)
      (fun j hj => hf.spared (hsp j (by omega)) (by simp)) h
    refine ⟨v.withIso (changeIso x (IsoRec.advanced (s.intervalOf x)) u.iso), ?_, hcv.congr (fun _ => rfl) (by simp), ?_, ?_⟩
    · have hcb : (r.advanced (i * s.intervalOf x)).chain b = r.chain b ∧ (r.advanced (i * s.intervalOf x)).buf b = r.buf b := by
        cases b <;> exact ⟨rfl, rfl⟩
      simp only [isoBuildSlot, run_ask_bind, id, hr, hcb, hiv, htx, hmps]
      rw [← hfv.iso (by simp) (by simp)]
      exact run_bind_ok hv
    · rw [State.withIso_iso, hiso, changeIso_changeIso x (f := IsoRec.advanced (i * s.intervalOf x)) (fun _ => rfl)]
      congr 1
      funext r
      rw [IsoRec.advanced_advanced, Nat.succ_mul]
    · exact (frame_withIso (by simp) _).mpr (hf.trans (hfv.mono (List.Subset.refl _) (by simp)))

/-- The words of a chain, field by field (R434, R161). -/
theorem State.ChainUpTo.isoChain {q s t : State} {x : XRef} {r : IsoRec} {base buf : Word}
    (c : q.ChainUpTo t base (fun j => buf + BitVec.ofNat 32 (j * r.pktLen)) (s.isoSlotWord x r) r.pktPerBuf) {frame : Nat}
    (hf : r.nextFrame = BitVec.ofNat 14 frame) :
    t.IsoChain (s.transmits x) (s.mpsOf x) (s.intervalOf x) frame base buf r.pktLen r.pktPerBuf := by
  intro j hj
  obtain ⟨hlen, hframe, hpid, h25, h27, h26, h28⟩ := isoStatusWord_fields r.pktLen (r.advanced (j * s.intervalOf x)).nextFrame.toNat
    (slotPid (s.transmits x) r.pktLen (s.mpsOf x)) (decide (j + 1 = r.pktPerBuf))
  refine ⟨c.addr j hj, ?_⟩
  simp only [c.status j hj, State.isoSlotWord]
  refine ⟨hlen, ?_, ?_, h25, h27, h26, h28⟩
  · rw [hframe, IsoRec.advanced, hf, ← BitVec.ofNat_add, BitVec.toNat_ofNat]
    rfl
  · rw [hpid]
    cases s.transmits x <;> rfl

/-! What a finished chain tells (R435 (a)). -/

theorem readSlots_run (tx : Bool) (chain : Word) (pktLen n rem : Nat) (h : Hooks) :
    ∀ (l : List Nat) {s : State}, s.Calm → ∃ u, readSlots tx chain pktLen n rem l h s =
      .ok (l.map fun j => slotInfo tx pktLen n rem j (s.word (chain + BitVec.ofNat 32 (8 * j))), u) ∧ Frame s u [] []
  | [], s, _ => ⟨s, rfl, by simp⟩
  | j :: js, s, k => by
    obtain ⟨u, hu, hf⟩ := readSlots_run tx chain pktLen n rem h js (s := s.note (.mr (chain + BitVec.ofNat 32 (8 * j)).toNat
      (s.word (chain + BitVec.ofNat 32 (8 * j))))) (by simpa using k)
    refine ⟨u, ?_, Frame.trans (by simp) hf⟩
    rw [readSlots, run_bind_ok (memRead32_calm k _ h), run_bind_ok hu]
    simp

/-! The arming of the next chain (R436, log entry 39). -/

theorem isoArmNext_run {s : State} {e : EpRef} (k : s.Calm) (hm : s.hostMode = false) (hn : e.num.val < s.hw.caps.nEp) {r : IsoRec}
    (hi : s.isoOf (.ep e) = some r) (b : Bool) (h : Hooks) : ∃ u, isoArmNext (.ep e) b h s = .ok ((), u) ∧
      ((s.ep e).disabling = false → s.ChainArmed u e r b) ∧
      ((s.ep e).disabling = true → u = s.modEp e fun r => { r with rearm := true }) := by
  cases hd : (s.ep e).disabling
  · obtain ⟨u, hu, p⟩ := isoArm_run k.ready hm hn hi b h
    exact ⟨u, by simpa [isoArmNext, hd] using hu, fun _ => p, by simp⟩
  · exact ⟨s.modEp e fun r => { r with rearm := true }, by simp [isoArmNext, hd], by simp, fun _ => rfl⟩

/-! The end of a chain (R435). -/

/-- The record after the chain in process has finished, with the slots it tells. -/
def IsoRec.swapped (r : IsoRec) (l : List IsoInfo) : IsoRec :=
  { r with
    procBuf := !r.procBuf
    info0 := if r.procBuf then r.info0 else l
    info1 := if r.procBuf then l else r.info1 }

theorem IsoRec.swapped_eq (r : IsoRec) (l : List IsoInfo) : { r.setInfo r.procBuf l with procBuf := !r.procBuf } = r.swapped l := by
  unfold IsoRec.setInfo IsoRec.swapped
  cases r.procBuf <;> rfl

theorem IsoRec.info_swapped (r : IsoRec) (l : List IsoInfo) :
    (r.swapped l).info r.procBuf = l ∧ (r.swapped l).info (!r.procBuf) = r.info (!r.procBuf) := by
  unfold IsoRec.info IsoRec.swapped
  cases r.procBuf <;> exact ⟨rfl, rfl⟩

/-- The slots that a finished chain of a record tells, of which the last `rem` are lost (R435 (a), R440). -/
def State.slotsTold (s : State) (x : XRef) (r : IsoRec) (rem : Nat) : List IsoInfo :=
  (List.range r.pktPerBuf).map fun j =>
    slotInfo (s.transmits x) r.pktLen r.pktPerBuf rem j (s.word (r.chain r.procBuf + BitVec.ofNat 32 (8 * j)))

/-- From `s` to `t` the chain in process of an endpoint's record has finished, with `rem` slots lost (R435). -/
structure State.ChainSwapped (s t : State) (e : EpRef) (r : IsoRec) (rem : Nat) : Prop where
  record : t.isoOf (.ep e) = some ((r.swapped (s.slotsTold (.ep e) r rem)).advanced (r.pktPerBuf * (s.ep e).interval))
  others : ∀ x, x ≠ .ep e → t.isoOf x = s.isoOf x
  chain : t.IsoChain (decide (e.dir = .IN)) (s.ep e).mps (s.ep e).interval r.nextFrame.toNat (r.chain r.procBuf) (r.buf r.procBuf)
    r.pktLen r.pktPerBuf
  told : t.trace.head? = some (.cb (.isoBufferReady r.cb r.procBuf))
  armed : (s.ep e).disabling = false → t.ep e = s.ep e ∧ t.raw (epDma e) = r.chain (!r.procBuf) ∧
    bitOf (t.raw (epCtl e)) 31 = true ∧ (e.dir = .OUT → t.raw (epSiz e) = s.stored (epSiz e) (fld 19 10 r.pktPerBuf))
  waits : (s.ep e).disabling = true → t.ep e = { s.ep e with rearm := true } ∧
    ∀ k ∈ [epSiz e, epDma e, epCtl e], t.raw k = s.raw k
  out : ∀ a, (∀ k < 8 * r.pktPerBuf, a ≠ r.chain r.procBuf + BitVec.ofNat 32 k) → t.byte a = s.byte a

/-- What an event writes before and after does not matter. -/
theorem State.ChainSwapped.event {s v u : State} {e : EpRef} {r : IsoRec} {rem : Nat} (p : v.ChainSwapped u e r rem) {rs : List Reg}
    (f : Frame s v rs [.context]) (hrs : ∀ q ∈ rs, q ∉ [epSiz e, epDma e, epCtl e, .DIEPTXF 0]) (c : Ctx) :
    s.ChainSwapped (u.inCtx c) e r rem := by
  have hep : v.ep e = s.ep e := f.ep e (by simp) (by simp)
  have hword (a : Word) : v.word a = s.word a := State.word_congr_bytes fun _ _ => f.mem (by simp) _
  have hraw : ∀ q ∈ [epSiz e, epDma e, epCtl e], v.raw q = s.raw q := fun q hq => by
    refine f.raw_eq (fun q' hq' => ⟨?_, ?_⟩) ?_
    · rintro rfl
      exact hrs q hq' (by simp only [List.mem_cons, List.not_mem_nil, or_false] at hq ⊢; tauto)
    · rintro rfl
      exact hrs _ hq' (by simp)
    · rintro rfl
      simp at hq
  have htold : v.slotsTold (.ep e) r rem = s.slotsTold (.ep e) r rem := by
    simp only [State.slotsTold, hword]
    rfl
  obtain ⟨hrec, hothers, hchain, htold', harm, hwait, hout⟩ := p
  rw [hep] at hrec hchain harm hwait
  rw [htold] at hrec
  refine ⟨hrec, fun x hx => (hothers x hx).trans (f.isoOf_eq (by simp) (by simp) x), hchain, htold', fun hd => ?_, fun hd => ?_, fun a ha => (hout a ha).trans (f.mem (by simp) a)⟩
  · obtain ⟨h1, h2, h3, h4⟩ := harm hd
    exact ⟨h1, h2, h3, fun hdir => (h4 hdir).trans (State.stored_congr f.hw (hraw _ (by simp)) _)⟩
  · obtain ⟨h1, h2⟩ := hwait hd
    exact ⟨h1, fun q hq => (h2 q hq).trans (hraw q hq)⟩

theorem isoChainComplete_run {s : State} {e : EpRef} (k : s.Calm) (hm : s.hostMode = false) (hn : e.num.val < s.hw.caps.nEp) {r : IsoRec}
    (hi : s.isoOf (.ep e) = some r) (hr : s.replies = []) (hp : 8 * r.pktPerBuf ≤ 2 ^ 32)
    (hsp : ∀ k < 8 * r.pktPerBuf, s.Spared (r.chain r.procBuf + BitVec.ofNat 32 k)) (rem m : Nat) :
    ∃ u, isoChainComplete (.ep e) rem (hooksAt m) s = .ok ((), u) ∧ s.ChainSwapped u e r rem ∧
      Frame s u [epSiz e, epDma e, epCtl e] [.iso, .mem, .ep e] := by
  set told := s.slotsTold (.ep e) r rem with htold
  obtain ⟨v, hv, hfv⟩ : ∃ v, readSlots (s.transmits (.ep e)) (r.chain r.procBuf) r.pktLen r.pktPerBuf rem (List.range r.pktPerBuf)
      (hooksAt m) s = .ok (told, v) ∧ Frame s v [] [] := readSlots_run _ _ _ _ rem (hooksAt m) _ k
  set w := v.withIso (changeIso (.ep e) (fun q => { q.setInfo r.procBuf told with procBuf := !r.procBuf }) s.iso) with hw
  have hfw : Frame s w [] [.mem, .iso] := (frame_withIso (by simp) _).mpr (hfv.mono (List.Subset.refl _) (List.nil_subset _))
  have hwi : w.isoOf (.ep e) = some (r.swapped told) := by
    rw [State.isoOf_changed (s := s) (t := w) (fun q => by cases hb : r.procBuf <;> rfl) rfl, hi]
    exact congrArg some (r.swapped_eq told)
  obtain ⟨a, ha, hca, hia, hfa⟩ := isoBuildChain_run (hfw.calm k (by simp) (by simp)) hwi r.procBuf (n := r.pktPerBuf) hp
    (fun j hj => hfw.spared (hsp j hj) (by simp)) (hooksAt m)
  have hfsa := hfw.trans hfa
  have hiv : w.intervalOf (.ep e) = (s.ep e).interval := congrArg EpRec.interval (hfw.ep e (by simp) (by simp))
  have hai : a.isoOf (.ep e) = some ((r.swapped told).advanced (r.pktPerBuf * (s.ep e).interval)) := by
    rw [State.isoOf_changed (f := IsoRec.advanced (r.pktPerBuf * w.intervalOf (.ep e))) (fun _ => rfl) hia, hwi, hiv]
    rfl
  obtain ⟨u, hu, harm, hwait⟩ := isoArmNext_run (hfsa.calm k (by simp) (by simp)) ((hfsa.hostMode_eq (by simp)).trans hm)
    (hfsa.hw ▸ hn) hai (!r.procBuf) (hooksAt m)
  have hrun : isoChainComplete (.ep e) rem (hooksAt m) s =
      callback (.isoBufferReady r.cb r.procBuf) (hooksAt m) u := by
    have hmod : (v.withIso (changeIso (.ep e) (fun q => q.setInfo r.procBuf told) v.iso)).withIso
        (changeIso (.ep e) (fun q => { q with procBuf := !r.procBuf })
          (changeIso (.ep e) (fun q => q.setInfo r.procBuf told) v.iso)) = w := by
      rw [changeIso_changeIso (.ep e) (f := fun q => q.setInfo r.procBuf told) (fun q => by cases hb : r.procBuf <;> rfl),
        hfv.iso (by simp) (by simp)]
      rfl
    simp only [isoChainComplete, run_ask_bind, id, hi]
    rw [run_bind_ok hv, run_bind_ok (run_modIso _ _ _ _), run_bind_ok (run_modIso _ _ _ _), State.withIso_iso, hmod, run_bind_ok ha,
      run_bind_ok hu]
  have hfu : Frame a u [epSiz e, epDma e, epCtl e] [.ep e] := by
    cases hd : (a.ep e).disabling
    · exact (harm hd).frame.mono (List.Subset.refl _) (List.nil_subset _)
    · simp [hwait hd]
  have haep : a.ep e = s.ep e := hfsa.ep e (by simp) (by simp)
  rw [haep] at harm hwait
  have hru : u.replies = [] := (hfu.inputs.2.2.1.trans hfsa.inputs.2.2.1).trans hr
  refine ⟨u.note (.cb (.isoBufferReady r.cb r.procBuf)), hrun.trans (callback_calm m _ hru), ⟨?_, fun x hx => ?_, ?_, rfl, fun hd => ?_, fun hd => ?_, fun b hb => ?_⟩,
    (frame_note _).mpr ((hfsa.mono (by simp) (by simp)).trans (hfu.mono (by simp) (by simp)))⟩
  · exact (hfu.isoOf_eq (by simp) (by simp) _).trans hai
  · refine (hfu.isoOf_eq (by simp) (by simp) x).trans ?_
    rw [State.isoOf_changed_other (f := IsoRec.advanced (r.pktPerBuf * w.intervalOf (.ep e))) (fun _ => rfl) hia hx]
    exact State.isoOf_changed_other (s := s) (t := w) (fun q => by cases hb : r.procBuf <;> rfl) rfl hx
  · have hca' := hca.congr (fun _ => rfl) (hfu.mem (by simp))
    have h := hca'.isoChain (s := w) (r := r.swapped told) (frame := r.nextFrame.toNat) (by simp [IsoRec.swapped])
    rw [hiv, show w.mpsOf (.ep e) = (s.ep e).mps from congrArg EpRec.mps (hfw.ep e (by simp) (by simp))] at h
    exact h
  · have p := harm hd
    have hraw (q : Reg) : a.raw q = s.raw q := hfsa.raw_all q
    refine ⟨(p.frame.ep e (by simp) (by simp)).trans haep, p.addr, p.enabled, fun hdir => (p.size hdir).trans ?_⟩
    exact State.stored_congr hfsa.hw (hraw _) _
  · have hu := hwait hd
    exact ⟨by simp [hu, haep], fun q hq => by simp [hu, hfsa.raw_all]⟩
  · exact (hfu.mem (by simp) b).trans ((hca.out b hb).trans (hfv.mem (by simp) b))

end Sys2Proof.Machine

/-! PROOF. The double buffer of an isochronous endpoint (R435, R439, R440). -/

namespace Sys2Proof.Machine

open Sys2Proof

/-- The slots told, one by one. -/
theorem State.slotsTold_get (s : State) (x : XRef) (r : IsoRec) (rem : Nat) {j : Nat} (hj : j < r.pktPerBuf) :
    (s.slotsTold x r rem)[j]? = some (slotInfo (s.transmits x) r.pktLen r.pktPerBuf rem j
      (s.word (r.chain r.procBuf + BitVec.ofNat 32 (8 * j)))) := by
  simp [State.slotsTold, hj]

theorem State.slotsTold_length (s : State) (x : XRef) (r : IsoRec) (rem : Nat) : (s.slotsTold x r rem).length = r.pktPerBuf := by
  simp [State.slotsTold]

/-- PKTCNT of an OUT endpoint whose chain has been armed (R436). -/
theorem State.field_armed {s : State} {e : EpRef} (low : s.sizeLow e) (hf : s.hw.caps.fits) (h0 : e.num ≠ 0) {n : Nat}
    (hn : n < 2 ^ s.hw.caps.pw) : field (s.stored (epSiz e) (fld 19 10 n)) 19 10 = n := by
  obtain ⟨-, -, -, -, -, -, -, hp, -⟩ := hf
  obtain ⟨hc, hs⟩ := epSiz_plain e
  have h10 : 2 ^ s.hw.caps.pw ≤ 2 ^ 10 := Nat.pow_le_pow_right (by decide) hp
  have hfld : field (fld 19 10 n) 19 10 = n := by rw [field_fld_same n (by decide), Nat.mod_eq_of_lt (by omega)]
  rw [State.field_stored_count hc hs low (fun _ hk => bitOf_size_rw s e hk) (by rw [hfld, s.sizeBits_data h0]; exact hn), hfld]

theorem ctlOf_ne_epInt (e : EpRef) (x : XRef) : ctlOf x ≠ epInt e := by
  obtain ⟨n, d⟩ := e
  rcases x with ⟨m, d'⟩ | c
  · cases d <;> cases d' <;> simp [ctlOf]
  · cases d <;> simp [ctlOf]

theorem dataComplete_chain {v : State} {e : EpRef} {r : IsoRec} (hi : v.isoOf (.ep e) = some r) (h : Hooks) :
    dataComplete e h v = isoChainComplete (.ep e) 0 h v := by
  simp [dataComplete, State.scheduled, hi]

theorem bnaOf_chain {v : State} {e : EpRef} {r : IsoRec} (hi : v.isoOf (.ep e) = some r) (h : Hooks) :
    bnaOf e h v = isoChainComplete (.ep e) 0 h v := by
  simp [bnaOf, State.scheduled, hi]

section
variable {s : State} {e : EpRef} (a : s.Alone) (hr : s.InDeviceRole) (hn : e.num.val < s.hw.caps.nEp) {r : IsoRec}
  (hi : s.isoOf (.ep e) = some r) (hp : 8 * r.pktPerBuf ≤ 2 ^ 32)
  (hsp : ∀ k < 8 * r.pktPerBuf, s.Spared (r.chain r.procBuf + BitVec.ofNat 32 k))
include a hr hn hi hp hsp

/-- An event whose first write clears its bit, and that ends the chain in process (R435, R439). -/
theorem runEvt_chain {i : Instr} {body : M Unit} {k : Nat} (hk : bitOf (w1cMask (epInt e)) k = true)
    (hbody : ∀ h v, v.isoOf (.ep e) = some r → body h v = isoChainComplete (.ep e) 0 h v) :
    ∃ t, runEvt i (do clearEvent (epInt e) k; body) s = .next t ∧ s.ChainSwapped t e r 0 ∧
      t.raw (epInt e) = s.raw (epInt e) &&& ~~~(bit1 k) ∧
      Frame s t [epInt e, epSiz e, epDma e, epCtl e] [.iso, .mem, .ep e] := by
  set v := (s.inCtx .isr).cleared (epInt e) k with hv
  have hf : Frame s v [epInt e] [.context] := by simp [hv, State.cleared]
  have kv : v.Calm := by simpa [hv, State.cleared] using a.calm
  have hvi : v.isoOf (.ep e) = some r := (hf.isoOf_eq (by simp) (by simp) _).trans hi
  have hvsp : ∀ k < 8 * r.pktPerBuf, v.Spared (r.chain r.procBuf + BitVec.ofNat 32 k) := fun j hj => by
    simp only [hv, State.cleared, State.spared_note]
    exact State.Spared.writeReg _ ((State.spared_inCtx _ _).mpr (hsp j hj)) _ (ctlOf_ne_epInt e) (by simp) (by simp) (by simp) (by simp)
  obtain ⟨u, hu, p, hfu⟩ := isoChainComplete_run kv ((hf.hostMode_eq (by simp)).trans hr.mode) (hf.hw ▸ hn) hvi
    (hf.inputs.2.2.1.trans a.replies) hp hvsp 0 s.level
  refine runEvt_cleared a (accessible_epInt hr.mode hn) ⟨u, (hbody _ _ hvi).trans hu, p.event hf (by simp) _, ?_, ?_⟩
  · rw [State.raw_of_inCtx, hfu.raw_eq (by simp) (by simp), hv, State.raw_cleared _ hk, State.raw_of_inCtx]
  · refine Frame.event_trans (hf.mono (by simp) (by simp)) (hfu.mono (by simp) (by simp))

end

/-- Settles O35. -/
theorem finishedChainSwapsTheBuffers : Obligations.FinishedChainSwapsTheBuffers := by
  intro s e r a low hr hfits h0 hn hi hp hsp p hmem
  have h32 : 8 * r.pktPerBuf ≤ 2 ^ 32 := by
    have h10 : 2 ^ s.hw.caps.pw ≤ 2 ^ 10 := Nat.pow_le_pow_right (by decide) hfits.2.2.2.2.2.2.2.1
    omega
  have hmain : ∃ t, exec p.1 s = .next t ∧ s.ChainSwapped t e r 0 ∧ t.raw (epInt e) = s.raw (epInt e) &&& ~~~(bit1 p.2) ∧
      Frame s t [epInt e, epSiz e, epDma e, epCtl e] [.iso, .mem, .ep e] := by
    have ends {i : Instr} (k : Fin 32) (h7 : k ≠ 7) (body : M Unit)
        (hbody : ∀ h v, v.isoOf (.ep e) = some r → body h v = isoChainComplete (.ep e) 0 h v) :=
      runEvt_chain a hr hn hi h32 hsp (i := i) (w1c_epInt e h7) hbody
    obtain ⟨n, d⟩ := e
    cases d <;> rcases List.mem_pair.mp hmem with rfl | rfl
    · exact ends 0 (by decide) _ fun h v hv => by rw [if_neg h0, dataComplete_chain hv]
    · exact ends 9 (by decide) _ fun h v hv => bnaOf_chain hv h
    · exact ends 0 (by decide) _ fun h v hv => by rw [if_neg h0, dataComplete_chain hv]
    · exact ends 9 (by decide) _ fun h v hv => bnaOf_chain hv h
  obtain ⟨t, ht, c, hint, hf⟩ := hmain
  refine ⟨t, _, ht, c.record, rfl, ?_, (r.info_swapped _).2, fun j hj => ?_, rfl, c.chain, c.told, fun hd => ?_, c.waits, hint, c.out, hf⟩
  · exact (congrArg List.length (r.info_swapped _).1).trans (s.slotsTold_length _ _ _)
  · exact (congrArg (·[j]?) (r.info_swapped _).1).trans (s.slotsTold_get _ _ _ hj)
  · obtain ⟨hep, hdma, h31, hsize⟩ := c.armed hd
    exact ⟨hep, hdma, h31, fun hdir => by rw [hsize hdir, State.field_armed (low.epSiz e) hfits h0 hp]⟩

end Sys2Proof.Machine

/-! PROOF. ISOOUTDROP (R440). -/

namespace Sys2Proof.Machine

open Sys2Proof

/-! One endpoint. -/

section
variable {s : State} {n : Fin 16} (h : Hooks)

theorem isoDropOne_none (hi : s.isoOf (.ep ⟨n, .OUT⟩) = none) : isoDropOne n h s = .ok ((), s) := by
  simp [isoDropOne, hi]

variable (k : s.Calm) (hm : s.hostMode = false) (hn : n.val < s.hw.caps.nEp) {r : IsoRec}
include k hm hn

theorem isoDropOne_runs (h31 : s.scheduled (.ep ⟨n, .OUT⟩) = true → bitOf (s.raw (.DOEPCTL n)) 31 = true) :
    ∃ u, isoDropOne n h s = .ok ((), u) ∧ Frame s u [] [] := by
  cases hi : s.isoOf (.ep ⟨n, .OUT⟩) with
  | none => exact ⟨s, isoDropOne_none h hi, by simp⟩
  | some r =>
    have h31 := h31 (by simp [State.scheduled, hi])
    exact ⟨_, by simp [isoDropOne, hi, run_bind, k, hm, hn, h31]; rfl, by simp⟩

/-- The slots that PKTCNT still counts (R440). -/
def State.lostSlots (s : State) (n : Fin 16) (r : IsoRec) : Nat := min (field (s.raw (.DOEPTSIZ n)) 19 10) r.pktPerBuf

theorem isoDropOne_stopped (hi : s.isoOf (.ep ⟨n, .OUT⟩) = some r) (h31 : bitOf (s.raw (.DOEPCTL n)) 31 = false) :
    ∃ v, isoDropOne n h s = isoChainComplete (.ep ⟨n, .OUT⟩) (s.lostSlots n r) h v ∧
      v.raw (.DOEPINT n) = s.raw (.DOEPINT n) &&& ~~~0x201#32 ∧ (∀ a, s.Spared a → v.Spared a) ∧ Frame s v [.DOEPINT n] [] := by
  refine ⟨_, by simp [isoDropOne, hi, run_bind, k, hm, hn, h31]; rfl, ?_, fun a ha => ?_, by simp⟩
  · have hmask : 0x201#32 &&& w1cMask (.DOEPINT n) = 0x201#32 := by
      rw [show w1cMask (.DOEPINT n) = 0xFFFFFFFF#32 from rfl]
      decide
    have hst (t : State) : t.stored (.DOEPINT n) 0x201#32 = t.raw (.DOEPINT n) &&& ~~~0x201#32 := by
      rw [t.stored_w1c (r := .DOEPINT n) (k := 0) (w1c_epInt ⟨n, .OUT⟩ (k := 0) (by decide)), hmask]
    simp [hst]
  · simp only [State.spared_note]
    exact State.Spared.writeReg _ (by simpa using ha) _ (ctlOf_ne_epInt ⟨n, .OUT⟩) (by simp) (by simp) (by simp) (by simp)

end

/-! The event. -/

/-- The endpoints that ISOOUTDROP looks at. -/
def dropList (nEp : Nat) : List (Fin 16) := (List.finRange 16).filter fun k => decide (k.val ≠ 0) && decide (k.val < nEp)

theorem mem_dropList {nEp : Nat} {n : Fin 16} : n ∈ dropList nEp ↔ n ≠ 0 ∧ n.val < nEp := by
  rw [dropList, List.mem_filter]
  simp [List.mem_finRange]

theorem nodup_dropList (nEp : Nat) : (dropList nEp).Nodup := (List.nodup_finRange 16).filter _

section
variable {s : State} (a : s.Alone) (hr : s.InDeviceRole)
include a hr

/-- The event clears its bit and looks at the endpoints, one after the other. -/
theorem exec_isooutdrop {Q : State → Prop} (hQ : ∃ u, forEach (dropList s.hw.caps.nEp) isoDropOne (hooksAt s.level)
    ((s.inCtx .isr).cleared .GINTSTS 14) = .ok ((), u) ∧ Q (u.inCtx s.ctx)) : ∃ t, exec .topIsooutdrop s = .next t ∧ Q t := by
  obtain ⟨u, hu, hq⟩ := hQ
  have hcaps : ((s.inCtx .isr).cleared .GINTSTS 14).core.caps.nEp = s.hw.caps.nEp := by simp [State.cleared, hr.caps]
  refine runEvt_of ⟨u, (inMode_same (s := s.inCtx .isr) (by simpa using hr.mode) 14 evtIsooutdrop _).trans ?_, hq⟩
  refine (run_bind_ok (clearEvent_calm a.calm (by simp) 14 _)).trans ?_
  rw [run_ask_bind, hcaps]
  exact hu

end

/-- Settles O34. -/
theorem isoOutDropGoesOnWithTheOtherBuffer : Obligations.IsoOutDropGoesOnWithTheOtherBuffer := by
  intro s a low hr hfits
  set v := (s.inCtx .isr).cleared .GINTSTS 14 with hv
  have hf : Frame s v [.GINTSTS] [.context] := by simp [hv, State.cleared]
  have kv : v.Calm := by simpa [hv, State.cleared] using a.calm
  have hvm : v.hostMode = false := by simpa [hv, State.cleared] using hr.mode
  have hvg : v.raw .GINTSTS = s.raw .GINTSTS &&& ~~~(bit1 14) := by
    rw [hv, State.raw_cleared _ (by decide), State.raw_of_inCtx]
  have hvi (x : XRef) : v.isoOf x = s.isoOf x := hf.isoOf_eq (by simp) (by simp) x
  refine ⟨fun hall => ?_, fun n r h0 hn hi h31 hp hothers hsp => ?_⟩
  · obtain ⟨u, hu, hfu⟩ := forEach_reads (h := hooksAt s.level) (s := v) (l := dropList s.hw.caps.nEp) (p := isoDropOne)
      (fun n hn u f => isoDropOne_runs _ (f.calm kv (by simp) (by simp)) ((f.hostMode_eq (by simp)).trans hvm)
        (by rw [f.hw, hf.hw]; exact (mem_dropList.mp hn).2) fun hs => by
          obtain ⟨h0, hlt⟩ := mem_dropList.mp hn
          rw [f.raw_all, hf.raw_eq (by simp) (by simp)]
          refine hall n h0 hlt ?_
          rwa [State.scheduled, f.isoOf_eq (by simp) (by simp), hvi] at hs) v (by simp)
    refine exec_isooutdrop a hr ⟨u, hu, ?_, Frame.event_trans hf (hfu.mono (by simp) (by simp))⟩
    rw [State.raw_of_inCtx, hfu.raw_all, hvg]
  · have hpw : 2 ^ s.hw.caps.pw ≤ 2 ^ 10 := Nat.pow_le_pow_right (by decide) hfits.2.2.2.2.2.2.2.1
    have hvr {q : Reg} (h : .GINTSTS ≠ q) (h0 : q ≠ .DIEPTXF 0) : v.raw q = s.raw q := hf.raw_eq (by simp [h.symm]) h0
    have hvsp (b : Word) (hb : s.Spared b) : v.Spared b := by
      simp only [hv, State.cleared, State.spared_note]
      refine State.Spared.writeReg _ ((State.spared_inCtx _ _).mpr hb) _ (fun x => ?_) (by simp) (by simp) (by simp) (by simp)
      rcases x with ⟨m, d⟩ | c <;> simp [ctlOf]
    have hnone {m : Fin 16} (hm : m ≠ n) : s.isoOf (.ep ⟨m, .OUT⟩) = none := by
      simpa [State.scheduled] using hothers m hm
    obtain ⟨w, hw, hwint, hwsp, hfw⟩ := isoDropOne_stopped (hooksAt s.level) kv hvm (hf.hw ▸ hn) ((hvi _).trans hi)
      (by rw [hvr (by simp) (by simp)]; exact h31)
    have hlost : v.lostSlots n r = min (field (s.raw (.DOEPTSIZ n)) 19 10) r.pktPerBuf := by
      rw [State.lostSlots, hvr (by simp) (by simp)]
    obtain ⟨u, hu, c, hfu⟩ := isoChainComplete_run (s := w) (e := ⟨n, .OUT⟩) (hfw.calm kv (by simp) (by simp))
      ((hfw.hostMode_eq (by simp)).trans hvm) (by rw [hfw.hw, hf.hw]; exact hn)
      ((hfw.isoOf_eq (by simp) (by simp) _).trans ((hvi _).trans hi)) ((hfw.inputs.2.2.1.trans hf.inputs.2.2.1).trans a.replies)
      (by omega) (fun j hj => hwsp _ (hvsp _ (hsp j hj))) (v.lostSlots n r) s.level
    have hloop : forEach (dropList s.hw.caps.nEp) isoDropOne (hooksAt s.level) v = .ok ((), u) := by
      obtain ⟨l₁, l₂, hl⟩ := List.append_of_mem (mem_dropList.mpr ⟨h0, hn⟩)
      have hnd := nodup_dropList s.hw.caps.nEp
      rw [hl, List.nodup_append] at hnd
      have hne₁ : ∀ m ∈ l₁, m ≠ n := fun m hm he => hnd.2.2 m hm n (by simp) he
      have hne₂ : ∀ m ∈ l₂, m ≠ n := fun m hm he => (List.nodup_cons.mp hnd.2.1).1 (he ▸ hm)
      rw [hl, forEach_append, run_bind_ok (forEach_idle fun m hm => isoDropOne_none _ ((hvi _).trans (hnone (hne₁ m hm)))),
        forEach, run_bind_ok (hw.trans hu)]
      refine forEach_idle fun m hm => isoDropOne_none _ ?_
      rw [c.others _ (by simpa using hne₂ m hm), hfw.isoOf_eq (by simp) (by simp), hvi, hnone (hne₂ m hm)]
    have hfsw : Frame s w [.GINTSTS, .DOEPINT n] [.context] := (hf.mono (by simp) (by simp)).trans (hfw.mono (by simp) (by simp))
    have c' := c.event hfsw (by simp) s.ctx
    rw [hlost] at c'
    refine Exists.elim (exec_isooutdrop a hr (Q := (· = u.inCtx s.ctx)) ⟨u, hloop, rfl⟩) ?_
    rintro _ ⟨ht, rfl⟩
    refine ⟨_, _, ht, c'.record, rfl, ?_, (r.info_swapped _).2, fun j hj hj' => ?_, fun j hj => ?_, rfl, c'.chain, c'.told, fun hd => ?_,
      c'.waits, ?_, ?_, c'.out, ?_⟩
    · exact (congrArg List.length (r.info_swapped _).1).trans (s.slotsTold_length _ _ _)
    · refine (congrArg (·[j]?) (r.info_swapped _).1).trans ((s.slotsTold_get _ _ _ hj').trans ?_)
      rw [slotInfo, if_pos (.inl (by omega))]
    · exact (congrArg (·[j]?) (r.info_swapped _).1).trans (s.slotsTold_get _ _ _ (by omega))
    · obtain ⟨hep, hdma, h31, hsize⟩ := c'.armed hd
      exact ⟨hep, hdma, h31, by rw [← State.field_armed (low.epSiz ⟨n, .OUT⟩) hfits h0 hp, ← hsize rfl]; rfl⟩
    · rw [State.raw_of_inCtx, hfu.raw_eq (by simp) (by simp), hwint, hvr (by simp) (by simp)]
    · rw [State.raw_of_inCtx, hfu.raw_eq (by simp) (by simp), hfw.raw_eq (by simp) (by simp), hvg]
    · exact Frame.event_trans (hfsw.mono (by simp) (by simp)) (hfu.mono (by simp) (by simp))

end Sys2Proof.Machine

/-! PROOF. ISO_START on an endpoint (R432). -/

namespace Sys2Proof.Machine

open Sys2Proof

/-- A chain is as before where its bytes are. -/
theorem State.IsoChain.of_bytes {s t : State} {tx : Bool} {mps iv frame : Nat} {chain buf : Word} {len n : Nat}
    (h : s.IsoChain tx mps iv frame chain buf len n)
    (hb : ∀ k < 8 * n, t.byte (chain + BitVec.ofNat 32 k) = s.byte (chain + BitVec.ofNat 32 k)) :
    t.IsoChain tx mps iv frame chain buf len n := by
  intro j hj
  have hd : t.word (chain + BitVec.ofNat 32 (8 * j)) = s.word (chain + BitVec.ofNat 32 (8 * j)) :=
    State.word_congr_bytes fun k hk => by rw [slotAddr]; exact hb _ (by omega)
  have hd4 : t.word (chain + BitVec.ofNat 32 (8 * j) + 4) = s.word (chain + BitVec.ofNat 32 (8 * j) + 4) :=
    State.word_congr_bytes fun k hk => by
      rw [show (4 : Word) = BitVec.ofNat 32 4 from rfl, slotAddr, BitVec.add_assoc, ← BitVec.ofNat_add]
      exact hb _ (by omega)
  have hs := h j hj
  simp only at hs ⊢
  rwa [hd, hd4]

/-- Two chains that are written one after the other, at different places. -/
theorem bothChains {q s v u : State} {x : XRef} {r : IsoRec} {d0 d1 b0 b1 : Word} {m frame : Nat}
    (hv : q.ChainUpTo v d0 (fun j => b0 + BitVec.ofNat 32 (j * r.pktLen)) (s.isoSlotWord x r) r.pktPerBuf)
    (hu : v.ChainUpTo u d1 (fun j => b1 + BitVec.ofNat 32 (j * r.pktLen)) (s.isoSlotWord x (r.advanced m)) r.pktPerBuf)
    (hne : ∀ i < 8 * r.pktPerBuf, ∀ j < 8 * r.pktPerBuf, d0 + BitVec.ofNat 32 i ≠ d1 + BitVec.ofNat 32 j)
    (hf : r.nextFrame = BitVec.ofNat 14 frame) :
    u.IsoChain (s.transmits x) (s.mpsOf x) (s.intervalOf x) frame d0 b0 r.pktLen r.pktPerBuf ∧
    u.IsoChain (s.transmits x) (s.mpsOf x) (s.intervalOf x) (frame + m) d1 b1 r.pktLen r.pktPerBuf ∧
    (∀ a, (∀ k < 8 * r.pktPerBuf, a ≠ d0 + BitVec.ofNat 32 k ∧ a ≠ d1 + BitVec.ofNat 32 k) → u.byte a = q.byte a) := by
  have hf' : (r.advanced m).nextFrame = BitVec.ofNat 14 (frame + m) := by
    rw [BitVec.ofNat_add, ← hf]
    rfl
  have hc1 := State.ChainUpTo.isoChain (r := r.advanced m) hu hf'
  refine ⟨(hv.isoChain hf).of_bytes fun j hj => hu.out _ fun i hi => hne j hj i hi, hc1, fun a ha => ?_⟩
  exact (hu.out a fun i hi => (ha i hi).2).trans (hv.out a fun i hi => (ha i hi).1)

/-- What the checks of ISO_START have found (R432). -/
theorem State.isoCheckEp_ok {s : State} {e : EpRef} {len : Nat} (h : s.isoCheckEp e len = .ok) :
    e.num ≠ 0 ∧ s.scheduled (.ep e) = false ∧ (s.ep e).state = .idle := by
  unfold State.isoCheckEp at h
  by_cases h1 : e.num = 0 ∨ (s.ep e).enabled = false ∨ (s.ep e).type ≠ .isochronous
  · simp [h1] at h
  · by_cases h2 : badSlot len (s.ep e).multiCount (s.ep e).mps = true
    · simp [h1, h2] at h
    · by_cases h3 : (s.ep e).x.active ≠ none ∨ (s.ep e).x.queue ≠ [] ∨ (s.ep e).state ≠ .idle ∨ s.scheduled (.ep e) = true
      · simp [h1, h2, h3] at h
      · simp only [not_or, not_not, Bool.not_eq_true] at h1 h3
        exact ⟨h1.1, h3.2.2.2, h3.2.2.1⟩

section
variable {s : State} {e : EpRef} (k : s.Calm) (hm : s.hostMode = false) (hp : s.peripheral = true)
  {d0 d1 : Word} (h0 : s.descArray (.ep e) false = some d0) (h1 : s.descArray (.ep e) true = some d1)
  (hsch : s.scheduled (.ep e) = false) {per : Nat} (h32 : 8 * per ≤ 2 ^ 32)
  (hsp : ∀ k < 8 * per, s.Spared (d0 + BitVec.ofNat 32 k) ∧ s.Spared (d1 + BitVec.ofNat 32 k))
  (hne : ∀ i < 8 * per, ∀ j < 8 * per, d0 + BitVec.ofNat 32 i ≠ d1 + BitVec.ofNat 32 j)
include k hm hp h0 h1 hsch h32 hsp hne

/-- The record is made and both chains are written (R432, R434). -/
theorem isoBegin_chains (b0 b1 : Word) (len : Nat) (cb : CbId) (undo : M Unit) (done : Result) (h : Hooks) :
    let frame := field (s.raw .DSTS) 8 14
    let iv := (s.ep e).interval
    let r := isoRecord (.ep e) b0 b1 d0 d1 len per cb (BitVec.ofNat 14 (frame + iv))
    ∃ u, isoBegin (.ep e) b0 b1 len per cb undo done h s = (do
        markActive (.ep e)
        isoArmNext (.ep e) false
        pure done) h u ∧ u.iso = (r.advanced (2 * per * iv)) :: s.iso ∧
      u.IsoChain (decide (e.dir = .IN)) (s.ep e).mps iv (frame + iv) d0 b0 len per ∧
      u.IsoChain (decide (e.dir = .IN)) (s.ep e).mps iv (frame + iv + per * iv) d1 b1 len per ∧
      (∀ a, (∀ k < 8 * per, a ≠ d0 + BitVec.ofNat 32 k ∧ a ≠ d1 + BitVec.ofNat 32 k) → u.byte a = s.byte a) ∧
      Frame s u [] [.mem, .iso] := by
  intro frame iv r
  have hothers : ∀ q ∈ s.iso, q.owner ≠ .ep e := by
    simpa [State.scheduled, State.isoOf] using hsch
  have hchange (f : IsoRec → IsoRec) : changeIso (.ep e) f (r :: s.iso) = f r :: s.iso := by
    rw [changeIso, List.map_cons, if_pos (show r.owner = .ep e from rfl)]
    exact congrArg (f r :: ·) (changeIso_other hothers f)
  set w := (s.note (.rd 0x808 (s.raw .DSTS))).withIso (r :: s.iso) with hw
  have hfw : Frame s w [] [.mem, .iso] := by simp [hw]
  have hwi : w.isoOf (.ep e) = some r := by simp [hw, State.isoOf, r, isoRecord]
  obtain ⟨v, hv, hcv, hiv, hfv⟩ := isoBuildChain_run (hfw.calm k (by simp) (by simp)) hwi false (n := per) h32
    (fun j hj => hfw.spared (hsp j hj).1 (by simp)) h
  have hfsv := hfw.trans hfv
  have hvi : v.isoOf (.ep e) = some (r.advanced (per * w.intervalOf (.ep e))) := by
    rw [State.isoOf_changed (f := IsoRec.advanced (per * w.intervalOf (.ep e))) (fun _ => rfl) hiv, hwi]
    rfl
  have hwiv : w.intervalOf (.ep e) = iv := congrArg EpRec.interval (hfw.ep e (by simp) (by simp))
  have hviv : v.intervalOf (.ep e) = iv := congrArg EpRec.interval (hfsv.ep e (by simp) (by simp))
  obtain ⟨u, hu, hcu, hiu, hfu⟩ := isoBuildChain_run (hfsv.calm k (by simp) (by simp)) hvi true (n := per) h32
    (fun j hj => hfsv.spared (hsp j hj).2 (by simp)) h
  have hword (t : State) (f : Frame s t [] [.mem, .iso]) (q : IsoRec) : t.isoSlotWord (.ep e) q = s.isoSlotWord (.ep e) q := by
    have he : t.ep e = s.ep e := f.ep e (by simp) (by simp)
    funext j
    simp [State.isoSlotWord, State.intervalOf, State.transmits, he]
  rw [hword w hfw] at hcv
  rw [hword v hfsv, hwiv] at hcu
  obtain ⟨hc0, hc1, hout⟩ := bothChains (r := r) (q := w) hcv hcu hne (frame := frame + iv) rfl
  refine ⟨u, ?_, ?_, hc0, hc1, hout, hfsv.trans hfu⟩
  · have hframe : currentFrame h s = .ok (BitVec.ofNat 14 frame, s.note (.rd 0x808 (s.raw .DSTS))) := by
      simp [currentFrame, run_bind, hp, k, hm]
      exact ⟨rfl, rfl⟩
    have hrec : isoRecord (.ep e) b0 b1 d0 d1 len per cb (BitVec.ofNat 14 frame + BitVec.ofNat 14 iv) = r := by
      rw [← BitVec.ofNat_add]
    have hadd (q : IsoRec) : addIso q h (s.note (.rd 0x808 (s.raw .DSTS))) = .ok ((), (s.note (.rd 0x808 (s.raw .DSTS))).withIso (q :: s.iso)) := rfl
    have hivn : (s.note (.rd 0x808 (s.raw .DSTS))).intervalOf (.ep e) = iv := by simp [State.intervalOf, iv]
    rw [isoBegin, run_bind_ok hframe, run_ask_bind]
    simp only [id, show (s.note (.rd 0x808 (s.raw .DSTS))).descArray (.ep e) false = some d0 from h0,
      show (s.note (.rd 0x808 (s.raw .DSTS))).descArray (.ep e) true = some d1 from h1, hivn, hrec]
    rw [run_bind_ok (hadd r), run_bind_ok hv, run_bind_ok hu]
  · rw [hiu, hiv, changeIso_changeIso _ (f := IsoRec.advanced (per * w.intervalOf (.ep e))) (fun _ => rfl), hw, State.withIso_iso, hchange]
    rw [IsoRec.advanced_advanced, hwiv, hviv]
    congr 2
    ring

end

/-- Settles O32. -/
theorem isoStartBuildsBothChains : Obligations.IsoStartBuildsBothChains := by
  intro s e b0 b1 len per cb d0 d1 a hsh low hr hfits hd ha0 ha1 hper1 hperm hpw hn hchk hd0 hd1 hdis hsp iv frame
  have k := a.calmTask hsh
  obtain ⟨h0, hsch, hidle⟩ := State.isoCheckEp_ok hchk
  have hpow : 2 ^ s.hw.caps.pw ≤ 2 ^ 10 := Nat.pow_le_pow_right (by decide) hfits.2.2.2.2.2.2.2.1
  have hfg : Frame s s.guarded [] [] := by simp
  obtain ⟨u, hu, hiso, hc0, hc1, hout, hfu⟩ := isoBegin_chains (s := s.guarded) (e := e) (by simpa using k) (by simpa using hr.mode)
    (by simpa using hr.role) (d0 := d0) (d1 := d1) (by simpa [State.descArray] using hd0)
    (by simpa [State.descArray] using hd1) (by simpa using hsch) (per := per.toNat) (by omega)
    (fun j hj => ⟨hfg.spared (hsp j hj).1 (by simp), hfg.spared (hsp j hj).2 (by simp)⟩)
    hdis b0 b1 len.toNat cb (pure ()) (.status .ok) (hooksAt s.level)
  rw [frame_of_guarded] at hfu
  set w := u.modEp e fun r => { r with state := .active, waits := false } with hw
  have hwi : w.isoOf (.ep e) = some ((isoRecord (.ep e) b0 b1 d0 d1 len.toNat per.toNat cb (BitVec.ofNat 14 (frame + iv))).advanced
      (2 * per.toNat * iv)) := by
    rw [State.isoOf, State.modEp_iso, hiso, List.find?_cons_of_pos]
    · simp [iv, frame]
    · simp [IsoRec.advanced, isoRecord]
  have hfw : Frame s w [] [.ep e, .iso, .mem] := (frame_modEp _ (by simp)).mpr (hfu.mono (by simp) (by simp))
  have hwep : w.ep e = { s.ep e with state := .active, waits := false } := by
    rw [hw, State.ep_modEp_same, hfu.ep e (by simp) (by simp)]
  obtain ⟨t, ht, harm, hwait⟩ := isoArmNext_run (s := w) (e := e) (hfw.calm k (by simp) (by simp))
    ((hfw.hostMode_eq (by simp)).trans hr.mode) (hfw.hw ▸ hn) hwi false (hooksAt s.level)
  rw [hwep] at harm hwait
  have hft : Frame w t [epSiz e, epDma e, epCtl e] [.ep e] := by
    cases hd : (s.ep e).disabling
    · exact (harm hd).frame.mono (by simp) (by simp)
    · simp [hwait hd]
  have htu (b : Word) : t.byte b = u.byte b := (hft.mem (by simp) b).trans (by rw [hw, State.byte_of_modEp])
  refine runCmd_of ⟨.status .ok, t, ?_, by simp, ?_, ?_, fun hd => ?_, fun hd => ?_, fun b => ?_, fun b hb => ?_, ?_⟩
  · have hcond : (!s.isDesc || decide (b0.toNat % 4 ≠ 0) || decide (b1.toNat % 4 ≠ 0) || decide (per.toNat < 1) ||
        decide (min s.hw.maxDesc (2 ^ s.core.caps.pw - 1) < per.toNat)) = false := by
      have hmin : ¬min s.hw.maxDesc (2 ^ s.core.caps.pw - 1) < per.toNat := by rw [hr.caps]; omega
      simp only [hd, ha0, ha1, hmin, Nat.not_lt.mpr hper1]
      rfl
    have hrole : s.guarded.peripheral = true := by simpa using hr.role
    have hchkg : s.guarded.isoCheckEp e len.toNat = .ok := by simpa [State.isoCheckEp] using hchk
    have hactive : markActive (.ep e) (hooksAt s.level) u = .ok ((), w) := rfl
    simp only [isoStartCmd, needFunctional_on hr.functional, run_bind_ok (taskOnly_ok (.inr a.release) _), run_ask_bind, id, hcond,
      Bool.false_eq_true, if_false, critical_guarded k, isoStartOn, hrole, if_true, isoStartEp, hchkg]
    rw [hu, run_bind_ok hactive, run_bind_ok ht]
    rfl
  · rw [State.returned_iso, hft.iso (by simp) (by simp), hw, State.modEp_iso, hiso, State.iso_guarded]
    have hnext : BitVec.ofNat 14 (frame + iv) + BitVec.ofNat 14 (2 * per.toNat * iv) =
        BitVec.ofNat 14 (frame + (2 * per.toNat + 1) * iv) := by
      rw [← BitVec.ofNat_add]
      congr 1
      ring
    simp only [← hnext, IsoRec.advanced, isoRecord, State.raw_guarded, State.ep_guarded]
    rfl
  · cases hd : (s.ep e).disabling
    · rw [State.ep_of_returned, (harm hd).frame.ep e (by simp) (by simp), hwep]
    · simp [hwait hd, hwep]
  · have p := harm hd
    refine ⟨p.addr, p.enabled, fun hdir => ?_⟩
    rw [State.raw_of_returned, p.size hdir, State.stored_congr hfw.hw (hfw.raw_all _)]
    exact State.field_armed (low.epSiz e) hfits h0 hpw
  · exact ⟨by simp [hwait hd], fun q hq => by simp [hwait hd, hfw.raw_all]⟩
  · refine State.IsoChain.of_bytes (s := u) ?_ fun j _ => htu _
    cases b
    · simpa [frame, iv] using hc0
    · have hcount : frame + iv + per.toNat * iv = frame + (per.toNat + 1) * iv := by ring
      simp only [State.raw_guarded, State.ep_guarded] at hc1
      exact hcount ▸ hc1
  · exact (htu b).trans ((hout b hb).trans (s.byte_guarded b))
  · exact (frame_returned _).mpr ((hfw.mono (by simp) (by simp)).trans (hft.mono (by simp) (by simp)))

end Sys2Proof.Machine

/-! PROOF. USBRST (R481). -/

namespace Sys2Proof.Machine

open Sys2Proof

/-- The sequencer's records are one part. -/
theorem Frame.records {s t : State} {rs : List Reg} {ps : List Part} (f : Frame s t rs ps)
    (h : ∀ p ∈ ps, p ∉ [.mem, .fifo, .plat, .context]) : Frame s t rs [.records] where
  regs := f.regs
  mem _ := f.mem fun m => h _ m (by simp)
  fifo _ := f.fifo fun m => h _ m (by simp)
  core _ m := absurd (List.mem_singleton_self _) m
  ep _ _ m := absurd (List.mem_singleton_self _) m
  ch _ _ m := absurd (List.mem_singleton_self _) m
  pool _ m := absurd (List.mem_singleton_self _) m
  ep0 _ m := absurd (List.mem_singleton_self _) m
  iso _ m := absurd (List.mem_singleton_self _) m
  htog _ m := absurd (List.mem_singleton_self _) m
  plat _ := f.plat fun m => h _ m (by simp)
  served _ m := absurd (List.mem_singleton_self _) m
  context _ := f.context fun m => h _ m (by simp)
  hw := f.hw
  exist _ m := absurd (List.mem_singleton_self _) m
  inputs := f.inputs
  hidden := f.hidden

/-- An endpoint record with no request and no abort under way. -/
def EpRec.Bare (r : EpRec) : Prop := r.state ≠ .haltedPendingDisable ∧ r.x.active = none ∧ r.x.queue = []

/-- What the disable of the enabled ones among the endpoints `l` leaves (R319, R282). -/
structure State.Deactivated (s : State) (l : List EpRef) (u : State) : Prop where
  gone : ∀ e ∈ l, (u.ep e).enabled = false
  ended : ∀ e ∈ l, (s.ep e).enabled = true → (u.ep e).state = .idle ∧ bitOf (u.raw (epCtl e)) 15 = false ∧
    bitOf (u.raw .DAINTMSK) (daintBit e) = false
  kept : ∀ e, (s.ep e).enabled = false ∨ e ∉ l → u.ep e = s.ep e ∧ u.raw (epCtl e) = s.raw (epCtl e)
  masked : ∀ j, bitOf (s.raw .DAINTMSK) j = false → bitOf (u.raw .DAINTMSK) j = false
  bare : (∀ e : EpRef, e.num ≠ 0 → (s.ep e).Bare) → ∀ e : EpRef, e.num ≠ 0 → (u.ep e).Bare
  frame : Frame s u ([.DIEPEMPMSK, .DAINTMSK] ++ l.map epCtl) (l.map .ep)

namespace State.Deactivated

theorem refl (s : State) : s.Deactivated [] s where
  gone := by simp
  ended := by simp
  kept := by simp
  masked _ h := h
  bare h := h
  frame := by simp

theorem cons {s u v : State} {a : EpRef} {l : List EpRef} (h : s.Deactivated [a] u) (g : u.Deactivated l v) :
    s.Deactivated (a :: l) v where
  gone e he := by
    rcases List.mem_cons.mp he with rfl | he
    · have hu := h.gone e (by simp)
      rw [(g.kept e (.inl hu)).1, hu]
    · exact g.gone e he
  ended e he hen := by
    by_cases hea : e = a
    · subst hea
      obtain ⟨hidle, h15, hd⟩ := h.ended e (by simp) hen
      obtain ⟨hep, hctl⟩ := g.kept e (.inl (h.gone e (by simp)))
      exact ⟨hep ▸ hidle, hctl ▸ h15, g.masked _ hd⟩
    · have hl : e ∈ l := by simpa [hea] using he
      exact g.ended e hl ((h.kept e (.inr (by simpa using hea))).1 ▸ hen)
  kept e he := by
    have h1 := h.kept e (he.imp id fun m => by simp_all)
    have h2 := g.kept e (he.imp (fun m => h1.1 ▸ m) fun m => by simp_all)
    exact ⟨h2.1.trans h1.1, h2.2.trans h1.2⟩
  masked j hj := g.masked j (h.masked j hj)
  bare hb := g.bare (h.bare hb)
  frame := (h.frame.mono (by simp) (by simp)).trans (g.frame.mono (by intro; simp; tauto) (by intro; simp; tauto))

end State.Deactivated

theorem epCtl_ne_of_ne {d e : EpRef} (h : d ≠ e) : epCtl d ≠ epCtl e := by
  obtain ⟨n, x⟩ := d
  obtain ⟨m, y⟩ := e
  cases x <;> cases y <;> simp_all [epCtl]

/-- An endpoint without requests is disabled if it is enabled (R319). -/
theorem disableIfEnabled_run {s : State} (k : s.Calm) (hm : s.hostMode = false) {e : EpRef} (hn : e.num.val < s.hw.caps.nEp)
    (h0 : e.num ≠ 0) (hb : (s.ep e).Bare) (h : Hooks) : ∃ u, disableIfEnabled e h s = .ok ((), u) ∧ s.Deactivated [e] u := by
  cases hen : (s.ep e).enabled
  · exact ⟨s, disableIfEnabled_idle hen h, by simpa using hen, by simp [hen], by simp, fun _ hj => hj, fun hr => hr, by simp⟩
  · obtain ⟨u, hu, hep, hctl, hda, -, hf⟩ := disableEndpoint_idle k hm hn h0 hen hb.1 hb.2.1 hb.2.2 h
    have hother {d : EpRef} (hd : d ≠ e) : u.ep d = s.ep d := hf.ep d (by simpa using hd) (by simp)
    refine ⟨u, ?_, by simp [hep], ?_, ?_, ?_, ?_, hf.mono (by simp) (by simp)⟩
    · simp [disableIfEnabled, hen, disableQuietly, run_bind, hu]
    · rintro d hd -
      obtain rfl : d = e := by simpa using hd
      refine ⟨by simp [hep], ?_, by simp [hda, bitOf_and, bitOf_not, bitOf_bit1, daintBit_lt]⟩
      rw [hctl, s.bitOf_ctlWritten d _ (by decide) (by decide) (by decide), (rw_enable s.hw d).2.1]
      rfl
    · intro d hd
      have hde : d ≠ e := by
        rintro rfl
        simp [hen] at hd
      exact ⟨hother hde, hf.raw_eq (by simp [epCtl_ne_of_ne hde]) (by simp)⟩
    · intro j hj
      rw [hda, bitOf_and, hj, Bool.false_and]
    · intro hr d hd
      by_cases hde : d = e
      · subst hde
        rw [hep]
        exact ⟨by simp, hb.2.1, hb.2.2⟩
      · exact hother hde ▸ hr d hd

/-- The data endpoints without requests are disabled one after the other (R319). -/
theorem deactivate_each {h : Hooks} : ∀ {l : List EpRef} {s : State}, s.Calm → s.hostMode = false →
    (∀ e ∈ l, e.num ≠ 0 ∧ e.num.val < s.hw.caps.nEp) → (∀ e : EpRef, e.num ≠ 0 → (s.ep e).Bare) →
    ∃ u, forEach l disableIfEnabled h s = .ok ((), u) ∧ s.Deactivated l u
  | [], s, _, _, _, _ => ⟨s, rfl, .refl s⟩
  | e :: l, s, k, hm, hl, hb => by
    have he := hl e (by simp)
    obtain ⟨u, hu, hd⟩ := disableIfEnabled_run k hm he.2 he.1 (hb e he.1) h
    obtain ⟨v, hv, hd'⟩ := deactivate_each (l := l) (s := u) (hd.frame.calm k (by simp) (by simp))
      ((hd.frame.hostMode_eq (by simp)).trans hm) (fun d hd' => hd.frame.hw ▸ hl d (by simp [hd'])) (hd.bare hb) (h := h)
    exact ⟨v, by rw [forEach, run_bind_ok hu, hv], hd.cons hd'⟩

theorem State.mem_dataEndpoints {s : State} {e : EpRef} :
    e ∈ s.dataEndpoints ↔ e.num ≠ 0 ∧ e.num.val < s.core.caps.nEp := by
  obtain ⟨n, d⟩ := e
  have h0 : n.val ≠ 0 ↔ n ≠ 0 := not_congr (Fin.ext_iff (b := 0)).symm
  simp only [State.dataEndpoints, List.mem_flatMap, List.mem_filter, List.mem_finRange, true_and, Bool.and_eq_true,
    decide_eq_true_eq, ← h0]
  refine ⟨fun ⟨m, hm, he⟩ => ?_, fun hn => ⟨n, hn, by cases d <;> simp⟩⟩
  obtain rfl : n = m := by simp at he; tauto
  exact hm

/-- DCFG without an address (R481). -/
theorem State.stored_noAddress (s : State) :
    s.stored .DCFG (withField (s.raw .DCFG) 4 7 0) = s.raw .DCFG &&& ~~~0x7F0#32 := by
  have hword : withField (s.raw .DCFG) 4 7 0 = s.raw .DCFG &&& ~~~0x7F0#32 := by
    have hall : ∀ j : Fin 32, bitOf (~~~0x7F0#32) j = !decide (4 ≤ j.val ∧ j.val < 11) := by decide
    refine word_ext fun j hj => ?_
    rw [bitOf_withField, bitOf_and, hall ⟨j, hj⟩]
    by_cases h : 4 ≤ j ∧ j < 11 <;> simp [h, hj]
  rw [hword]
  refine s.stored_keep rfl rfl fun k hk hrw => ?_
  have hall : ∀ j : Fin 32, bitOf 0x008007F3#32 j = false → bitOf (~~~0x7F0#32) j = true := by decide
  rw [bitOf_and, hall ⟨k, hk⟩ hrw, Bool.and_true]

section
variable {s : State} (k : s.Calm) (hm : s.hostMode = false)
include k hm

/-- The address and the configuration are gone, and UPPER gets the reset (R481). -/
theorem busReset_ends (n : Nat) (hr : s.replies = []) : ∃ u, (do
      setDevAddr 0
      modEp0 fun e => { e with address := 0, config := 0, remoteWakeup := false }
      callback .busReset) (hooksAt n) s = .ok ((), u) ∧
    u.raw .DCFG = s.raw .DCFG &&& ~~~0x7F0#32 ∧ u.ep0 = { s.ep0 with address := 0, config := 0, remoteWakeup := false } ∧
    u.trace.head? = some (.cb .busReset) ∧ Frame s u [.DCFG] [.ep0] :=
  ⟨_, by simp [setDevAddr, run_bind, k, hm, State.keepDma, k.settled, hr]; rfl, by simp [s.stored_noAddress]⟩

/-- The event is cleared and endpoint 0 leaves the bus (R481). -/
theorem busReset_begins (hn : 1 ≤ s.hw.caps.nEp) (h31 : bitOf (s.raw (.DIEPCTL 0)) 31 = false) (h : Hooks) : ∃ u,
    (∀ p : M Unit, (do
      regWrite .GINTSTS (bit1 12)
      ep0Abandon
      setEp0State .disconnected
      p) h s = p h u) ∧
    u.raw .GINTSTS = s.raw .GINTSTS &&& ~~~(bit1 12) ∧ u.ep0 = { s.ep0 with state := .disconnected } ∧
    (u.ep ⟨0, .IN⟩).x.active = none ∧ (u.ep ⟨0, .OUT⟩).x.active = none ∧
    Frame s u [.GINTSTS, .DIEPEMPMSK] [.ep0, .ep ⟨0, .IN⟩, .ep ⟨0, .OUT⟩] := by
  have hclear := s.stored_clear (r := .GINTSTS) (k := 12) (by decide)
  set v := (s.writeReg .GINTSTS (bit1 12)).note (.wr 0x014 (bit1 12)) with hv
  have hfv : Frame s v [.GINTSTS] [] := by simp [hv]
  obtain ⟨w, hw, hin, hout, -, hfw⟩ := ep0Abandon_idle (s := v) (hfv.calm k (by simp) (by simp)).ready (by simpa [hv] using hm)
    (by simpa [hv] using hn) (by simpa [hv] using h31) h
  refine ⟨w.withEp0 { w.ep0 with state := .disconnected }, fun p => ?_, ?_, ?_, by simp [hin], by simp [hout], ?_⟩
  · exact (run_bind_ok (regWrite_calm k (by simp) _ _)).trans (run_bind_ok hw)
  · rw [State.raw_of_withEp0, hfw.raw_eq (by simp) (by simp), hv]
    simp [hclear]
  · simp [hfw.ep0 (by simp) (by simp), hv]
  · simpa using (hfv.mono (by simp) (by simp)).trans (hfw.mono (by simp) (by simp))

end

/-- Settles O39: endpoint 0 leaves the bus, then the data endpoints are disabled one by one, then the address is cleared. -/
theorem busResetDisablesTheEndpoints : Obligations.BusResetDisablesTheEndpoints := by
  intro s a ⟨hm, hp, hfun, hcaps⟩ hn hn16 h31 hreq
  obtain ⟨u, hu, hgint, hep0, hin, hout, hfu⟩ := busReset_begins (s := s.inCtx .isr) a.calm (by simpa using hm)
    (by simpa using hn) (by simpa using h31) (hooksAt s.level)
  have hdata {e : EpRef} : e ∈ u.dataEndpoints ↔ e.num ≠ 0 ∧ e.num.val < s.hw.caps.nEp := by
    rw [State.mem_dataEndpoints, hfu.core (by simp) (by simp), State.inCtx_core, hcaps]
  have hepu {e : EpRef} (h0 : e.num ≠ 0) : u.ep e = s.ep e := by
    rw [hfu.ep e (by cases e; simp_all) (by simp), State.ep_of_inCtx]
  have ku : u.Calm := hfu.calm a.calm (by simp) (by simp)
  have hmu : u.hostMode = false := by
    rw [State.hostMode, hgint, bitOf_and]
    simpa [bitOf_not, bitOf_bit1, State.hostMode] using hm
  obtain ⟨v, hv, hd⟩ := deactivate_each (l := u.dataEndpoints) (h := hooksAt s.level) ku hmu
    (fun e he => hfu.hw ▸ hdata.mp he) fun e h0 => hepu h0 ▸ hreq e h0
  obtain ⟨t, ht, hdcfg, hep0', htr, hft⟩ := busReset_ends (hd.frame.calm ku (by simp) (by simp))
    ((hd.frame.hostMode_eq (by simp)).trans hmu) s.level (hd.frame.inputs.2.2.1.trans (hfu.inputs.2.2.1.trans a.replies))
  have hdt : Frame u t (.DCFG :: ([.DIEPEMPMSK, .DAINTMSK] ++ u.dataEndpoints.map epCtl)) (.ep0 :: u.dataEndpoints.map .ep) :=
    (hd.frame.mono (by simp) (by simp)).trans (hft.mono (by simp) (by simp))
  have hfsu : Frame s u [.GINTSTS, .DIEPEMPMSK] (.context :: [.ep0, .ep ⟨0, .IN⟩, .ep ⟨0, .OUT⟩]) :=
    Frame.trans (t := s.inCtx .isr) (by simp) (hfu.mono (by simp) (by simp))
  have hf : Frame s (t.inCtx s.ctx) (.GINTSTS :: .DCFG :: ([.DIEPEMPMSK, .DAINTMSK] ++ u.dataEndpoints.map epCtl))
      ([.ep0, .ep ⟨0, .IN⟩, .ep ⟨0, .OUT⟩] ++ u.dataEndpoints.map .ep) :=
    Frame.event_trans (hfsu.mono (by simp) (by simp)) (hdt.mono (by simp) (by intro; simp; tauto))
  refine runEvt_of ⟨t, ?_, ?_⟩
  · rw [inMode_same (by simpa using hm), evtUsbrst, hu, run_bind_ok (a := ()) (by rw [deactivateAll, run_ask_bind]; exact hv), ht]
  have hept (e : EpRef) : t.ep e = v.ep e := hft.ep e (by simp) (by simp)
  have hraw {r : Reg} (h : .DCFG ≠ r) (h0 : r ≠ .DIEPTXF 0) : t.raw r = v.raw r := hft.raw_eq (by simp [h.symm]) h0
  have hep0v {d : Dir} : v.ep ⟨0, d⟩ = u.ep ⟨0, d⟩ := (hd.kept _ (.inr (by simp [hdata]))).1
  refine ⟨?_, ?_, ?_, ?_, ?_, fun e h0 hlt => ?_, by simpa using htr, ?_, ?_, ?_, ?_, ?_, ?_⟩
  · simp [hdt.raw_eq (r := .GINTSTS) (by simp) (by simp), hgint]
  · simp [hdcfg, hd.frame.raw_eq (r := .DCFG) (by simp) (by simp), hfu.raw_eq (r := .DCFG) (by simp) (by simp)]
  · simp [hep0', hd.frame.ep0 (by simp) (by simp), hep0]
  · simp [hept, hep0v, hin]
  · simp [hept, hep0v, hout]
  · have hl := hdata.mpr ⟨h0, hlt⟩
    have hctl : t.raw (epCtl e) = v.raw (epCtl e) := hraw (by simp) (by simp)
    have hda : t.raw .DAINTMSK = v.raw .DAINTMSK := hraw (by simp) (by simp)
    have hu0 : u.raw (epCtl e) = s.raw (epCtl e) := by simp [hfu.raw_eq (r := epCtl e) (by simp) (by simp)]
    simp only [State.ep_of_inCtx, State.raw_of_inCtx, hept, hctl, hda, ← hepu h0, ← hu0]
    exact ⟨hd.gone e hl, hd.ended e hl, fun hen => hd.kept e (.inl hen)⟩
  · exact hf.pool (by simp) (by simp)
  · exact hf.core (by simp) (by simp)
  · exact hf.iso (by simp) (by simp)
  · exact Vector.ext fun c hc => hf.ch ⟨c, hc⟩ (by simp) (by simp)
  · exact hf.htog (by simp) (by simp)
  · refine (hf.mono ?_ (List.Subset.refl _)).records (by simp)
    simp only [List.cons_append, List.nil_append, List.cons_subset]
    refine ⟨by simp, by simp, by simp, by simp, fun q hq => ?_⟩
    obtain ⟨⟨n, d⟩, he, rfl⟩ := List.mem_map.mp hq
    have hn0 : n ≠ 0 := (hdata.mp he).1
    simp only [List.mem_cons, List.mem_flatMap]
    exact .inr (.inr (.inr (.inr ⟨n, List.mem_finRange n, by cases d <;> simp [hn0, epCtl]⟩)))

end Sys2Proof.Machine

/-! PROOF. The pool and SUBMIT (R240, R241, R243). -/

namespace Sys2Proof.Machine

open Sys2Proof

/-! The critical section of a command that the handler does not preempt, with the gate open or closed (R245). -/

/-- A register that ends as it was is no part of the frame. -/
theorem Frame.drop_reg {s t : State} {r : Reg} {rs : List Reg} {ps : List Part} (f : Frame s t (r :: rs) ps)
    (h : t.raw r = s.raw r) : Frame s t rs ps :=
  { f with
    regs := fun a ha => by
      by_cases hr : a = r.offset
      · exact hr ▸ h
      · exact f.regs a (by simpa [hr] using ha) }

theorem frame_gated {s t : State} {rs : List Reg} {ps : List Part} (b : Bool) (f : Frame s t rs ps) :
    Frame s (t.gated b) (.GAHBCFG :: rs) ps :=
  Frame.trans (t := t) (f.mono (by simp) (by simp)) (by simp [State.gated])

theorem critical_keeps {α : Type} {s : State} (q : s.Silent) (hu : s.unsettled = false) {p : M α} {h : Hooks} {ps : List Part}
    {Q : α → State → Prop} (hQ : ∀ r v t, Frame v t [.GAHBCFG] [] → Q r v → Q r t)
    (body : ∀ w, Frame s w [.GAHBCFG] [] → ∃ r v, p h w = .ok (r, v) ∧ Q r v ∧ Frame w v [] ps) :
    ∃ r u, critical p h s = .ok (r, u) ∧ Q r u ∧ Frame s u [] ps := by
  have key (w : State) (hw : Frame s w [.GAHBCFG] []) (hraw : w.raw .GAHBCFG = s.raw .GAHBCFG) (hrun : critical p h s = p h w) :
      ∃ r u, critical p h s = .ok (r, u) ∧ Q r u ∧ Frame s u [] ps := by
    obtain ⟨r, v, hv, hq, hf⟩ := body w hw
    exact ⟨r, v, hrun.trans hv, hq, ((hw.drop_reg hraw).mono (by simp) (by simp)).trans hf⟩
  cases hc : s.ctx with
  | isr => exact key s (.refl _ _ _) rfl (critical_isr hc p h)
  | task =>
    cases hg : bitOf (s.raw .GAHBCFG) 0 with
    | false => exact key (s.note (.rd 0x008 (s.raw .GAHBCFG))) (by simp) rfl (critical_closed ⟨q.1, q.2.1, .inr hg⟩ hc hu p h)
    | true =>
      set w := (s.note (.rd 0x008 (s.raw .GAHBCFG))).gated false with hw
      have hfw : Frame s w [.GAHBCFG] [] := frame_gated _ (by simp)
      obtain ⟨r, v, hv, hq, hf⟩ := body w hfw
      have hfv : Frame s v [.GAHBCFG] ps := (hfw.mono (by simp) (by simp)).trans (hf.mono (by simp) (by simp))
      have hgv : v.raw .GAHBCFG = s.raw .GAHBCFG &&& ~~~0x1#32 := by
        rw [hf.raw_eq (by simp) (by simp), hw, State.raw_gated]
        rfl
      have hshut : v.Shut := .inr (by rw [hgv, bitOf_and]; simp)
      have hsv : v.Silent := ⟨hfv.inputs.2.1.trans q.1, hfv.inputs.2.2.2.trans q.2.1, hshut.line⟩
      have huv : v.unsettled = false := by
        rw [State.unsettled, hfv.raw_eq (by simp) (by simp)]
        exact hu
      refine ⟨r, v.gated true, ?_, hQ r v _ (frame_gated _ (by simp)) hq, (((frame_gated true hfv).mono (by simp) (by simp)).drop_reg (r := .GAHBCFG) (rs := []) ?_)⟩
      · have hread := regRead_mute (r := .GAHBCFG) q hu (accessible_gahbcfg s) (by simp) h
        have hclose : setGate false h (s.note (.rd 0x008 (s.raw .GAHBCFG))) = .ok ((), w) :=
          setGate_silent (s.silent_note q _) (by simpa using hu) false h
        simp only [critical, run_ask_bind, hc]
        have hg' : bitOf (s.peek .GAHBCFG) 0 = true := hg
        rw [run_bind_ok hread]
        rw [hg']
        refine (run_bind_ok hclose).trans ?_
        rw [run_bind_ok hv]
        exact run_bind_ok (setGate_silent hsv huv true h)
      · rw [State.raw_gated, hgv]
        refine word_ext fun j _ => ?_
        have hone : ∀ i : Fin 32, bitOf 0x1#32 i = decide (i.val = 0) := by decide
        simp only [if_true, bitOf_or, bitOf_and, bitOf_not ‹_›, hone ⟨j, ‹_›⟩]
        by_cases hj : j = 0 <;> simp [hj, hg]

/-! The pool. -/

theorem State.mem_freeSlots {s : State} {n : Nat} : n ∈ s.freeSlots ↔ n < s.pool.length ∧ s.slotUsed n = false := by
  simp [State.freeSlots]

theorem State.drawSlot_mem {s : State} (hf : s.freeSlots ≠ []) : ∃ n ∈ s.freeSlots, s.drawSlot = some n := by
  unfold State.drawSlot
  cases hl : s.freeSlots with
  | nil => exact absurd hl hf
  | cons n l =>
    cases s.poolDraws with
    | nil => exact ⟨n, by simp, rfl⟩
    | cons d _ =>
      have hlt : d % (n :: l).length < (n :: l).length := Nat.mod_lt _ (by simp)
      exact ⟨(n :: l)[d % (n :: l).length], List.getElem_mem _, by simp only [List.getElem?_eq_getElem hlt, Option.getD_some]⟩

/-- A free slot is handed out (R240). -/
theorem poolAlloc_run {s : State} (hf : s.freeSlots ≠ []) (h : Hooks) : ∃ n u, poolAlloc h s = .ok (some n, u) ∧
    n ∈ s.freeSlots ∧ u.pool = s.pool.set n (some blankReq) ∧ u.trace = s.trace ∧ Frame s u [] [.pool] := by
  obtain ⟨n, hn, hd⟩ := s.drawSlot_mem hf
  refine ⟨n, { s with pool := s.pool.set n (some blankReq), poolDraws := s.poolDraws.tail }, ?_, hn, rfl, rfl, ?_⟩
  · simp [poolAlloc, run_bind, hd]
  · exact Frame.trans (t := s.withPool (s.pool.set n (some blankReq))) (by simp) ((Frame.refl _ _ _).of_eq rfl)

theorem poolAlloc_none {s : State} (hf : s.freeSlots = []) (h : Hooks) : poolAlloc h s = .ok (none, s) := by
  simp [poolAlloc, run_bind, State.drawSlot, hf]

theorem Frame.inUse_eq {s t : State} {rs : List Reg} (f : Frame s t rs []) (n : Nat) : t.inUse n = s.inUse n := by
  have hin : t.epIn = s.epIn := Vector.ext fun i hi => f.ep ⟨⟨i, hi⟩, .IN⟩ (by simp) (by simp)
  have hout : t.epOut = s.epOut := Vector.ext fun i hi => f.ep ⟨⟨i, hi⟩, .OUT⟩ (by simp) (by simp)
  have hch : t.ch = s.ch := Vector.ext fun i hi => f.ch ⟨i, hi⟩ (by simp) (by simp)
  simp only [State.inUse, hin, hout, hch]

/-- A command that is a critical section, where the handler does not preempt it (R113, R245). -/
theorem runCmd_critical {i : Instr} {c p : M Result} {s : State} (q : s.Silent) (hu : s.unsettled = false)
    (hc : ∀ h, c h s = critical p h s) {ps : List Part} {Q : Result → State → Prop}
    (hQ : ∀ r v t, Frame v t [.GAHBCFG] [] → Q r v → Q r t)
    (body : ∀ w, Frame s w [.GAHBCFG] [] → ∃ r v, p (hooksAt s.level) w = .ok (r, v) ∧ Q r v ∧ Frame w v [] ps) :
    ∃ t, runCmd i c s = .next t ∧ Q t.result t ∧ Frame s t [] ps := by
  obtain ⟨r, u, hrun, hq, hf⟩ := critical_keeps q hu hQ body
  exact runCmd_of ⟨r, u, (hc _).trans hrun, hQ r u _ (by simp) hq, (frame_returned _).mpr hf⟩

/-- What POOL_ALLOC leaves where a slot is free (R240). -/
def State.Allocated (s : State) (r : Result) (t : State) : Prop :=
  ∃ n, r = .handle n ∧ n ∈ s.freeSlots ∧ t.pool = s.pool.set n (some blankReq)

/-- Settles O22: the pool is changed between the two accesses of the critical section. -/
theorem poolSlotsAreHandedOutAndFreed : Obligations.PoolSlotsAreHandedOutAndFreed := by
  refine ⟨fun s he hp hi hu hfun => ⟨fun hfree => ?_, fun hfree => ?_⟩, fun s h he hp hi hu hfun => ⟨fun hlt hused huse => ?_, fun hge => ?_⟩⟩
  · refine runCmd_critical ⟨he, hp, hi⟩ hu (needFunctional_on hfun _) (Q := fun r _ => r = .status .noFreeIoBlock) (fun _ _ _ _ h => h)
      fun w hw => ⟨_, w, ?_, rfl, .refl _ _ _⟩
    rw [run_bind_ok (poolAlloc_none (by rw [State.freeSlots_of (hw.pool (by simp) (by simp)), hfree]) _)]
    rfl
  · have hrun : ∃ t, exec .poolAlloc s = .next t ∧ s.Allocated t.result t ∧ Frame s t [] [.pool] := runCmd_critical ⟨he, hp, hi⟩ hu (needFunctional_on hfun _)
      (fun _ _ _ f ⟨n, hr, hn, hp⟩ => ⟨n, hr, hn, (f.pool (by simp) (by simp)).trans hp⟩) fun w hw => by
        have hwp : w.pool = s.pool := hw.pool (by simp) (by simp)
        obtain ⟨n, u, hu, hn, hpool, -, hf⟩ := poolAlloc_run (s := w) (by rwa [State.freeSlots_of hwp]) (hooksAt s.level)
        exact ⟨.handle n, u, by rw [run_bind_ok hu]; rfl, ⟨n, rfl, State.freeSlots_of hwp ▸ hn, by rw [hpool, hwp]⟩, hf⟩
    obtain ⟨t, ht, ⟨n, hr, hn, hpool⟩, hf⟩ := hrun
    obtain ⟨hlt, hfr⟩ := State.mem_freeSlots.mp hn
    have hq : t.pool[n]? = some (some blankReq) := by rw [hpool, List.getElem?_set_self hlt]
    refine ⟨t, n, ht, hr, hlt, hfr, State.slotUsed_pool hq, ?_, ?_, fun k hk => ?_, hf⟩
    · rw [State.reqAt_pool hq]
      rfl
    · rw [State.reqAt_pool hq]
      rfl
    · rw [hpool, List.getElem?_set_ne (Ne.symm hk)]
  · have hrun : ∃ t, exec (.poolFree h) s = .next t ∧ (t.result = .unit ∧ t.pool = s.pool.set h.toNat none) ∧ Frame s t [] [.pool] :=
      runCmd_critical ⟨he, hp, hi⟩ hu (needFunctional_on hfun _) (Q := fun r t => r = .unit ∧ t.pool = s.pool.set h.toNat none) (fun _ _ _ f ⟨hr, hp⟩ => ⟨hr, (f.pool (by simp) (by simp)).trans hp⟩) fun w hw => by
        have hwp : w.pool = s.pool := hw.pool (by simp) (by simp)
        have hw2 : w.slotUsed h.toNat = true := by rwa [State.slotUsed_of hwp]
        have hw3 : w.inUse h.toNat = false := by rwa [hw.inUse_eq]
        exact ⟨.unit, w.withPool (s.pool.set h.toNat none), by simp [run_bind, assertThat, hw2, hw3, hwp, hlt], ⟨rfl, rfl⟩, by simp⟩
    obtain ⟨t, ht, ⟨hr, hpool⟩, hf⟩ := hrun
    refine ⟨t, ht, hr, ?_, by simp [hpool], fun k hk => ?_, hf⟩
    · simp [State.slotUsed, hpool, List.getElem?_set_self hlt]
    · rw [hpool, List.getElem?_set_ne (Ne.symm hk)]
  · refine runCmd_critical ⟨he, hp, hi⟩ hu (needFunctional_on hfun _) (Q := fun r _ => r = .status .badParam) (fun _ _ _ _ h => h)
      fun w hw => ⟨_, w, ?_, rfl, .refl _ _ _⟩
    have hwp : w.pool = s.pool := hw.pool (by simp) (by simp)
    simp [hwp, Nat.not_lt.mpr hge]

end Sys2Proof.Machine

/-! PROOF. SUBMIT that queues or fails (R243, R351). -/

namespace Sys2Proof.Machine

open Sys2Proof

section
variable (s : State)

@[simp] theorem State.freeSlots_guarded : s.guarded.freeSlots = s.freeSlots := s.guarded_same (·.freeSlots) rfl
@[simp] theorem State.submitCheck_guarded (e : EpRef) : s.guarded.submitCheck e = s.submitCheck e := s.guarded_same (·.submitCheck e) rfl
@[simp] theorem State.pipeChannel_guarded (p : HcParams) : s.guarded.pipeChannel p = s.pipeChannel p := s.guarded_same (·.pipeChannel p) rfl
@[simp] theorem State.freeChannel_guarded : s.guarded.freeChannel = s.freeChannel := s.guarded_same (·.freeChannel) rfl

end

theorem Frame.submitCheck_eq {s t : State} {rs : List Reg} (f : Frame s t rs []) (e : EpRef) : t.submitCheck e = s.submitCheck e := by
  simp only [State.submitCheck, State.scheduled, f.ep e (by simp) (by simp), f.core (by simp) (by simp), f.isoOf_eq (by simp) (by simp)]
  rfl

/-- A SUBMIT whose buffer lies as the DMA mode asks is a critical section (R243). -/
theorem submitCmd_aligned {s : State} (hfun : s.core.functional = true) {x : Target} {buf len : Word} {z : Bool} {cb : CbId}
    (hal : s.isSlave = true ∨ buf.toNat % 4 = 0) (h : Hooks) :
    submitCmd x buf len z cb h s = critical (submitTo x buf len.toNat z cb) h s := by
  have hb : (!s.isSlave && decide (buf.toNat % 4 ≠ 0)) = false := by
    rcases hal with h1 | h1 <;> simp [h1]
  simp only [submitCmd, needFunctional_on hfun, run_ask_bind, id, hb, Bool.false_eq_true, if_false]

/-- What a SUBMIT to a busy endpoint leaves (R243). -/
def State.Queued (s : State) (e : EpRef) (q : Req) (r : Result) (t : State) : Prop :=
  ∃ n, r = .handle n ∧ n ∈ s.freeSlots ∧ t.pool = s.pool.set n (some q) ∧
    t.ep e = { s.ep e with x := { (s.ep e).x with queue := (s.ep e).x.queue ++ [n] } }

theorem submitEp_queues {s : State} {e : EpRef} (hchk : s.submitCheck e = .ok)
    (hbusy : (s.ep e).x.active ≠ none ∨ (s.ep e).x.queue ≠ []) (hfree : s.freeSlots ≠ []) (buf : Word) (len : Nat) (z : Bool)
    (cb : CbId) (h : Hooks) :
    ∃ r t, submitEp e buf len z cb h s = .ok (r, t) ∧ s.Queued e (submitted (.ep e) buf len z cb) r t ∧ Frame s t [] [.ep e, .pool] := by
  obtain ⟨n, u, hu, hn, hpool, -, hf⟩ := poolAlloc_run hfree h
  have hlt := (State.mem_freeSlots.mp hn).1
  have hep : u.ep e = s.ep e := hf.ep e (by simp) (by simp)
  have hq : u.pool[n]? = some (some blankReq) := by rw [hpool, List.getElem?_set_self hlt]
  have hrun : submitEp e buf len z cb h s = .ok (.handle n, (u.modReqAt (.pool n) fun _ => submitted (.ep e) buf len z cb).modX (.ep e)
      fun t => { t with queue := t.queue ++ [n] }) := by
    simp only [submitEp, run_ask_bind, id, hchk, if_true, submitOn]
    rw [run_bind_ok hu]
    have hnot : ¬((s.ep e).x.active = none ∧ (s.ep e).x.queue = []) := by tauto
    simp [run_bind, startOrQueue, State.xfer, hep, hnot]
  refine ⟨_, _, hrun, ⟨n, rfl, hn, ?_, ?_⟩, ?_⟩
  · simp [State.pool_modReqAt hq, hpool]
  · simp [hep]
  · simpa using hf.mono (by simp) (by simp)

/-! SUBMIT that fails. -/

/-- A channel that ends as it was is no part of the frame. -/
theorem Frame.drop_ch {s t : State} {rs : List Reg} {ps : List Part} {c : Fin 16} (f : Frame s t rs (.ch c :: ps))
    (h : t.chan c = s.chan c) : Frame s t rs ps where
  regs := f.regs
  mem m := f.mem (by simpa using m)
  fifo m := f.fifo (by simpa using m)
  core m m' := f.core (by simpa using m) (by simpa using m')
  ep d m m' := f.ep d (by simpa using m) (by simpa using m')
  ch d m m' := by
    by_cases hd : d = c
    · exact hd ▸ h
    · exact f.ch d (by simpa [hd] using m) (by simpa using m')
  pool m m' := f.pool (by simpa using m) (by simpa using m')
  ep0 m m' := f.ep0 (by simpa using m) (by simpa using m')
  iso m m' := f.iso (by simpa using m) (by simpa using m')
  htog m m' := f.htog (by simpa using m) (by simpa using m')
  plat m := f.plat (by simpa using m)
  served m m' := f.served (by simpa using m) (by simpa using m')
  context m := f.context (by simpa using m)
  hw := f.hw
  exist m m' := f.exist (by simpa using m) (by simpa using m')
  inputs := f.inputs
  hidden := f.hidden

section
variable {s : State} (buf : Word) (len : Nat) (z : Bool) (cb : CbId) (h : Hooks)

/-- Without a free slot what the call has allocated is given back (R243). -/
theorem submitOn_full (hfree : s.freeSlots = []) (x : XRef) (undo : M Unit) :
    submitOn x buf len z cb undo h s = (do undo; pure (Result.status .noFreeIoBlock)) h s := by
  rw [submitOn, run_bind_ok (poolAlloc_none hfree h)]

/-- A SUBMIT to an endpoint that a check refuses, or that finds no free slot (R243). -/
theorem submitEp_fails {e : EpRef} (hf : s.submitCheck e ≠ .ok ∨ s.freeSlots = []) :
    submitEp e buf len z cb h s =
      .ok (.status (if s.submitCheck e = .ok then .noFreeIoBlock else s.submitCheck e), s) := by
  by_cases hc : s.submitCheck e = .ok
  · simp only [submitEp, run_ask_bind, id, hc, if_true, submitOn_full buf len z cb h (hf.resolve_left (by simpa using hc))]
    rfl
  · simp only [submitEp, run_ask_bind, id, hc, if_false]
    rfl

omit h buf len z cb in
theorem State.submitCheck_answer (s : State) (e : EpRef) : (if s.submitCheck e = .ok then .noFreeIoBlock else s.submitCheck e) =
    if e.num = 0 ∨ s.core.caps.nEp ≤ e.num.val ∨ (s.ep e).enabled = false then Status.notEnabled
    else if (s.ep e).state = .stalled ∨ (s.ep e).state = .haltedPendingDisable ∨ s.scheduled (.ep e) = true then .busy
    else .noFreeIoBlock := by
  unfold State.submitCheck
  split
  · rfl
  · split <;> rfl

/-- A SUBMIT to a pipe that finds no channel, or one that is taken, or no free slot (R243, R351). -/
theorem submitPipe_fails {p : HcParams} (hnew : s.pipeChannel p = none → s.freeChannel = none ∨ s.freeSlots = [])
    (hold : ∀ c, s.pipeChannel p = some c → p.pid ≠ none ∨ (s.chan c).haltStatus ≠ .noHalt) :
    ∃ u, submitPipe p buf len z cb h s = .ok (.status (if s.pipeChannel p ≠ none then .busy else if s.freeChannel = none then .noFreeChannel
      else .noFreeIoBlock), u) ∧ Frame s u [] [] := by
  cases hp : s.pipeChannel p with
  | some c =>
    refine ⟨s, ?_, .refl _ _ _⟩
    by_cases hpid : p.pid = none
    · have hs := (hold c hp).resolve_left (by simpa using hpid)
      simp [submitPipe, State.channelFor, hp, hpid, hs]
    · simp [submitPipe, State.channelFor, hp, hpid]
  | none =>
    cases hc : s.freeChannel with
    | none => exact ⟨s, by simp [submitPipe, State.channelFor, hp, hc], .refl _ _ _⟩
    | some c =>
      have hfree := (hnew hp).resolve_left (by simp [hc])
      refine ⟨(s.modCh c fun _ => s.allocRecord c p).modCh c fun _ => s.chan c, ?_, Frame.drop_ch (c := c) (by simp) (by simp)⟩
      simp [submitPipe, State.channelFor, hp, hc, run_bind, submitOn_full, hfree]

end

/-- A SUBMIT that ends in an answer (R243). -/
theorem exec_submit_answers {s : State} (k : s.Calm) (hfun : s.core.functional = true) {x : Target} {buf len : Word} {z : Bool}
    {cb : CbId} (hal : s.isSlave = true ∨ buf.toNat % 4 = 0) {st : Status}
    (hrun : ∃ u, submitTo x buf len.toNat z cb (hooksAt s.level) s.guarded = .ok (.status st, u) ∧ Frame s.guarded u [] []) :
    ∃ t, exec (.submit x buf len z cb) s = .next t ∧ t.result = .status st ∧ Frame s t [] [] := by
  obtain ⟨u, hu, hf⟩ := hrun
  refine runCmd_of ⟨.status st, u, ?_, rfl, by simpa using hf⟩
  rw [submitCmd_aligned hfun hal, critical_guarded k, hu]

/-- Settles O23: a busy endpoint's request is queued inside the critical section; a check that fails is answered from its state. -/
theorem submitQueuesOrFails : Obligations.SubmitQueuesOrFails := by
  refine ⟨fun s e buf len z cb a hi hr hal hchk hbusy hfree => ?_, fun s buf len z cb a hsh hfun => ⟨?_, ?_, ?_⟩⟩
  · have hrun : ∃ t, exec (.submit (.ep e) buf len z cb) s = .next t ∧
        s.Queued e (submitted (.ep e) buf len.toNat z cb) t.result t ∧ Frame s t [] [.ep e, .pool] :=
      runCmd_critical ⟨a.env, a.prompt, hi⟩ a.settled (submitCmd_aligned hr.functional hal)
        (fun _ _ _ f ⟨n, hr, hn, hp, he⟩ => ⟨n, hr, hn, (f.pool (by simp) (by simp)).trans hp, (f.ep e (by simp) (by simp)).trans he⟩)
        fun w hw => by
          have hp : w.peripheral = true := (State.peripheral_of (hw.core (by simp) (by simp))).trans hr.role
          have hew : w.ep e = s.ep e := hw.ep e (by simp) (by simp)
          have hpw : w.pool = s.pool := hw.pool (by simp) (by simp)
          obtain ⟨r, t, ht, ⟨n, hn⟩, hf⟩ := submitEp_queues (s := w) ((hw.submitCheck_eq e).trans hchk) (by rwa [hew])
            (by rwa [State.freeSlots_of hpw]) buf len.toNat z cb (hooksAt s.level)
          rw [State.freeSlots_of hpw, hpw, hew] at hn
          exact ⟨r, t, by simpa [submitTo, hp] using ht, ⟨n, hn⟩, hf⟩
    obtain ⟨t, ht, ⟨n, hres, hn, hpool, hep⟩, hf⟩ := hrun
    obtain ⟨hlt, hused⟩ := State.mem_freeSlots.mp hn
    exact ⟨t, n, ht, hres, hused, hlt, hpool, hep, hf⟩
  · intro hs hal x
    refine runCmd_answers fun h => ?_
    have hb : (!s.isSlave && decide (buf.toNat % 4 ≠ 0)) = true := by simp [hs, hal]
    simp only [submitCmd, needFunctional_on hfun, run_ask_bind, id, hb, if_true]
    rfl
  · intro hal hp
    refine ⟨fun p => exec_submit_answers (a.calmTask hsh) hfun hal ⟨s.guarded, by simp [submitTo, hp], .refl _ _ _⟩, fun e hf => ?_⟩
    refine exec_submit_answers (a.calmTask hsh) hfun hal ⟨s.guarded, ?_, .refl _ _ _⟩
    have hrun := submitEp_fails (s := s.guarded) buf len.toNat z cb (hooksAt s.level) (e := e) (by simpa using hf)
    rw [State.submitCheck_guarded, State.submitCheck_answer] at hrun
    simpa [submitTo, hp] using hrun
  · intro hal hp
    refine ⟨fun e => exec_submit_answers (a.calmTask hsh) hfun hal ⟨s.guarded, by simp [submitTo, hp], .refl _ _ _⟩, fun p hnew hold => ?_⟩
    obtain ⟨u, hu, hf⟩ := submitPipe_fails (s := s.guarded) buf len.toNat z cb (hooksAt s.level) (p := p) (by simpa using hnew) (by simpa using hold)
    refine exec_submit_answers (a.calmTask hsh) hfun hal ⟨u, ?_, hf⟩
    simpa [submitTo, hp] using hu

end Sys2Proof.Machine

/-! PROOF. The end of a channel's request and the release of the channel (R272, R358, R359). -/

namespace Sys2Proof.Machine

open Sys2Proof

/-- From `s` to `t` the registers of channel `c` have been released (R359). -/
structure State.ChannelReleased (s t : State) (c : Fin 16) : Prop where
  events : t.raw (.HCINT c) = 0
  mask : t.raw (.HCINTMSK c) = 0
  summary : t.raw .HAINTMSK = s.raw .HAINTMSK &&& ~~~(bit1 c.val)
  trace : s.trace <:+ t.trace
  frame : Frame s t [.HCINT c, .HCINTMSK c, .HAINTMSK] [.ch c]

@[simp] theorem State.stored_allEvents (s : State) (c : Fin 16) : s.stored (.HCINT c) 0xFFFFFFFF#32 = 0 := by
  rw [s.stored_w1c (r := .HCINT c) (k := 0) (bitOf_allOnes 0), show w1cMask (.HCINT c) = 0xFFFFFFFF#32 from rfl]
  simp

/-- The summary mask takes the bit of a channel (R47). -/
theorem State.stored_haintmsk (s : State) (c : Fin 16) (b : Bool) :
    s.stored .HAINTMSK (withBit (s.raw .HAINTMSK) c.val b) = withBit (s.raw .HAINTMSK) c.val b := by
  have hall : ∀ j : Fin 16, bitOf 0xFFFF#32 j = true := by decide
  refine s.stored_keep rfl rfl fun k _ hrw => ?_
  have hk : k ≠ c.val := by
    rintro rfl
    rw [show rwMask s.hw .HAINTMSK = 0xFFFF#32 from rfl, hall c] at hrw
    cases hrw
  simp [bitOf_withBit, hk]

section
variable {s : State} {c : Fin 16} (k : s.Calm) (hm : s.hostMode = true) (hc : c.val < s.hw.caps.nCh)
include k hm hc

theorem channelRelease_run (hmsk : s.raw (.HCINTMSK c) &&& ~~~0x9FF#32 = 0) (h : Hooks) : ∃ u, channelRelease c h s = .ok ((), u) ∧
    u.chan c = { s.chan c with allocated := false } ∧ s.ChannelReleased u c := by
  have hzero : s.stored (.HCINTMSK c) 0#32 = 0 := s.stored_of_low rfl rfl hmsk (by simp)
  have hsum := s.stored_haintmsk c false
  rw [withBit_false] at hsum
  refine ⟨_, by simp [channelRelease, run_bind, k, hm, hc]; rfl, by simp, ?_, ?_, ?_, ?_, ?_⟩ <;>
    simp [hzero, hsum, withBit_false, List.suffix_cons_iff]

end

theorem State.modCh_self (s : State) {c : Fin 16} {f : ChRec → ChRec} (h : f (s.chan c) = s.chan c) : s.modCh c f = s := by
  have hset : s.ch.set c.val (f s.ch[c.val]) = s.ch := by
    rw [show f s.ch[c.val] = s.ch[c.val] from h]
    simp
  rw [State.modCh, hset]

/-- The record of a channel whose request has ended (R272). -/
def ChRec.detached (r : ChRec) : ChRec :=
  { r with x := { r.x with active := none, zlpPhase := false, chunkLen := 0, chunkDone := 0 } }

/-- From `s` to `t` the last request of channel `c`, in slot `n`, has ended, UPPER was told, and the channel is released (R272,
R359). -/
structure State.ChannelEnded (s t : State) (c : Fin 16) (n : Nat) (told : TraceEv) : Prop where
  pool : t.pool = s.pool.set n none
  chan : t.chan c = { (s.chan c).detached with allocated := false }
  trace : ∃ l, t.trace = told :: l ∧ s.trace <:+ l
  events : t.raw (.HCINT c) = 0
  mask : t.raw (.HCINTMSK c) = 0
  summary : t.raw .HAINTMSK = s.raw .HAINTMSK &&& ~~~(bit1 c.val)
  frame : Frame s t [.HCINT c, .HCINTMSK c, .HAINTMSK] [.ch c, .pool]

theorem State.ChannelEnded.last {s t : State} {c : Fin 16} {n : Nat} {told : TraceEv} (e : s.ChannelEnded t c n told) :
    t.trace.head? = some told := by
  obtain ⟨l, hl, -⟩ := e.trace
  rw [hl]
  rfl

theorem detachRequest_channel {s : State} {c : Fin 16} {n : Nat} (ha : (s.chan c).x.active = some (.pool n))
    (st : Status) (h : Hooks) :
    ∃ u, detachRequest (.ch c) (.pool n) st h s = .ok ((), u) ∧ u.pool = s.pool.set n none ∧ u.chan c = (s.chan c).detached ∧
      u.trace = s.trace ∧ Frame s u [] [.ch c, .pool] := by
  refine ⟨_, by simp [detachRequest, run_bind, ha, markIdle, freeRequest]; rfl, ?_⟩
  have hset (l : List (Option Req)) (f : Req → Req) : (l.modify n fun o => o.map f).set n none = l.set n none := by
    rw [List.modify_eq_set_getElem?]
    cases l[n]? <;> simp
  simp [State.modReqAt_pool, hset, ChRec.detached]

section
variable {s : State} {c : Fin 16} {n : Nat} {q : Req} (ha : (s.chan c).x.active = some (.pool n))
  (hq : s.pool[n]? = some (some q)) (hr : s.replies = []) (st : Status) (m : Nat)
include ha hq hr

/-- The request of a channel ends while a halt is pending: nothing else happens yet (R550). -/
theorem completeKeep_channel : ∃ u, completeKeep (.ch c) st (hooksAt m) s = .ok ((), u) ∧ u.pool = s.pool.set n none ∧
    u.chan c = (s.chan c).detached ∧ u.trace = .cb (.transferComplete q.cb q.ctx st q.done) :: s.trace ∧
    Frame s u [] [.ch c, .pool] := by
  obtain ⟨u, hu, hpool, hch, htr, hf⟩ := detachRequest_channel ha st (hooksAt m)
  have hreq : s.reqAt (.pool n) = q := State.reqAt_pool hq
  have hru : u.replies = [] := hf.inputs.2.2.1.trans hr
  refine ⟨u.note (.cb (.transferComplete q.cb q.ctx st q.done)), ?_, by simpa using hpool, by simpa using hch, by simp [htr],
    by simpa using hf⟩
  simp [completeKeep, ha, run_bind_ok hu, doneCallback, hreq, hru]

variable (k : s.Calm) (hm : s.hostMode = true) (hc : c.val < s.hw.caps.nCh) (hmsk : s.raw (.HCINTMSK c) &&& ~~~0x9FF#32 = 0)
  (hqu : (s.chan c).x.queue = [])
include k hm hc hmsk hqu

/-- The last request of a channel ends, and the channel is released (R272, R359). -/
theorem completeRequest_channel : ∃ u, completeRequest (.ch c) st (hooksAt m) s = .ok ((), u) ∧ 
    s.ChannelEnded u c n (.cb (.transferComplete q.cb q.ctx st q.done)) := by
  obtain ⟨v, hv, hpool, hch, htr, hf⟩ := detachRequest_channel ha st (hooksAt m)
  have hraw (r : Reg) : v.raw r = s.raw r := hf.raw_all r
  obtain ⟨u, hu, huc, rel⟩ := channelRelease_run (s := v) (c := c) (hf.calm k (by simp) (by simp)) ((hf.hostMode_eq (by simp)).trans hm)
    (hf.hw ▸ hc) (by rwa [hraw]) (hooksAt m)
  have hreq : s.reqAt (.pool n) = q := State.reqAt_pool hq
  have hru : u.replies = [] := rel.frame.inputs.2.2.1.trans (hf.inputs.2.2.1.trans hr)
  have hqv : (v.chan c).x.queue = [] := by rw [hch]; exact hqu
  have hcomp : channelComplete c (hooksAt m) v = .ok ((), u) := by simp [channelComplete, hqv, hu]
  refine ⟨u.note (.cb (.transferComplete q.cb q.ctx st q.done)), ?_, ?_, by simp [huc, hch], ⟨u.trace, rfl, htr ▸ rel.trace⟩, by simpa using rel.events,
    by simpa using rel.mask, ?_, ?_⟩
  · simp [completeRequest, ha, run_bind_ok hv, afterRequest, run_bind_ok hcomp, doneCallback, hreq, hru]
  · simp [rel.frame.pool (by simp) (by simp), hpool]
  · simp [rel.summary, hraw]
  · simpa using (hf.mono (by simp) (by simp)).trans (rel.frame.mono (by simp) (by simp))

/-- A confirmed halt that ends the last request of a channel (R358). -/
theorem finishChannel_last : ∃ u, finishChannel c st (hooksAt m) s = .ok ((), u) ∧ 
    s.ChannelEnded u c n (.cb (.transferComplete q.cb q.ctx st q.done)) := by
  obtain ⟨u, hu, ended⟩ := completeRequest_channel ha hq hr st m k hm hc hmsk hqu
  have hrun : endChannel c st (hooksAt m) s = completeRequest (.ch c) st (hooksAt m) s := by simp [endChannel, ha]
  cases hall : (s.chan c).cancelAll with
  | false => exact ⟨u, by simp [finishChannel, run_bind, hall, hrun, hu, forEach], ended⟩
  | true =>
    have hclear : s.modCh c (fun r => { r with x := { r.x with queue := [] } }) = s := s.modCh_self (by rw [← hqu])
    exact ⟨u, by simp [finishChannel, run_bind, hall, hclear, hrun, hu, hqu, forEach], ended⟩

end

end Sys2Proof.Machine

/-! PROOF. Programming a chunk of a channel in buffer-DMA mode (R247, R250). -/

namespace Sys2Proof.Machine

open Sys2Proof

/-! The words of a channel about to be programmed (R250). -/

theorem hcspltWord_low (r : ChRec) : hcspltWord r &&& ~~~0x8001FFFF#32 = 0 := by
  have hall : ∀ j : Fin 32, bitOf 0x8001FFFF#32 j = decide (j.val < 17 ∨ j.val = 31) := by decide
  refine word_ext fun j hj => ?_
  rw [bitOf_and, bitOf_not hj, hall ⟨j, hj⟩, hcspltWord]
  split
  · simp only [bitOf_or, bitOf_bit1, bitOf_bitIf, bitOf_fld]
    simp
    omega
  · simp

theorem State.stored_hcsplt {s : State} (low : s.reservedLow) (c : Fin 16) (r : ChRec) :
    s.stored (.HCSPLT c) (hcspltWord r) = hcspltWord r :=
  s.stored_of_low rfl rfl (low.mask (n := c) (by simp)) (hcspltWord_low r)

theorem State.stored_channelMask {s : State} (low : s.reservedLow) (c : Fin 16) (d : DmaMode) (r : ChRec) :
    s.stored (.HCINTMSK c) (channelMask d r) = channelMask d r :=
  s.stored_of_low rfl rfl (low.mask (n := c) (by simp)) (channelMask_low d r)

/-- The parity that a channel's HCCHAR takes (R374). -/
def State.oddParity (s : State) (t : HcParams) : Bool :=
  typePeriodic t.epType && decide ((field (s.raw .HFNUM) 0 16 + 1) % 2 = 1)

theorem hccharValue_run {s : State} {c : Fin 16} (k : s.Calm) (hm : s.hostMode = true) (h : Hooks) :
    ∃ u, hccharValue c h s = .ok (hccharWord (s.chan c).params (s.oddParity (s.chan c).params), u) ∧
      (u = s ∨ u = s.note (.rd (Reg.offset .HFNUM) (s.raw .HFNUM))) := by
  cases hp : typePeriodic (s.chan c).params.epType with
  | true => exact ⟨_, by rw [hccharValue_periodic k hm hp, State.oddParity, hp, Bool.true_and], .inr rfl⟩
  | false => exact ⟨s, by rw [hccharValue_plain hp, State.oddParity, hp, Bool.false_and], .inl rfl⟩

/-- The transfer size of a channel's chunk (R250): nothing in the complete-split of an OUT, whole packets on a receive. -/
def ChRec.chunkSize (r : ChRec) (len pkts : Nat) : Nat :=
  if r.outCsplit then 0 else if r.params.epDir = .IN then pkts * r.params.mps.toNat else len

/-- The size word of a channel's chunk (R250). -/
def ChRec.sizeWord (r : ChRec) (len pkts : Nat) : Word :=
  fld 0 19 (r.chunkSize len pkts) ||| fld 19 10 pkts ||| fld 29 2 (pidCode r.dataPid)

section
variable {s : State} {c : Fin 16} (k : s.Calm) (hm : s.hostMode = true) (hc : c.val < s.hw.caps.nCh) (low : s.reservedLow)
include k hm hc low

/-- The first part of the programming: the events, the masks and the split register (R250). -/
theorem programChannelHead_run (h : Hooks) : ∃ u, programChannelHead c h s = .ok ((), u) ∧ u.raw (.HCINT c) = 0 ∧
    u.raw (.HCINTMSK c) = channelMask s.core.dmaMode (s.chan c) ∧ u.raw .HAINTMSK = s.raw .HAINTMSK ||| bit1 c.val ∧
    u.raw (.HCSPLT c) = hcspltWord (s.chan c) ∧ Frame s u [.HCINT c, .HCINTMSK c, .HAINTMSK, .HCSPLT c] [] := by
  have hsum := s.stored_haintmsk c true
  rw [withBit_true _ (by omega)] at hsum
  refine ⟨_, by simp [programChannelHead, run_bind, k, hm, hc, withBit_true _ (show c.val < 32 by omega)]; rfl, ?_⟩
  simp [State.stored_channelMask low, hsum, State.stored_hcsplt low]

omit low in
/-- The second part of the programming: the size, the buffer address and the enable (R250). -/
theorem programChannelTail_run (hd : s.core.dmaMode = .bufferDma) (len pkts : Nat) (h : Hooks) : ∃ u, (do
      regWrite (.HCTSIZ c) ((s.chan c).sizeWord len pkts)
      doIf (decide (s.core.dmaMode = DmaMode.bufferDma)) (regWrite (.HCDMA c) (s.chunkAddr (.ch c)))
      let w ← hccharValue c
      regWrite (.HCCHAR c) (w ||| bit1 31)
      modCh c fun r => { r with requests := 1 }) h s = .ok ((), u) ∧ u.chan c = { s.chan c with requests := 1 } ∧
      u.raw (.HCTSIZ c) = s.stored (.HCTSIZ c) ((s.chan c).sizeWord len pkts) ∧ u.raw (.HCDMA c) = s.chunkAddr (.ch c) ∧
      u.raw (.HCCHAR c) = s.stored (.HCCHAR c) (hccharWord (s.chan c).params (s.oddParity (s.chan c).params) ||| bit1 31) ∧
      s.trace <:+ u.trace ∧ Frame s u [.HCTSIZ c, .HCDMA c, .HCCHAR c] [.ch c, .fifo] := by
  have hdma (w : Word) : s.stored (.HCDMA c) w = w := s.stored_keep rfl rfl fun j hj hrw => by
    rw [show rwMask s.hw _ = 0xFFFFFFFF#32 from rfl, bitOf_allOnes ⟨j, hj⟩] at hrw
    cases hrw
  have hv : ∃ v, (∀ p : M Unit, (do
      regWrite (.HCTSIZ c) ((s.chan c).sizeWord len pkts)
      doIf (decide (s.core.dmaMode = DmaMode.bufferDma)) (regWrite (.HCDMA c) (s.chunkAddr (.ch c)))
      p) h s = p h v) ∧ v.Calm ∧ v.raw (.HCTSIZ c) = s.stored (.HCTSIZ c) ((s.chan c).sizeWord len pkts) ∧
      v.raw (.HCDMA c) = s.chunkAddr (.ch c) ∧ s.trace <:+ v.trace ∧ Frame s v [.HCTSIZ c, .HCDMA c] [] :=
    ⟨_, fun p => by simp [run_bind, k, hm, hc, hd]; rfl, by simp [k, hdma, List.suffix_cons_iff]⟩
  obtain ⟨v, hv, kv, hsiz, hadr, htr, hf⟩ := hv
  have hmv : v.hostMode = true := (hf.hostMode_eq (by simp)).trans hm
  have hcv : v.chan c = s.chan c := hf.ch c (by simp) (by simp)
  have hchar : v.raw (.HCCHAR c) = s.raw (.HCCHAR c) := hf.raw_eq (by simp) (by simp)
  have hfnum : v.raw .HFNUM = s.raw .HFNUM := hf.raw_eq (by simp) (by simp)
  have hodd (t : HcParams) : v.oddParity t = s.oddParity t := by rw [State.oddParity, State.oddParity, hfnum]
  obtain ⟨w, hw, hws⟩ := hccharValue_run (c := c) kv hmv h
  rw [hcv, hodd] at hw
  have hcc : c.val < v.hw.caps.nCh := hf.hw ▸ hc
  rcases hws with rfl | rfl
  all_goals
    refine ⟨_, by simp [hv, run_bind, hw, kv, hmv, hcc]; rfl, ?_⟩
    simp [hcv, hsiz, hadr, State.stored_congr hf.hw hchar]
    exact ⟨htr.trans (by simp [List.suffix_cons_iff]), hf.mono (by simp) (by simp)⟩

/-- A chunk is programmed on a channel in buffer-DMA mode (R250). -/
theorem programChannelDirect_run (hd : s.core.dmaMode = .bufferDma) (len pkts : Nat) (h : Hooks) :
    ∃ u, programChannelDirect c len pkts h s = .ok ((), u) ∧ u.chan c = { s.chan c with requests := 1 } ∧
      u.raw (.HCINT c) = 0 ∧ u.raw (.HCINTMSK c) = channelMask s.core.dmaMode (s.chan c) ∧
      u.raw .HAINTMSK = s.raw .HAINTMSK ||| bit1 c.val ∧ u.raw (.HCSPLT c) = hcspltWord (s.chan c) ∧
      u.raw (.HCTSIZ c) = s.stored (.HCTSIZ c) ((s.chan c).sizeWord len pkts) ∧ u.raw (.HCDMA c) = s.chunkAddr (.ch c) ∧
      u.raw (.HCCHAR c) = s.stored (.HCCHAR c) (hccharWord (s.chan c).params (s.oddParity (s.chan c).params) ||| bit1 31) ∧
      Frame s u [.HCINT c, .HCINTMSK c, .HAINTMSK, .HCSPLT c, .HCTSIZ c, .HCDMA c, .HCCHAR c] [.ch c, .fifo] := by
  obtain ⟨v, hv, hint, hmsk, hsum, hspl, hf⟩ := programChannelHead_run k hm hc low h
  have hcv : v.chan c = s.chan c := hf.ch c (by simp) (by simp)
  have hcore : v.core = s.core := hf.core (by simp) (by simp)
  have hadr : v.chunkAddr (.ch c) = s.chunkAddr (.ch c) := by
    have hreq : v.reqOf (.ch c) = s.reqOf (.ch c) := State.reqOf_congr (by simp [hcv]) fun i _ => by
      cases i <;> simp [State.reqAt, hf.pool (by simp) (by simp), hf.ep0 (by simp) (by simp)]
    rw [State.chunkAddr, State.chunkAddr, hreq]
  obtain ⟨u, hu, huc, hsiz, hdma, hchar, -, hfu⟩ := programChannelTail_run (s := v) (c := c) (hf.calm k (by simp) (by simp))
    ((hf.hostMode_eq (by simp)).trans hm) (hf.hw ▸ hc) (by rw [hcore, hd]) len pkts h
  have hraw {r : Reg} (h1 : r ∉ [.HCTSIZ c, .HCDMA c, .HCCHAR c]) (h0 : r ≠ .DIEPTXF 0) : u.raw r = v.raw r :=
    hfu.raw_eq (by simp; simp at h1; tauto) h0
  refine ⟨u, ?_, by rw [huc, hcv], by rw [hraw (by simp) (by simp), hint], by rw [hraw (by simp) (by simp), hmsk],
    by rw [hraw (by simp) (by simp), hsum], by rw [hraw (by simp) (by simp), hspl], ?_, ?_, ?_, ?_⟩
  · have hdv : v.core.dmaMode = .bufferDma := hcore ▸ hd
    rw [programChannelDirect, run_bind_ok hv]
    cases ho : (v.chan c).outCsplit <;> simpa [run_bind, State.isSlave, hdv, ChRec.sizeWord, ChRec.chunkSize, ho] using hu
  · rw [hsiz, hcv, State.stored_congr hf.hw (hf.raw_eq (by simp) (by simp))]
  · rw [hdma, hadr]
  · rw [hchar, hcv, State.stored_congr hf.hw (hf.raw_eq (by simp) (by simp)), State.oddParity, State.oddParity, hf.raw_eq (r := .HFNUM) (by simp) (by simp)]
  · exact (hf.mono (by simp) (by simp)).trans (hfu.mono (by simp) (by simp))

end

/-! The chunk of a channel (R247). -/

section
variable {s : State} {c : Fin 16} {q : Req}

theorem nextChunk_channel (hd : s.core.dmaMode = .bufferDma) (hcaps : s.core.caps = s.hw.caps) (hq : s.reqOf (.ch c) = q) :
    s.nextChunk (.ch c) = s.channelChunk (s.chan c) q := by
  simp only [State.nextChunk, State.chunkLimit, State.channelChunk, hq, State.isDesc, hd, hcaps, State.packetsPer, State.isoForm,
    State.xferLimits, State.typeOf, State.multiOf, State.splits, State.mpsOf_ch, State.xfer_ch]
  rfl

/-- The chunk of a channel fits its size register (R13, R42). -/
theorem channelChunk_fits (hfits : s.hw.caps.fits) {r : ChRec} (hwf : r.params.wf = true) (q : Req) :
    r.chunkSize (s.channelChunk r q) (pktCount (s.channelChunk r q) r.params.mps.toNat) < 2 ^ s.hw.caps.xw ∧
      pktCount (s.channelChunk r q) r.params.mps.toNat < 2 ^ s.hw.caps.pw := by
  obtain ⟨-, -, -, -, hx, -, hp, -, -⟩ := hfits
  simp only [HcParams.wf, Bool.and_eq_true, decide_eq_true_eq] at hwf
  obtain ⟨⟨⟨hm1, hm2⟩, -⟩, -⟩ := hwf
  have hx2 : 2 ^ 11 ≤ 2 ^ s.hw.caps.xw := Nat.pow_le_pow_right (by decide) hx
  have hp2 : 2 ^ 4 ≤ 2 ^ s.hw.caps.pw := Nat.pow_le_pow_right (by decide) hp
  have hle : s.channelChunk r q ≤ min (2 ^ s.hw.caps.xw - 1) ((2 ^ s.hw.caps.pw - 1) * r.params.mps.toNat) / r.params.mps.toNat *
      r.params.mps.toNat := by
    refine (min_le_right _ _).trans ?_
    have hclamp (a b : Nat) (p : Prop) [Decidable p] : (if p then min a b else a) ≤ a := by
      split
      · exact min_le_left _ _
      · exact le_rfl
    exact (hclamp _ _ _).trans (hclamp _ _ _)
  obtain ⟨h1, h2, h3⟩ := chunk_fits hm1 (by omega) (by omega) hle
  refine ⟨?_, by omega⟩
  unfold ChRec.chunkSize
  split
  · omega
  · split <;> omega

end

/-! What a programmed channel shows (R250). -/

/-- The bits below 30 of HCCHAR but bit 16 are taken as written (R39). -/
theorem State.field_stored_hcchar (s : State) (c : Fin 16) (t : HcParams) (odd : Bool) {lo len : Nat} (hlen : lo + len ≤ 30)
    (h16 : lo + len ≤ 16 ∨ 16 < lo) :
    field (s.stored (.HCCHAR c) (hccharWord t odd ||| bit1 31)) lo len = field (hccharWord t odd) lo len := by
  refine field_congr fun j hj => ?_
  rw [s.bitOf_stored_hcchar_rw c _ (by omega) (by omega), bitOf_or, bitOf_bit1, decide_eq_false (by omega), Bool.or_false]

theorem State.bitOf_stored_hccharWord (s : State) (c : Fin 16) (t : HcParams) (odd : Bool) {k : Nat} (hk : k < 30) (h16 : k ≠ 16) :
    bitOf (s.stored (.HCCHAR c) (hccharWord t odd ||| bit1 31)) k = bitOf (hccharWord t odd) k := by
  rw [s.bitOf_stored_hcchar_rw c _ hk h16, bitOf_or, bitOf_bit1, decide_eq_false (by omega), Bool.or_false]

section
variable {s : State} {c : Fin 16} (low : s.reservedLow)
include low

theorem State.field_channelSize (hx : s.hw.caps.xw ≤ 19) (hp : s.hw.caps.pw ≤ 10) {r : ChRec} {len pkts : Nat}
    (h1 : r.chunkSize len pkts < 2 ^ s.hw.caps.xw) (h2 : pkts < 2 ^ s.hw.caps.pw) :
    field (s.stored (.HCTSIZ c) (r.sizeWord len pkts)) 0 19 = r.chunkSize len pkts ∧
      field (s.stored (.HCTSIZ c) (r.sizeWord len pkts)) 19 10 = pkts ∧
      field (s.stored (.HCTSIZ c) (r.sizeWord len pkts)) 29 2 = pidCode r.dataPid := by
  have h19 : 2 ^ s.hw.caps.xw ≤ 2 ^ 19 := Nat.pow_le_pow_right (by decide) hx
  have h10 : 2 ^ s.hw.caps.pw ≤ 2 ^ 10 := Nat.pow_le_pow_right (by decide) hp
  obtain ⟨hsize, hcount, hpid⟩ := field_sizeWord (r.chunkSize len pkts) pkts (pidCode r.dataPid)
  have hlow := low.size (n := c) (r := .HCTSIZ c) (by simp)
  have hrw : rwMask s.hw (.HCTSIZ c) = sizeMask s.hw.caps.xw s.hw.caps.pw ||| 0x60000000#32 := rfl
  have hmask : ∀ j < 29, bitOf (rwMask s.hw (.HCTSIZ c)) j = bitOf (sizeMask s.hw.caps.xw s.hw.caps.pw) j := by
    have hall : ∀ j : Fin 29, bitOf 0x60000000#32 j = false := by decide
    intro j hj
    rw [hrw, bitOf_or, hall ⟨j, hj⟩, Bool.or_false]
  rw [Nat.mod_eq_of_lt (lt_of_lt_of_le h1 h19)] at hsize
  rw [Nat.mod_eq_of_lt (lt_of_lt_of_le h2 h10)] at hcount
  have hpid4 : pidCode r.dataPid % 2 ^ 2 = pidCode r.dataPid := by cases r.dataPid <;> rfl
  rw [hpid4] at hpid
  have hw : fld 0 19 (r.chunkSize len pkts) ||| fld 19 10 pkts ||| fld 29 2 (pidCode r.dataPid) = r.sizeWord len pkts := rfl
  rw [hw] at hsize hcount hpid
  generalize r.sizeWord len pkts = v at hsize hcount hpid
  refine ⟨?_, ?_, ?_⟩
  · rw [State.field_stored_size rfl rfl hlow hmask (hsize ▸ h1), hsize]
  · rw [State.field_stored_count rfl rfl hlow hmask (hcount ▸ h2), hcount]
  · have hall : ∀ j : Fin 2, bitOf 0x60000000#32 (29 + j) = true := by decide
    rw [s.field_stored_rw rfl rfl (by decide) (fun j hj => by rw [hrw, bitOf_or, hall ⟨j, hj⟩, Bool.or_true]), hpid]

variable (k : s.Calm) (hm : s.hostMode = true) (hc : c.val < s.hw.caps.nCh) (hd : s.core.dmaMode = .bufferDma)
  (hfits : s.hw.caps.fits) (hcaps : s.core.caps = s.hw.caps) (hwf : (s.chan c).params.wf = true) {q : Req}
  (hq : s.reqOf (.ch c) = q)
include k hm hc hd hfits hcaps hwf hq

/-- The next chunk of a channel's request is programmed (R247, R250). -/
theorem programChunk_channel (h : Hooks) : ∃ u, programChunk (.ch c) h s = .ok ((), u) ∧
    u.chan c = { s.chan c with requests := 1, x := { (s.chan c).x with chunkLen := s.channelChunk (s.chan c) q, chunkDone := 0 } } ∧
    s.Programmed u c (s.chan c) q (s.channelChunk (s.chan c) q) ∧
    Frame s u [.HCINT c, .HCINTMSK c, .HAINTMSK, .HCSPLT c, .HCTSIZ c, .HCDMA c, .HCCHAR c] [.ch c, .fifo] := by
  have hlen := nextChunk_channel hd hcaps hq
  obtain ⟨hsize, hcount⟩ := channelChunk_fits hfits hwf q
  generalize s.channelChunk (s.chan c) q = len at hlen hsize hcount ⊢
  set w := s.modCh c fun r => { r with x := { r.x with chunkLen := len, chunkDone := 0 } } with hw
  have hwf' : Frame s w [] [.ch c] := by simp [hw]
  have hwc : w.chan c = { s.chan c with x := { (s.chan c).x with chunkLen := len, chunkDone := 0 } } := by simp [hw]
  have hwq : w.reqOf (.ch c) = q := by
    rw [State.reqOf_congr (s := s) (by simp [hwc]) (by simp [hw]), hq]
  obtain ⟨u, hu, huc, hint, hmsk, hsum, hspl, hsiz, hdma, hchar, hf⟩ := programChannelDirect_run (s := w) (c := c)
    (hwf'.calm k (by simp) (by simp)) ((hwf'.hostMode_eq (by simp)).trans hm) hc low (by simpa [hw] using hd) len
    (pktCount len (s.chan c).params.mps.toNat) h
  have hraw (r : Reg) : w.raw r = s.raw r := hwf'.raw_all r
  obtain ⟨-, -, -, -, -, hx, -, hp, -⟩ := hfits
  have hwp : (w.chan c).params = (s.chan c).params := by rw [hwc]
  have hodd : w.oddParity (s.chan c).params = s.oddParity (s.chan c).params := by rw [State.oddParity, State.oddParity, hraw]
  have hst (r : Reg) (v : Word) : w.stored r v = s.stored r v := State.stored_congr rfl (hraw r) v
  have hword : (w.chan c).sizeWord len (pktCount len (s.chan c).params.mps.toNat) =
      (s.chan c).sizeWord len (pktCount len (s.chan c).params.mps.toNat) := by rw [hwc]; rfl
  obtain ⟨hs1, hs2, hs3⟩ := State.field_channelSize low (c := c) hx hp hsize hcount
  rw [hst, hword] at hsiz
  rw [hst, hwp, hodd] at hchar
  rw [hwc] at hmsk hspl
  refine ⟨u, ?_, by rw [huc, hwc], ⟨hint, ?_, by rw [hsum, hraw], hspl, ?_, ?_, ?_, ?_, ?_, ⟨?_, ?_, ?_, ?_⟩, ?_, ⟨?_, ?_⟩, ?_⟩,
    (hwf'.mono (by simp) (by simp)).trans (hf.mono (by simp) (by simp))⟩
  · simpa [programChunk, run_bind, State.isDesc, hd, hlen] using hu
  · simpa [channelMask, hw, hd, show bitIf false 11 = 0#32 from rfl] using hmsk
  · rw [hsiz, hs1]
    simp only [ChRec.chunkSize, ChRec.outCsplit, Bool.and_eq_true, decide_eq_true_eq, and_assoc]
    rfl
  · rw [hsiz, hs2]
    rfl
  · rw [hsiz, hs3]
    rfl
  · rw [hdma, State.chunkAddr, hwq]
  · rw [hchar, State.bitOf_stored_chena]
    simp [bitOf_bit1]
  · rw [hchar, s.field_stored_hcchar c _ _ (by decide) (by decide), field_hccharWord_mps]
  · rw [hchar, s.field_stored_hcchar c _ _ (by decide) (by decide), field_hccharWord_num]
  · rw [hchar, s.bitOf_stored_hccharWord c _ _ (by decide) (by decide), bitOf_hccharWord_dir]
  · rw [hchar, s.bitOf_stored_hccharWord c _ _ (by decide) (by decide), bitOf_hccharWord_speed]
  · rw [hchar, s.field_stored_hcchar c _ _ (by decide) (by decide), field_hccharWord_type]
    rfl
  · rw [hchar, s.field_stored_hcchar c _ _ (by decide) (by decide), field_hccharWord_multi]
  · rw [hchar, s.field_stored_hcchar c _ _ (by decide) (by decide), field_hccharWord_addr]
  · rw [hchar, s.bitOf_stored_hccharWord c _ _ (by decide) (by decide), bitOf_hccharWord_odd]
    rfl

end

/-- A programmed channel is one whatever else the states and the record hold. -/
theorem State.Programmed.congr {s s' t t' : State} {c : Fin 16} {r r' : ChRec} {q : Req} {len : Nat} (p : s.Programmed t c r q len)
    (hsum : s'.raw .HAINTMSK = s.raw .HAINTMSK) (hnum : s'.raw .HFNUM = s.raw .HFNUM) (ht : ∀ x, t'.raw x = t.raw x)
    (hp : r'.params = r.params) (hc : r'.completeSplit = r.completeSplit) (hx : r'.xactPos = r.xactPos)
    (he : r'.errorState = r.errorState) (hd : r'.dataPid = r.dataPid) : s'.Programmed t' c r' q len := by
  obtain ⟨h1, h2, h3, h4, h5, h6, h7, h8, h9, h10, h11, h12, h13⟩ := p
  constructor <;> simp only [hsum, hnum, ht, hp, hc, hx, he, hd] <;> assumption

theorem State.channelChunk_congr {s s' : State} {r r' : ChRec} (hw : s'.hw = s.hw) (hp : r'.params = r.params)
    (hz : r'.x.zlpPhase = r.x.zlpPhase) (q : Req) : s'.channelChunk r' q = s.channelChunk r q := by
  simp only [State.channelChunk, hw, hp, hz]

/-- Nothing that a run sets is reserved in HCINT. -/
theorem State.reservedLow.of_events {s t : State} {c : Fin 16} {ps : List Part} (low : s.reservedLow) (f : Frame s t [.HCINT c] ps) :
    t.reservedLow := by
  rw [State.reservedLow_iff] at low ⊢
  intro r
  by_cases h : .HCINT c = r
  · subst h
    simp [Reg.lowBits]
  · by_cases h0 : r = .DIEPTXF 0
    · subst h0
      simp [Reg.lowBits]
    · rw [f.raw_eq (by simpa using Ne.symm h) h0, f.hw]
      exact low r

/-- The next chunk is programmed after an event of the channel has been taken (R247, R250). -/
theorem programChunk_after {s w : State} {c : Fin 16} {q : Req} {ps : List Part} (f : Frame s w [.HCINT c] ps)
    (hps : .core ∉ ps ∧ .records ∉ ps) (k : w.Calm) (low : s.reservedLow) (hm : s.hostMode = true) (hc : c.val < s.hw.caps.nCh)
    (hd : s.core.dmaMode = .bufferDma) (hfits : s.hw.caps.fits) (hcaps : s.core.caps = s.hw.caps)
    (hwf : (w.chan c).params.wf = true) (hq : w.reqOf (.ch c) = q) (h : Hooks) :
    ∃ u, programChunk (.ch c) h w = .ok ((), u) ∧
      u.chan c = { w.chan c with requests := 1, x := { (w.chan c).x with chunkLen := s.channelChunk (w.chan c) q, chunkDone := 0 } } ∧
      s.Programmed u c (w.chan c) q (s.channelChunk (w.chan c) q) ∧
      Frame w u [.HCINT c, .HCINTMSK c, .HAINTMSK, .HCSPLT c, .HCTSIZ c, .HCDMA c, .HCCHAR c] [.ch c, .fifo] := by
  have hcore : w.core = s.core := f.core hps.1 hps.2
  obtain ⟨u, hu, hch, hprog, hf⟩ := programChunk_channel (low.of_events f) k ((f.hostMode_eq (by simp)).trans hm) (f.hw ▸ hc)
    (hcore ▸ hd) (f.hw ▸ hfits) (by rw [hcore, f.hw, hcaps]) hwf hq h
  rw [State.channelChunk_congr (s := s) f.hw rfl rfl] at hch hprog
  exact ⟨u, hu, hch, hprog.congr (f.raw_eq (by simp) (by simp)).symm (f.raw_eq (by simp) (by simp)).symm (fun _ => rfl) rfl rfl rfl rfl rfl, hf⟩

end Sys2Proof.Machine

/-! PROOF. CHHLTD: a confirmed halt (R358, R359). -/

namespace Sys2Proof.Machine

open Sys2Proof

/-- The reasons of a halt that ends the transfer, each with its status (R352, R358). -/
def endingReasons : List (HaltReason × Status) :=
  [(.stall, .stalled), (.ahbErr, .ahbError), (.babble, .babble), (.descErr, .descriptorError), (.cancelled, .cancelled)]

theorem State.modCh_modCh (s : State) (c : Fin 16) (f g : ChRec → ChRec) : (s.modCh c f).modCh c g = s.modCh c fun r => g (f r) := by
  simp [State.modCh]

theorem channelHalted_ends {c : Fin 16} {reason : HaltReason} {st : Status} (hr : (reason, st) ∈ endingReasons) :
    channelHalted c reason = finishChannel c st := by
  simp only [endingReasons, List.mem_cons, Prod.mk.injEq, List.not_mem_nil, or_false] at hr
  rcases hr with ⟨rfl, rfl⟩ | ⟨rfl, rfl⟩ | ⟨rfl, rfl⟩ | ⟨rfl, rfl⟩ | ⟨rfl, rfl⟩ <;> rfl

theorem resumeOr_ends {c : Fin 16} {reason : HaltReason} {st : Status} (hr : (reason, st) ∈ endingReasons) (next : M Unit) :
    resumeOr c reason next = finishChannel c st := by
  have hno : haltRetries reason = false := by
    simp only [endingReasons, List.mem_cons, Prod.mk.injEq, List.not_mem_nil, or_false] at hr
    rcases hr with ⟨rfl, -⟩ | ⟨rfl, -⟩ | ⟨rfl, -⟩ | ⟨rfl, -⟩ | ⟨rfl, -⟩ <;> rfl
  rw [resumeOr, hno, channelHalted_ends hr]
  rfl

theorem resumeOr_retries {s : State} {c : Fin 16} {reason : HaltReason} (hr : reason = .nak ∨ reason = .ack ∨ reason = .xactErr)
    (next : M Unit) (h : Hooks) : resumeOr c reason next h s = next h (s.modCh c ChRec.unhalted) := by
  rcases hr with rfl | rfl | rfl <;> rfl

theorem channelHalted_limit {s : State} {c : Fin 16} (hl : s.hw.errLimit ≤ (s.chan c).errorCount) (h : Hooks) :
    channelHalted c .xactErr h s = finishChannel c .xactError h s := by
  simp [channelHalted, hl]

/-- A channel that is tried again, its record prepared (R358, R372). -/
def ChRec.retried (r : ChRec) (reason : HaltReason) : ChRec :=
  { r.unhalted with
    completeSplit := (match reason with | .ack => true | .xactErr => false | _ => r.completeSplit)
    x := { r.x with chunkDone := 0 } }

theorem channelHalted_retries {s : State} {c : Fin 16} {reason : HaltReason}
    (hr : reason = .nak ∨ reason = .ack ∨ (reason = .xactErr ∧ (s.chan c).errorCount < s.hw.errLimit)) (h : Hooks) :
    channelHalted c reason h s = programChunk (.ch c) h (s.modCh c fun r => r.retried reason) := by
  rcases hr with rfl | rfl | ⟨rfl, hl⟩
  · simp [channelHalted, channelRearm, run_bind]
    rfl
  · simp [channelHalted, channelRearm, run_bind, State.modCh_modCh]
    rfl
  · simp [channelHalted, channelRearm, run_bind, Nat.not_le.mpr hl, State.modCh_modCh]
    rfl

/-- Nothing is queued on a channel whose request has ended already: it is released (R359). -/
theorem channelSettled_last {s : State} {c : Fin 16} (hqu : (s.chan c).x.queue = []) (h : Hooks) :
    channelSettled c h s = channelRelease c h s := by
  have hclear : s.modCh c (fun r => { r with x := { r.x with queue := [] } }) = s := s.modCh_self (by rw [← hqu])
  cases hall : (s.chan c).cancelAll <;> simp [channelSettled, channelComplete, run_bind, hall, hclear, hqu, forEach]

/-! The event. -/

/-- What CHHLTD of a channel with this record confirms (R358). -/
def haltTold (c : Fin 16) (r : ChRec) : M Unit :=
  match r.haltReason with
  | none => pure ()
  | some reason =>
    doIf (decide (r.haltStatus = .haltPending))
      (if r.allocated then confirmHalt c reason else modCh c fun r => { r with haltStatus := .halted reason })

/-- The record of a channel whose halt is confirmed (R358). -/
def ChRec.confirmed (reason : HaltReason) (r : ChRec) : ChRec := { r with haltStatus := .halted reason, ended := none }

/-- What a confirmed halt does, by what a completion under it has left to do (R358, R550). -/
def afterHalt (c : Fin 16) (reason : HaltReason) : Option Ended → M Unit
  | none => channelHalted c reason
  | some .request => channelSettled c
  | some (.chunk short) => resumeOr c reason (advance (.ch c) short)
  | some .chain => resumeOr c reason (isoArmCurrent (.ch c))

theorem confirmHalt_run (s : State) (c : Fin 16) (reason : HaltReason) (h : Hooks) : confirmHalt c reason h s =
    afterHalt c reason (s.chan c).ended h (s.modCh c (ChRec.confirmed reason)) := by
  have hmod (h : Hooks) : modCh c (fun r => { r with haltStatus := HaltStatus.halted reason, ended := none }) h s =
      .ok ((), s.modCh c (ChRec.confirmed reason)) := rfl
  simp only [confirmHalt, run_ask_bind]
  rw [run_bind_ok (hmod h)]
  cases (s.chan c).ended with
  | none => rfl
  | some e => cases e <;> rfl

theorem confirmHalt_ends {s : State} {c : Fin 16} {reason : HaltReason} {st : Status} (hen : (s.chan c).ended ≠ some .request)
    (hst : (reason, st) ∈ endingReasons ∨
      (reason = .xactErr ∧ st = .xactError ∧ s.hw.errLimit ≤ (s.chan c).errorCount ∧ (s.chan c).ended = none)) (h : Hooks) :
    confirmHalt c reason h s = finishChannel c st h (s.modCh c (ChRec.confirmed reason)) := by
  rw [confirmHalt_run]
  rcases hst with hst | ⟨rfl, rfl, hl, hen'⟩
  · cases he : (s.chan c).ended with
    | none => simp only [afterHalt, channelHalted_ends hst]
    | some e => cases e with
      | request => exact absurd he hen
      | chunk short => simp only [afterHalt, resumeOr_ends hst]
      | chain => simp only [afterHalt, resumeOr_ends hst]
  · rw [hen']
    exact channelHalted_limit (by simpa [ChRec.confirmed] using hl) h

theorem haltTold_confirms {c : Fin 16} {r : ChRec} {reason : HaltReason} (hr : r.haltReason = some reason)
    (hs : r.haltStatus = .haltPending) (hal : r.allocated = true) : haltTold c r = confirmHalt c reason := by
  simp only [haltTold, hr, hs, hal, decide_true, if_true]
  rfl

section
variable {s : State} {c : Fin 16} (a : s.Alone) (hm : s.hostMode = true) (hc : c.val < s.hw.caps.nCh)
include a hm hc

/-- CHHLTD is cleared, and what it confirms follows (R358). -/
theorem exec_chhltd {Q : State → Prop}
    (hQ : ∀ v : State, v.Calm → v.chan c = s.chan c → v.raw (.HCINT c) = s.raw (.HCINT c) &&& ~~~(bit1 1) →
      Frame s v [.HCINT c] [.context] → ∃ u, haltTold c (s.chan c) (hooksAt s.level) v = .ok ((), u) ∧ Q (u.inCtx s.ctx)) :
    ∃ t, exec (.chChhltd c) s = .next t ∧ Q t := by
  have hf : Frame s ((s.inCtx .isr).cleared (.HCINT c) 1) [.HCINT c] [.context] := by simp [State.cleared]
  have hv : ((s.inCtx .isr).cleared (.HCINT c) 1).chan c = s.chan c := hf.ch c (by simp) (by simp)
  have hk : bitOf (w1cMask (.HCINT c)) 1 = true := bitOf_allOnes 1
  obtain ⟨u, hu, hq⟩ := hQ _ (by simp [State.cleared, a.calm]) hv (by rw [State.raw_cleared _ hk, State.raw_of_inCtx]) hf
  refine runEvt_cleared a (by simp [hm, hc]) ⟨u, ?_, hq⟩
  rw [run_ask_bind, hv]
  exact hu

end

/-- Settles O55: the event is cleared, and the record of the channel says what its confirmed halt does. -/
theorem confirmedHaltEndsTheTransfer : Obligations.ConfirmedHaltEndsTheTransfer := by
  intro s c a low hm hc
  refine ⟨fun hno => ?_, fun reason hal hs hr => ?_, fun h q reason st hal hs hr ha hqu hq hen hst => ?_,
    fun reason hal hs hr hen hqu => ?_, fun h q reason hal hs hr ha hq hd hfits hcaps hwf => ⟨fun hen hst => ?_, fun hen hst hz hl => ?_⟩⟩
  · refine exec_chhltd a hm hc fun v k hch hint hf => ⟨v, ?_, by simpa using hint, hf.event_trans (.refl _ _ _)⟩
    cases hr : (s.chan c).haltReason with
    | none => simp [haltTold, hr]
    | some reason =>
      have hs : (s.chan c).haltStatus ≠ .haltPending := hno.resolve_right (by simp [hr])
      simp [haltTold, hr, hs]
  · refine exec_chhltd a hm hc fun v k hch hint hf => ⟨_, by simp [haltTold, hr, hs, hal]; rfl, by simpa using hint, by simp [hch],
      Frame.event_trans (hf.mono (by simp) (by simp)) (by simp)⟩
  · refine exec_chhltd a hm hc fun v k hch hint hf => ?_
    have hpool : v.pool = s.pool := hf.pool (by simp) (by simp)
    have hrun : haltTold c (s.chan c) (hooksAt s.level) v = finishChannel c st (hooksAt s.level) (v.modCh c (ChRec.confirmed reason)) := by
      rw [haltTold_confirms hr hs hal]
      exact confirmHalt_ends (by rwa [hch]) (by rwa [hch, hf.hw]) _
    obtain ⟨u, hu, e⟩ := finishChannel_last (s := v.modCh c (ChRec.confirmed reason)) (c := c) (n := h) (q := q)
      (by simpa [hch, ChRec.confirmed] using ha) (by simpa [hpool] using hq) (by simpa using hf.inputs.2.2.1.trans a.replies) st
      s.level (by simpa using k) (by simpa using (hf.hostMode_eq (by simp)).trans hm) (by simpa [hf.hw] using hc)
      (by rw [State.raw_of_modCh, hf.raw_eq (by simp) (by simp)]; exact low.mask (n := c) (by simp)) (by simpa [hch, ChRec.confirmed] using hqu)
    have hsum : v.raw .HAINTMSK = s.raw .HAINTMSK := hf.raw_eq (by simp) (by simp)
    have hfe : Frame v u [.HCINT c, .HCINTMSK c, .HAINTMSK] [.ch c, .pool] := Frame.trans (t := v.modCh c (ChRec.confirmed reason)) (by simp) e.frame
    refine ⟨u, hrun.trans hu, by simpa [hpool] using e.pool, by simp [e.chan], ?_, by simp [e.chan, ChRec.detached], by simpa using e.last,
      e.events, e.mask, by simpa [hsum] using e.summary, (hf.mono (by simp) (by simp)).event_trans hfe⟩
    simp [e.chan, ChRec.detached, ChRec.confirmed]
  · refine exec_chhltd a hm hc fun v k hch hint hf => ?_
    have hfw : Frame v (v.modCh c (ChRec.confirmed reason)) [] [.ch c] := by simp
    obtain ⟨u, hu, huc, rel⟩ := channelRelease_run (s := v.modCh c (ChRec.confirmed reason)) (c := c) (by simpa using k)
      (by simpa using (hf.hostMode_eq (by simp)).trans hm) (by simpa [hf.hw] using hc)
      (by rw [State.raw_of_modCh, hf.raw_eq (by simp) (by simp)]; exact low.mask (n := c) (by simp)) (hooksAt s.level)
    have hsum : v.raw .HAINTMSK = s.raw .HAINTMSK := hf.raw_eq (by simp) (by simp)
    have hwc : (v.modCh c (ChRec.confirmed reason)).chan c = (s.chan c).confirmed reason := by simp [hch]
    refine ⟨u, ?_, ?_, rel.events, rel.mask, by simpa [hsum] using rel.summary,
      (hf.mono (by simp) (by simp)).event_trans ((hfw.mono (by simp) (by simp)).trans rel.frame)⟩
    · rw [haltTold_confirms hr hs hal, confirmHalt_run, hch, hen, afterHalt, channelSettled_last (by rw [hwc]; exact hqu), hu]
    · simp [huc, hwc, ChRec.confirmed]
  · refine exec_chhltd a hm hc fun v k hch hint hf => ?_
    have hpool : v.pool = s.pool := hf.pool (by simp) (by simp)
    set w := v.modCh c (fun r => (r.confirmed reason).retried reason) with hwdef
    have hw : w.chan c = ((s.chan c).confirmed reason).retried reason := by simp [hwdef, hch]
    have hfw : Frame s w [.HCINT c] [.context, .ch c] := by simpa [hwdef] using hf.mono (by simp) (by simp)
    have hwq : w.reqOf (.ch c) = q := State.reqOf_pool (x := .ch c) (by rw [State.xfer_ch, hw]; exact ha) (by simpa [hwdef, hpool] using hq)
    obtain ⟨u, hu, huc, hprog, hfu⟩ := programChunk_after hfw (by simp) (by simpa [hwdef] using k) low hm hc hd hfits hcaps
      (by rw [hw]; exact hwf) hwq (hooksAt s.level)
    rw [hw] at huc hprog
    refine ⟨u, ?_, hprog.congr rfl rfl (fun _ => rfl) rfl rfl rfl rfl rfl, ?_, ?_, ?_⟩
    · rw [haltTold_confirms hr hs hal, confirmHalt_run, hch, hen, afterHalt, channelHalted_retries (by simpa [hch, ChRec.confirmed, hf.hw] using hst), State.modCh_modCh]
      exact hu
    · have hrec : (s.chan c).confirmed reason = { s.chan c with haltStatus := .halted reason } := by simp [ChRec.confirmed, hen]
      rw [State.chan_of_inCtx, huc, hrec]
      rfl
    · simp [hfu.pool (by simp) (by simp), hwdef, hpool]
    · exact (hfw.mono (by simp) (by simp)).event_trans (hfu.mono (by simp) (by simp))
  · refine exec_chhltd a hm hc fun v k hch hint hf => ?_
    have hpool : v.pool = s.pool := hf.pool (by simp) (by simp)
    set w := v.modCh c (fun r => (r.confirmed reason).unhalted) with hwdef
    have hw : w.chan c = ((s.chan c).confirmed reason).unhalted := by simp [hwdef, hch]
    have hfw : Frame s w [.HCINT c] [.context, .ch c] := by simpa [hwdef] using hf.mono (by simp) (by simp)
    have hqw : w.pool[h]? = some (some q) := by simpa [hwdef, hpool] using hq
    have haw : (w.xfer (.ch c)).active = some (.pool h) := by rw [State.xfer_ch, hw]; exact ha
    obtain ⟨u, hu, huc, hprog, hfu⟩ := programChunk_after hfw (by simp) (by simpa [hwdef] using k) low hm hc hd hfits hcaps
      (by rw [hw]; exact hwf) (State.reqOf_pool haw hqw) (hooksAt s.level)
    rw [hw] at huc hprog
    have hadv := advanceWith_chunk haw (short := false) (completeRequest (.ch c) .ok) (hooksAt s.level)
      (by rw [State.xfer_ch, hw]; exact hz) rfl (by rwa [State.reqAt_pool hqw])
    refine ⟨u, ?_, hprog.congr rfl rfl (fun _ => rfl) rfl rfl rfl rfl rfl, ?_, ?_, ?_⟩
    · rw [haltTold_confirms hr hs hal, confirmHalt_run, hch, hen, afterHalt, resumeOr_retries hst, State.modCh_modCh]
      exact hadv.trans hu
    · rw [State.chan_of_inCtx, huc]
      rfl
    · simp [hfu.pool (by simp) (by simp), hwdef, hpool]
    · exact (hfw.mono (by simp) (by simp)).event_trans (hfu.mono (by simp) (by simp))

end Sys2Proof.Machine

/-! PROOF. XFERCOMPL of a channel (R362, R273). -/

namespace Sys2Proof.Machine

open Sys2Proof

/-! The end of a chunk. -/

/-- The PID that the hardware has left for the channel (R362). -/
def State.nextPidOf (s : State) (c : Fin 16) : Pid :=
  pidOfCode (decide ((s.chan c).params.epType = .control)) (field (s.raw (.HCTSIZ c)) 29 2)

/-- A channel's record with the PID taken over (R362). -/
def ChRec.tookPid (pid : Pid) (r : ChRec) : ChRec := { r with dataPid := pid, errorState := false, errorCount := 0 }

/-- From `s` to `t` the toggle `pid` has been remembered for a pipe (R362, R75). -/
def State.Toggled (s t : State) (p : HcParams) (pid : Pid) : Prop :=
  ∀ k, SMap.get false t.htog k =
    if k = pipeKey p ∧ (pid = .data0 ∨ pid = .data1) then decide (pid = .data1) else SMap.get false s.htog k

theorem State.Toggled.of_eq {s t u : State} {p : HcParams} {pid : Pid} (h : s.Toggled u p pid) (e : t.htog = u.htog) :
    s.Toggled t p pid := by
  rw [State.Toggled, e]
  exact h

section
variable {s : State} {c : Fin 16} (k : s.Calm) (hm : s.hostMode = true) (hc : c.val < s.hw.caps.nCh)
include k hm hc

theorem takePid_run (h : Hooks) : ∃ u, takePid c h s = .ok ((), u) ∧ u.chan c = (s.chan c).tookPid (s.nextPidOf c) ∧
    s.Toggled u (s.chan c).params (s.nextPidOf c) ∧ u.Calm ∧ Frame s u [] [.ch c, .htog] := by
  set v := (s.note (.rd (Reg.offset (.HCTSIZ c)) (s.raw (.HCTSIZ c)))).modCh c (ChRec.tookPid (s.nextPidOf c)) with hv
  have hvc : v.chan c = (s.chan c).tookPid (s.nextPidOf c) := by simp [hv]
  have hrun : takePid c h s = doIf (decide (s.nextPidOf c = Pid.data0) || decide (s.nextPidOf c = Pid.data1))
      (act fun t => t.withHtog (SMap.put false t.htog (pipeKey (s.chan c).params) (decide (s.nextPidOf c = Pid.data1)))) h v := by
    simp [takePid, run_bind, k, hm, hc]
    rfl
  rw [hrun]
  by_cases hp : s.nextPidOf c = .data0 ∨ s.nextPidOf c = .data1
  · refine ⟨v.withHtog (SMap.put false s.htog (pipeKey (s.chan c).params) (decide (s.nextPidOf c = .data1))), ?_, hvc, fun j => ?_,
      by simpa [hv] using k, by simp [hv]⟩
    · simp [hp]
      rfl
    · by_cases hj : j = pipeKey (s.chan c).params
      · simp [hj, hp]
      · simp [hj, SMap.get_put_ne hj]
  · refine ⟨v, by simp [hp], hvc, fun j => ?_, by simpa [hv] using k, by simp [hv]⟩
    simp [hp, hv]

/-- What the size register of a channel tells of its finished chunk (R273). -/
def State.channelResult (s : State) (c : Fin 16) : ChunkResult :=
  if (s.chan c).params.epDir = .OUT then ⟨(s.chan c).x.chunkLen - field (s.raw (.HCTSIZ c)) 0 19, false, false⟩
  else ⟨pktCount (s.chan c).x.chunkLen (s.chan c).params.mps.toNat * (s.chan c).params.mps.toNat - field (s.raw (.HCTSIZ c)) 0 19,
    decide (0 < field (s.raw (.HCTSIZ c)) 0 19), false⟩

theorem chunkResult_channel (hd : s.isDesc = false) (h : Hooks) :
    chunkResult (.ch c) h s = .ok (s.channelResult c, s.note (.rd (Reg.offset (.HCTSIZ c)) (s.raw (.HCTSIZ c)))) := by
  cases hdir : (s.chan c).params.epDir <;>
    simp [chunkResult, run_bind, hd, sizOf, k, hm, hc, State.transmits, State.channelResult, hdir]

end

/-! What follows the end of a chunk (R273). -/

theorem advanceChoice_finish {zlp short zf : Bool} {done length mps : Nat}
    (hm : ¬(zlp = false ∧ done < length ∧ short = false))
    (hp : ¬(zlp = false ∧ length ≤ done ∧ short = false ∧ zf = true ∧ 0 < length ∧ length % mps = 0)) :
    advanceChoice zlp short done length mps zf = .finish := by
  unfold advanceChoice
  cases hz : zlp with
  | true => rfl
  | false =>
    have hl (hs : short = false) : ¬done < length := fun hl => hm ⟨hz, hl, hs⟩
    rw [if_neg Bool.false_ne_true, if_neg fun h => hl h.2 h.1, if_neg fun ⟨hf, h0, hl', hs⟩ => hp ⟨hz, Nat.not_lt.mp (hl hs), hs, hf, h0, hl'⟩]

theorem advanceChoice_goes {zlp short zf : Bool} {done length mps : Nat}
    (h : (zlp = false ∧ done < length ∧ short = false) ∨
      (zlp = false ∧ length ≤ done ∧ short = false ∧ zf = true ∧ 0 < length ∧ length % mps = 0)) :
    advanceChoice zlp short done length mps zf ≠ .finish := by
  unfold advanceChoice
  rcases h with ⟨hz, hl, hs⟩ | ⟨hz, hl, hs, hf, h0, hp⟩
  · simp [hz, hl, hs]
  · simp [hz, hs, hf, h0, hp]
    split <;> simp

/-! The event. -/

section
variable {s : State} {c : Fin 16} {h : Nat} {q : Req} (k : s.Calm) (hm : s.hostMode = true) (hc : c.val < s.hw.caps.nCh)
  (hd : s.core.dmaMode = .bufferDma) (hsp : (s.chan c).params.doSplit = false) (ha : (s.chan c).x.active = some (.pool h))
  (hq : s.pool[h]? = some (some q))
include k hm hc hd hsp ha hq

/-- The bytes of the finished chunk are counted (R362). -/
theorem channelChunkDone_counts (hk : Hooks) : ∃ u, channelChunkDone c hk s = channelEnded c (s.channelResult c).short false hk u ∧
    u.pool = s.pool.set h (some (q.counted (if (s.chan c).x.zlpPhase then 0 else (s.channelResult c).moved))) ∧
    u.Calm ∧ Frame s u [] [.pool] := by
  have hres := chunkResult_channel k hm hc (by simp [State.isDesc, hd]) hk
  have herr : (s.channelResult c).err = false := by
    unfold State.channelResult
    split <;> rfl
  obtain ⟨u, hu, -, hpool, hf⟩ := countMoved_pool (s := s.note (.rd (Reg.offset (.HCTSIZ c)) (s.raw (.HCTSIZ c)))) (x := .ch c)
    (by simpa using ha) (by simpa using hq) hk (!(s.chan c).x.zlpPhase) (s.channelResult c).moved
  refine ⟨u, ?_, ?_, hf.calm (by simpa using k) (by simp) (by simp), Frame.trans (by simp) hf⟩
  · have hslave : s.isSlave = false := by simp [State.isSlave, hd]
    simp only [channelChunkDone, run_ask_bind, id]
    rw [run_bind_ok hres]
    simp [hsp, herr, run_bind, hslave, hu]
  · cases hz : (s.chan c).x.zlpPhase <;> simpa [hz] using hpool

end

section
variable {s : State} {c : Fin 16} {h : Nat} {q : Req} (a : s.Alone) (hm : s.hostMode = true) (hc : c.val < s.hw.caps.nCh)
  (hd : s.core.dmaMode = .bufferDma) (hiso : s.scheduled (.ch c) = false) (hal : (s.chan c).allocated = true)
  (hsp : (s.chan c).params.doSplit = false) (ha : (s.chan c).x.active = some (.pool h))
  (hq : s.pool[h]? = some (some q))
include a hm hc hd hiso hal hsp ha hq

/-- XFERCOMPL is cleared, the toggle taken over and the bytes counted; what follows goes on from there (R362). -/
theorem exec_chXfercompl {Q : State → Prop} (hQ : ∀ u : State, u.Calm → u.chan c = (s.chan c).tookPid (s.nextPidOf c) →
      u.pool = s.pool.set h (some (q.counted (if (s.chan c).x.zlpPhase then 0 else (s.channelResult c).moved))) →
      s.Toggled u (s.chan c).params (s.nextPidOf c) → u.raw (.HCINT c) = s.raw (.HCINT c) &&& ~~~(bit1 0) →
      Frame s u [.HCINT c] [.context, .ch c, .pool, .htog] →
      ∃ t, channelEnded c (s.channelResult c).short false (hooksAt s.level) u = .ok ((), t) ∧ Q (t.inCtx s.ctx)) :
    ∃ t, exec (.chXfercompl c) s = .next t ∧ Q t := by
  have hk : bitOf (w1cMask (.HCINT c)) 0 = true := bitOf_allOnes 0
  set v := (s.inCtx .isr).cleared (.HCINT c) 0 with hv
  have hfv : Frame s v [.HCINT c] [.context] := by simp [hv, State.cleared]
  have hcv : v.chan c = s.chan c := hfv.ch c (by simp) (by simp)
  have hsiz : v.raw (.HCTSIZ c) = s.raw (.HCTSIZ c) := hfv.raw_eq (by simp) (by simp)
  have hpid : v.nextPidOf c = s.nextPidOf c := by rw [State.nextPidOf, State.nextPidOf, hcv, hsiz]
  have hmv : v.hostMode = true := (hfv.hostMode_eq (by simp)).trans hm
  obtain ⟨w, hw, hwc, htog, kw, hfw⟩ := takePid_run (s := v) (c := c) (by simp [hv, State.cleared, a.calm]) hmv (hfv.hw ▸ hc)
    (hooksAt s.level)
  have hwp : w.pool = s.pool := (hfw.pool (by simp) (by simp)).trans (hfv.pool (by simp) (by simp))
  have hwr : w.channelResult c = s.channelResult c := by
    rw [State.channelResult, State.channelResult, hfw.raw_all, hsiz, hwc, hcv]
    rfl
  rw [hpid, hcv] at hwc htog
  obtain ⟨u, hu, hup, ku, hfu⟩ := channelChunkDone_counts (s := w) (c := c) (h := h) (q := q) kw ((hfw.hostMode_eq (by simp)).trans hmv)
    (hfw.hw ▸ hfv.hw ▸ hc) (by rw [hfw.core (by simp) (by simp), hfv.core (by simp) (by simp)]; exact hd) (by rw [hwc]; exact hsp)
    (by rw [hwc]; exact ha) (by rw [hwp]; exact hq) (hooksAt s.level)
  rw [hwr] at hu hup
  rw [hwc, hwp] at hup
  have htogu : s.Toggled u (s.chan c).params (s.nextPidOf c) := fun j => by
    rw [hfu.htog (by simp) (by simp), htog j, hfv.htog (by simp) (by simp)]
  obtain ⟨t, ht, hq'⟩ := hQ u ku ((hfu.ch c (by simp) (by simp)).trans hwc) hup htogu
    (by rw [hfu.raw_all, hfw.raw_all, hv, State.raw_cleared _ hk, State.raw_of_inCtx])
    ((hfv.mono (by simp) (by simp)).trans ((hfw.mono (by simp) (by simp)).trans (hfu.mono (by simp) (by simp))))
  refine runEvt_cleared a (by simp [hm, hc]) ⟨t, ?_, hq'⟩
  have hsv : v.scheduled (.ch c) = false := by rw [State.scheduled_of (hfv.iso (by simp) (by simp)), hiso]
  simp only [← hv, run_ask_bind, id, hsv, Bool.false_eq_true, if_false, hcv, hal, ha]
  rw [show (true && decide (some (ReqId.pool h) ≠ none)) = true from rfl, run_doIf_true, run_bind_ok hw, hu, ht]

end

section
variable {s : State} {c : Fin 16} {short : Bool} {h : Hooks}

theorem channelEnded_advances (hs : (s.chan c).haltStatus ≠ .haltPending) :
    channelEnded c short false h s = advance (.ch c) short h s := by
  simp [channelEnded, channelGoesOn, hs]

/-- Where the request needs another chunk, the confirmed halt will program it (R550). -/
theorem channelEnded_defers (hs : (s.chan c).haltStatus = .haltPending) (hl : s.lastChunk (.ch c) short false = false) :
    channelEnded c short false h s = .ok ((), s.modCh c fun r => { r with ended := some (.chunk short) }) := by
  simp [channelEnded, channelWaits, run_bind, hs, hl]

/-- Where the request needs no other chunk it ends, and the confirmed halt will release the channel (R550). -/
theorem channelEnded_completes (hs : (s.chan c).haltStatus = .haltPending) (hl : s.lastChunk (.ch c) short false = true) :
    channelEnded c short false h s = completeKeep (.ch c) .ok h (s.modCh c fun r => { r with ended := some .request }) := by
  simp [channelEnded, channelWaits, run_bind, hs, hl]

theorem State.lastChunk_channel {n : Nat} {q : Req} (ha : (s.chan c).x.active = some (.pool n)) (hq : s.pool[n]? = some (some q)) :
    s.lastChunk (.ch c) short false = decide (advanceChoice (s.chan c).x.zlpPhase short q.done q.length
      (s.chan c).params.mps.toNat q.zeroFlag = .finish) := by
  simp [State.lastChunk, State.reqOf_pool (x := .ch c) ha hq]

theorem advance_ends {x : XRef} {n : Nat} {q : Req} (ha : (s.xfer x).active = some (.pool n)) (hq : s.pool[n]? = some (some q))
    (hf : advanceChoice (s.xfer x).zlpPhase short q.done q.length (s.mpsOf x) q.zeroFlag = .finish) :
    advance x short h s = completeRequest x .ok h s := by
  simp [advance, advanceWith, State.reqOf_pool ha hq, hf]

end

/-- Settles O54: the chunk is counted, and whether a halt is pending and the request needs another chunk says what follows. -/
theorem channelCompletionReleasesTheChannel : Obligations.ChannelCompletionReleasesTheChannel := by
  intro s c h q a low hm hc hd hiso hal hsp ha hq r mps rem len moved short done more packet pid taken toggled
  have hpid : s.nextPidOf c = pid := rfl
  have htaken : (s.chan c).tookPid (s.nextPidOf c) = taken := rfl
  have hshort : (s.channelResult c).short = short := by
    cases hdir : (s.chan c).params.epDir <;> simp [State.channelResult, short, r, rem, hdir]
  have hmoved : (s.channelResult c).moved = moved := by
    cases hdir : (s.chan c).params.epDir <;> simp [State.channelResult, moved, r, rem, len, mps, hdir, pktCount, ceilDiv]
  have hdone : q.counted (if (s.chan c).x.zlpPhase then 0 else (s.channelResult c).moved) = { q with done := done } := by
    rw [hmoved]
    rfl
  have run {Q : State → Prop} := exec_chXfercompl a hm hc hd hiso hal hsp ha hq (Q := Q)
  rw [hshort, hdone, htaken] at run
  have hlen : h < s.pool.length := (List.getElem?_eq_some_iff.mp hq).1
  have hget {u : State} (hp : u.pool = s.pool.set h (some { q with done := done })) : u.pool[h]? = some (some { q with done := done }) := by
    rw [hp, List.getElem?_set_self hlen]
  refine ⟨fun hs hmore hpack hqu => run fun u k hch hpool htog hint hf => ?_, fun hs hmore hfits hcaps hwf => ?_,
    fun hs hgo => run fun u k hch hpool htog hint hf => ?_, fun hs hmore hpack => run fun u k hch hpool htog hint hf => ?_⟩
  · have hau : (u.chan c).x.active = some (.pool h) := by rw [hch]; exact ha
    obtain ⟨t, ht, e⟩ := completeRequest_channel (s := u) (c := c) hau (hget hpool) (hf.inputs.2.2.1.trans a.replies) .ok s.level k
      ((hf.hostMode_eq (by simp)).trans hm) (hf.hw ▸ hc) ((low.of_events hf).mask (n := c) (by simp)) (by rw [hch]; exact hqu)
    refine ⟨t, ?_, ?_⟩
    · rw [channelEnded_advances (by rw [hch]; exact hs), advance_ends (x := .ch c) hau (hget hpool)
        (by rw [State.xfer_ch, State.mpsOf_ch, hch]; exact advanceChoice_finish hmore hpack), ht]
    · refine ⟨by simp [e.pool, hpool], by simp [e.chan], by simp [e.chan, ChRec.detached], by simp [e.chan, hch, ChRec.detached, taken],
        by simp [e.chan, hch, ChRec.detached, taken], by simpa using e.last, e.events, e.mask, ?_, ?_,
        (hf.mono (by simp) (by simp)).event_trans (e.frame.mono (by simp) (by simp))⟩
      · rw [State.raw_of_inCtx, e.summary, hf.raw_eq (by simp) (by simp)]
      · exact htog.of_eq (e.frame.htog (by simp) (by simp))
  · intro len
    refine run fun u k hch hpool htog hint hf => ?_
    have hau : (u.xfer (.ch c)).active = some (.pool h) := by rw [State.xfer_ch, hch]; exact ha
    obtain ⟨t, ht, htc, hprog, hft⟩ := programChunk_after hf (by simp) k low hm hc hd hfits hcaps (by rw [hch]; exact hwf)
      (State.reqOf_pool hau (hget hpool)) (hooksAt s.level)
    rw [hch] at htc hprog
    refine ⟨t, ?_, ?_, hprog.congr rfl rfl (fun _ => rfl) rfl rfl rfl rfl rfl, htc, ?_,
      (hf.mono (by simp) (by simp)).event_trans (hft.mono (by simp) (by simp))⟩
    · obtain ⟨hz, hl, hsh⟩ := hmore
      rw [channelEnded_advances (by rw [hch]; exact hs), advance, advanceWith_chunk hau _ _ (by rw [State.xfer_ch, hch]; exact hz) hsh
        (by rw [State.reqAt_pool (hget hpool)]; exact hl), ht]
    · simp [hft.pool (by simp) (by simp), hpool]
    · exact htog.of_eq (hft.htog (by simp) (by simp))
  · refine ⟨_, channelEnded_defers (by rw [hch]; exact hs) ?_, ?_⟩
    · rw [State.lastChunk_channel (by rw [hch]; exact ha) (hget hpool), hch]
      exact decide_eq_false (advanceChoice_goes hgo)
    · exact ⟨by simpa using hpool, by simp [hch], by simpa using hint, htog, (hf.mono (by simp) (by simp)).event_trans (by simp)⟩
  · have hau : (u.chan c).x.active = some (.pool h) := by rw [hch]; exact ha
    obtain ⟨t, ht, hp, hc', htr, hft⟩ := completeKeep_channel (s := u.modCh c fun r => { r with ended := some .request }) (c := c)
      (by simpa using hau) (by simpa using hget hpool) (by simpa using hf.inputs.2.2.1.trans a.replies) .ok s.level
    refine ⟨t, ?_, ?_⟩
    · rw [channelEnded_completes (by rw [hch]; exact hs) ?_, ht]
      rw [State.lastChunk_channel (by rw [hch]; exact ha) (hget hpool), hch]
      exact decide_eq_true (advanceChoice_finish hmore hpack)
    · have hfu : Frame u t [] [.ch c, .pool] := Frame.trans (t := u.modCh c fun r => { r with ended := some .request }) (by simp) hft
      refine ⟨by simp [hp, hpool], by simp [hc', hch, ChRec.detached, taken, r], by simp [htr], ?_, ?_,
        (hf.mono (by simp) (by simp)).event_trans (hfu.mono (by simp) (by simp))⟩
      · rw [State.raw_of_inCtx, hfu.raw_all, hint]
      · exact htog.of_eq (hfu.htog (by simp) (by simp))

end Sys2Proof.Machine

/-! PROOF. HALT (R353, R358). -/

namespace Sys2Proof.Machine

open Sys2Proof

/-- Whether an entry of the trace is a write of HCCHAR of channel `c`. -/
def writesHcchar (c : Fin 16) (v : TraceEv) : Bool :=
  match v with
  | .wr a _ => decide (a = Reg.offset (.HCCHAR c))
  | _ => false

@[simp] theorem writesHcchar_rd (c : Fin 16) (a : Nat) (w : Word) : writesHcchar c (.rd a w) = false := rfl
@[simp] theorem writesHcchar_ret (c : Fin 16) (r : Result) : writesHcchar c (.ret r) = false := rfl
@[simp] theorem writesHcchar_wr (c : Fin 16) (r : Reg) (w : Word) (h : r ≠ .DIEPTXF 0) :
    writesHcchar c (.wr r.offset w) = decide (r = .HCCHAR c) := by
  by_cases hr : r = .HCCHAR c
  · simp [writesHcchar, hr]
  · simp [writesHcchar, hr, Reg.offset_ne hr h]

section
variable {s : State} {c : Fin 16} {reason : HaltReason} (k : s.Calm) (hm : s.hostMode = true) (hc : c.val < s.hw.caps.nCh)
  (hn : (s.chan c).haltStatus = .noHalt)
include k hm hc hn

/-- The halt of a channel that runs writes HCCHAR once (R353). -/
theorem halt_writes_once (he : bitOf (s.raw (.HCCHAR c)) 31 = true) (hq : s.queueRoom c ≠ 0) (h : Hooks) :
    ∃ u l, halt c reason h s = .ok ((), u) ∧ u.trace = l ++ s.trace ∧ (l.filter (writesHcchar c)).length = 1 := by
  cases hp : typePeriodic (s.chan c).params.epType with
  | false =>
    refine ⟨_, [_, _, _, _, _], by simp [halt, run_bind, k, hm, hc, hn, he, hq, hp]; rfl, by simp; exact ⟨rfl, rfl, rfl, rfl, rfl⟩, ?_⟩
    simp
  | true =>
    refine ⟨_, [_, _, _, _, _, _], by simp [halt, run_bind, k, hm, hc, hn, he, hq, hp]; rfl,
      by simp; exact ⟨rfl, rfl, rfl, rfl, rfl, rfl⟩, ?_⟩
    simp

/-- The halt of a channel that runs waits for room in the request queue (R353, R355). -/
theorem halt_defers (he : bitOf (s.raw (.HCCHAR c)) 31 = true) (hq : s.queueRoom c = 0) (h : Hooks) :
    ∃ u, halt c reason h s = .ok ((), u) ∧ u.chan c = { s.chan c with haltDeferred := some reason } ∧
      bitOf (u.raw .GINTMSK) (if typePeriodic (s.chan c).params.epType then 26 else 5) = true ∧
      Frame s u [.GINTMSK] [.ch c] := by
  cases hp : typePeriodic (s.chan c).params.epType <;>
    simp [halt, unmaskFifoEmpty, fifoEmptyBit, run_bind, k, hm, hc, hn, he, hq, hp, bitOf_withBit]

/-- With CHENA = 0 the halt is confirmed at once (R353). -/
theorem halt_confirms (he : bitOf (s.raw (.HCCHAR c)) 31 = false) (h : Hooks) :
    ∃ u, halt c reason h s = channelHalted c reason h u ∧ u.chan c = { s.chan c with haltStatus := .halted reason, haltReason := some reason } ∧
      s.trace <:+ u.trace ∧ Frame s u [] [.ch c] := by
  refine ⟨_, by simp [halt, run_bind, k, hm, hc, hn, he]; rfl, by simp⟩

end

/-! The command. -/

/-- What a critical section reads first writes nothing. -/
theorem State.guarded_reads (s : State) (c : Fin 16) : ∃ m, s.guarded.trace = m ++ s.trace ∧ m.filter (writesHcchar c) = [] := by
  rcases s.guarded_cases with e | e <;> rw [e]
  · exact ⟨[], rfl, rfl⟩
  · exact ⟨[_], rfl, rfl⟩

section
variable {s : State} {c : Fin 16} {r : HaltReason} (hr : s.InHostRole) (hc : c.val < s.hw.caps.nCh)
include hr hc

theorem validX_channel : s.validX (.ch c) = true := by simp [State.validX, hr.role, hr.caps, hc]

/-- A halt that is under way is told before any access (program 5). -/
theorem haltCmd_again (hn : (s.chan c).haltStatus ≠ .noHalt) (h : Hooks) : haltCmd c r h s = .ok (.unit, s) := by
  have hb : (s.validX (.ch c) && decide ((s.chan c).haltStatus ≠ .noHalt)) = true := by simp [validX_channel hr hc, hn]
  simp only [haltCmd, needFunctional_on hr.functional, run_ask_bind, hb, if_true]
  rfl

/-- Any other halt is a critical section (R545). -/
theorem exec_halt (k : s.Calm) (hn : (s.chan c).haltStatus = .noHalt) {Q : State → Prop}
    (hQ : ∃ u, halt c r (hooksAt s.level) s.guarded = .ok ((), u) ∧ Q (u.returned .unit)) :
    ∃ t, exec (.halt c r) s = .next t ∧ t.result = .unit ∧ Q t := by
  obtain ⟨u, hu, hq⟩ := hQ
  refine runCmd_of ⟨.unit, u, ?_, rfl, hq⟩
  have hb : (s.validX (.ch c) && decide ((s.chan c).haltStatus ≠ .noHalt)) = false := by simp [hn]
  have hv : s.guarded.validX (.ch c) = true := by rw [State.validX_of s.core_guarded, validX_channel hr hc]
  simp only [haltCmd, needFunctional_on hr.functional, run_ask_bind, hb, Bool.false_eq_true, if_false, critical_guarded k, haltIn,
    id, hv, if_true]
  rw [run_bind_ok hu]
  rfl

end

/-- Settles O31: what HCCHAR shows and the room in the request queue say whether the halt is asked for, deferred or confirmed. -/
theorem haltIsTwoPhaseAndIdempotent : Obligations.HaltIsTwoPhaseAndIdempotent := by
  intro s c r a hsh hr hc
  have k := a.calmTask hsh
  refine ⟨fun hn => ?_, fun hn he hq => ?_, fun hn he hq => ?_, fun h q hn he ha hqu hq => ⟨fun st hst low => ?_, ?_⟩⟩
  · exact runCmd_of ⟨.unit, s, haltCmd_again hr hc hn _, rfl, by simp, by simp⟩
  · have kg : s.guarded.Calm := by simpa using k
    have hqg : s.guarded.queueRoom c ≠ 0 := by rwa [State.queueRoom_congr (s := s) (by simp) (by simp) (by simp)]
    obtain ⟨u, hu, hch, hmsk, h31, h30, hf⟩ := halt_asks (s := s.guarded) (c := c) (reason := r) kg (by simpa using hr.mode)
      (by simpa using hc) (by simpa using hn) (by simpa using he) hqg (hooksAt s.level)
    obtain ⟨v, l, hv, htr, hone⟩ := halt_writes_once (s := s.guarded) (c := c) (reason := r) kg (by simpa using hr.mode)
      (by simpa using hc) (by simpa using hn) (by simpa using he) hqg (hooksAt s.level)
    obtain rfl : u = v := by
      rw [hu] at hv
      injection hv with hv
      exact (Prod.mk.inj hv).2
    obtain ⟨m, hm, hnone⟩ := s.guarded_reads c
    obtain ⟨t, ht, hres, rfl⟩ := exec_halt hr hc k hn (r := r) (Q := (· = u.returned .unit)) ⟨u, hu, rfl⟩
    refine ⟨_, .ret .unit :: (l ++ m), ht, hres, by simpa using hch, ?_, ?_, by simpa using h31, by simpa using h30,
      by simp [hmsk, bitOf_or], by simpa using hf.mono (by simp) (by simp)⟩
    · simp [htr, hm]
    · have hfilter : ((TraceEv.ret .unit :: (l ++ m)).filter (writesHcchar c)).length = 1 := by
        rw [List.filter_cons_of_neg (by simp), List.filter_append, hnone, List.append_nil, hone]
      exact hfilter
  · refine exec_halt hr hc k hn ?_
    obtain ⟨u, hu, hch, hmsk, hf⟩ := halt_defers (s := s.guarded) (c := c) (reason := r) (by simpa using k) (by simpa using hr.mode)
      (by simpa using hc) (by simpa using hn) (by simpa using he)
      (by rwa [State.queueRoom_congr (s := s) (by simp) (by simp) (by simp)]) (hooksAt s.level)
    exact ⟨u, hu, by simpa using hch, by simpa using hmsk, by simpa using hf⟩
  · obtain ⟨v, hv, hvc, hsuf, hfv⟩ := halt_confirms (s := s.guarded) (c := c) (reason := r) (by simpa using k) (by simpa using hr.mode)
      (by simpa using hc) (by simpa using hn) (by simpa using he) (hooksAt s.level)
    rw [frame_of_guarded] at hfv
    rw [State.chan_guarded] at hvc
    obtain ⟨u, hu, e⟩ := finishChannel_last (s := v) (c := c) (n := h) (q := q) (by rw [hvc]; exact ha)
      (by rwa [hfv.pool (by simp) (by simp)]) (hfv.inputs.2.2.1.trans a.replies) st s.level (hfv.calm k (by simp) (by simp))
      ((hfv.hostMode_eq (by simp)).trans hr.mode) (hfv.hw ▸ hc) (by rw [hfv.raw_all]; exact low.mask (n := c) (by simp)) (by rw [hvc]; exact hqu)
    obtain ⟨l, htr, hl⟩ := e.trace
    obtain ⟨l', rfl⟩ := (s.trace_guarded.trans hsuf).trans hl
    obtain ⟨t, ht, hres, rfl⟩ := exec_halt hr hc k hn (r := r) (Q := (· = u.returned .unit))
      ⟨u, by rw [hv, channelHalted_ends hst, hu], rfl⟩
    refine ⟨_, .ret .unit :: .cb (.transferComplete q.cb q.ctx st q.done) :: l', ht, hres, ?_, by simp [e.chan], ?_, ?_,
      by simp [e.chan, ChRec.detached], by simp [htr], by simp, e.events, e.mask, ?_, ?_⟩
    · simp [e.pool, hfv.pool (by simp) (by simp)]
    · simp [e.chan, hvc, ChRec.detached]
    · simp [e.chan, hvc, ChRec.detached]
    · rw [State.raw_of_returned, e.summary, hfv.raw_all]
    · exact (frame_returned _).mpr ((hfv.mono (by simp) (by simp)).trans e.frame)
  · intro hnak low hfits hd hwf m len
    subst hnak
    obtain ⟨v, hv, hvc, -, hfv⟩ := halt_confirms (s := s.guarded) (c := c) (reason := .nak) (by simpa using k) (by simpa using hr.mode)
      (by simpa using hc) (by simpa using hn) (by simpa using he) (hooksAt s.level)
    rw [frame_of_guarded] at hfv
    rw [State.chan_guarded] at hvc
    set w := v.modCh c (fun r => r.retried .nak) with hwdef
    have hw : w.chan c = { m with haltStatus := .noHalt, x := { m.x with chunkDone := 0 } } := by simp [hwdef, hvc, ChRec.retried, ChRec.unhalted, m]
    have hfw : Frame s w [.HCINT c] [.ch c] := by simpa [hwdef] using hfv.mono (by simp) (by simp)
    have hwq : w.reqOf (.ch c) = q := State.reqOf_pool (x := .ch c) (by rw [State.xfer_ch, hw]; exact ha)
      (by rw [hfw.pool (by simp) (by simp)]; exact hq)
    obtain ⟨u, hu, huc, hprog, hfu⟩ := programChunk_after hfw (by simp) (hfw.calm k (by simp) (by simp)) low hr.mode hc hd hfits hr.caps
      (by rw [hw]; exact hwf) hwq (hooksAt s.level)
    rw [hw] at huc hprog
    refine exec_halt hr hc k hn ⟨u, ?_, hprog.congr rfl rfl (fun _ => rfl) rfl rfl rfl rfl rfl, huc, ?_⟩
    · rw [hv, channelHalted_retries (.inl rfl), ← hwdef, hu]
    · exact (frame_returned _).mpr ((hfw.mono (by simp) (by simp)).trans (hfu.mono (by simp) (by simp)))

end Sys2Proof.Machine

/-! PROOF. SUBMIT to a new pipe (R243, R351). -/

namespace Sys2Proof.Machine

open Sys2Proof

/-- A channel is programmed for a request by its buffer and what of it is done. -/
theorem State.Programmed.of_req {s t : State} {c : Fin 16} {r : ChRec} {q q' : Req} {len : Nat} (p : s.Programmed t c r q len)
    (hb : q'.buf = q.buf) (hd : q'.done = q.done) : s.Programmed t c r q' len :=
  { p with addr := by rw [p.addr, hb, hd] }

/-- The record of a channel whose request has begun (R246). -/
def ChRec.begun (n : Nat) (r : ChRec) : ChRec := { r with x := { r.x with active := some (.pool n), zlpPhase := false } }

section
variable {s : State} {c : Fin 16} (hd : s.hw.debug = false) (ha : (s.chan c).x.active = none) (hs : (s.chan c).haltStatus = .noHalt)
include hd ha hs

theorem startTransfer_channel (n : Nat) (h : Hooks) :
    startTransfer (.ch c) n h s = programChunk (.ch c) h (s.modCh c (ChRec.begun n)) := by
  simp [startTransfer, beginTransfer, markActive, run_bind, assertThat_release, hd, State.started, State.haltPends, ha, hs, State.xIdle,
    State.disabling]
  rfl

/-- The request of a channel without another one starts at once (R243). -/
theorem submitOn_starts (hq : (s.chan c).x.queue = []) (hfree : s.freeSlots ≠ []) (buf : Word) (len : Nat) (z : Bool) (cb : CbId)
    (undo : M Unit) (h : Hooks) : ∃ n w, submitOn (.ch c) buf len z cb undo h s = (do programChunk (.ch c); pure (Result.handle n)) h w ∧
      n ∈ s.freeSlots ∧ w.pool = s.pool.set n (some (submitted (.ch c) buf len z cb)) ∧ w.chan c = (s.chan c).begun n ∧
      Frame s w [] [.ch c, .pool] := by
  obtain ⟨n, u, hu, hn, hpool, -, hf⟩ := poolAlloc_run hfree h
  have hlt := (State.mem_freeSlots.mp hn).1
  have hqu : u.pool[n]? = some (some blankReq) := by rw [hpool, List.getElem?_set_self hlt]
  have hcu : u.chan c = s.chan c := hf.ch c (by simp) (by simp)
  set v := u.modReqAt (.pool n) fun _ => submitted (.ch c) buf len z cb with hv
  have hcv : v.chan c = s.chan c := by simp [hv, hcu]
  refine ⟨n, v.modCh c (ChRec.begun n), ?_, hn, ?_, by simp [hcv], ?_⟩
  · have hact (h : Hooks) : (act fun s => s.modReqAt (.pool n) fun _ => submitted (.ch c) buf len z cb) h u = .ok ((), v) := rfl
    have hstart : startOrQueue (.ch c) n h v = programChunk (.ch c) h (v.modCh c (ChRec.begun n)) := by
      rw [startOrQueue, run_ask_bind, State.xfer_ch, hcv, if_pos ⟨ha, hq⟩]
      exact startTransfer_channel (by simpa [hv, hf.hw] using hd) (by rw [hcv]; exact ha) (by rw [hcv]; exact hs) n h
    rw [submitOn, run_bind_ok hu]
    simp only
    rw [run_bind_ok (hact h)]
    simp only [run_bind, hstart]
  · simp [hv, State.pool_modReqAt hqu, hpool]
  · simpa [hv] using hf.mono (by simp) (by simp)

end

/-- Settles O24: the channel is allocated, the slot taken, and the request begins at once. -/
theorem submitStartsAChannel : Obligations.SubmitStartsAChannel := by
  intro s p c buf len z cb a hsh hr low hfits hd hal hwf hnew hfree hslots
  have k := a.calmTask hsh
  have hc : c.val < s.hw.caps.nCh := by
    have hmem := List.mem_of_find?_eq_some hfree
    simp only [State.channels, List.mem_filter, decide_eq_true_eq] at hmem
    exact hr.caps ▸ hmem.2
  set v := s.guarded.modCh c fun _ => s.guarded.allocRecord c p with hv
  have hcv : v.chan c = s.guarded.allocRecord c p := by simp [hv]
  have hfv : Frame s v [] [.ch c] := by simp [hv]
  have hpv : v.pool = s.pool := hfv.pool (by simp) (by simp)
  obtain ⟨n, w, hw, hn, hwp, hwc, hfw⟩ := submitOn_starts (s := v) (c := c) (by rw [hfv.hw]; exact a.release) (by rw [hcv]; rfl)
    (by rw [hcv]; rfl) (by rw [hcv]; rfl) (by rwa [State.freeSlots_of hpv]) buf len.toNat z cb (modCh c fun _ => s.guarded.chan c)
    (hooksAt s.level)
  rw [State.freeSlots_of hpv] at hn
  rw [hpv] at hwp
  obtain ⟨hlt, hused⟩ := State.mem_freeSlots.mp hn
  rw [hcv] at hwc
  have hfsw : Frame s w [.HCINT c] [.ch c, .pool] := (hfv.mono (by simp) (by simp)).trans (hfw.mono (by simp) (by simp))
  have hwq : w.reqOf (.ch c) = submitted (.ch c) buf len.toNat z cb := State.reqOf_pool (x := .ch c) (h := n) (by rw [State.xfer_ch, hwc]; rfl)
    (by rw [hwp, List.getElem?_set_self hlt])
  obtain ⟨u, hu, huc, hprog, hfu⟩ := programChunk_after hfsw (by simp) (hfsw.calm k (by simp) (by simp)) low hr.mode hc hd hfits hr.caps
    (by rw [hwc]; exact hwf) hwq (hooksAt s.level)
  rw [hwc] at huc hprog
  have hrun : ∃ t, exec (.submit (.pipe p) buf len z cb) s = .next t ∧ t.result = .handle n ∧ t = u.returned (.handle n) := by
    refine runCmd_of ⟨.handle n, u, ?_, rfl, rfl⟩
    have hfor : s.guarded.channelFor p = .fresh c := by simp [State.channelFor, hnew, hfree]
    have hpipe : s.guarded.peripheral = false := by simpa using hr.role
    have halloc (h : Hooks) : modCh c (fun _ => s.guarded.allocRecord c p) h s.guarded = .ok ((), v) := rfl
    rw [submitCmd_aligned hr.functional (.inr hal), critical_guarded k]
    simp only [submitTo, run_ask_bind, hpipe, Bool.false_eq_true, if_false, submitPipe, id, hfor]
    rw [run_bind_ok (halloc _), hw, run_bind_ok hu]
    rfl
  obtain ⟨t, ht, hres, rfl⟩ := hrun
  have hup : u.pool[n]? = some (some (submitted (.ch c) buf len.toNat z cb)) := by
    rw [hfu.pool (by simp) (by simp), hwp, List.getElem?_set_self hlt]
  have hreq : (u.returned (.handle n)).reqAt (.pool n) = submitted (.ch c) buf len.toNat z cb := State.reqAt_pool hup
  refine ⟨_, n, ht, hres, hused, by rw [hreq]; rfl, by rw [hreq]; rfl, by rw [hreq]; rfl, fun j hj => ?_, ?_⟩
  · rw [State.returned_pool, hfu.pool (by simp) (by simp), hwp, List.getElem?_set_ne (Ne.symm hj)]
  rw [State.chan_of_returned, huc]
  refine ⟨rfl, rfl, rfl, ?_, rfl, rfl, rfl, rfl, rfl, State.Programmed.of_req (hprog.congr rfl rfl (fun _ => rfl) rfl rfl rfl rfl rfl) rfl rfl,
    (frame_returned _).mpr ((hfsw.mono (by simp) (by simp)).trans (hfu.mono (by simp) (by simp)))⟩
  exact s.guarded_same (·.firstPid p) rfl

end Sys2Proof.Machine

/-! PROOF. CONTINUE_TRANSFER (R260, R261, R355). -/

namespace Sys2Proof.Machine

open Sys2Proof

/-! The Tx FIFOs of the host (R34, R37, R55). -/

/-- The Tx FIFO of a type with words added to its end. -/
def Fifo.fed (f : Fifo) (periodic : Bool) (ws : List Word) : Fifo :=
  if periodic then { f with ptx := f.ptx ++ ws } else { f with tx := f.tx.set 0 (f.tx[0] ++ ws) }

/-- The words that the host's Tx FIFO of a type has room for, in its part and in the FIFO RAM. -/
def State.hostRoom (s : State) (periodic : Bool) : Nat :=
  if periodic then s.roomIn (field (s.raw .HPTXFSIZ) 16 16) s.fifo.ptx.length
  else s.roomIn (field (s.raw .GNPTXFSIZ) 16 16) (s.fifo.tx[0]).length

section
variable (f : Fifo) (periodic : Bool) (ws : List Word)

@[simp] theorem Fifo.rxStatus_fed : (f.fed periodic ws).rxStatus = f.rxStatus := by cases periodic <;> rfl
@[simp] theorem Fifo.rxData_fed : (f.fed periodic ws).rxData = f.rxData := by cases periodic <;> rfl
theorem Fifo.ptx_fed : (f.fed periodic ws).ptx = if periodic then f.ptx ++ ws else f.ptx := by cases periodic <;> rfl
theorem Fifo.tx_fed : (f.fed periodic ws).tx = if periodic then f.tx else f.tx.set 0 (f.tx[0] ++ ws) := by
  cases periodic <;> rfl

theorem Fifo.fed_nil : f.fed periodic [] = f := by cases periodic <;> simp [Fifo.fed]

theorem Fifo.fed_cons (w : Word) : (f.fed periodic [w]).fed periodic ws = f.fed periodic (w :: ws) := by
  cases periodic <;> simp [Fifo.fed]

theorem Fifo.words_fed (w : Word) : (f.fed periodic [w]).words = f.words + 1 := by
  cases periodic with
  | false => exact Fifo.words_append f 0 w
  | true =>
    simp only [Fifo.fed, Fifo.words, if_true, List.length_append, List.length_singleton]
    omega

end

/-- A window write in host mode with room in the FIFO of the channel's type puts the word at its end (R55). -/
theorem State.writeReg_host {s : State} {c : Fin 16} {periodic : Bool} (hm : s.hostMode = true)
    (hp : periodicCode (field (s.raw (.HCCHAR c)) 18 2) = periodic) (hr : 0 < s.hostRoom periodic) (v : Word) :
    s.writeReg (.FIFO c) v = s.withFifo (s.fifo.fed periodic [v]) := by
  cases periodic with
  | true => rw [State.writeReg_window_periodic hm hp, State.pushPtx, State.appendTo_room hr]; rfl
  | false =>
    have hdepth : s.txDepth 0 = field (s.raw .GNPTXFSIZ) 16 16 := rfl
    have hroom : 0 < s.roomIn (s.txDepth 0) (s.fifo.tx[(0 : Fin 16).val]).length := hr
    rw [State.writeReg_window_nonperiodic hm hp, State.pushTx, State.appendTo_room hroom]
    rfl

/-- One word less finds room after one has been taken. -/
theorem State.hostRoom_fed {s t : State} {periodic : Bool} {w : Word} (hregs : t.regs = s.regs) (hw : t.hw = s.hw)
    (hf : t.fifo = s.fifo.fed periodic [w]) : t.hostRoom periodic = s.hostRoom periodic - 1 := by
  cases periodic <;>
    simp only [State.hostRoom, State.roomIn, freeOf, State.raw_congr hregs, hw, hf, Fifo.words_fed, Fifo.ptx_fed, Fifo.tx_fed,
      Bool.false_eq_true, if_true, if_false, Vector.getElem_set_self, List.length_append, List.length_singleton] <;>
    omega

/-- Words that all find room stand at the end of the Tx FIFO of the channel's type, in order. -/
theorem State.pushWords_host {c : Fin 16} {periodic : Bool} (ws : List Word) : ∀ s : State, s.hostMode = true →
    periodicCode (field (s.raw (.HCCHAR c)) 18 2) = periodic → ws.length ≤ s.hostRoom periodic →
    (s.pushWords c ws).fifo = s.fifo.fed periodic ws := by
  induction ws with
  | nil => exact fun s _ _ _ => (Fifo.fed_nil _ _).symm
  | cons w ws ih =>
    intro s hm hp hr
    rw [List.length_cons] at hr
    rw [State.pushWords, State.writeReg_host hm hp (by omega), ih _ (by simpa using hm) (by simpa using hp)]
    · exact Fifo.fed_cons _ _ _ _
    · have hleft := State.hostRoom_fed (s := s) (t := (s.withFifo (s.fifo.fed periodic [w])).note (.wr (Reg.FIFO c).offset w))
        (periodic := periodic) (w := w) rfl rfl rfl
      omega

theorem frame_pushWords (s : State) (n : Fin 16) (ws : List Word) : Frame s (s.pushWords n ws) [] [.fifo] := by
  rw [State.pushWords_only]
  exact ((Frame.refl s [] [.fifo]).fifo' (by simp) (s.pushWords n ws).fifo).of_eq rfl

/-! The packet of a channel (R260, R261). -/

theorem State.npSpace_read (s : State) : field (s.peek .GNPTXSTS) 0 16 = s.npSpace % 65536 := by
  show field (fld 0 16 s.npSpace ||| fld 16 8 s.npQueueSpace) 0 16 = _
  rw [field_or, field_fld_same _ (by omega), field_fld_other _ (by omega)]
  simp

theorem State.pSpace_read (s : State) : field (s.peek .HPTXSTS) 0 16 = s.pSpace % 65536 := by
  show field (fld 0 16 s.pSpace ||| fld 16 8 s.pQueueSpace) 0 16 = _
  rw [field_or, field_fld_same _ (by omega), field_fld_other _ (by omega)]
  simp

/-- The free words that a channel reads for its Tx FIFO (R34, R37). -/
def State.hostSpace (s : State) (periodic : Bool) : Nat := (if periodic then s.pSpace else s.npSpace) % 65536

section
variable {s : State} {c : Fin 16} (k : s.Calm) (hm : s.hostMode = true)
include k hm

theorem fifoSpace_run (h : Hooks) :
    ∃ u, fifoSpace c h s = .ok (s.hostSpace (typePeriodic (s.chan c).params.epType), u) ∧ Frame s u [] [] := by
  cases hp : typePeriodic (s.chan c).params.epType <;>
    simp [fifoSpace, run_bind, k, hm, hp, State.hostSpace, s.npSpace_read, s.pSpace_read]

theorem queueSpace_run (h : Hooks) : ∃ u, queueSpace c h s = .ok (s.queueRoom c, u) ∧ Frame s u [] [] := by
  cases hp : typePeriodic (s.chan c).params.epType <;> simp [k, hm, hp]

/-- A packet finds the channel full where its FIFO or its request queue is (R260). -/
theorem channelFull_run (plen : Nat) (h : Hooks) :
    ∃ u, channelFull c plen h s = .ok (decide (s.hostSpace (typePeriodic (s.chan c).params.epType) < (plen + 3) / 4 ∨
      s.queueRoom c = 0), u) ∧ Frame s u [] [] := by
  have hceil : ceilDiv plen 4 = (plen + 3) / 4 := rfl
  obtain ⟨v, hv, hfv⟩ := fifoSpace_run (c := c) k hm h
  by_cases hsp : s.hostSpace (typePeriodic (s.chan c).params.epType) < (plen + 3) / 4
  · exact ⟨v, by simp [channelFull, run_bind, hv, hceil, hsp], hfv⟩
  · obtain ⟨u, hu, hfu⟩ := queueSpace_run (c := c) (hfv.calm k (by simp) (by simp)) ((hfv.hostMode_eq (by simp)).trans hm) h
    rw [State.queueRoom_congr (by rw [hfv.ch c (by simp) (by simp)]) hfv.hw (hfv.fifo (by simp))] at hu
    exact ⟨u, by simp [channelFull, run_bind, hv, hu, hceil, hsp], hfv.trans hfu⟩

/-- A channel is requested once more (R260). -/
theorem requestAgain_run (hc : c.val < s.hw.caps.nCh) (h : Hooks) :
    ∃ u, requestAgain c h s = .ok ((), u) ∧ u.chan c = { s.chan c with requests := (s.chan c).requests + 1 } ∧
      bitOf (u.raw (.HCCHAR c)) 31 = true ∧
      periodicCode (field (u.raw (.HCCHAR c)) 18 2) = typePeriodic (s.chan c).params.epType ∧ u.fifo.tx = s.fifo.tx ∧
      u.fifo.ptx = s.fifo.ptx ∧ u.fifo.rxStatus = s.fifo.rxStatus ∧ u.fifo.rxData = s.fifo.rxData ∧
      Frame s u [.HCCHAR c] [.ch c, .fifo] := by
  obtain ⟨v, hv, hvs⟩ := hccharValue_run (c := c) k hm h
  have htype (w : State) (odd : Bool) : periodicCode (field (w.stored (.HCCHAR c)
      (hccharWord (s.chan c).params odd ||| bit1 31)) 18 2) = typePeriodic (s.chan c).params.epType := by
    rw [w.field_stored_hcchar c _ _ (by omega) (by omega), field_hccharWord_type]
    cases (s.chan c).params.epType <;> rfl
  have hkeep (w : State) (x : Word) : ((w.writeReg (.HCCHAR c) x).fifo.tx = w.fifo.tx ∧
      (w.writeReg (.HCCHAR c) x).fifo.ptx = w.fifo.ptx ∧ (w.writeReg (.HCCHAR c) x).fifo.rxStatus = w.fifo.rxStatus ∧
      (w.writeReg (.HCCHAR c) x).fifo.rxData = w.fifo.rxData) := by
    rw [State.fifo_writeReg_hcchar]
    split
    · split <;> exact ⟨rfl, rfl, rfl, rfl⟩
    · exact ⟨rfl, rfl, rfl, rfl⟩
  rcases hvs with rfl | rfl
  all_goals
    refine ⟨_, by simp [requestAgain, run_bind, hv, k, hm, hc]; rfl, ?_⟩
    simp [htype, hkeep, bitOf_or, bitOf_bit1]

end

/-- The words of the next `plen` bytes of a channel's chunk. -/
def State.channelWords (s : State) (c : Fin 16) (plen : Nat) : List Word :=
  packWords 0 (s.bytes (s.chunkAddr (.ch c) + BitVec.ofNat 32 (s.chan c).x.chunkDone) plen)

theorem State.channelWords_length (s : State) (c : Fin 16) (plen : Nat) : (s.channelWords c plen).length = (plen + 3) / 4 := by
  rw [State.channelWords, packWords_length, State.bytes_length]

/-- A packet of a channel goes to the FIFO of its type, where it has room (R261). -/
theorem writePacket_channel {s : State} {c : Fin 16} {periodic : Bool} (k : s.Calm) (hm : s.hostMode = true)
    (hp : periodicCode (field (s.raw (.HCCHAR c)) 18 2) = periodic) {plen : Nat} (hr : (plen + 3) / 4 ≤ s.hostRoom periodic)
    (h : Hooks) :
    ∃ u, writePacket (.ch c) plen h s = .ok ((), u) ∧
      u.chan c = { s.chan c with x := { (s.chan c).x with chunkDone := (s.chan c).x.chunkDone + plen } } ∧
      u.fifo = s.fifo.fed periodic (s.channelWords c plen) ∧ Frame s u [] [.ch c, .fifo] := by
  have hpush := frame_pushWords s c (s.channelWords c plen)
  refine ⟨(s.pushWords c (s.channelWords c plen)).modX (.ch c) fun t => { t with chunkDone := t.chunkDone + plen }, ?_, ?_, ?_, ?_⟩
  · simp only [writePacket, run_ask_bind]
    exact run_bind_ok (forEach_writeFifo c (s.channelWords c plen) h k.quiet)
  · rw [State.modX, State.chan_modCh_same, hpush.ch c (by simp) (by simp)]
  · rw [State.modX_fifo, State.pushWords_host _ s hm hp (by rwa [State.channelWords_length])]
  · exact (hpush.mono (by simp) (by simp)).modX (x := .ch c) _ (by simp [partOf])

/-! A host OUT channel (R260). -/

section
variable {s : State} {c : Fin 16} {plen : Nat} (k : s.Calm) (hm : s.hostMode = true) (hc : c.val < s.hw.caps.nCh)
  (hlen : (s.chan c).x.chunkDone < (s.chan c).x.chunkLen)
  (hp : nextPacket (s.chan c).params.mps.toNat (s.chan c).x = plen)
include k hm hlen hp

/-- The channel waits for space in its FIFO and in its request queue. -/
theorem continueChOut_full (hfull : s.hostSpace (typePeriodic (s.chan c).params.epType) < (plen + 3) / 4 ∨ s.queueRoom c = 0)
    (h : Hooks) : ∃ u, continueChOut c h s = .ok (true, u) ∧ Frame s u [] [] := by
  obtain ⟨u, hu, hf⟩ := channelFull_run (c := c) k hm plen h
  rw [decide_eq_true hfull] at hu
  exact ⟨u, by simp [continueChOut, run_bind, hp, hu, Nat.not_le.2 hlen], hf⟩

variable (hsp : (plen + 3) / 4 ≤ s.hostSpace (typePeriodic (s.chan c).params.epType)) (hq : s.queueRoom c ≠ 0)
include hsp hq

/-- A split and a SETUP have one packet only. -/
theorem continueChOut_single (h0 : 0 < (s.chan c).x.chunkDone) (hone : (s.chan c).params.doSplit = true ∨ (s.chan c).dataPid = .setup)
    (h : Hooks) : ∃ u, continueChOut c h s = .ok (false, u) ∧ Frame s u [] [] := by
  obtain ⟨u, hu, hf⟩ := channelFull_run (c := c) k hm plen h
  rw [decide_eq_false (by omega)] at hu
  exact ⟨u, by simp [continueChOut, run_bind, hp, hu, Nat.not_le.2 hlen, h0, hone], hf⟩

include hc

/-- The next packet is pushed, requested again first where it is not the chunk's first. -/
theorem continueChOut_pushes (hroom : (plen + 3) / 4 ≤ s.hostRoom (typePeriodic (s.chan c).params.epType))
    (hcode : periodicCode (field (s.raw (.HCCHAR c)) 18 2) = typePeriodic (s.chan c).params.epType)
    (hmany : (s.chan c).x.chunkDone = 0 ∨ ((s.chan c).params.doSplit = false ∧ (s.chan c).dataPid ≠ .setup)) (h : Hooks) :
    ∃ u, continueChOut c h s = .ok (decide ((s.chan c).x.chunkDone + plen < (s.chan c).x.chunkLen) &&
        !(s.chan c).params.doSplit && decide ((s.chan c).dataPid ≠ .setup), u) ∧
      u.chan c = { s.chan c with
        requests := (s.chan c).requests + (if (s.chan c).x.chunkDone = 0 then 0 else 1)
        x := { (s.chan c).x with chunkDone := (s.chan c).x.chunkDone + plen } } ∧
      ((s.chan c).x.chunkDone = 0 → u.raw (.HCCHAR c) = s.raw (.HCCHAR c)) ∧
      (0 < (s.chan c).x.chunkDone → bitOf (u.raw (.HCCHAR c)) 31 = true) ∧
      u.fifo.ptx = (s.fifo.fed (typePeriodic (s.chan c).params.epType) (s.channelWords c plen)).ptx ∧
      u.fifo.tx = (s.fifo.fed (typePeriodic (s.chan c).params.epType) (s.channelWords c plen)).tx ∧
      u.fifo.rxStatus = s.fifo.rxStatus ∧ u.fifo.rxData = s.fifo.rxData ∧ Frame s u [.HCCHAR c] [.ch c, .fifo] := by
  obtain ⟨v, hv, hfv⟩ := channelFull_run (c := c) k hm plen h
  rw [decide_eq_false (by omega)] at hv
  have hvc : v.chan c = s.chan c := hfv.ch c (by simp) (by simp)
  obtain ⟨w, hw, hwc, hw0, hw1, hwcode, htx, hptx, hst, hda, hfw⟩ : ∃ w,
      doIf (decide (0 < (s.chan c).x.chunkDone)) (requestAgain c) h v = .ok ((), w) ∧
      w.chan c = { s.chan c with requests := (s.chan c).requests + (if (s.chan c).x.chunkDone = 0 then 0 else 1) } ∧
      ((s.chan c).x.chunkDone = 0 → w.raw (.HCCHAR c) = s.raw (.HCCHAR c)) ∧
      (0 < (s.chan c).x.chunkDone → bitOf (w.raw (.HCCHAR c)) 31 = true) ∧
      periodicCode (field (w.raw (.HCCHAR c)) 18 2) = typePeriodic (s.chan c).params.epType ∧ w.fifo.tx = s.fifo.tx ∧
      w.fifo.ptx = s.fifo.ptx ∧ w.fifo.rxStatus = s.fifo.rxStatus ∧ w.fifo.rxData = s.fifo.rxData ∧
      Frame s w [.HCCHAR c] [.ch c, .fifo] := by
    rcases Nat.eq_zero_or_pos (s.chan c).x.chunkDone with h0 | h0
    · exact ⟨v, by simp [h0], by simp [h0, hvc], fun _ => hfv.raw_all _, fun hp => absurd h0 (Nat.ne_of_gt hp),
        by rw [hfv.raw_all]; exact hcode, by simp [hfv.fifo], by simp [hfv.fifo], by simp [hfv.fifo], by simp [hfv.fifo],
        hfv.mono (by simp) (by simp)⟩
    · obtain ⟨w, hw, hwc, h31, hcode, htx, hptx, hst, hda, hfw⟩ := requestAgain_run (c := c) (hfv.calm k (by simp) (by simp))
        ((hfv.hostMode_eq (by simp)).trans hm) (hfv.hw ▸ hc) h
      rw [hfv.fifo (by simp)] at htx hptx hst hda
      rw [hvc] at hwc hcode
      exact ⟨w, by simp [h0, hw], by simp [hwc, Nat.ne_of_gt h0], fun hz => absurd hz (Nat.ne_of_gt h0), fun _ => h31, hcode, htx,
        hptx, hst, hda, (hfv.mono (by simp) (by simp)).trans hfw⟩
  have hwords : w.fifo.words = s.fifo.words := by simp only [Fifo.words, htx, hptx, hst, hda]
  have hwroom : w.hostRoom (typePeriodic (s.chan c).params.epType) = s.hostRoom (typePeriodic (s.chan c).params.epType) := by
    simp only [State.hostRoom, State.roomIn, hwords, htx, hptx, hfw.hw, hfw.raw_eq (r := .HPTXFSIZ) (by simp) (by simp),
      hfw.raw_eq (r := .GNPTXFSIZ) (by simp) (by simp)]
  have hdata : w.channelWords c plen = s.channelWords c plen := by
    have hreq : w.reqOf (.ch c) = s.reqOf (.ch c) := State.reqOf_congr (by simp [hwc]) fun i _ => by
      cases i <;> simp [State.reqAt, hfw.pool (by simp) (by simp), hfw.ep0 (by simp) (by simp)]
    rw [State.channelWords, State.channelWords, State.chunkAddr, State.chunkAddr, hreq, hwc, State.bytes_congr (hfw.mem (by simp))]
  obtain ⟨u, hu, huc, hufifo, hfu⟩ := writePacket_channel (c := c) (plen := plen) (hfw.calm k (by simp) (by simp))
    ((hfw.hostMode_eq (by simp)).trans hm) hwcode (by rwa [hwroom]) h
  rw [hwc] at huc
  rw [hdata] at hufifo
  have hgo : ¬ (0 < (s.chan c).x.chunkDone ∧ ((s.chan c).params.doSplit = true ∨ (s.chan c).dataPid = .setup)) := by
    rintro ⟨hpos, hone⟩
    rcases hmany with h0 | ⟨hsplit, hpid⟩
    · omega
    · rcases hone with hone | hone
      · rw [hsplit] at hone
        cases hone
      · exact hpid hone
  simp only [run_doIf, decide_eq_true_eq] at hw
  refine ⟨u, ?_, huc, fun h0 => ?_, fun h0 => ?_, ?_, ?_, ?_, ?_, hfw.trans (hfu.mono (by simp) (by simp))⟩
  · simp [continueChOut, run_bind, hp, hv, Nat.not_le.2 hlen, hgo, hw, hu, huc]
  · rw [hfu.raw_all, hw0 h0]
  · rw [hfu.raw_all, hw1 h0]
  · rw [hufifo, Fifo.ptx_fed, Fifo.ptx_fed, hptx]
  · simp only [hufifo, Fifo.tx_fed, htx]
  · rw [hufifo, Fifo.rxStatus_fed, hst]
  · rw [hufifo, Fifo.rxData_fed, hda]

end

/-! The command (R260, R355). -/

section
variable {s : State}

theorem exec_continueTransfer {x : XRef} {b : Bool} {Q : State → Prop} (hd : s.hw.debug = false) (hf : s.core.functional = true)
    (hv : s.validX x = true) (hQ : ∃ u, continueTransfer x (hooksAt s.level) s = .ok (b, u) ∧ Q (u.returned (.flag b))) :
    ∃ t, exec (.continueTransfer x) s = .next t ∧ t.result = .flag b ∧ Q t := by
  obtain ⟨u, hu, hq⟩ := hQ
  refine runCmd_of ⟨.flag b, u, ?_, rfl, hq⟩
  simp [continueTransferCmd, needFunctional_on hf, run_bind, assertThat_release, hd, hv, hu]

/-- Where there is nothing to carry on, nothing is done and no packet is left (R260). -/
theorem continueTransfer_idle {x : XRef} (hx : s.isSlave = false ∨ (∃ n, x = .ep ⟨n, .OUT⟩) ∨ (s.xfer x).active = none ∨
    (∃ c, x = .ch c ∧ (s.chan c).haltStatus ≠ .noHalt)) (h : Hooks) : continueTransfer x h s = .ok (false, s) := by
  cases hs : s.isSlave with
  | false => simp [continueTransfer, hs]
  | true =>
    rcases hx with hx | ⟨n, rfl⟩ | hx | ⟨c, rfl, hx⟩
    · rw [hs] at hx
      cases hx
    · simp [continueTransfer]
    · rcases x with ⟨n, _ | _⟩ | c
      · simp [continueTransfer]
      · rw [continueTransfer_in hs, continueIn_finished (.inl hx)]
      · have hnone : (s.chan c).x.active = none := hx
        simp [continueTransfer, hs, hnone]
    · simp [continueTransfer, hs, hx]

variable {c : Fin 16} (hs : s.isSlave = true) (hx : (s.chan c).x.active ≠ none) (hn : (s.chan c).haltStatus = .noHalt)
include hs hx hn

/-- A host OUT channel with a transfer and no halt under way (R260). -/
theorem continueTransfer_chOut (hf : (s.chan c).haltDeferred = none) (hdir : (s.chan c).params.epDir = .OUT) (h : Hooks) :
    continueTransfer (.ch c) h s = continueChOut c h s := by
  simp [continueTransfer, hs, hx, hn, hf, hdir]

/-- A deferred halt is tried again (R355). -/
theorem continueTransfer_retries {reason : HaltReason} (hf : (s.chan c).haltDeferred = some reason) (n : Nat) {u : State}
    (hu : halt c reason (hooksAt n) (s.modCh c fun r => { r with haltDeferred := none }) = .ok ((), u)) :
    continueTransfer (.ch c) (hooksAt (n + 1)) s = .ok (false, u) := by
  have hretry : (hooksAt (n + 1)).retry c s = .ok u := by
    show runUnit (retryDeferredHalt c) (hooksAt n) s = _
    simp [runUnit, retryDeferredHalt, run_bind, hf, hu]
  simp [continueTransfer, run_bind, hs, hx, hn, hf, callHook, hretry]

end

theorem validX_endpoint {s : State} {e : EpRef} (hr : s.InDeviceRole) (hn : e.num.val < s.hw.caps.nEp) :
    s.validX (.ep e) = true := by simp [State.validX, hr.role, hr.caps, hn]

/-- A device IN endpoint (R260, R261). -/
theorem continueTransfer_endpoint {s : State} {n : Fin 16} (a : s.Alone) (hsh : s.Shut) (hr : s.InDeviceRole)
    (hs : s.isSlave = true) (hn : n.val < s.hw.caps.nEp) (ha : (s.ep ⟨n, .IN⟩).x.active ≠ none)
    (hl : (s.ep ⟨n, .IN⟩).x.chunkDone < (s.ep ⟨n, .IN⟩).x.chunkLen) {plen : Nat}
    (hp : nextPacket (s.ep ⟨n, .IN⟩).mps (s.ep ⟨n, .IN⟩).x = plen) :
    (s.inSpace n < (plen + 3) / 4 → ∃ t, exec (.continueTransfer (.ep ⟨n, .IN⟩)) s = .next t ∧ t.result = .flag true ∧
       Frame s t [] []) ∧
     ((plen + 3) / 4 ≤ s.roomIn (s.txDepth (s.txFifoOf n)) (s.fifo.tx[(s.txFifoOf n).val]).length →
       ∃ t, exec (.continueTransfer (.ep ⟨n, .IN⟩)) s = .next t ∧
       t.result = .flag (decide ((s.ep ⟨n, .IN⟩).x.chunkDone + plen < (s.ep ⟨n, .IN⟩).x.chunkLen)) ∧
       t.fifo = { s.fifo with
         tx := s.fifo.tx.set (s.txFifoOf n).val (s.fifo.tx[(s.txFifoOf n).val] ++ s.packetWords n plen) } ∧
       t.ep ⟨n, .IN⟩ = { s.ep ⟨n, .IN⟩ with
         x := { (s.ep ⟨n, .IN⟩).x with chunkDone := (s.ep ⟨n, .IN⟩).x.chunkDone + plen } } ∧
       Frame s t [] [.ep ⟨n, .IN⟩, .fifo]) := by
  have k := a.calmTask hsh
  have hcont (h : Hooks) := (continueTransfer_in hs n h).trans (continueIn_left k.quiet hr.mode hn k.settled ha hl hp h)
  have hv := validX_endpoint (e := ⟨n, .IN⟩) hr hn
  refine ⟨fun hsp => exec_continueTransfer a.release hr.functional hv ⟨_, (hcont _).trans (if_pos hsp), ?_⟩, fun hroom => ?_⟩
  · simp [State.spaceRead]
  · have hsp : ¬ s.inSpace n < (plen + 3) / 4 := Nat.not_lt.2 (hroom.trans (min_le_left _ _))
    refine exec_continueTransfer a.release hr.functional hv ⟨_, (hcont _).trans (if_neg hsp), ?_, ?_, ?_⟩
    · have hfifo := State.packetWritten_fifo (s := s.spaceRead n) (n := n) (plen := plen)
        (by simpa [State.spaceRead] using hr.mode) hroom
      simpa [State.spaceRead, State.packetWords] using hfifo
    · simpa [State.spaceRead] using (s.spaceRead n).ep_packetWritten n plen
    · have hread : Frame s (s.spaceRead n) [] [.ep ⟨n, .IN⟩, .fifo] := by simp [State.spaceRead]
      exact (frame_returned _).mpr (hread.packetWritten (by simp) (by simp) plen)

/-- Settles O27, by the case that `continueTransfer` takes. -/
theorem continueTransferPushesOrDoesNothing : Obligations.ContinueTransferPushesOrDoesNothing := by
  refine ⟨?_, ?_, fun s x hd hf hv hx => exec_continueTransfer hd hf hv ⟨s, continueTransfer_idle hx _, by simp⟩⟩
  · intro s n a hsh hr hs hn ha hl _
    obtain ⟨hfull, hpush⟩ := continueTransfer_endpoint a hsh hr hs hn ha hl rfl
    refine ⟨hfull, fun hroom => ?_⟩
    obtain ⟨t, ht, hres, hfifo, hep, hf⟩ := hpush hroom
    refine ⟨t, ht, hres, ?_, fun j hj => ?_, by rw [hfifo], by rw [hfifo], by rw [hfifo], hep, hf⟩
    · simp only [hfifo, Vector.getElem_set_self]
      rfl
    · simp only [hfifo]
      exact Vector.getElem_set_ne _ _ fun e => hj (Fin.ext e).symm
  · intro s c a hsh hr hs hc hx hn
    have k := a.calmTask hsh
    have hv := validX_channel hr hc
    have hrun {b : Bool} {Q : State → Prop} (hQ : ∃ u, continueTransfer (.ch c) (hooksAt s.level) s = .ok (b, u) ∧
        Q (u.returned (.flag b))) := exec_continueTransfer a.release hr.functional hv hQ
    refine ⟨fun hf hdir => ⟨fun hsplit => ?_, fun hsplit hq => ?_, fun hsplit hq => ?_⟩, fun hf hdir => ?_, ?_⟩
    · refine hrun ⟨s, ?_, by simp⟩
      rw [continueTransfer_chIn hs hx hn hf hdir]
      simp [continueChIn, hsplit]
    · obtain ⟨u, hu, hfu⟩ := queueSpace_run (c := c) k hr.mode (hooksAt s.level)
      refine hrun ⟨u, ?_, by simpa using hfu⟩
      rw [continueTransfer_chIn hs hx hn hf hdir]
      simp [continueChIn, run_bind, hsplit, hu, hq]
    · obtain ⟨v, hv, hfv⟩ := queueSpace_run (c := c) k hr.mode (hooksAt s.level)
      obtain ⟨u, hu, huc, h31, -, htx, hptx, -, -, hfu⟩ := requestAgain_run (c := c) (hfv.calm k (by simp) (by simp))
        ((hfv.hostMode_eq (by simp)).trans hr.mode) (hfv.hw ▸ hc) (hooksAt s.level)
      rw [hfv.ch c (by simp) (by simp)] at huc
      rw [hfv.fifo (by simp)] at htx hptx
      refine hrun ⟨u, ?_, huc, h31, htx, hptx, (frame_returned _).mpr ((hfv.mono (by simp) (by simp)).trans hfu)⟩
      rw [continueTransfer_chIn hs hx hn hf hdir]
      simp [continueChIn, run_bind, hsplit, hv, hq, hu]
    · have hcont := continueTransfer_chOut hs hx hn hf hdir (hooksAt s.level)
      refine ⟨fun hle => hrun ⟨s, ?_, by simp⟩, fun hlen hfull => ?_, fun hlen hsp hq h0 hone => ?_, ?_⟩
      · rw [hcont]
        simp [continueChOut, hle]
      · obtain ⟨u, hu, hfu⟩ := continueChOut_full k hr.mode hlen rfl hfull (hooksAt s.level)
        exact hrun ⟨u, hcont.trans hu, by simpa using hfu⟩
      · obtain ⟨u, hu, hfu⟩ := continueChOut_single k hr.mode hlen rfl hsp hq h0 hone (hooksAt s.level)
        exact hrun ⟨u, hcont.trans hu, by simpa using hfu⟩
      · intro hlen hsp hroom hq hcode hmany
        obtain ⟨u, hu, huc, h0, h1, hptx, htx, hst, hda, hfu⟩ := continueChOut_pushes k hr.mode hc hlen rfl hsp hq hroom hcode hmany
          (hooksAt s.level)
        rw [Fifo.ptx_fed] at hptx
        rw [Fifo.tx_fed] at htx
        exact hrun ⟨u, hcont.trans hu, huc, h0, h1, hptx, htx, hst, hda, (frame_returned _).mpr hfu⟩
    · intro reason hdef h31 hq
      obtain ⟨n, hlev⟩ : ∃ n, s.level = n + 1 := ⟨4 * (s.replies.length + 1) + 3, rfl⟩
      have hroom : (s.modCh c fun r => { r with haltDeferred := none }).queueRoom c = s.queueRoom c :=
        State.queueRoom_congr (by simp) rfl rfl
      obtain ⟨u, hu, huc, -, -, h30, hfu⟩ := halt_asks (s := s.modCh c fun r => { r with haltDeferred := none }) (c := c)
        (reason := reason) (by simpa using k) (by simpa using hr.mode) (by simpa using hc) (by simpa using hn)
        (by simpa using h31) (hroom ▸ hq) (hooksAt n)
      have hdrop : Frame s (s.modCh c fun r => { r with haltDeferred := none }) [.HCCHAR c, .HCINTMSK c] [.ch c, .fifo] := by simp
      refine hrun ⟨u, ?_, by simpa using huc, h30, (frame_returned _).mpr (hdrop.trans (hfu.mono (by simp) (by simp)))⟩
      rw [hlev]
      exact continueTransfer_retries hs hx hn hdef n hu

end Sys2Proof.Machine

/-! PROOF. Procedures in a state with nothing to finish, while a script of LINK waits: each register access takes one empty
slot of the script, and all else happens as without it (R474). -/

namespace Sys2Proof.Machine

open Sys2Proof

variable {α β : Type}

/-- The state with another script of the environment. -/
def State.withEnv (s : State) (l : List (List EnvAct)) : State := { s with env := l }

section
variable (s : State) (l : List (List EnvAct))

theorem State.withEnv_same {s : State} (h : s.env = []) : s.withEnv [] = s := by
  obtain ⟨⟩ := s
  cases h
  rfl

theorem State.peek_withEnv (r : Reg) : (s.withEnv l).peek r = s.peek r := by cases r <;> rfl

theorem State.writeReg_withEnv (r : Reg) (v : Word) : (s.withEnv l).writeReg r v = (s.writeReg r v).withEnv l := by
  cases r with
  | HCCHAR c =>
    have hslave : (s.withEnv l).slaveHw = s.slaveHw := rfl
    simp only [State.writeReg, State.addRequest, hslave]
    cases bitOf v 31 && s.slaveHw <;> cases periodicCode (field v 18 2) <;> rfl
  | FIFO n =>
    have hmode : (s.withEnv l).hostMode = s.hostMode := rfl
    have hword : (s.withEnv l).raw (.HCCHAR n) = s.raw (.HCCHAR n) := rfl
    simp only [State.writeReg, State.pushFifo, hmode, hword]
    cases s.hostMode <;> cases periodicCode (field (s.raw (.HCCHAR n)) 18 2) <;> rfl
  | _ => rfl

/-- A slot without an act is taken before an access, and nothing else happens. -/
theorem State.Ready.between_slot {s : State} (r : s.Ready) {l : List (List EnvAct)} (hl : ∀ x ∈ l.take 1, x = []) (h : Hooks) :
    Machine.between h (s.withEnv l) = .ok ((), s.withEnv (l.drop 1)) := by
  cases l with
  | nil =>
    rw [State.withEnv_same r.env]
    exact (r.between h).trans (by rw [List.drop_nil, State.withEnv_same r.env])
  | cons x l =>
    obtain rfl : x = [] := hl x (by simp)
    have htick : (s.withEnv ([] :: l)).tick = s.withEnv l := by
      show (s.withEnv l).when s.prompt promptActs = _
      cases hp : s.prompt
      · rfl
      · have hidle : (s.withEnv l).disablePending (.ep ⟨0, .IN⟩) = false := r.idle hp
        rw [when_true rfl, promptActs_settled (s := s.withEnv l) r.settled, linkEndpointDisabled, when_false hidle]
    have hdue : (s.withEnv l).irqDue = false := r.shut.line
    simp [Machine.between, htick, hdue]

end

/-- The state while the slots of a script from number `j` on wait. -/
def State.at (s : State) (l : List (List EnvAct)) (j : Nat) : State := s.withEnv (l.drop j)

/-- The slot of number `j` of a script, if there is one, is empty. -/
def Vacant (l : List (List EnvAct)) (j : Nat) : Prop := ∀ x ∈ (l.drop j).take 1, x = []

/-- From `s` the procedure runs to `t` with `n` register accesses, each of which takes a slot of the script. -/
def Paced (p : M α) (h : Hooks) (n : Nat) (s : State) (a : α) (t : State) : Prop :=
  ∀ l, (∀ j < n, Vacant l j) → p h (s.at l 0) = .ok (a, t.at l n)

section
variable {p : M α} {h : Hooks} {s t : State} {a : α} {n : Nat} (k : Paced p h n s a t)
include k

/-- Without a script. -/
theorem Paced.run (hs : s.env = []) (ht : t.env = []) : p h s = .ok (a, t) := by
  have hrun := k [] fun j _ => by simp [Vacant]
  rwa [State.at, State.at, List.drop_nil, List.drop_nil, State.withEnv_same hs, State.withEnv_same ht] at hrun

/-- With a script whose first slots are empty. -/
theorem Paced.run_slots (l : List (List EnvAct)) : p h (s.withEnv (List.replicate n [] ++ l)) = .ok (a, t.withEnv l) := by
  have hrun := k (List.replicate n [] ++ l) fun j hj x hx => by
    rw [List.drop_append_of_le_length (by simp; omega), List.take_append_of_le_length (by simp; omega)] at hx
    exact List.eq_of_mem_replicate (List.mem_of_mem_drop (List.mem_of_mem_take hx))
  rwa [State.at, State.at, List.drop_zero, List.drop_append_of_le_length (by simp), List.drop_replicate,
    Nat.sub_self] at hrun

end

theorem Paced.bind {p : M α} {f : α → M β} {h : Hooks} {s t u : State} {a : α} {b : β} {n m : Nat} (k : Paced p h n s a t)
    (k' : Paced (f a) h m t b u) : Paced (p >>= f) h (n + m) s b u := by
  intro l hl
  have hshift (s : State) (j : Nat) : s.at (l.drop n) j = s.at l (n + j) := by rw [State.at, State.at, List.drop_drop]
  have hrest := k' (l.drop n) fun j hj => by
    rw [Vacant, List.drop_drop]
    exact hl (n + j) (by omega)
  rw [run_bind_ok (k l fun j hj => hl j (by omega))]
  rwa [hshift, hshift] at hrest

/-! What the script does not touch. -/

section
variable (s : State) (l : List (List EnvAct)) (j : Nat)

@[simp] theorem State.note_at (e : TraceEv) : (s.at l j).note e = (s.note e).at l j := rfl
@[simp] theorem State.modX_at (x : XRef) (f : Xfer → Xfer) : (s.at l j).modX x f = (s.modX x f).at l j := by
  rcases x with ⟨n, _ | _⟩ | c <;> rfl
@[simp] theorem State.modEp_at (e : EpRef) (f : EpRec → EpRec) : (s.at l j).modEp e f = (s.modEp e f).at l j := by
  rcases e with ⟨n, _ | _⟩ <;> rfl
@[simp] theorem State.withCore_at (c : CoreRec) : (s.at l j).withCore c = (s.withCore c).at l j := rfl
@[simp] theorem State.withEp0_at (r : Ep0Rec) : (s.at l j).withEp0 r = (s.withEp0 r).at l j := rfl
@[simp] theorem State.withIso_at (r : List IsoRec) : (s.at l j).withIso r = (s.withIso r).at l j := rfl
@[simp] theorem State.core_at : (s.at l j).core = s.core := rfl
@[simp] theorem State.ep0_at : (s.at l j).ep0 = s.ep0 := rfl
@[simp] theorem State.ep_at (e : EpRef) : (s.at l j).ep e = s.ep e := rfl
@[simp] theorem State.chan_at (c : Fin 16) : (s.at l j).chan c = s.chan c := rfl
@[simp] theorem State.raw_at (r : Reg) : (s.at l j).raw r = s.raw r := rfl
@[simp] theorem State.isSlave_at : (s.at l j).isSlave = s.isSlave := rfl
@[simp] theorem State.isDesc_at : (s.at l j).isDesc = s.isDesc := rfl
@[simp] theorem State.hostMode_at : (s.at l j).hostMode = s.hostMode := rfl
@[simp] theorem State.unsettled_at : (s.at l j).unsettled = s.unsettled := rfl
@[simp] theorem State.dataEndpoints_at : (s.at l j).dataEndpoints = s.dataEndpoints := rfl
@[simp] theorem State.channels_at : (s.at l j).channels = s.channels := rfl

end

/-! Accesses while a script waits. -/

section
variable {s : State} {r : Reg} {l : List (List EnvAct)} {j : Nat} (k : s.Ready) (ha : s.accessible r = true)
  (hl : Vacant l j)
include k ha hl

omit ha in
theorem between_at (h : Hooks) : between h (s.at l j) = .ok ((), s.at l (j + 1)) := by
  rw [State.at, k.between_slot hl h, List.drop_drop]
  rfl

@[simp] theorem regRead_at (hs : r.steady = true) (h : Hooks) :
    regRead r h (s.at l j) = .ok (s.peek r, (s.note (.rd r.offset (s.peek r))).at l (j + 1)) := by
  have hread (m : List (List EnvAct)) : (s.withEnv m).readReg r = (s.peek r, s.withEnv m) := by
    rw [readReg_steady (s := s.withEnv m) hs k.settled, State.peek_withEnv]
  have hread' (e : TraceEv) (m : List (List EnvAct)) : ((s.withEnv m).note e).readReg r = (s.peek r, (s.withEnv m).note e) := by
    rw [readReg_steady (s := (s.withEnv m).note e) hs k.settled, State.peek_note, State.peek_withEnv]
  have hacc : (s.at l (j + 1)).accessible r = true := ha
  rw [regRead, run_bind_ok (between_at k hl h), run_ask_bind, hacc, if_pos rfl, run_readNow, State.at, hread, hread']
  rfl

@[simp] theorem regWrite_at (v : Word) (h : Hooks) :
    regWrite r v h (s.at l j) = .ok ((), ((s.writeReg r v).note (.wr r.offset v)).at l (j + 1)) := by
  have hacc : (s.at l (j + 1)).accessible r = true := ha
  rw [regWrite, run_bind_ok (between_at k hl h), run_ask_bind, hacc, if_pos rfl, run_writeNow, State.at,
    State.writeReg_withEnv]
  rfl

end

theorem Paced.write {s : State} {r : Reg} {h : Hooks} (k : s.Ready) (ha : s.accessible r = true) (v : Word) :
    Paced (regWrite r v) h 1 s () ((s.writeReg r v).note (.wr r.offset v)) :=
  fun _ hl => regWrite_at k ha (hl 0 (by decide)) v h

theorem Paced.update {s : State} {r : Reg} {h : Hooks} (k : s.Ready) (ha : s.accessible r = true) (hs : r.steady = true)
    (f : Word → Word) : Paced (regUpdate r f) h 2 s () (((s.note (.rd r.offset (s.peek r))).writeReg r (f (s.peek r))).note
      (.wr r.offset (f (s.peek r)))) := by
  intro l (hl : ∀ j < 2, Vacant l j)
  simp [regUpdate, run_bind, k, ha, hs, hl]

/-- A callback of which UPPER makes nothing. -/
@[simp] theorem callback_at (n : Nat) {s : State} {l : List (List EnvAct)} {j : Nat} (c : Callback) (hr : s.replies = []) :
    callback c (hooksAt n) (s.at l j) = .ok ((), (s.note (.cb c)).at l j) :=
  callback_calm n (s := s.at l j) c hr

end Sys2Proof.Machine

/-! PROOF. The engine stops (R411, R412): what they leave where the engine has nothing to end. -/

namespace Sys2Proof.Machine

open Sys2Proof

/-! Words that RW registers keep (R23). -/

/-- The word that a write leaves in a register of RW bits. -/
theorem State.stored_plain (s : State) {r : Reg} (hc : w1cMask r = 0#32) (hs : w1sMask r = 0#32) (v : Word) :
    s.stored r v = s.raw r &&& ~~~rwMask s.hw r ||| v &&& rwMask s.hw r := by
  have hall (w : Word) : w &&& ~~~0#32 = w := BitVec.and_allOnes
  rw [State.stored, writeWord, mergeBits, hc, hs, show v &&& 0#32 = 0#32 from BitVec.and_zero, hall, BitVec.or_zero]

/-- Bits that are cleared where the register has RW bits. -/
theorem State.stored_drop (s : State) {r : Reg} {w : Word} (hc : w1cMask r = 0#32) (hs : w1sMask r = 0#32)
    (hw : w &&& ~~~rwMask s.hw r = 0#32) : s.stored r (s.raw r &&& ~~~w) = s.raw r &&& ~~~w := by
  refine s.stored_keep hc hs fun k hk hm => ?_
  have hbit : bitOf (w &&& ~~~rwMask s.hw r) k = false := by rw [hw, bitOf_zero]
  rw [bitOf_and, bitOf_not hk, hm] at hbit
  rw [bitOf_and, bitOf_not hk, show bitOf w k = false by simpa using hbit]
  simp

@[simp] theorem run_dropAllIso (h : Hooks) (s : State) : dropAllIso h s = .ok ((), s.withIso []) := rfl

/-! The device engine (R412). -/

/-- From `s` to `t` the device engine, which had nothing to end, has stopped (R412). -/
structure State.DeviceStopped (s t : State) : Prop where
  core : t.core = { s.core with deviceEngine := false }
  ep0 : t.ep0 = { s.ep0 with state := .disconnected, address := 0, config := 0 }
  iso : t.iso = []
  summary : t.raw .DAINTMSK = 0
  empty : t.raw .DIEPEMPMSK &&& 0xFFFF = 0
  config : t.raw .DCFG = s.raw .DCFG &&& ~~~0x7F0#32
  mask : t.raw .GINTMSK = s.raw .GINTMSK &&& ~~~0x000C7810#32
  trace : ∃ l, t.trace = .cb .deviceRoleStop :: l ∧ s.trace <:+ l
  frame : Frame s t [.GINTMSK, .DAINTMSK, .DIEPEMPMSK, .DCFG] [.core, .ep0, .iso, .ep ⟨0, .IN⟩, .ep ⟨0, .OUT⟩]

section
variable {s : State} (k : s.Ready) (hm : s.hostMode = false) (hn : 1 ≤ s.hw.caps.nEp)
  (h31 : bitOf (s.raw (.DIEPCTL 0)) 31 = false)
include k hm hn h31

/-- Leaving a transfer of endpoint 0 whose IN direction does not run (R326). -/
theorem ep0Abandon_paced (h : Hooks) : ∃ u, Paced ep0Abandon h (if s.isSlave then 3 else 1) s () u ∧ s.trace <:+ u.trace ∧
    Frame s u [.DIEPEMPMSK] [.ep ⟨0, .IN⟩, .ep ⟨0, .OUT⟩] := by
  have hn0 : 0 < s.hw.caps.nEp := hn
  cases hs : s.isSlave with
  | false =>
    refine ⟨_, by
      intro l (hl : ∀ j < 1, Vacant l j)
      simp [ep0Abandon, clearActive, ep0In, ep0Out, run_bind, k, hm, hn0, h31, hs, hl]
      rfl, ?_⟩
    simp
  | true =>
    refine ⟨_, by
      intro l (hl : ∀ j < 3, Vacant l j)
      simp [ep0Abandon, setEmptyMask, regUpdate, clearActive, ep0In, ep0Out, run_bind, k, hm, hn0, h31, hs, hl]
      rfl, ?_⟩
    simp [List.suffix_cons_iff]

omit hn h31 in
/-- What follows the abandoned transfer of endpoint 0 (R412). -/
theorem deviceEngineStop_tail (hr : s.replies = []) (hb : ∀ e : EpRef, e.num ≠ 0 → (s.ep e).enabled = false ∧
    (s.ep e).x.active = none ∧ (s.ep e).x.queue = []) (m : Nat) : ∃ u, Paced (do
      setEp0State .disconnected
      let l ← ask State.dataEndpoints
      forEach l stopEndpoint
      dropAllIso
      regWrite .DAINTMSK 0
      regWrite .DIEPEMPMSK 0
      regUpdate .GINTMSK fun w => w &&& ~~~0x000C7810#32
      setDevAddr 0
      modEp0 fun e => { e with address := 0, config := 0 }
      modCore fun c => { c with deviceEngine := false }
      callback .deviceRoleStop) (hooksAt m) 6 s () u ∧ s.DeviceStopped u := by
  have hskip (t : State) (ht : ∀ e : EpRef, e.num ≠ 0 → t.ep e = s.ep e) :
      forEach s.dataEndpoints stopEndpoint (hooksAt m) t = .ok ((), t) := by
    refine forEach_idle fun e he => ?_
    obtain ⟨h1, h2, h3⟩ := hb e (State.mem_dataEndpoints.mp he).1
    simp [stopEndpoint, ht e (State.mem_dataEndpoints.mp he).1, h1, h2, h3]
  have hmsk : s.stored .GINTMSK (s.raw .GINTMSK &&& 0xFFF387EF#32) = s.raw .GINTMSK &&& 0xFFF387EF#32 :=
    s.stored_drop (r := .GINTMSK) (w := 0x000C7810#32) rfl rfl (by
    rw [show rwMask s.hw .GINTMSK = 0xFFFFFFFE#32 from rfl]
    decide)
  have hempty : s.stored .DIEPEMPMSK 0#32 &&& 0xFFFF#32 = 0#32 := by
    rw [s.stored_plain rfl rfl, show rwMask s.hw .DIEPEMPMSK = 0xFFFF#32 from rfl, BitVec.zero_and, BitVec.or_zero,
      BitVec.and_assoc]
    simp
  refine ⟨_, by
    intro l (hl : ∀ j < 6, Vacant l j)
    simp [setEp0State, hskip, regUpdate, setDevAddr, regUpdateAt, State.keepDma, k.settled, run_bind, k, hm, hl, hr]
    rfl, ?_⟩
  constructor <;> simp [s.stored_noAddress, hmsk, hempty, List.suffix_cons_iff]

/-- The stop of a device engine that has nothing to end (R412). -/
theorem deviceEngineStop_paced (hr : s.replies = []) (hb : ∀ e : EpRef, e.num ≠ 0 → (s.ep e).enabled = false ∧
    (s.ep e).x.active = none ∧ (s.ep e).x.queue = []) (m : Nat) :
    ∃ u, Paced deviceEngineStop (hooksAt m) (if s.isSlave then 9 else 7) s () u ∧ s.DeviceStopped u := by
  obtain ⟨v, hv, htr, hf⟩ := ep0Abandon_paced k hm hn h31 (hooksAt m)
  obtain ⟨u, hu, d⟩ := deviceEngineStop_tail (s := v) (hf.ready k (by simp) (by simp)) ((hf.hostMode_eq (by simp)).trans hm)
    (hf.inputs.2.2.1.trans hr)
    (fun e he => by
      have hsame : v.ep e = s.ep e := hf.ep e (by rintro h; simp at h; rcases h with rfl | rfl <;> exact he rfl) (by simp)
      exact hsame ▸ hb e he) m
  refine ⟨u, ?_, ?_⟩
  · have hcount : (if s.isSlave then 9 else 7) = (if s.isSlave then 3 else 1) + 6 := by split <;> rfl
    rw [hcount, deviceEngineStop]
    exact hv.bind hu
  · obtain ⟨l, hl, hs⟩ := d.trace
    exact { d with
      core := d.core.trans (by rw [hf.core (by simp) (by simp)])
      ep0 := d.ep0.trans (by rw [hf.ep0 (by simp) (by simp)])
      config := d.config.trans (by rw [hf.raw_eq (by simp) (by simp)])
      mask := d.mask.trans (by rw [hf.raw_eq (by simp) (by simp)])
      trace := ⟨l, hl, htr.trans hs⟩
      frame := (hf.mono (by simp) (by simp)).trans d.frame }

end

/-! The host engine (R411). -/

/-- What the stop of the host engine does once its channels have been stopped (R411). -/
def hostEngineEnd : M Unit := do
  dropAllIso
  regUpdate .GINTMSK fun w => w &&& ~~~0x06000030#32
  regWrite .HAINTMSK 0
  modCore fun c => { c with hostEngine := false }
  callback .hostRoleStop

theorem hostEngineStop_eq : hostEngineStop = (do
    let l ← ask State.channels
    forEach l stopChannel
    hostEngineEnd) := rfl

/-- From `s` to `t` the host engine, whose channels have been stopped, has stopped (R411). -/
structure State.HostStopped (s t : State) : Prop where
  core : t.core = { s.core with hostEngine := false }
  iso : t.iso = []
  summary : t.raw .HAINTMSK &&& 0xFFFF = 0
  mask : t.raw .GINTMSK = s.raw .GINTMSK &&& ~~~0x06000030#32
  trace : ∃ l, t.trace = .cb .hostRoleStop :: l ∧ s.trace <:+ l
  frame : Frame s t [.GINTMSK, .HAINTMSK] [.core, .iso]

section
variable {s : State} (k : s.Ready) (hm : s.hostMode = true) (hr : s.replies = []) (m : Nat)
include k hm hr

omit hr in
/-- The registers and the isochronous records of a host engine that stops. -/
theorem hostSilenced_paced (h : Hooks) : ∃ w, (∀ q u, Paced q h 0 w () u → Paced (do
      dropAllIso
      regUpdate .GINTMSK fun w => w &&& ~~~0x06000030#32
      regWrite .HAINTMSK 0
      q) h 3 s () u) ∧ w.iso = [] ∧ w.raw .HAINTMSK &&& 0xFFFF = 0 ∧
      w.raw .GINTMSK = s.raw .GINTMSK &&& ~~~0x06000030#32 ∧ s.trace <:+ w.trace ∧ Frame s w [.GINTMSK, .HAINTMSK] [.iso] := by
  have hmsk : s.stored .GINTMSK (s.raw .GINTMSK &&& 0xF9FFFFCF#32) = s.raw .GINTMSK &&& 0xF9FFFFCF#32 :=
    s.stored_drop (r := .GINTMSK) (w := 0x06000030#32) rfl rfl (by
      rw [show rwMask s.hw .GINTMSK = 0xFFFFFFFE#32 from rfl]
      decide)
  have hdrop : Paced dropAllIso h 0 s () (s.withIso []) := fun _ _ => rfl
  have ki : (s.withIso []).Ready := (State.ready_congr (s := s) (t := s.withIso []) rfl rfl rfl rfl rfl).mpr k
  obtain ⟨v, hclear, kv, hmv, hiso, hv, htr, hf⟩ : ∃ v,
      Paced (regUpdate .GINTMSK fun w => w &&& ~~~0x06000030#32) h 2 (s.withIso []) () v ∧ v.Ready ∧ v.hostMode = true ∧
      v.iso = [] ∧ v.raw .GINTMSK = s.raw .GINTMSK &&& ~~~0x06000030#32 ∧ s.trace <:+ v.trace ∧ Frame s v [.GINTMSK] [.iso] :=
    ⟨_, Paced.update (s := s.withIso []) (r := .GINTMSK) ki (accessible_gintmsk _) rfl (fun w => w &&& ~~~0x06000030#32), by
      simp [ki, hm, hmsk, List.suffix_cons_iff]⟩
  have hsum : v.stored .HAINTMSK 0#32 &&& 0xFFFF#32 = 0#32 := by
    rw [v.stored_plain rfl rfl, show rwMask v.hw .HAINTMSK = 0xFFFF#32 from rfl, BitVec.zero_and, BitVec.or_zero,
      BitVec.and_assoc]
    simp
  refine ⟨(v.writeReg .HAINTMSK 0).note (.wr (Reg.offset .HAINTMSK) 0), fun q u hq => ?_, by simpa using hiso,
    by simpa using hsum, by simpa using hv, by simpa using htr.trans (List.suffix_cons _ _), by simpa using hf.mono (by simp) (by simp)⟩
  rw [show 3 = 0 + (2 + (1 + 0)) from rfl]
  exact hdrop.bind (hclear.bind (Paced.bind (Paced.write kv (accessible_haintmsk hmv) 0) hq))

theorem hostEngineEnd_paced : ∃ u, Paced hostEngineEnd (hooksAt m) 3 s () u ∧ s.HostStopped u := by
  obtain ⟨w, hw, hiso, hsum, hmsk, htr, hf⟩ := hostSilenced_paced k hm (hooksAt m)
  have hrw : w.replies = [] := hf.inputs.2.2.1.trans hr
  refine ⟨(w.withCore { w.core with hostEngine := false }).note (.cb .hostRoleStop), hw _ _ fun l _ => ?_, ?_⟩
  · rw [run_bind_ok (run_modCore _ _ _), State.core_at, State.withCore_at]
    exact callback_at m _ (by simpa using hrw)
  · constructor
    · simp [hf.core (by simp) (by simp)]
    · simpa using hiso
    · simpa using hsum
    · simpa using hmsk
    · exact ⟨w.trace, rfl, htr⟩
    · simpa using hf.mono (by simp) (by simp)

/-- The stop of a host engine without a channel in use (R411). -/
theorem hostEngineStop_paced (hc : ∀ c, (s.chan c).allocated = false) :
    ∃ u, Paced hostEngineStop (hooksAt m) 3 s () u ∧ s.HostStopped u := by
  obtain ⟨u, hu, d⟩ := hostEngineEnd_paced k hm hr m
  refine ⟨u, fun l hl => ?_, d⟩
  have hskip : forEach s.channels stopChannel (hooksAt m) (s.at l 0) = .ok ((), s.at l 0) :=
    forEach_idle fun c _ => by simp [stopChannel, hc]
  rw [hostEngineStop_eq, run_ask_bind, State.channels_at, run_bind_ok hskip]
  exact hu l hl

end

end Sys2Proof.Machine

/-! PROOF. CORE_DEINIT (R217, R411, R412). -/

namespace Sys2Proof.Machine

open Sys2Proof

/-- The first two of three procedures, taken together. -/
theorem run_both {β : Type} (p q : M Unit) (r : M β) (h : Hooks) (s : State) : (do p; q; r) h s = (do (do p; q); r) h s := by
  simp only [run_bind]
  cases p h s <;> rfl

/-- The sequencer's records are one part, beside the parts that are no records. -/
theorem Frame.with_records {s t : State} {rs : List Reg} {ps qs : List Part} (f : Frame s t rs ps) (hr : .records ∈ qs)
    (h : ∀ p ∈ [.mem, .fifo, .plat, .context], p ∈ ps → p ∈ qs) : Frame s t rs qs where
  regs := f.regs
  mem m := f.mem fun hm => m (h _ (by simp) hm)
  fifo m := f.fifo fun hm => m (h _ (by simp) hm)
  core _ m := absurd hr m
  ep _ _ m := absurd hr m
  ch _ _ m := absurd hr m
  pool _ m := absurd hr m
  ep0 _ m := absurd hr m
  iso _ m := absurd hr m
  htog _ m := absurd hr m
  plat m := f.plat fun hm => m (h _ (by simp) hm)
  served _ m := absurd hr m
  context m := f.context fun hm => m (h _ (by simp) hm)
  hw := f.hw
  exist _ m := absurd hr m
  inputs := f.inputs
  hidden := f.hidden

/-! Silencing the hardware. -/

/-- The state after the first two writes of CORE_DEINIT: the gate and the mask are 0. -/
def State.silent0 (s : State) : State :=
  (((s.writeReg .GAHBCFG 0).note (.wr (Reg.offset .GAHBCFG) 0)).writeReg .GINTMSK 0).note (.wr (Reg.offset .GINTMSK) 0)

/-- A written GAHBCFG of which bit 0 is 0 closes the gate (R56). -/
theorem State.calm_closed {s : State} (k : s.Calm) {v : Word} (hv : bitOf v 0 = false) : (s.writeReg .GAHBCFG v).Calm := by
  have hgate : bitOf ((s.writeReg .GAHBCFG v).raw .GAHBCFG) 0 = false := by
    rw [State.raw_writeReg_plain _ _ (by simp), State.stored, bitOf_writeWord (by decide), hv]
    simp [rwMask]
  exact ⟨⟨by simpa using k.quiet.env, by simpa using k.quiet.prompt, .inr hgate⟩, by simpa using k.settled⟩

section
variable {s : State}

theorem State.calm_silent0 (k : s.Calm) : s.silent0.Calm := by
  simpa [State.silent0] using State.calm_closed k (v := 0) (by simp)

theorem State.gate_silent0 : s.silent0.raw .GAHBCFG = s.raw .GAHBCFG &&& ~~~0x3F#32 := by
  have h := s.stored_plain (r := .GAHBCFG) rfl rfl 0#32
  rw [show rwMask s.hw .GAHBCFG = 0x3F#32 from rfl, BitVec.zero_and, BitVec.or_zero] at h
  simpa [State.silent0] using h

theorem State.mask_silent0 : s.silent0.raw .GINTMSK = s.raw .GINTMSK &&& 0x1#32 := by
  have h := s.stored_plain (r := .GINTMSK) rfl rfl 0#32
  rw [show rwMask s.hw .GINTMSK = 0xFFFFFFFE#32 from rfl, BitVec.zero_and, BitVec.or_zero] at h
  simpa [State.silent0] using h

theorem State.trace_silent0 : s.trace <:+ s.silent0.trace := by simp [State.silent0, List.suffix_cons_iff]

theorem frame_silent0 : Frame s s.silent0 [.GAHBCFG, .GINTMSK] [] := by simp [State.silent0]

theorem frame_discardRecords (t : State) : Frame t t.discardRecords [] [.records] where
  regs _ _ := rfl
  mem _ _ := rfl
  fifo _ := rfl
  core _ := by simp
  ep _ _ := by simp
  ch _ _ := by simp
  pool _ := by simp
  ep0 _ := by simp
  iso _ := by simp
  htog _ := by simp
  plat _ := rfl
  served _ := by simp
  context _ := rfl
  hw := rfl
  exist _ := by simp
  inputs := ⟨rfl, rfl, rfl, rfl⟩
  hidden := ⟨rfl, rfl, rfl, rfl⟩

/-- The state in which CORE_DEINIT ends, where its engine stop has left `w`. -/
def State.torn (w : State) : State := w.discardRecords.returned (.status .ok)

@[simp] theorem State.raw_torn (w : State) (r : Reg) : w.torn.raw r = w.raw r := rfl

/-- CORE_DEINIT stops the engine that runs. -/
theorem exec_coreDeinit {w : State} (k : s.Calm) (hd : s.hw.debug = false) (hex : s.recordsExist = true)
    (hw : (do
      doIf s.core.hostEngine hostEngineStop
      doIf s.core.deviceEngine deviceEngineStop) (hooksAt s.level) s.silent0 = .ok ((), w)) :
    exec .coreDeinit s = .next w.torn := by
  have k1 : (s.writeReg .GAHBCFG 0#32).Calm := State.calm_closed k (by simp)
  refine runCmd_ok (r := .status .ok) (u := w.discardRecords) ?_
  have hcore : s.silent0.core = s.core := by simp [State.silent0]
  rw [← hcore] at hw
  have htask : taskOnly (hooksAt s.level) s = .ok ((), s) := taskOnly_ok (.inr hd) _
  have hwrites : coreDeinit (hooksAt s.level) s = (do
      let s ← ask id
      doIf s.core.hostEngine hostEngineStop
      doIf s.core.deviceEngine deviceEngineStop
      act State.discardRecords
      pure (Result.status .ok)) (hooksAt s.level) s.silent0 := by
    simp [coreDeinit, run_bind, htask, k, k1, State.silent0]
  simp only [coreDeinitCmd, run_ask_bind, hex, if_true, hwrites, id]
  rw [run_both, run_bind_ok hw]
  rfl

end

/-! The channel that a host engine stop ends (R411). -/

theorem forEach_single {α : Type} {p : α → M Unit} {h : Hooks} {a : α} {s u : State} (ha : p a h s = .ok ((), u)) :
    ∀ {l : List α}, l.Nodup → a ∈ l → (∀ b ∈ l, b ≠ a → p b h s = .ok ((), s) ∧ p b h u = .ok ((), u)) →
      forEach l p h s = .ok ((), u)
  | b :: l, hl, hm, hrest => by
    obtain ⟨hb, hl⟩ := List.nodup_cons.mp hl
    by_cases hba : b = a
    · subst hba
      rw [forEach, run_bind_ok ha]
      exact forEach_idle fun d hd => (hrest d (by simp [hd]) (by rintro rfl; exact hb hd)).2
    · rw [forEach, run_bind_ok (hrest b (by simp) hba).1]
      exact forEach_single ha hl (by simpa [Ne.symm hba] using hm) fun d hd => hrest d (by simp [hd])

section
variable {s : State} {c : Fin 16} {n : Nat} {q : Req} (k : s.Calm) (hm : s.hostMode = true) (hc : c.val < s.hw.caps.nCh)
include k hm hc

/-- A channel that runs is told to stop (R411). -/
theorem stopAsked_run (h : Hooks) : ∃ u, (∀ p : M Unit, (do
      let w ← regRead (.HCCHAR c)
      doIf (bitOf w 31) (do
        let v ← hccharValue c
        regWrite (.HCCHAR c) (v ||| 0xC0000000)
        modCh c ChRec.stopping)
      p) h s = p h u) ∧ (u.chan c).x = (s.chan c).x ∧
      (bitOf (s.raw (.HCCHAR c)) 31 = true → bitOf (u.raw (.HCCHAR c)) 31 = true ∧ bitOf (u.raw (.HCCHAR c)) 30 = true) ∧
      (bitOf (s.raw (.HCCHAR c)) 31 = false → u.raw (.HCCHAR c) = s.raw (.HCCHAR c)) ∧ s.trace <:+ u.trace ∧
      Frame s u [.HCCHAR c] [.ch c, .fifo] := by
  cases he : bitOf (s.raw (.HCCHAR c)) 31 with
  | false => exact ⟨_, fun p => by simp [run_bind, k, hm, hc, he]; rfl, by simp⟩
  | true =>
    obtain ⟨v, hv, hvs⟩ := hccharValue_run (s := s.note (.rd (Reg.offset (.HCCHAR c)) (s.raw (.HCCHAR c)))) (c := c)
      (by simpa using k) (by simpa using hm) h
    rcases hvs with rfl | rfl
    all_goals
      refine ⟨_, fun p => by simp [run_bind, k, hm, hc, he, hv]; rfl, ?_⟩
      simp [ChRec.stopping, he, bitOf_or, List.suffix_cons_iff]

/-- The one request of a channel is cancelled, and the channel released (R411, R359). -/
theorem stopChannel_run (hal : (s.chan c).allocated = true) (ha : (s.chan c).x.active = some (.pool n)) (hqu : (s.chan c).x.queue = [])
    (hq : s.pool[n]? = some (some q)) (hr : s.replies = []) (hmsk : s.raw (.HCINTMSK c) &&& ~~~0x9FF#32 = 0) (m : Nat) :
    ∃ u l, stopChannel c (hooksAt m) s = .ok ((), u) ∧ u.trace = l ++ s.trace ∧
      .cb (.transferComplete q.cb q.ctx .cancelled q.done) ∈ l ∧
      (bitOf (s.raw (.HCCHAR c)) 31 = true → bitOf (u.raw (.HCCHAR c)) 31 = true ∧ bitOf (u.raw (.HCCHAR c)) 30 = true) ∧
      (bitOf (s.raw (.HCCHAR c)) 31 = false → u.raw (.HCCHAR c) = s.raw (.HCCHAR c)) ∧ u.raw (.HCINT c) = 0 ∧
      u.raw (.HCINTMSK c) = 0 ∧ Frame s u [.HCCHAR c, .HCINT c, .HCINTMSK c, .HAINTMSK] [.ch c, .pool, .fifo] := by
  obtain ⟨v, hv, hvx, hrun, hidle, ⟨l1, h1⟩, hf⟩ := stopAsked_run k hm hc (hooksAt m)
  obtain ⟨w, hw, hwp, hwc, hwt, hfw⟩ := completeKeep_channel (s := v) (c := c) (n := n) (q := q) (by rw [hvx, ha])
    (by rwa [hf.pool (by simp) (by simp)]) (hf.inputs.2.2.1.trans hr) .cancelled m
  have hwq : (w.chan c).x.queue = [] := by rw [hwc, ChRec.detached, hvx, hqu]
  have hself : w.modCh c (fun r => { r with x := { r.x with queue := [] } }) = w := w.modCh_self (by rw [← hwq])
  have hsw : Frame s w [.HCCHAR c] [.ch c, .pool, .fifo] := (hf.mono (by simp) (by simp)).trans (hfw.mono (by simp) (by simp))
  obtain ⟨u, hu, -, rel⟩ := channelRelease_run (s := w) (c := c) (hsw.calm k (by simp) (by simp))
    ((hsw.hostMode_eq (by simp)).trans hm) (hsw.hw ▸ hc) (by rwa [hsw.raw_eq (by simp) (by simp)]) (hooksAt m)
  obtain ⟨l2, h2⟩ := rel.trace
  have hchar : u.raw (.HCCHAR c) = v.raw (.HCCHAR c) := (rel.frame.raw_eq (by simp) (by simp)).trans (hfw.raw_all _)
  refine ⟨u, l2 ++ .cb (.transferComplete q.cb q.ctx .cancelled q.done) :: l1, ?_, by rw [← h2, hwt, ← h1]; simp, by simp,
    fun he => hchar ▸ hrun he, fun he => hchar.trans (hidle he), rel.events, rel.mask,
    (hsw.mono (by simp) (by simp)).trans (rel.frame.mono (by simp) (by simp))⟩
  have hcancel : cancelAll (.ch c) (hooksAt m) v = .ok ((), w) := by
    simp [cancelAll, run_bind, hw, hwq, hself]
  rw [stopChannel, run_ask_bind, hal, run_doIf_true, hv, run_bind_ok hcancel, hu]

end

/-! CORE_DEINIT, by the engine that runs. -/

theorem State.torn_of {s w : State} {rs : List Reg} {ps : List Part} (f : Frame s w rs ps) (h : .records ∈ ps) :
    Frame s w.torn rs ps :=
  (frame_returned _).mpr (f.trans ((frame_discardRecords w).mono (by simp) (by simpa using h)))

theorem State.frame_silent0_records (s : State) : Frame s s.silent0 [.GAHBCFG, .GINTMSK] [.records] :=
  frame_silent0.with_records (by simp) (by simp)

theorem State.raw_silent0 (s : State) {r : Reg} (h : r ≠ .GAHBCFG ∧ r ≠ .GINTMSK) (h0 : r ≠ .DIEPTXF 0) :
    s.silent0.raw r = s.raw r :=
  frame_silent0.raw_eq (by simp [h]) h0

/-- Bit 0 of GINTMSK is not touched by the masks of the engines. -/
theorem mask_bit0 (v w : Word) (hw : w &&& 0x1#32 = 0x1#32) : v &&& 0x1#32 &&& w = v &&& 0x1#32 := by
  rw [BitVec.and_assoc, BitVec.and_comm 0x1#32, hw]

@[simp] theorem State.core_silent0 (s : State) : s.silent0.core = s.core := by simp [State.silent0]
@[simp] theorem State.hostMode_silent0 (s : State) : s.silent0.hostMode = s.hostMode := by simp [State.silent0]
theorem State.replies_silent0 (s : State) : s.silent0.replies = s.replies := frame_silent0.inputs.2.2.1

section
variable {s : State} (k : s.Calm) (hdb : s.hw.debug = false) (hre : s.replies = []) (hex : s.recordsExist = true)
include k hdb hex

theorem coreDeinit_idle (hdev : s.core.deviceEngine = false) (hhost : s.core.hostEngine = false) :
    exec .coreDeinit s = .next s.silent0.torn :=
  exec_coreDeinit k hdb hex (by simp [run_bind, hdev, hhost])

include hre

theorem coreDeinit_device (hdev : s.core.deviceEngine = true) (hhost : s.core.hostEngine = false) (hm : s.hostMode = false)
    (hn : 1 ≤ s.hw.caps.nEp) (h31 : bitOf (s.raw (.DIEPCTL 0)) 31 = false) (hb : ∀ e : EpRef, e.num ≠ 0 →
      (s.ep e).enabled = false ∧ (s.ep e).x.active = none ∧ (s.ep e).x.queue = []) :
    ∃ u, exec .coreDeinit s = .next u.torn ∧ s.silent0.DeviceStopped u := by
  have k0 := State.calm_silent0 k
  obtain ⟨u, hu, d⟩ := deviceEngineStop_paced k0.ready (by simpa using hm) (frame_silent0.hw ▸ hn)
    (by rwa [s.raw_silent0 (by simp) (by simp)]) (s.replies_silent0.trans hre)
    (fun e he => by rw [frame_silent0.ep e (by simp) (by simp)]; exact hb e he) s.level
  have hrun := hu.run k0.quiet.env (d.frame.inputs.2.1.trans k0.quiet.env)
  exact ⟨u, exec_coreDeinit k hdb hex (by simp [run_bind, hdev, hhost, hrun]), d⟩

variable (hdev : s.core.deviceEngine = false) (hhost : s.core.hostEngine = true) (hm : s.hostMode = true)
include hdev hhost hm

theorem coreDeinit_noChannel (hal : ∀ c, (s.chan c).allocated = false) :
    ∃ u, exec .coreDeinit s = .next u.torn ∧ s.silent0.HostStopped u := by
  have k0 := State.calm_silent0 k
  obtain ⟨u, hu, d⟩ := hostEngineStop_paced k0.ready (by simpa using hm) (s.replies_silent0.trans hre) s.level (fun b => by
    rw [frame_silent0.ch b (by simp) (by simp)]
    exact hal b)
  have hrun := hu.run k0.quiet.env (d.frame.inputs.2.1.trans k0.quiet.env)
  exact ⟨u, exec_coreDeinit k hdb hex (by simp [run_bind, hdev, hhost, hrun]), d⟩

/-- The channel in use is stopped, then the engine. -/
theorem coreDeinit_channel {c : Fin 16} {n : Nat} {q : Req} (hcaps : s.core.caps = s.hw.caps) (hc : c.val < s.hw.caps.nCh)
    (hfree : ∀ b, b ≠ c → (s.chan b).allocated = false) (hal : (s.chan c).allocated = true)
    (ha : (s.chan c).x.active = some (.pool n)) (hqu : (s.chan c).x.queue = []) (hq : s.pool[n]? = some (some q))
    (low : s.reservedLow) : ∃ v u l, exec .coreDeinit s = .next u.torn ∧ v.HostStopped u ∧ v.trace = l ++ s.silent0.trace ∧
      .cb (.transferComplete q.cb q.ctx .cancelled q.done) ∈ l ∧
      (bitOf (s.raw (.HCCHAR c)) 31 = true → bitOf (v.raw (.HCCHAR c)) 31 = true ∧ bitOf (v.raw (.HCCHAR c)) 30 = true) ∧
      (bitOf (s.raw (.HCCHAR c)) 31 = false → v.raw (.HCCHAR c) = s.raw (.HCCHAR c)) ∧ v.raw (.HCINT c) = 0 ∧
      v.raw (.HCINTMSK c) = 0 ∧
      Frame s.silent0 v [.HCCHAR c, .HCINT c, .HCINTMSK c, .HAINTMSK] [.ch c, .pool, .fifo] := by
  have k0 := State.calm_silent0 k
  have hch (b : Fin 16) : s.silent0.chan b = s.chan b := frame_silent0.ch b (by simp) (by simp)
  obtain ⟨v, l, hv, htr, htold, hrun, hidle, hint, hmsk, hfv⟩ := stopChannel_run (s := s.silent0) (c := c) (n := n) (q := q) k0
    (by simpa using hm) (frame_silent0.hw ▸ hc) (by rw [hch, hal]) (by rw [hch, ha]) (by rw [hch, hqu])
    (by rwa [frame_silent0.pool (by simp) (by simp)]) (s.replies_silent0.trans hre)
    (by rw [s.raw_silent0 (by simp) (by simp)]; exact low.mask (n := c) (by simp)) s.level
  rw [s.raw_silent0 (by simp) (by simp)] at hrun hidle
  have kv : v.Calm := hfv.calm k0 (by simp) (by simp)
  have hfor : forEach s.silent0.channels stopChannel (hooksAt s.level) s.silent0 = .ok ((), v) := by
    refine forEach_single hv ((List.nodup_finRange 16).filter _) ?_ fun b _ hb => ?_
    · simp [State.channels, hcaps, hc]
    · have hvb : v.chan b = s.chan b := (hfv.ch b (by simpa using hb) (by simp)).trans (hch b)
      simp [stopChannel, hch, hvb, hfree b hb]
  obtain ⟨u, hu, d⟩ := hostEngineEnd_paced kv.ready ((hfv.hostMode_eq (by simp)).trans (by simpa using hm))
    (hfv.inputs.2.2.1.trans (s.replies_silent0.trans hre)) s.level
  have hend := hu.run kv.quiet.env (d.frame.inputs.2.1.trans kv.quiet.env)
  have hstop : hostEngineStop (hooksAt s.level) s.silent0 = .ok ((), u) := by
    rw [hostEngineStop_eq, run_ask_bind, run_bind_ok hfor, hend]
  exact ⟨v, u, l, exec_coreDeinit k hdb hex (by simp [run_bind, hdev, hhost, hstop]), d, htr, htold, hrun, hidle, hint, hmsk, hfv⟩

end

/-- DCFG without an address. -/
theorem field_noAddress (w : Word) : field (w &&& ~~~0x7F0#32) 4 7 = 0 := by
  have hall : ∀ j : Fin 7, bitOf (~~~0x7F0#32) (4 + j) = false := by decide
  refine (field_eq_iff (by decide)).mpr fun j hj => ?_
  rw [bitOf_and, hall ⟨j, hj⟩]
  simp

/-- Settles O21: what the engine stop leaves, discarded. -/
theorem coreDeinitTearsDown : Obligations.CoreDeinitTearsDown := by
  intro s a hsh _ hex low
  have k := a.calmTask hsh
  have hsil := s.frame_silent0_records
  have hmask {v w : Word} (h : v = s.silent0.raw .GINTMSK &&& w) (hw : w &&& 0x1#32 = 0x1#32) : v = s.raw .GINTMSK &&& 0x1#32 := by
    rw [h, State.mask_silent0, mask_bit0 _ _ hw]
  refine ⟨fun hdev hhost => ?_, fun hdev hhost hm hn h31 hb => ?_, fun c n q hdev hhost hm hcaps hc hfree =>
    ⟨fun hal => ?_, fun hal ha hqu hq => ?_⟩⟩
  · exact ⟨_, coreDeinit_idle k a.release hex hdev hhost, rfl, rfl, rfl, rfl, rfl, State.gate_silent0, State.mask_silent0,
      State.torn_of hsil (by simp)⟩
  · obtain ⟨u, hrun, d⟩ := coreDeinit_device k a.release a.replies hex hdev hhost hm hn h31 hb
    refine ⟨_, hrun, rfl, rfl, congrArg CoreRec.deviceEngine d.core, rfl, rfl, ?_, hmask d.mask (by decide), d.summary, ?_,
      congrArg Ep0Rec.address d.ep0, congrArg Ep0Rec.config d.ep0, State.torn_of ?_ (by simp)⟩
    · rw [State.raw_torn, d.frame.raw_eq (by simp) (by simp), State.gate_silent0]
    · rw [State.raw_torn, d.config, field_noAddress]
    · exact (hsil.mono (by simp) (by simp)).trans ((d.frame.with_records (qs := [.records]) (by simp) (by simp)).mono (by simp) (by simp))
  · obtain ⟨u, hrun, d⟩ := coreDeinit_noChannel k a.release a.replies hex hdev hhost hm fun b => by
      by_cases hbc : b = c
      · exact hbc ▸ hal
      · exact hfree b hbc
    obtain ⟨l1, h1, l2, h2⟩ := d.trace
    obtain ⟨l0, h0⟩ := s.trace_silent0
    refine ⟨_, .ret (.status .ok) :: .cb .hostRoleStop :: (l2 ++ l0), hrun, rfl, rfl, congrArg CoreRec.hostEngine d.core, rfl, rfl, ?_,
      by simp, ?_, hmask d.mask (by decide), d.summary, State.torn_of ?_ (by simp)⟩
    · show .ret (.status .ok) :: u.trace = _
      simp [h1, ← h2, ← h0]
    · rw [State.raw_torn, d.frame.raw_eq (by simp) (by simp), State.gate_silent0]
    · exact (hsil.mono (by simp) (by simp)).trans ((d.frame.with_records (qs := [.records]) (by simp) (by simp)).mono (by simp) (by simp))
  · obtain ⟨v, u, l, hrun, d, htr, htold, hasks, hidle, hint, hmsk, hfv⟩ := coreDeinit_channel k a.release a.replies hex hdev hhost hm hcaps hc
      hfree hal ha hqu hq low
    obtain ⟨l1, h1, l2, h2⟩ := d.trace
    obtain ⟨l0, h0⟩ := s.trace_silent0
    have hraw {r : Reg} (hr : r ∉ [.GINTMSK, .HAINTMSK]) (h0 : r ≠ .DIEPTXF 0) : u.torn.raw r = v.raw r :=
      d.frame.raw_eq (by simp; simp at hr; tauto) h0
    refine ⟨_, .ret (.status .ok) :: .cb .hostRoleStop :: (l2 ++ (l ++ l0)), hrun, rfl, rfl, congrArg CoreRec.hostEngine d.core, rfl, rfl,
      ?_, by simp [htold], by simp, fun he => ?_, fun he => ?_, ?_, ?_, ?_, hmask (w := ~~~0x06000030#32) (d.mask.trans ?_) (by decide),
      d.summary, State.torn_of ?_ (by simp)⟩
    · show .ret (.status .ok) :: u.trace = _
      simp [h1, ← h2, htr, ← h0]
    · rw [hraw (by simp) (by simp)]
      exact hasks he
    · rw [hraw (by simp) (by simp), hidle he]
    · rw [hraw (by simp) (by simp), hmsk]
    · rw [hraw (by simp) (by simp), hint]
    · rw [hraw (by simp) (by simp), hfv.raw_eq (by simp) (by simp), State.gate_silent0]
    · rw [hfv.raw_eq (by simp) (by simp)]
    · have hv0 : Frame s v [.GAHBCFG, .GINTMSK, .HAINTMSK, .HCCHAR c, .HCINT c, .HCINTMSK c] [.ch c, .pool, .fifo] :=
        (frame_silent0.mono (by simp) (by simp)).trans (hfv.mono (by simp) (by simp))
      exact ((hv0.mono (by simp) (by simp)).trans (d.frame.mono (by simp) (by simp))).with_records (ps := [.ch c, .pool, .fifo, .core, .iso])
        (by simp) (by simp)

end Sys2Proof.Machine

/-! PROOF. The capabilities and the FIFO partition (R202, R206). -/

namespace Sys2Proof.Machine

open Sys2Proof

/-! The capability registers (R32, R202). -/

section
variable (c : Caps)

theorem bitOf_ghwcfg2_phy : bitOf (ghwcfg2 c) 6 = c.utmi ∧ bitOf (ghwcfg2 c) 7 = c.ulpi := by
  have h : ∀ a b : Bool, (natOf a + 2 * natOf b).testBit 0 = a ∧ (natOf a + 2 * natOf b).testBit 1 = b := by decide
  simp [ghwcfg2, bitOf_fld, h]

theorem field_ghwcfg2_serial : field (ghwcfg2 c) 8 2 = natOf c.fsSerial := by
  have h : ∀ a : Bool, natOf a % 4 = natOf a := by decide
  simp [ghwcfg2, field_fld_same, field_fld_other, h]

theorem field_ghwcfg2_dma : field (ghwcfg2 c) 3 2 = if c.capDma = .none then 0 else 2 := by
  cases h : c.capDma <;> simp [ghwcfg2, field_fld_same, field_fld_other, h]

theorem field_ghwcfg2_counts (he : c.nEp ≤ 16) (hc : c.nCh ≤ 16) :
    field (ghwcfg2 c) 10 4 = c.nEp - 1 ∧ field (ghwcfg2 c) 14 4 = c.nCh - 1 := by
  simp [ghwcfg2, field_fld_same, field_fld_other]
  omega

theorem field_ghwcfg3 (hx : c.xw ≤ 19) (hp : c.pw ≤ 10) (hd : c.fifoDepth < 65536) :
    field (ghwcfg3 c) 0 4 = c.xw - 11 ∧ field (ghwcfg3 c) 4 3 = c.pw - 4 ∧ field (ghwcfg3 c) 16 16 = c.fifoDepth := by
  simp [ghwcfg3, field_fld_same, field_fld_other]
  omega

theorem bitOf_ghwcfg4 : bitOf (ghwcfg4 c) 25 = c.dedFifo ∧
    bitOf (ghwcfg4 c) 30 = decide (c.capDma = .bufferAndDescriptor) := by
  cases h : c.capDma <;> simp [ghwcfg4, bitOf_bitIf, h]

end

/-- The capability registers tell the capabilities (R32, R202). -/
theorem capsOf_read {c : Caps} (h : c.fits) : capsOf (ghwcfg2 c) (ghwcfg3 c) (ghwcfg4 c) = c := by
  obtain ⟨he1, he, hc1, hc, hx1, hx, hp1, hp, hd⟩ := h
  obtain ⟨hutmi, hulpi⟩ := bitOf_ghwcfg2_phy c
  obtain ⟨hep, hch⟩ := field_ghwcfg2_counts c he hc
  obtain ⟨hxw, hpw, hdepth⟩ := field_ghwcfg3 c hx hp hd
  obtain ⟨hded, hdesc⟩ := bitOf_ghwcfg4 c
  have hserial : decide (natOf c.fsSerial = 1) = c.fsSerial := by cases c.fsSerial <;> rfl
  have hdma : (if (if c.capDma = .none then 0 else 2) = 0 then CapDma.none
      else if decide (c.capDma = .bufferAndDescriptor) then .bufferAndDescriptor else .buffer) = c.capDma := by
    cases c.capDma <;> rfl
  rw [capsOf, hutmi, hulpi, hep, hch, hxw, hpw, hdepth, hded, hdesc, field_ghwcfg2_serial, field_ghwcfg2_dma, hserial, hdma,
    Nat.sub_add_cancel he1, Nat.sub_add_cancel hc1, Nat.sub_add_cancel hx1, Nat.sub_add_cancel hp1]

/-! Grants (R206). -/

/-- A core record after a grant: a short one is flagged. -/
def CoreRec.granting (c : CoreRec) (free req : Nat) : CoreRec :=
  { c with cfgError := c.cfgError || decide (min req free < req) }

@[simp] theorem run_grant (free req : Nat) (h : Hooks) (s : State) :
    grant free req h s = .ok (min req free, s.withCore (s.core.granting free req)) := by
  by_cases hc : min req free < req
  · simp only [grant, run_bind, run_doIf, hc, decide_true, if_true, setCfgError, run_modCore, run_pure, CoreRec.granting, Bool.or_true]
  · simp only [grant, run_bind, run_doIf, hc, decide_false, Bool.false_eq_true, if_false, run_pure, CoreRec.granting, Bool.or_false]
    rfl

/-- The registers that hold the place of a FIFO (R33). -/
def Reg.sizesFifo : Reg → Bool
  | .GRXFSIZ | .GNPTXFSIZ | .HPTXFSIZ => true
  | .DIEPTXF i => decide (i ≠ 0)
  | _ => false

theorem Reg.sizesFifo_plain {r : Reg} (hr : r.sizesFifo = true) :
    (∀ n, r ≠ .DIEPCTL n ∧ r ≠ .DOEPCTL n ∧ r ≠ .FIFO n) ∧ (∀ n, r ≠ .HCCHAR n) ∧ r ≠ .GAHBCFG ∧ r ≠ .GRSTCTL ∧ r ≠ .DIEPTXF 0 := by
  cases r <;> simp_all [Reg.sizesFifo]

/-- One FIFO of the partition: its request is granted, its register is written and the record takes its place (R206). -/
theorem grantSize_run {s : State} {r : Reg} (k : s.Ready) (ha : s.accessible r = true) (hr : r.sizesFifo = true) (free req : Nat)
    (word : Nat → Word) (f : Nat → CoreRec → CoreRec) (h : Hooks) :
    ∃ v : State, (∀ p : Nat → M Unit, (do let d ← grant free req; regWrite r (word d); modCore (f d); p d) h s = p (min req free) h v) ∧
      v.Ready ∧ v.core = f (min req free) (s.core.granting free req) ∧ v.raw r = s.stored r (word (min req free)) ∧
      v.recordsExist = s.recordsExist ∧ s.trace <:+ v.trace ∧ Frame s v [r] [.core] := by
  obtain ⟨hp, hc, hg, hrst, ht⟩ := Reg.sizesFifo_plain hr
  exact ⟨_, fun p => by
    rw [run_bind_ok (run_grant ..), run_bind_ok (regWrite_ready (by simpa using k) (by simpa using ha) ..), run_bind_ok (run_modCore ..)],
    by simpa [hg, hrst, ht, fun n => (hp n).1] using k, by simp,
    by simp [hp], by simp, by simp, by simp [hc, fun n => (hp n).2.2]⟩

theorem CoreRec.granted {c : CoreRec} {free req : Nat} (h : (c.granting free req).cfgError = false) :
    c.cfgError = false ∧ min req free = req := by
  simp only [CoreRec.granting, Bool.or_eq_false_iff, decide_eq_false_iff_not, not_lt] at h
  exact ⟨h.1, le_antisymm (min_le_left _ _) h.2⟩

/-- The sizes of the Tx FIFOs of a list, added up. -/
def FifoTable.total (f : FifoTable) (l : List (Fin 16)) : Nat := (l.map fun j => f.epTx[j.val].2).sum

/-- From `s` to `t` the Tx FIFOs of the list `l` have been laid out from `addr` on in `free` words (R206). -/
structure State.TxLaidOut (s t : State) (p : InitParams) (l : List (Fin 16)) (free addr : Nat) : Prop where
  core : t.core = { s.core with fifo := { s.core.fifo with epTx := t.core.fifo.epTx }, cfgError := t.core.cfgError }
  kept : ∀ j : Fin 16, j ∉ l → t.core.fifo.epTx[j.val] = s.core.fifo.epTx[j.val]
  start : ∀ i ∈ l, i.val < s.core.caps.nEp →
    t.core.fifo.epTx[i.val].1 = addr + t.core.fifo.total (l.filter fun j => decide (j.val < i.val))
  within : ∀ i ∈ l, i.val < s.core.caps.nEp → t.core.fifo.epTx[i.val].2 ≤ txRequest p i
  word : ∀ i ∈ l, i.val < s.core.caps.nEp →
    t.raw (.DIEPTXF i) = fifoSizeWord t.core.fifo.epTx[i.val].1 t.core.fifo.epTx[i.val].2
  fits : t.core.fifo.total (l.filter fun j => decide (j.val < s.core.caps.nEp)) ≤ free
  whole : t.core.cfgError = false → s.core.cfgError = false ∧ ∀ i ∈ l,
    (i.val < s.core.caps.nEp → t.core.fifo.epTx[i.val].2 = txRequest p i) ∧ (s.core.caps.nEp ≤ i.val → txRequest p i = 0)
  exist : t.recordsExist = s.recordsExist
  trace : s.trace <:+ t.trace
  frame : Frame s t ((l.filter fun j => decide (j.val < s.core.caps.nEp)).map .DIEPTXF) [.core]

theorem State.stored_allRw (s : State) {r : Reg} (hm : rwMask s.hw r = 0xFFFFFFFF#32) (h1 : w1cMask r = 0) (h2 : w1sMask r = 0)
    (v : Word) : s.stored r v = v :=
  s.stored_keep h1 h2 fun k hk hk' => by
    rw [hm, bitOf_allOnes ⟨k, hk⟩] at hk'
    cases hk'

@[simp] theorem State.stored_dieptxf (s : State) (i : Fin 16) (v : Word) : s.stored (.DIEPTXF i) v = v :=
  s.stored_allRw rfl rfl rfl v

namespace State.TxLaidOut

variable {s s' t : State} {p : InitParams} {i : Fin 16} {l : List (Fin 16)} {free addr d : Nat}

/-- A number beyond the Tx FIFOs of the hardware is only flagged where it has a request (R206). -/
theorem skip (hi : ∀ j ∈ l, i < j) (hn : s.core.caps.nEp ≤ i.val)
    (hs : s' = s.withCore { s.core with cfgError := s.core.cfgError || decide (0 < txRequest p i) }) (k : s'.TxLaidOut t p l free addr) :
    s.TxLaidOut t p (i :: l) free addr := by
  subst hs
  have hmem {j : Fin 16} (hj : j ∈ i :: l) (hjn : j.val < s.core.caps.nEp) : j ∈ l := by
    rcases List.mem_cons.mp hj with rfl | hj
    · omega
    · exact hj
  refine ⟨k.core, fun j hj => k.kept j fun m => hj (by simp [m]), fun j hj hjn => ?_, fun j hj hjn => k.within j (hmem hj hjn) hjn,
    fun j hj hjn => k.word j (hmem hj hjn) hjn, ?_, fun hw => ?_, k.exist, k.trace, ?_⟩
  · rw [List.filter_cons_of_neg (by simp; omega)]
    exact k.start j (hmem hj hjn) hjn
  · rw [List.filter_cons_of_neg (by simpa using hn)]
    exact k.fits
  · obtain ⟨hc, hl⟩ := k.whole hw
    obtain ⟨hs, hreq⟩ : s.core.cfgError = false ∧ txRequest p i = 0 := by simpa using hc
    refine ⟨hs, fun j hj => ?_⟩
    rcases List.mem_cons.mp hj with rfl | hj
    · exact ⟨fun h => absurd hn (Nat.not_le.2 h), fun _ => hreq⟩
    · exact hl j hj
  · rw [List.filter_cons_of_neg (by simpa using hn)]
    exact Frame.trans (by simp) k.frame

/-- The Tx FIFO of an endpoint takes its grant, and the next starts where it ends (R206). -/
theorem take (hi : ∀ j ∈ l, i < j) (hi0 : i ≠ 0) (h0 : 0 ∉ l) (hn : i.val < s.core.caps.nEp) (hd : d = min (txRequest p i) free)
    (hs : s'.core = { s.core.granting free (txRequest p i) with
      fifo := { s.core.fifo with epTx := s.core.fifo.epTx.set i.val (addr, d) } })
    (hw : s'.raw (.DIEPTXF i) = fifoSizeWord addr d) (hx : s'.recordsExist = s.recordsExist) (ht : s.trace <:+ s'.trace) (hf : Frame s s' [.DIEPTXF i] [.core])
    (k : s'.TxLaidOut t p l (free - d) (addr + d)) : s.TxLaidOut t p (i :: l) free addr := by
  have hil : i ∉ l := fun m => absurd (hi i m) (lt_irrefl _)
  have hcaps : s'.core.caps = s.core.caps := by rw [hs]; rfl
  have hself : t.core.fifo.epTx[i.val] = (addr, d) := by simp [k.kept i hil, hs]
  refine ⟨?_, fun j hj => ?_, fun j hj hjn => ?_, fun j hj hjn => ?_, fun j hj hjn => ?_, ?_, fun he => ?_, k.exist.trans hx, ht.trans k.trace, ?_⟩
  · have hcore := k.core
    rw [hs] at hcore
    exact hcore
  · obtain ⟨hji, hj⟩ : j ≠ i ∧ j ∉ l := by simpa using hj
    rw [k.kept j hj, hs]
    exact Vector.getElem_set_ne i.isLt j.isLt fun e => hji (Fin.ext e).symm
  · rcases List.mem_cons.mp hj with rfl | hj
    · have hnone : (j :: l).filter (fun b => decide (b.val < j.val)) = [] := by
        rw [List.filter_eq_nil_iff]
        intro b hb
        rcases List.mem_cons.mp hb with rfl | hb
        · simp
        · simpa using (hi b hb).le
      rw [hnone, hself]
      rfl
    · rw [List.filter_cons_of_pos (by simpa using hi j hj), k.start j hj (hcaps ▸ hjn)]
      simp only [FifoTable.total, List.map_cons, List.sum_cons, hself]
      omega
  · rcases List.mem_cons.mp hj with rfl | hj
    · rw [hself, hd]
      exact min_le_left _ _
    · exact k.within j hj (hcaps ▸ hjn)
  · rcases List.mem_cons.mp hj with rfl | hj
    · rw [hself, ← hw]
      refine k.frame.raw_eq (fun b hb => ?_) (by simpa using hi0)
      obtain ⟨x, hx, rfl⟩ := List.mem_map.mp hb
      have hxl := (List.mem_filter.mp hx).1
      exact ⟨by simpa using (hi x hxl).ne, by rintro ⟨⟩; exact h0 hxl⟩
    · exact k.word j hj (hcaps ▸ hjn)
  · have hfit := k.fits
    have hle : d ≤ free := hd ▸ min_le_right _ _
    rw [hcaps] at hfit
    rw [List.filter_cons_of_pos (by simpa using hn)]
    simp only [FifoTable.total, List.map_cons, List.sum_cons, hself] at hfit ⊢
    omega
  · obtain ⟨hc, hl⟩ := k.whole he
    rw [hs] at hc
    obtain ⟨hsc, hgrant⟩ := CoreRec.granted (c := s.core) hc
    refine ⟨hsc, fun j hj => ?_⟩
    rcases List.mem_cons.mp hj with rfl | hj
    · exact ⟨fun _ => by rw [hself, hd, hgrant], fun h => absurd hn (Nat.not_lt.2 h)⟩
    · exact hcaps ▸ hl j hj
  · rw [List.filter_cons_of_pos (by simpa using hn), List.map_cons]
    have hrest := k.frame
    rw [hcaps] at hrest
    exact (hf.mono (by simp) (by simp)).trans (hrest.mono (by simp) (by simp))

end State.TxLaidOut

@[simp] theorem accessible_dieptxf (s : State) {i : Fin 16} (h : i ≠ 0) : s.accessible (.DIEPTXF i) = true :=
  accessible_core rfl rfl (decide_eq_true fun e => h (Fin.ext e))

/-- The Tx FIFOs are laid out one after the other (R206). -/
theorem partitionTx_run (p : InitParams) (h : Hooks) : ∀ (l : List (Fin 16)) (s : State) (free addr : Nat), s.Ready →
    l.Pairwise (· < ·) → 0 ∉ l → ∃ u, partitionTx p l free addr h s = .ok ((), u) ∧ s.TxLaidOut u p l free addr
  | [], s, _, _, _, _, _ => ⟨s, rfl, rfl, by simp, by simp, by simp, by simp, by simp [FifoTable.total], by simp, rfl, List.suffix_rfl, by simp⟩
  | i :: l, s, free, addr, k, hl, h0 => by
    obtain ⟨hi, hl⟩ := List.pairwise_cons.mp hl
    obtain ⟨hi0, h0⟩ : i ≠ 0 ∧ 0 ∉ l := ⟨fun e => h0 (by simp [e]), fun m => h0 (by simp [m])⟩
    by_cases hn : s.core.caps.nEp ≤ i.val
    · obtain ⟨u, hu, lay⟩ := partitionTx_run p h l
        (s.withCore { s.core with cfgError := s.core.cfgError || decide (0 < txRequest p i) }) free addr (by simpa using k) hl h0
      refine ⟨u, ?_, lay.skip hi hn rfl⟩
      rw [partitionTx, run_ask_bind, if_pos hn, ← hu]
      by_cases hr : 0 < txRequest p i
      · simp only [run_bind, run_doIf, hr, decide_true, if_true, setCfgError, run_modCore, Bool.or_true]
      · simp only [run_bind, run_doIf, hr, decide_false, Bool.false_eq_true, if_false, Bool.or_false]
        rfl
    · obtain ⟨v, hv, kv, hcore, hword, hx, ht, hf⟩ := grantSize_run (r := .DIEPTXF i) k (by simp [hi0]) (by simp [Reg.sizesFifo, hi0]) free
        (txRequest p i) (fifoSizeWord addr) (fun d c => { c with fifo := { c.fifo with epTx := c.fifo.epTx.set i.val (addr, d) } }) h
      obtain ⟨u, hu, lay⟩ := partitionTx_run p h l v (free - min (txRequest p i) free) (addr + min (txRequest p i) free) kv hl h0
      refine ⟨u, ?_, lay.take hi hi0 h0 (Nat.not_le.1 hn) rfl hcore (hword.trans (s.stored_dieptxf ..)) hx ht hf⟩
      rw [partitionTx, run_ask_bind, if_neg hn, ← hu]
      exact hv fun d => partitionTx p l (free - d) (addr + d)

/-! The partition (R206). -/

@[simp] theorem bitOf_peek_gintsts (s : State) : bitOf (s.peek .GINTSTS) 0 = s.hostMode := by
  simp [State.peek, State.gintsts_eq, State.levels, bitOf_or, bitOf_and, bitOf_bitIf, State.hostMode]

/-- The receive FIFO's grant (R206). -/
def State.rxGrant (s : State) (p : InitParams) : Nat := min p.rxFifo.toNat s.core.caps.fifoDepth

/-- The non-periodic Tx FIFO's grant (R206). -/
def State.npGrant (s : State) (p : InitParams) : Nat := min p.nptxFifo.toNat (s.core.caps.fifoDepth - s.rxGrant p)

/-- The two FIFOs of both roles have been laid out (R206). -/
structure State.SharedLaidOut (s t : State) (p : InitParams) : Prop where
  ready : t.Ready
  core : t.core = { s.core with
    fifo := { s.core.fifo with rx := (0, s.rxGrant p), nptx := (s.rxGrant p, s.npGrant p) }, cfgError := t.core.cfgError }
  whole : t.core.cfgError = false →
    s.core.cfgError = false ∧ s.rxGrant p = p.rxFifo.toNat ∧ s.npGrant p = p.nptxFifo.toNat
  rxWord : t.raw .GRXFSIZ = s.stored .GRXFSIZ (fld 0 16 (s.rxGrant p))
  npWord : t.raw .GNPTXFSIZ = fifoSizeWord (s.rxGrant p) (s.npGrant p)
  exist : t.recordsExist = s.recordsExist
  trace : s.trace <:+ t.trace
  frame : Frame s t [.GRXFSIZ, .GNPTXFSIZ] [.core]

/-- The part of the partition that both roles have. -/
theorem fifoShared_run {s : State} (k : s.Ready) (p : InitParams) (h : Hooks) : ∃ v, s.SharedLaidOut v p ∧
    fifoPartition p h s = (if s.hostMode then (do
        let d ← grant (s.core.caps.fifoDepth - s.rxGrant p - s.npGrant p) p.hptxFifo.toNat
        regWrite .HPTXFSIZ (fifoSizeWord (s.rxGrant p + s.npGrant p) d)
        modCore fun c => { c with fifo := { c.fifo with hptx := (s.rxGrant p + s.npGrant p, d) } })
      else partitionTx p txNumbers (s.core.caps.fifoDepth - s.rxGrant p - s.npGrant p) (s.rxGrant p + s.npGrant p)) h v := by
  obtain ⟨a, ha, ka, ca, wa, xa, ta, fa⟩ := grantSize_run (r := .GRXFSIZ) k (by simp) rfl s.core.caps.fifoDepth p.rxFifo.toNat
    (fun d => fld 0 16 d) (fun d c => { c with fifo := { c.fifo with rx := (0, d) } }) h
  obtain ⟨b, hb, kb, cb, wb, xb, tb, fb⟩ := grantSize_run (r := .GNPTXFSIZ) ka (by simp) rfl (s.core.caps.fifoDepth - s.rxGrant p)
    p.nptxFifo.toNat (fifoSizeWord (s.rxGrant p)) (fun d c => { c with fifo := { c.fifo with nptx := (s.rxGrant p, d) } }) h
  have hmode : b.hostMode = s.hostMode := (fb.hostMode_eq (by simp)).trans (fa.hostMode_eq (by simp))
  refine ⟨b.note (.rd 0x014 (b.peek .GINTSTS)), ⟨by simpa using kb, ?_, fun he => ?_, ?_, ?_, xb.trans xa, (ta.trans tb).trans (by simp), ?_⟩, ?_⟩
  · rw [State.note_core, cb, ca]
    rfl
  · rw [State.note_core, cb] at he
    obtain ⟨hea, hnp⟩ := CoreRec.granted (c := a.core) he
    rw [ca] at hea
    obtain ⟨hes, hrx⟩ := CoreRec.granted (c := s.core) hea
    exact ⟨hes, hrx, hnp⟩
  · rw [State.raw_of_note, fb.raw_eq (by simp) (by simp), wa]
    rfl
  · rw [State.raw_of_note, wb, a.stored_allRw rfl rfl rfl]
    rfl
  · simpa using (fa.mono (by simp) (by simp)).trans (fb.mono (by simp) (by simp))
  · rw [fifoPartition, run_ask_bind]
    refine (ha _).trans ((hb _).trans ?_)
    rw [run_bind_ok (regRead_ready kb (by simp) (by simp) h), bitOf_peek_gintsts, hmode]
    rfl

/-- The partition of a device (R206). -/
theorem fifoPartition_device {s : State} (k : s.Ready) (hm : s.hostMode = false) (p : InitParams) (h : Hooks) :
    ∃ v u, fifoPartition p h s = .ok ((), u) ∧ s.SharedLaidOut v p ∧
      v.TxLaidOut u p txNumbers (s.core.caps.fifoDepth - s.rxGrant p - s.npGrant p) (s.rxGrant p + s.npGrant p) := by
  obtain ⟨v, hv, hrun⟩ := fifoShared_run k p h
  obtain ⟨u, hu, lay⟩ := partitionTx_run p h txNumbers v (s.core.caps.fifoDepth - s.rxGrant p - s.npGrant p)
    (s.rxGrant p + s.npGrant p) hv.ready (by decide) (by decide)
  exact ⟨v, u, by rw [hrun, hm, if_neg (by simp), hu], hv, lay⟩

/-- The partition of a host (R206): the periodic Tx FIFO takes what it asks for of what is left. -/
theorem fifoPartition_host {s : State} (k : s.Ready) (hm : s.hostMode = true) (p : InitParams) (h : Hooks) :
    ∃ v u, fifoPartition p h s = .ok ((), u) ∧ s.SharedLaidOut v p ∧
      u.core = { v.core.granting (s.core.caps.fifoDepth - s.rxGrant p - s.npGrant p) p.hptxFifo.toNat with
        fifo := { v.core.fifo with hptx := (s.rxGrant p + s.npGrant p,
          min p.hptxFifo.toNat (s.core.caps.fifoDepth - s.rxGrant p - s.npGrant p)) } } ∧
      u.raw .HPTXFSIZ = fifoSizeWord (s.rxGrant p + s.npGrant p)
        (min p.hptxFifo.toNat (s.core.caps.fifoDepth - s.rxGrant p - s.npGrant p)) ∧ u.recordsExist = v.recordsExist ∧
      v.trace <:+ u.trace ∧ Frame v u [.HPTXFSIZ] [.core] := by
  obtain ⟨v, hv, hrun⟩ := fifoShared_run k p h
  obtain ⟨u, hu, ku, hcore, hword, hx, ht, hf⟩ := grantSize_run (r := .HPTXFSIZ) hv.ready (by simp) rfl
    (s.core.caps.fifoDepth - s.rxGrant p - s.npGrant p) p.hptxFifo.toNat (fifoSizeWord (s.rxGrant p + s.npGrant p))
    (fun d c => { c with fifo := { c.fifo with hptx := (s.rxGrant p + s.npGrant p, d) } }) h
  refine ⟨v, u, ?_, hv, hcore, hword.trans (v.stored_allRw rfl rfl rfl _), hx, ht, hf⟩
  rw [hrun, hm, if_pos rfl]
  exact hu fun _ => pure ()

end Sys2Proof.Machine

/-! PROOF. `role_program` and the engine starts (R207, R410). -/

namespace Sys2Proof.Machine

open Sys2Proof

/-! Both flushes (R207). -/

/-- From `s` to `t` both flushes have run. -/
structure State.Emptied (s t : State) : Prop where
  ready : t.Ready
  empty : s.fifo = emptyFifo → t.fifo = emptyFifo
  idle : s.raw .GRSTCTL = 0x80000000#32 → t.raw .GRSTCTL = 0x80000000#32
  trace : s.trace <:+ t.trace
  frame : Frame s t [.GRSTCTL] [.fifo]

theorem raw_afterFlushTx_idle {s : State} (h : s.raw .GRSTCTL = 0x80000000#32) :
    (s.afterFlushTx 16).raw .GRSTCTL = 0x80000400#32 := by
  have hraw := (s.asked (bit1 5 ||| fld 6 5 16)).raw_afterTxFlush .GRSTCTL |>.trans (if_pos rfl)
  rw [State.raw_asked, State.stored, h, show rwMask s.hw .GRSTCTL = 0x7C0#32 from rfl] at hraw
  exact hraw.trans (by decide)

theorem raw_afterFlushRx_idle {s : State} (h : s.raw .GRSTCTL = 0x80000400#32) : s.afterFlushRx.raw .GRSTCTL = 0x80000000#32 := by
  have hraw := (s.asked (bit1 4)).raw_afterRxFlush .GRSTCTL |>.trans (if_pos rfl)
  rw [State.raw_asked, State.stored, h, show rwMask s.hw .GRSTCTL = 0x7C0#32 from rfl] at hraw
  exact hraw.trans (by decide)

theorem trace_afterFlushTx (s : State) (num : Nat) : s.trace <:+ (s.afterFlushTx num).trace := by
  rw [State.afterFlushTx, State.afterTxFlush, flushTx_only]
  simp [State.polled, State.asked, State.clearBits, State.hwSet, List.suffix_cons_iff]

theorem trace_afterFlushRx (s : State) : s.trace <:+ s.afterFlushRx.trace := by
  simp [State.afterFlushRx, State.afterRxFlush, State.polled, State.asked, State.clearBits, State.hwSet, List.suffix_cons_iff]

theorem flushes_run {s : State} (k : s.Ready) (hp : s.prompt = true) (hl : 1 ≤ s.hw.flushPollLimit) (h : Hooks) :
    ∃ t v, s.Emptied t ∧ flushTxFifo 0x10 h s = .ok (.ok, v) ∧ flushRxFifo h v = .ok (.ok, t) := by
  have ftx := frame_afterFlushTx s 16
  have kv := State.ready_afterFlushTx k hp 16
  have hpv : (s.afterFlushTx 16).prompt = true := ftx.inputs.2.2.2.trans hp
  have hlv : 1 ≤ (s.afterFlushTx 16).hw.flushPollLimit := ftx.hw ▸ hl
  refine ⟨_, _, ⟨State.ready_afterFlushRx kv hpv, fun he => ?_, fun hi => raw_afterFlushRx_idle (raw_afterFlushTx_idle hi),
    (trace_afterFlushTx s 16).trans (trace_afterFlushRx _), ftx.trans (frame_afterFlushRx _)⟩, flushTxFifo_prompt k hp hl h 16, flushRxFifo_prompt kv hpv hlv h⟩
  rw [fifo_afterFlushRx, fifo_afterFlushTx s (by decide), State.flushTx, if_pos rfl]
  simp only [he]
  rfl

/-! The configuration register of the mode (R211). -/

/-- The word of the configuration register of the current mode (R211). -/
def CoreRec.dcfg (c : CoreRec) : Word := fld 0 2 (speedCode c) ||| bitIf (decide (c.dmaMode = .descDma)) 23
def CoreRec.hcfg (c : CoreRec) : Word := bitIf c.params.fullSpeed 2 ||| bitIf (decide (c.dmaMode = .descDma)) 23

/-- The configuration register of the mode has been written after the FIFOs were flushed (R207, R211). -/
structure State.RoleSet (s t : State) (r : Reg) (w : Word) : Prop where
  ready : t.Ready
  empty : s.fifo = emptyFifo → t.fifo = emptyFifo
  idle : s.raw .GRSTCTL = 0x80000000#32 → t.raw .GRSTCTL = 0x80000000#32
  config : t.raw r = s.stored r w
  trace : s.trace <:+ t.trace
  frame : Frame s t [.GRSTCTL, r] [.fifo]

/-- The configuration register of the current mode and its word (R211). -/
def State.modeReg (s : State) : Reg := if s.hostMode then .HCFG else .DCFG
def State.modeWord (s : State) : Word := if s.hostMode then s.core.hcfg else s.core.dcfg

theorem programMode_run {s : State} (k : s.Ready) (h : Hooks) : ∃ t, programMode h s = .ok ((), t) ∧ t.Ready ∧
    t.raw s.modeReg = s.stored s.modeReg s.modeWord ∧ s.trace <:+ t.trace ∧ Frame s t [s.modeReg] [] := by
  have hread := run_bind_ok (regRead_ready k (r := .GINTSTS) (by simp) (by simp) h) (f := fun m => do
    let c ← ask State.core
    let desc := decide (c.dmaMode = .descDma)
    if bitOf m 0 then regWrite .HCFG (bitIf c.params.fullSpeed 2 ||| bitIf desc 23)
    else regWrite .DCFG (fld 0 2 (speedCode c) ||| bitIf desc 23))
  rw [State.modeReg, State.modeWord, programMode, hread, run_ask_bind, bitOf_peek_gintsts]
  cases hm : s.hostMode
  · refine ⟨_, regWrite_ready (r := .DCFG) (by simpa using k) (by simp [hm]) _ h, by simpa using k,
      (State.raw_writeReg_plain _ _ (by simp)).trans (State.stored_of_note ..),
      by simp [List.suffix_cons_iff], by simp⟩
  · refine ⟨_, regWrite_ready (r := .HCFG) (by simpa using k) (by simp [hm]) _ h, by simpa using k,
      (State.raw_writeReg_plain _ _ (by simp)).trans (State.stored_of_note ..),
      by simp [List.suffix_cons_iff], by simp⟩

/-- `role_program` once its FIFOs are laid out (R207). -/
theorem roleProgram_run {s u : State} {h : Hooks} (hpart : fifoPartition s.core.params h s = .ok ((), u)) (k : u.Ready)
    (hp : u.prompt = true) (hl : 1 ≤ u.hw.flushPollLimit) :
    ∃ t, roleProgram h s = .ok (.ok, t) ∧ u.RoleSet t u.modeReg u.modeWord := by
  obtain ⟨v, _, hv, htx, hrx⟩ := flushes_run k hp hl h
  have hmode : v.hostMode = u.hostMode := hv.frame.hostMode_eq (by simp)
  have hreg : v.modeReg = u.modeReg := by rw [State.modeReg, State.modeReg, hmode]
  have hword : v.modeWord = u.modeWord := by rw [State.modeWord, State.modeWord, hmode, hv.frame.core (by simp) (by simp)]
  have hne : .GRSTCTL ≠ u.modeReg ∧ u.modeReg ≠ .GRSTCTL ∧ u.modeReg ≠ .DIEPTXF 0 := by
    rw [State.modeReg]
    cases u.hostMode <;> simp
  obtain ⟨t, ht, kt, hraw, htr, hf⟩ := programMode_run hv.ready h
  rw [hreg, hword] at hraw
  rw [hreg] at hf
  refine ⟨t, ?_, kt, fun he => (hf.fifo (by simp)).trans (hv.empty he), fun hi => ?_, ?_, hv.trace.trans htr, ?_⟩
  · rw [roleProgram, run_ask_bind, run_bind_ok hpart, run_bind_ok htx, if_pos rfl, run_bind_ok hrx, if_pos rfl, run_bind_ok ht]
    rfl
  · exact (hf.raw_eq (by simp [hne]) (by simp)).trans (hv.idle hi)
  · exact hraw.trans (State.stored_congr hv.frame.hw (hv.frame.raw_eq (by simp [hne]) hne.2.2) _)
  · exact (hv.frame.mono (by simp) (by simp)).trans (hf.mono (by simp) (by simp))

/-! Several writes, one after the other. -/

/-- Writes of registers, and what follows them. -/
def writeAll {α : Type} (rest : M α) : List (Reg × Word) → M α
  | [] => rest
  | (r, v) :: l => do
    regWrite r v
    writeAll rest l

theorem State.raw_writeReg_congr {s t : State} {r : Reg} (hw : t.hw = s.hw) (hr : t.raw r = s.raw r) (hf : ∀ n, r ≠ .FIFO n)
    (v : Word) : (t.writeReg r v).raw r = (s.writeReg r v).raw r := by
  have ctl (e : EpRef) (he : r = epCtl e) : (t.writeReg r v).raw r = (s.writeReg r v).raw r := by
    subst he
    rw [t.raw_writeReg_epCtl, s.raw_writeReg_epCtl, State.stored_congr hw hr]
  by_cases hi : ∃ n, r = .DIEPCTL n
  · obtain ⟨n, rfl⟩ := hi
    exact ctl ⟨n, .IN⟩ rfl
  by_cases ho : ∃ n, r = .DOEPCTL n
  · obtain ⟨n, rfl⟩ := ho
    exact ctl ⟨n, .OUT⟩ rfl
  have hp : ∀ n, r ≠ .DIEPCTL n ∧ r ≠ .DOEPCTL n ∧ r ≠ .FIFO n := fun n =>
    ⟨fun e => hi ⟨n, e⟩, fun e => ho ⟨n, e⟩, hf n⟩
  rw [t.raw_writeReg_plain v hp, s.raw_writeReg_plain v hp, State.stored_congr hw hr]

/-- From `s` to `t` the registers of a list have been written. -/
structure State.WroteAll (s t : State) (l : List (Reg × Word)) : Prop where
  ready : t.Ready
  word : ∀ p ∈ l, t.raw p.1 = (s.writeReg p.1 p.2).raw p.1
  trace : s.trace <:+ t.trace
  accessible : ∀ q, t.accessible q = s.accessible q
  frame : Frame s t (l.map Prod.fst) []

/-- A write that leaves the machine ready, and no FIFO changed. -/
def Gentle (p : Reg × Word) : Prop :=
  p.1.keepsFifo = true ∧ p.1 ≠ .DIEPTXF 0 ∧ ∀ u : State, u.Ready → (u.writeReg p.1 p.2).Ready

theorem gentle_plain {r : Reg} (hf : r.keepsFifo = true) (hr : r ≠ .GAHBCFG ∧ r ≠ .GRSTCTL ∧ r ≠ .DIEPCTL 0 ∧ r ≠ .DIEPTXF 0) (v : Word) :
    Gentle (r, v) :=
  ⟨hf, hr.2.2.2, fun _ k => (State.ready_writeReg v hr.1 hr.2.1 hr.2.2.1 hr.2.2.2).mpr k⟩

theorem gentle_epCtl (e : EpRef) {v : Word} (h30 : bitOf v 30 = false) : Gentle (epCtl e, v) :=
  ⟨by simp, by simp, fun _ k => k.writeCtl e h30⟩

theorem writeAll_run (h : Hooks) : ∀ (l : List (Reg × Word)) {s : State}, s.Ready → (∀ p ∈ l, s.accessible p.1 = true ∧ Gentle p) →
    (l.map Prod.fst).Nodup → ∃ t, (∀ {α : Type} (rest : M α), writeAll rest l h s = rest h t) ∧ s.WroteAll t l
  | [], s, k, _, _ => ⟨s, fun _ => rfl, k, by simp, by simp, by simp, by simp⟩
  | (r, v) :: l, s, k, hl, hd => by
    obtain ⟨hr, hd⟩ := List.nodup_cons.mp hd
    obtain ⟨⟨ha, hfifo, h0, hready⟩, hl⟩ := List.forall_mem_cons.mp hl
    have hne : ∀ p ∈ l, p.1 ≠ r := fun p hp e => hr (List.mem_map.mpr ⟨p, hp, e⟩)
    obtain ⟨t, ht, w⟩ := writeAll_run h l (s := (s.writeReg r v).note (.wr r.offset v)) (by simpa using hready s k)
      (by simpa using hl) hd
    refine ⟨t, fun rest => ?_, w.ready, ?_, ?_, fun q => (w.accessible q).trans (by simp), ?_⟩
    · rw [writeAll, run_bind_ok (regWrite_ready k ha v h), ht]
    · refine List.forall_mem_cons.mpr ⟨?_, fun p hp => ?_⟩
      · refine (w.frame.raw_eq (fun q hq => ?_) h0).trans (State.raw_of_note ..)
        obtain ⟨p, hp, rfl⟩ := List.mem_map.mp hq
        exact ⟨(hne p hp).symm, (hl p hp).2.2.1⟩
      · refine (w.word p hp).trans (State.raw_writeReg_congr (by simp) ?_ ?_ _)
        · simp [hne p hp, h0, (hl p hp).2.2.1]
        · exact ((Reg.keepsFifo_iff p.1).mp (hl p hp).2.1).2
    · exact List.IsSuffix.trans (by simp) w.trace
    · exact Frame.trans (by simp [hfifo]) (w.frame.mono (by simp) (by simp))

/-! The end of an engine start (R410). -/

/-- What both engine starts end with: the events are unmasked, the engine is started, and UPPER is told (R410). -/
structure State.EngineUp (s t : State) (g : Word → Word) (f : CoreRec → CoreRec) (c : Callback) : Prop where
  ready : t.Ready
  core : t.core = f s.core
  mask : t.raw .GINTMSK = s.stored .GINTMSK (g (s.raw .GINTMSK))
  trace : ∃ l, t.trace = .cb c :: l ∧ s.trace <:+ l
  exist : t.recordsExist = s.recordsExist
  frame : Frame s t [.GINTMSK] [.core]

theorem engineUp_run {s : State} (k : s.Ready) (hr : s.replies = []) (m : Nat) (g : Word → Word) (f : CoreRec → CoreRec)
    (c : Callback) : ∃ t, (do regUpdate .GINTMSK g; modCore f; callback c) (hooksAt m) s = .ok ((), t) ∧ s.EngineUp t g f c := by
  exact ⟨_, (run_bind_ok (regUpdate_ready k (by simp) (by simp) g _)).trans ((run_bind_ok (run_modCore ..)).trans
    (callback_calm m c (by simpa using hr))), by simpa using k, by simp, by simp [State.peek], ⟨_, rfl, [_, _], rfl⟩, by simp, by simp⟩

/-! The device engine (R410). -/

/-- The parts of a state that hold the endpoints' records. -/
def endpointParts : List Part := (List.finRange 16).flatMap fun n => [.ep ⟨n, .IN⟩, .ep ⟨n, .OUT⟩]

@[simp] theorem mem_endpointParts (e : EpRef) : .ep e ∈ endpointParts := by
  rcases e with ⟨n, _ | _⟩ <;> simp [endpointParts]

theorem mem_endpointParts_iff (p : Part) : p ∈ endpointParts ↔ ∃ e, p = .ep e := by
  refine ⟨fun h => ?_, fun ⟨e, he⟩ => he ▸ mem_endpointParts e⟩
  obtain ⟨n, -, hn⟩ := List.mem_flatMap.mp h
  rcases List.mem_cons.mp hn with rfl | hn
  · exact ⟨_, rfl⟩
  · exact ⟨_, List.mem_singleton.mp hn⟩

theorem ep_freshEndpoints (s : State) (e : EpRef) : s.freshEndpoints.ep e = { blankEp with disabling := (s.ep e).disabling } := by
  rcases e with ⟨n, _ | _⟩ <;> simp [State.ep, State.freshEndpoints, EpRec.fresh]

theorem frame_freshEndpoints (s : State) : Frame s s.freshEndpoints [] (.ep0 :: endpointParts) where
  regs _ _ := rfl
  mem _ _ := rfl
  fifo _ := rfl
  core _ _ := rfl
  ep e h _ := absurd (List.mem_cons_of_mem _ (mem_endpointParts e)) h
  ch _ _ _ := rfl
  pool _ _ := rfl
  ep0 h _ := absurd (List.mem_cons_self ..) h
  iso _ _ := rfl
  htog _ _ := rfl
  plat _ := rfl
  served _ _ := ⟨rfl, rfl⟩
  context _ := rfl
  hw := rfl
  exist _ _ := rfl
  inputs := ⟨rfl, rfl, rfl, rfl⟩
  hidden := ⟨rfl, rfl, rfl, rfl⟩

/-- From `s` to `t` the registers and records of a device engine have been set up (R410). -/
structure State.DeviceSetUp (s t : State) : Prop where
  ready : t.Ready
  core : t.core = { s.core with deviceEngine := true }
  ep : ∀ e, t.ep e = { blankEp with disabling := (s.ep e).disabling }
  ep0 : t.ep0 = { s.ep0 with state := .disconnected, address := 0, config := 0 }
  trace : ∃ l, t.trace = .cb .deviceRoleStart :: l ∧ s.trace <:+ l
  inMask : t.raw .DIEPMSK = s.stored .DIEPMSK (diepmskValue s.isDesc)
  outMask : t.raw .DOEPMSK = s.stored .DOEPMSK (doepmskValue s.isDesc)
  inCtl : t.raw (.DIEPCTL 0) = endpointActions (bit1 27) (s.stored (.DIEPCTL 0) (bit1 27))
  outCtl : t.raw (.DOEPCTL 0) = endpointActions (bit1 27) (s.stored (.DOEPCTL 0) (bit1 27))
  summary : t.raw .DAINTMSK = 0x00010001
  empty : t.raw .DIEPEMPMSK = s.stored .DIEPEMPMSK 0
  mask : t.raw .GINTMSK = s.stored .GINTMSK (s.raw .GINTMSK ||| 0x000C7800 ||| bitIf s.isSlave 4)
  exist : t.recordsExist = s.recordsExist
  frame : Frame s t [.DIEPMSK, .DOEPMSK, .DIEPCTL 0, .DOEPCTL 0, .DAINTMSK, .DIEPEMPMSK, .GINTMSK] (.core :: .ep0 :: endpointParts)

theorem deviceEngineSetup_run {s : State} (k : s.Ready) (hm : s.hostMode = false) (hn : 1 ≤ s.hw.caps.nEp) (hr : s.replies = [])
    (m : Nat) : ∃ t, deviceEngineSetup (hooksAt m) s = .ok ((), t) ∧ s.DeviceSetUp t := by
  have f0 := frame_freshEndpoints s
  have k0 : s.freshEndpoints.Ready := f0.ready k (by simp [mem_endpointParts_iff]) (by simp)
  have acc (q : Reg) : s.freshEndpoints.accessible q = s.accessible q := rfl
  have hn0 : 0 < s.hw.caps.nEp := hn
  have hin : Gentle (.DIEPCTL 0, bit1 27) := gentle_epCtl ⟨0, .IN⟩ (by simp [bitOf_bit1])
  have hout : Gentle (.DOEPCTL 0, bit1 27) := gentle_epCtl ⟨0, .OUT⟩ (by simp [bitOf_bit1])
  obtain ⟨u, hu, w⟩ := writeAll_run (hooksAt m) [(.DIEPMSK, diepmskValue s.isDesc), (.DOEPMSK, doepmskValue s.isDesc),
    (.DIEPCTL 0, bit1 27), (.DOEPCTL 0, bit1 27), (.DAINTMSK, 0x00010001), (.DIEPEMPMSK, 0)] k0
    (by simp [acc, hm, hn0, gentle_plain, hin, hout]) (by simp)
  have f : Frame s u [.DIEPMSK, .DOEPMSK, .DIEPCTL 0, .DOEPCTL 0, .DAINTMSK, .DIEPEMPMSK] (.ep0 :: endpointParts) :=
    (f0.mono (by simp) (by simp)).trans (w.frame.mono (by simp) (by simp))
  have hraw (r : Reg) : s.freshEndpoints.raw r = s.raw r := rfl
  obtain ⟨t, ht, e⟩ := engineUp_run w.ready (f.inputs.2.2.1.trans hr) m (fun w => w ||| 0x000C7800 ||| bitIf s.isSlave 4)
    (fun c => { c with deviceEngine := true }) .deviceRoleStart
  have word {r : Reg} {v : Word} (hp : (r, v) ∈ [(Reg.DIEPMSK, diepmskValue s.isDesc), (.DOEPMSK, doepmskValue s.isDesc),
      (.DIEPCTL 0, bit1 27), (.DOEPCTL 0, bit1 27), (.DAINTMSK, 0x00010001), (.DIEPEMPMSK, 0)])
      (h1 : r ≠ .GINTMSK) (h0 : r ≠ .DIEPTXF 0) : t.raw r = (s.freshEndpoints.writeReg r v).raw r :=
    (e.frame.raw_eq (by simp [h1]) h0).trans (w.word _ hp)
  have core : u.core = s.core := f.core (by simp [mem_endpointParts_iff]) (by simp [mem_endpointParts_iff])
  obtain ⟨l, hl, hs⟩ := e.trace
  refine ⟨t, (hu _).trans ht, e.ready, e.core.trans (by rw [core]), fun x => ?_, ?_, ⟨l, hl, w.trace.trans hs⟩, ?_, ?_, ?_, ?_, ?_, ?_, ?_, ?_, ?_⟩
  · rw [e.frame.ep x (by simp) (by simp), w.frame.ep x (by simp) (by simp)]
    exact ep_freshEndpoints s x
  · rw [e.frame.ep0 (by simp) (by simp), w.frame.ep0 (by simp) (by simp)]
    rfl
  · exact (word (by simp) (by simp) (by simp)).trans (State.raw_writeReg_plain _ _ (by simp))
  · exact (word (by simp) (by simp) (by simp)).trans (State.raw_writeReg_plain _ _ (by simp))
  · exact (word (v := bit1 27) (by simp) (by simp) (by simp)).trans (State.raw_writeReg_epCtl _ ⟨0, .IN⟩ _)
  · exact (word (v := bit1 27) (by simp) (by simp) (by simp)).trans (State.raw_writeReg_epCtl _ ⟨0, .OUT⟩ _)
  · rw [word (v := 0x00010001) (by simp) (by simp) (by simp), State.raw_writeReg_plain _ _ (by simp), State.stored_daintmsk]
  · exact (word (by simp) (by simp) (by simp)).trans (State.raw_writeReg_plain _ _ (by simp))
  · exact e.mask.trans (by rw [f.raw_eq (by simp) (by simp), State.stored_congr f.hw (f.raw_eq (by simp) (by simp))])
  · exact e.exist.trans (f.exist (by simp [mem_endpointParts_iff]) (by simp [mem_endpointParts_iff]))
  · exact (f.mono (by simp) (by simp)).trans (e.frame.mono (by simp) (by simp))

/-! The host engine (R410). -/

/-- The parts of a state that hold the channels' records. -/
def channelParts : List Part := (List.finRange 16).map .ch

theorem mem_channelParts_iff (p : Part) : p ∈ channelParts ↔ ∃ c, p = .ch c := by
  simp [channelParts, eq_comm]

/-- Fresh channels and no toggles (R410). -/
def State.freshChannels (s : State) : State := { s with ch := Vector.replicate 16 blankCh, htog := [] }

theorem frame_freshChannels (s : State) : Frame s s.freshChannels [] (.htog :: channelParts) where
  regs _ _ := rfl
  mem _ _ := rfl
  fifo _ := rfl
  core _ _ := rfl
  ep _ _ _ := rfl
  ch c h _ := absurd (List.mem_cons_of_mem _ ((mem_channelParts_iff _).mpr ⟨c, rfl⟩)) h
  pool _ _ := rfl
  ep0 _ _ := rfl
  iso _ _ := rfl
  htog h _ := absurd (List.mem_cons_self ..) h
  plat _ := rfl
  served _ _ := ⟨rfl, rfl⟩
  context _ := rfl
  hw := rfl
  exist _ _ := rfl
  inputs := ⟨rfl, rfl, rfl, rfl⟩
  hidden := ⟨rfl, rfl, rfl, rfl⟩

/-- From `s` to `t` the registers and records of a host engine have been set up (R410). -/
structure State.HostSetUp (s t : State) : Prop where
  ready : t.Ready
  core : t.core = { s.core with hostEngine := true }
  ch : ∀ c, t.chan c = blankCh
  htog : t.htog = []
  trace : ∃ l, t.trace = .cb .hostRoleStart :: l ∧ s.trace <:+ l
  summary : t.raw .HAINTMSK = s.stored .HAINTMSK 0
  mask : t.raw .GINTMSK = s.stored .GINTMSK (s.raw .GINTMSK ||| bit1 25 ||| bitIf s.isSlave 4)
  exist : t.recordsExist = s.recordsExist
  frame : Frame s t [.HAINTMSK, .GINTMSK] (.core :: .htog :: channelParts)

theorem hostEngineSetup_run {s : State} (k : s.Ready) (hm : s.hostMode = true) (hr : s.replies = []) (m : Nat) :
    ∃ t, hostEngineSetup (hooksAt m) s = .ok ((), t) ∧ s.HostSetUp t := by
  have f0 := frame_freshChannels s
  have k0 : s.freshChannels.Ready := f0.ready k (by simp [mem_channelParts_iff]) (by simp)
  have acc (q : Reg) : s.freshChannels.accessible q = s.accessible q := rfl
  obtain ⟨u, hu, w⟩ := writeAll_run (hooksAt m) [(.HAINTMSK, 0)] k0 (by simp [acc, hm, gentle_plain]) (by simp)
  have f : Frame s u [.HAINTMSK] (.htog :: channelParts) := (f0.mono (by simp) (by simp)).trans (w.frame.mono (by simp) (by simp))
  obtain ⟨t, ht, e⟩ := engineUp_run w.ready (f.inputs.2.2.1.trans hr) m (fun w => w ||| bit1 25 ||| bitIf s.isSlave 4)
    (fun c => { c with hostEngine := true }) .hostRoleStart
  have core : u.core = s.core := f.core (by simp [mem_channelParts_iff]) (by simp [mem_channelParts_iff])
  obtain ⟨l, hl, hs⟩ := e.trace
  refine ⟨t, (hu _).trans ht, e.ready, e.core.trans (by rw [core]), fun x => ?_, ?_, ⟨l, hl, w.trace.trans hs⟩, ?_, ?_, ?_, ?_⟩
  · rw [e.frame.ch x (by simp) (by simp), w.frame.ch x (by simp) (by simp)]
    simp [State.chan, State.freshChannels]
  · rw [e.frame.htog (by simp) (by simp), w.frame.htog (by simp) (by simp)]
    rfl
  · rw [e.frame.raw_eq (by simp) (by simp), w.word (.HAINTMSK, 0) (by simp)]
    exact State.raw_writeReg_plain _ _ (by simp)
  · exact e.mask.trans (by rw [f.raw_eq (by simp) (by simp), State.stored_congr f.hw (f.raw_eq (by simp) (by simp))])
  · exact e.exist.trans (f.exist (by simp [mem_channelParts_iff]) (by simp [mem_channelParts_iff]))
  · exact (f.mono (by simp) (by simp)).trans (e.frame.mono (by simp) (by simp))

end Sys2Proof.Machine

/-! PROOF. The mode wait and the whole of an engine start (R402, R410). -/

namespace Sys2Proof.Machine

open Sys2Proof

/-! The mode wait (R402, R410). -/

/-- The state after the mode bit has been read. -/
def State.looked (s : State) : State := s.note (.rd 0x014 (s.peek .GINTSTS))

@[simp] theorem State.raw_looked (s : State) (r : Reg) : s.looked.raw r = s.raw r := rfl
@[simp] theorem State.core_looked (s : State) : s.looked.core = s.core := rfl

theorem regRead_gintsts_after {s t : State} {h : Hooks} (hb : between h s = .ok ((), t)) (hu : t.unsettled = false) :
    regRead .GINTSTS h s = .ok (t.peek .GINTSTS, t.looked) := by
  have hread : t.readReg .GINTSTS = (t.peek .GINTSTS, t) := readReg_steady (by simp) hu
  have hread' (e : TraceEv) : (t.note e).readReg .GINTSTS = (t.peek .GINTSTS, t.note e) := by
    rw [readReg_steady (by simp) (by simpa using hu), State.peek_note]
  rw [regRead, run_bind_ok hb, run_ask_bind, accessible_gintsts, if_pos rfl, run_readNow, hread, hread']
  rfl

/-- The mode is right at the first reading. -/
theorem waitMode_now {s t : State} {h : Hooks} (hb : between h s = .ok ((), t)) (hu : t.unsettled = false) {host : Bool}
    (hm : t.hostMode = host) (hl : 1 ≤ s.hw.modeWaitLimit) : waitMode host h s = .ok ((), t.looked) := by
  obtain ⟨n, hn⟩ := Nat.exists_eq_add_of_le' hl
  have hpoll : poll (do let w ← regRead .GINTSTS; pure (bitOf w 0 == host)) (n + 1) h s = .ok (true, t.looked) := by
    simp only [poll, run_bind, regRead_gintsts_after hb hu, bitOf_peek_gintsts, hm, run_pure, beq_self_eq_true, if_true]
  rw [waitMode, run_ask_bind, hn, run_bind_ok hpoll]
  rfl

/-- The mode never changes: the poll ends without it. -/
theorem pollMode_never {host : Bool} {h : Hooks} (limit : Nat) : ∀ {s : State}, s.Ready → s.hostMode = !host →
    ∃ t, poll (do let w ← regRead .GINTSTS; pure (bitOf w 0 == host)) limit h s = .ok (false, t) := by
  induction limit with
  | zero => exact fun {s} _ _ => ⟨s, rfl⟩
  | succ n ih =>
    intro s k hm
    obtain ⟨t, ht⟩ := ih (s := s.looked) (by simpa [State.looked] using k) (by simpa [State.looked] using hm)
    have hne : (bitOf (s.peek .GINTSTS) 0 == host) = false := by
      rw [bitOf_peek_gintsts, hm]
      cases host <;> rfl
    refine ⟨t, ?_⟩
    simp only [poll, run_bind, regRead_gintsts_after (k.between h) k.settled, hne, run_pure, Bool.false_eq_true, if_false]
    exact ht

/-- The mode that never follows is fatal (R17, R458). -/
theorem waitMode_never {s : State} (k : s.Ready) {host : Bool} (hm : s.hostMode = !host) (h : Hooks) :
    waitMode host h s = .error (.fault .modeWait) := by
  obtain ⟨t, ht⟩ := pollMode_never (host := host) (h := h) s.hw.modeWaitLimit k hm
  rw [waitMode, run_ask_bind, run_bind_ok ht]
  rfl

/-! The engine starts (R410). -/

theorem mem_txRegs {p : Fin 16 → Bool} {q : Reg} (h : q ∈ (txNumbers.filter p).map Reg.DIEPTXF) : ∃ i : Fin 16, i ≠ 0 ∧ q = .DIEPTXF i := by
  obtain ⟨i, hi, rfl⟩ := List.mem_map.mp h
  have hi0 : i.val ≠ 0 := of_decide_eq_true (List.mem_filter.mp (List.mem_filter.mp hi).1).2
  exact ⟨i, fun e => hi0 (e ▸ rfl), rfl⟩

/-- Laying out the Tx FIFOs writes their registers alone. -/
theorem State.TxLaidOut.raw_other {v u : State} {p : InitParams} {free addr : Nat} (lay : v.TxLaidOut u p txNumbers free addr)
    {r : Reg} (hr : ∀ i, r ≠ .DIEPTXF i) : u.raw r = v.raw r :=
  lay.frame.raw_eq (fun q hq => by
    obtain ⟨i, hi, rfl⟩ := mem_txRegs hq
    exact ⟨hr i, by simpa using hi⟩) (hr 0)

theorem State.TxLaidOut.ready {v u : State} {p : InitParams} {free addr : Nat} (lay : v.TxLaidOut u p txNumbers free addr)
    (k : v.Ready) : u.Ready :=
  lay.frame.ready k (by simp) fun q hq => by
    obtain ⟨i, hi, rfl⟩ := mem_txRegs hq
    simp [hi]

/-- The stages of a device engine start: the shared FIFOs, those of the endpoints, the flushes and DCFG, the set-up. -/
structure State.DeviceBegun (s v u w t : State) : Prop where
  shared : s.SharedLaidOut v s.core.params
  lay : v.TxLaidOut u s.core.params txNumbers (s.core.caps.fifoDepth - s.rxGrant s.core.params - s.npGrant s.core.params)
    (s.rxGrant s.core.params + s.npGrant s.core.params)
  role : u.RoleSet w .DCFG u.core.dcfg
  setUp : w.DeviceSetUp t

/-- The stages of a host engine start. -/
structure State.HostBegun (s v u w t : State) : Prop where
  shared : s.SharedLaidOut v s.core.params
  core : u.core = { v.core.granting (s.core.caps.fifoDepth - s.rxGrant s.core.params - s.npGrant s.core.params)
      s.core.params.hptxFifo.toNat with
    fifo := { v.core.fifo with hptx := (s.rxGrant s.core.params + s.npGrant s.core.params, min s.core.params.hptxFifo.toNat
      (s.core.caps.fifoDepth - s.rxGrant s.core.params - s.npGrant s.core.params)) } }
  word : u.raw .HPTXFSIZ = fifoSizeWord (s.rxGrant s.core.params + s.npGrant s.core.params) (min s.core.params.hptxFifo.toNat
    (s.core.caps.fifoDepth - s.rxGrant s.core.params - s.npGrant s.core.params))
  exist : u.recordsExist = v.recordsExist
  trace : v.trace <:+ u.trace
  lay : Frame v u [.HPTXFSIZ] [.core]
  role : u.RoleSet w .HCFG u.core.hcfg
  setUp : w.HostSetUp t

theorem assertThat_true (e : Assertion) (h : Hooks) (s : State) : assertThat true e h s = .ok ((), s) := by
  simp [assertThat]

section
variable {s a : State} {m : Nat} (hs : s.enginesStopped = true) (hb : between (hooksAt m) s = .ok ((), a)) (k : a.Ready)
  (hr : a.replies = []) (hp : a.prompt = true) (hf : 1 ≤ a.hw.flushPollLimit) (hl : 1 ≤ s.hw.modeWaitLimit)
include hs hb k hr hp hf hl

theorem deviceEngineStart_run (hm : a.hostMode = false) (hn : 1 ≤ a.hw.caps.nEp) :
    ∃ v u w t, deviceEngineStart (hooksAt m) s = .ok (.ok, t) ∧ a.looked.DeviceBegun v u w t := by
  have k0 : a.looked.Ready := by simpa [State.looked] using k
  obtain ⟨v, u, hpart, shared, lay⟩ := fifoPartition_device k0 hm a.core.params (hooksAt m)
  have ku : u.Ready := lay.ready shared.ready
  have fu : u.hw = a.hw := lay.frame.hw.trans shared.frame.hw
  have hpu : u.prompt = true := lay.frame.inputs.2.2.2.trans (shared.frame.inputs.2.2.2.trans hp)
  have hru : u.replies = [] := lay.frame.inputs.2.2.1.trans (shared.frame.inputs.2.2.1.trans hr)
  have hmu : u.hostMode = false := by
    rw [State.hostMode, lay.raw_other (by simp)]
    exact (shared.frame.hostMode_eq (by simp)).trans hm
  obtain ⟨w, hrole, role⟩ := roleProgram_run (s := a.looked) hpart ku hpu (fu ▸ hf)
  rw [State.modeReg, State.modeWord, hmu] at role
  obtain ⟨t, ht, setUp⟩ := deviceEngineSetup_run role.ready ((role.frame.hostMode_eq (by simp)).trans hmu)
    (role.frame.hw ▸ fu ▸ hn) (role.frame.inputs.2.2.1.trans hru) m
  refine ⟨v, u, w, t, ?_, shared, lay, role, setUp⟩
  rw [deviceEngineStart, run_ask_bind, hs, run_bind_ok (assertThat_true ..), run_bind_ok (waitMode_now hb k.settled hm hl),
    run_bind_ok hrole, if_pos rfl, run_bind_ok ht]
  rfl

theorem hostEngineStart_run (hm : a.hostMode = true) :
    ∃ v u w t, hostEngineStart (hooksAt m) s = .ok (.ok, t) ∧ a.looked.HostBegun v u w t := by
  have k0 : a.looked.Ready := by simpa [State.looked] using k
  obtain ⟨v, u, hpart, shared, hcore, hword, hx, hlog, lay⟩ := fifoPartition_host k0 hm a.core.params (hooksAt m)
  have ku : u.Ready := lay.ready shared.ready (by simp) (by simp)
  have fu : u.hw = a.hw := lay.hw.trans shared.frame.hw
  have hpu : u.prompt = true := lay.inputs.2.2.2.trans (shared.frame.inputs.2.2.2.trans hp)
  have hru : u.replies = [] := lay.inputs.2.2.1.trans (shared.frame.inputs.2.2.1.trans hr)
  have hmu : u.hostMode = true := (lay.hostMode_eq (by simp)).trans ((shared.frame.hostMode_eq (by simp)).trans hm)
  obtain ⟨w, hrole, role⟩ := roleProgram_run (s := a.looked) hpart ku hpu (fu ▸ hf)
  rw [State.modeReg, State.modeWord, hmu] at role
  obtain ⟨t, ht, setUp⟩ := hostEngineSetup_run role.ready ((role.frame.hostMode_eq (by simp)).trans hmu)
    (role.frame.inputs.2.2.1.trans hru) m
  refine ⟨v, u, w, t, ?_, shared, hcore, hword, hx, hlog, lay, role, setUp⟩
  rw [hostEngineStart, run_ask_bind, hs, run_bind_ok (assertThat_true ..), run_bind_ok (waitMode_now hb k.settled hm hl),
    run_bind_ok hrole, if_pos rfl, run_bind_ok ht]
  rfl

end

end Sys2Proof.Machine

/-! PROOF. `core_init` (R201): the records, the soft reset and the core's own registers. -/

namespace Sys2Proof.Machine

open Sys2Proof

/-! Fresh records, and a hardware that has been reset (R81, R203). -/

/-- From `s` to `t` the records are fresh and the hardware is reset (R81, R204). -/
structure State.Reborn (s t : State) (base : Word) (p : InitParams) : Prop where
  ready : t.Ready
  core : t.core = { s.core with
    base := base, params := p, functional := false, cfgError := false, deviceEngine := false, hostEngine := false }
  ep : ∀ e, t.ep e = blankEp
  ch : ∀ c, t.chan c = blankCh
  pool : t.pool = List.replicate s.hw.poolCap none
  ep0 : t.ep0 = { s.ep0 with state := .disconnected, address := 0, config := 0, remoteWakeup := false }
  iso : t.iso = []
  htog : t.htog = []
  exist : t.recordsExist = true
  fifo : t.fifo = emptyFifo
  bytes : ∀ a, t.byte a = s.byte a
  hw : t.hw = s.hw
  prompt : t.prompt = s.prompt
  replies : t.replies = s.replies
  word : ∀ a, SMap.get 0 t.regs a = if a = 0x014 then s.raw .GINTSTS &&& 0x1 else if a = 0x010 then 0x80000000 else
    if a = 0x000 then s.raw .GOTGCTL &&& 0x000D0000 else 0

/-- The state after the records are fresh and the gate is closed. -/
def State.restarted (s : State) (base : Word) (p : InitParams) : State :=
  ((s.freshRecords base p).writeReg .GAHBCFG 0).note (.wr 0x008 0)

theorem between_deaf {s : State} (ht : s.tick = s) (hf : s.core.functional = false) (h : Hooks) : between h s = .ok ((), s) := by
  simp [between, ht, State.irqDue, hf]

theorem regWrite_deaf {s : State} (ht : s.tick = s) (hf : s.core.functional = false) {r : Reg} (ha : s.accessible r = true) (v : Word)
    (h : Hooks) : regWrite r v h s = .ok ((), (s.writeReg r v).note (.wr r.offset v)) := by
  rw [regWrite, run_bind_ok (between_deaf ht hf h), run_ask_bind, ha, if_pos rfl, run_writeNow]

theorem State.shut_closed (s : State) {v : Word} (hv : bitOf v 0 = false) : (s.writeReg .GAHBCFG v).Shut := by
  refine .inr ?_
  rw [State.raw_writeReg_plain _ _ (by simp), State.stored, bitOf_writeWord (by decide), hv]
  simp [rwMask]

/-- A write of GAHBCFG with the gate bit 0 leaves the machine ready, whatever the gate was. -/
theorem State.ready_closed {s : State} (he : s.env = []) (hu : s.unsettled = false)
    (hd : s.prompt = true → s.disablePending (.ep ⟨0, .IN⟩) = false) {v : Word} (hv : bitOf v 0 = false) :
    (s.writeReg .GAHBCFG v).Ready where
  env := by simpa using he
  shut := s.shut_closed hv
  settled := by simpa using hu
  idle hp := by
    have hraw : (s.writeReg .GAHBCFG v).raw (.DIEPCTL 0) = s.raw (.DIEPCTL 0) := by simp
    have hd := hd (by simpa using hp)
    simp only [State.disablePending, State.present, State.accessible_writeReg] at hd ⊢
    exact (congrArg (fun w => _ && bitOf w 30) hraw).trans hd

/-- What is left of the machine after the records are fresh and the reset is complete. -/
theorem coreReborn_only (s : State) (base : Word) (p : InitParams) :
    (s.restarted base p).afterCoreReset = { s.freshRecords base p with
      regs := (s.restarted base p).afterCoreReset.regs, fifo := emptyFifo, engine := [], owed := [],
      trace := (s.restarted base p).afterCoreReset.trace } := by
  rw [afterCoreReset_only, State.restarted, State.writeReg_only]
  rfl

section
variable {s : State} (k : s.Ready) (hp : s.prompt = true) (base : Word) (p : InitParams)
include k

theorem State.ready_restarted : (s.restarted base p).Ready := by
  have h := State.ready_closed (s := s.freshRecords base p) (v := 0) k.env k.settled k.idle (by simp)
  simpa [State.restarted] using h

omit k in
theorem State.raw_restarted {r : Reg} (hr : r ≠ .GAHBCFG) (h0 : r ≠ .DIEPTXF 0) : (s.restarted base p).raw r = s.raw r := by
  rw [State.restarted, State.raw_of_note, State.raw_writeReg_other _ _ hr h0 (by simp)]
  rfl

/-- The start of `core_init`: fresh records and the gate closed (R201). -/
theorem coreInitFrom_restarts (h : Hooks) : coreInitFrom base p h s =
    (do let st ← coreResetSeq; if st = Status.ok then coreInitProgram s.ctx else initFailed s.ctx st) h (s.restarted base p) := by
  have hwrite : regWrite .GAHBCFG 0 h (s.freshRecords base p) = .ok ((), s.restarted base p) :=
    regWrite_deaf (tick_idle (s := s.freshRecords base p) k.env k.settled k.idle) rfl (accessible_gahbcfg _) 0 h
  rw [coreInitFrom, run_ask_bind]
  exact (run_bind_ok (run_act ..)).trans (run_bind_ok hwrite)

include hp

/-- The start of `core_init`: fresh records, the gate closed, and a soft reset that LINK completes (R201, R203). -/
theorem coreInitFrom_run (h31 : bitOf (s.raw .GRSTCTL) 31 = true) (hl : 1 ≤ s.hw.resetPollLimit) (h : Hooks) :
    ∃ t, coreInitFrom base p h s = (coreInitProgram s.ctx) h t ∧ s.Reborn t base p := by
  have kr := State.ready_restarted k base p
  have h31' : bitOf ((s.restarted base p).raw .GRSTCTL) 31 = true := by rw [State.raw_restarted _ _ (by simp) (by simp)]; exact h31
  have hreset := coreResetSeq_prompt kr (by simpa [State.restarted, State.freshRecords] using hp) h h31'
    (by simpa [State.restarted, State.freshRecords] using hl)
  refine ⟨(s.restarted base p).afterCoreReset, ?_, ?_⟩
  · rw [coreInitFrom_restarts k, run_bind_ok hreset, if_pos rfl]
  · have hsame := coreReborn_only s base p
    refine ⟨State.ready_polled (State.afterReset_ready (by simpa [State.polled, State.restarted, State.freshRecords] using k.env)),
      by rw [hsame]; rfl, fun e => ?_, fun c => ?_, by rw [hsame]; rfl, by rw [hsame]; rfl, by rw [hsame]; rfl, by rw [hsame]; rfl,
      by rw [hsame]; rfl, by rw [hsame], fun a => by rw [hsame]; rfl, by rw [hsame]; rfl, by rw [hsame]; rfl, by rw [hsame]; rfl,
      fun a => ?_⟩
    · rw [hsame]
      rcases e with ⟨n, _ | _⟩ <;> simp [State.ep, State.freshRecords]
    · rw [hsame]
      simp [State.chan, State.freshRecords]
    · rw [afterCoreReset_get, ahbIdle_kept h31', State.raw_restarted _ _ (by simp) (by simp), State.raw_restarted _ _ (by simp) (by simp)]

end

end Sys2Proof.Machine

/-! PROOF. `core_init` (R201): the core's own registers. -/

namespace Sys2Proof.Machine

open Sys2Proof

/-! Capabilities and parameters (R202, R205). -/

theorem readCapabilities_run {s : State} (k : s.Ready) (hc : s.hw.caps.fits) (h : Hooks) : ∃ u,
    readCapabilities h s = .ok ((), u) ∧ u.Ready ∧ u.core = { s.core with caps := s.hw.caps } ∧
    u.recordsExist = s.recordsExist ∧ Frame s u [] [.core] := by
  have k1 (e : TraceEv) : (s.note e).Ready := by simpa using k
  have k2 (e f : TraceEv) : ((s.note e).note f).Ready := by simpa using k
  refine ⟨(((s.note (.rd 0x048 (s.peek .GHWCFG2))).note (.rd 0x04C (s.peek .GHWCFG3))).note (.rd 0x050 (s.peek .GHWCFG4))).withCore
    { s.core with caps := capsOf (s.peek .GHWCFG2) (s.peek .GHWCFG3) (s.peek .GHWCFG4) }, ?_, by simpa using k, ?_, rfl, by simp⟩
  · rw [readCapabilities, run_bind_ok (regRead_ready k (by simp) (by simp) h),
      run_bind_ok (regRead_ready (k1 _) (by simp) (by simp) h), run_bind_ok (regRead_ready (k2 _ _) (by simp) (by simp) h)]
    rfl
  · show { s.core with caps := capsOf (ghwcfg2 s.hw.caps) (ghwcfg3 s.hw.caps) (ghwcfg4 s.hw.caps) } = _
    rw [capsOf_read hc]

/-- A core record after `resolve_params()` (R205). -/
def CoreRec.resolved (c : CoreRec) : CoreRec :=
  { c with
    dmaMode := resolvedDma c.caps c.params.dmaMode
    cfgError := c.cfgError || decide (resolvedDma c.caps c.params.dmaMode ≠ c.params.dmaMode) || !c.caps.hasPhy c.params.phyType }

/-! Words written where the register reads 0 (R23). -/

/-- A word of RW bits is what a register that reads 0 takes. -/
theorem State.stored_within (s : State) {r : Reg} {v m : Word} (hm : rwMask s.hw r = m) (hc : w1cMask r = 0#32) (hs : w1sMask r = 0#32)
    (h0 : s.raw r = 0#32) (hv : v &&& ~~~m = 0#32) : s.stored r v = v :=
  s.stored_of_low hc hs (by rw [h0, BitVec.zero_and]) (hm ▸ hv)

/-! Bus, PHY and OTG configuration, and the masks (R201, R209). -/

/-- The words of GAHBCFG and GUSBCFG (R201). -/
def CoreRec.gahbcfg (c : CoreRec) : Word := fld 1 4 c.params.burst.toNat ||| bitIf (decide (c.dmaMode ≠ .slave)) 5
def CoreRec.gusbcfg (c : CoreRec) : Word :=
  bitIf c.params.phyWidth16 3 ||| bitIf (decide (resolvedPhy c.caps c.params = .ulpi)) 4 |||
    bitIf (decide (resolvedPhy c.caps c.params = .fsSerial)) 6 ||| bitIf (decide (c.params.otgCap ≠ .none)) 8 |||
    bitIf (decide (c.params.otgCap = .hnpSrp)) 9

theorem writeAll_one (r : Reg) (v : Word) : writeAll (pure ()) [(r, v)] = regWrite r v := by
  funext h s
  show (regWrite r v >>= fun _ => pure ()) h s = _
  rw [run_bind]
  cases regWrite r v h s <;> rfl

theorem gentle_gahbcfg {v : Word} (hv : bitOf v 0 = false) : Gentle (.GAHBCFG, v) :=
  ⟨rfl, by simp, fun _ k => State.ready_closed k.env k.settled k.idle hv⟩

theorem State.bitOf_stored_gate (s : State) (v : Word) : bitOf (s.stored .GAHBCFG v) 0 = bitOf v 0 := by
  rw [State.stored, bitOf_writeWord (by decide)]
  simp [rwMask, w1cMask, w1sMask]

theorem bitOf_gahbcfg (c : CoreRec) : bitOf c.gahbcfg 0 = false := by
  simp [CoreRec.gahbcfg, bitOf_fld, bitOf_bitIf]

theorem programCore_run {s : State} (k : s.Ready) (h : Hooks) : ∃ t, programCore h s = .ok ((), t) ∧
    s.WroteAll t [(.GAHBCFG, s.core.gahbcfg), (.GUSBCFG, s.core.gusbcfg), (.GOTGCTL, 0)] := by
  obtain ⟨t, ht, w⟩ := writeAll_run h [(.GAHBCFG, s.core.gahbcfg), (.GUSBCFG, s.core.gusbcfg), (.GOTGCTL, 0)] k
    (by simp [gentle_gahbcfg (bitOf_gahbcfg _), gentle_plain]) (by simp)
  refine ⟨t, ?_, w⟩
  rw [programCore, run_ask_bind, ← writeAll_one .GOTGCTL 0]
  exact ht (pure ())

theorem initInterrupts_run {s : State} (k : s.Ready) (h0 : s.raw .GINTMSK = 0) (h : Hooks) : ∃ t, initInterrupts h s = .ok ((), t) ∧ t.Ready ∧
    t.raw .GOTGINT = s.stored .GOTGINT 0xFFFFFFFF ∧ t.raw .GINTSTS = s.stored .GINTSTS 0xFFFFFFFF ∧
    t.raw .GINTMSK = 0xB0000004#32 ∧ Frame s t [.GINTMSK, .GOTGINT, .GINTSTS] [] := by
  obtain ⟨u, hu, w⟩ := writeAll_run h [(.GINTMSK, 0), (.GOTGINT, 0xFFFFFFFF), (.GINTSTS, 0xFFFFFFFF)] k
    (by simp [gentle_plain]) (by simp)
  have hword := w.word
  simp at hword
  obtain ⟨hmsk, hotg, hsts⟩ := hword
  refine ⟨_, (hu _).trans (regWrite_ready w.ready (by simp) _ h), by simpa using w.ready, ?_, ?_, ?_, ?_⟩
  · simp [hotg]
  · simp [hsts]
  · have hzero : u.raw .GINTMSK = 0 := hmsk.trans (s.stored_within (m := 0xFFFFFFFE#32) rfl rfl rfl h0 (by decide))
    have hmask := u.stored_within (v := 0xB0000004#32) (m := 0xFFFFFFFE#32) rfl rfl rfl hzero (by decide)
    simpa using hmask
  · simpa using w.frame

/-! Up to the start of the engine (R201). -/

/-- The core record of `core_init` before its engine starts (R201, R202, R205, R208). -/
def CoreRec.initialised (c : CoreRec) (caps : Caps) (st : OpState) : CoreRec :=
  { ({ c with caps := caps } : CoreRec).resolved with opState := st, functional := true }

/-- The role that the connector selects (R208). -/
def State.plug (s : State) : OpState := if bitOf (s.raw .GOTGCTL) 16 then .bPeripheral else .aHost

/-- From `s` to `t` a core whose registers read 0 has been configured, in context `x`. -/
structure State.Configured (s t : State) (x : Ctx) : Prop where
  ready : t.Ready
  core : t.core = s.core.initialised s.hw.caps s.plug
  context : t.ctx = x
  gahbcfg : t.raw .GAHBCFG = s.stored .GAHBCFG t.core.gahbcfg
  gusbcfg : t.raw .GUSBCFG = s.stored .GUSBCFG t.core.gusbcfg
  otg : t.raw .GOTGCTL = s.stored .GOTGCTL 0
  otgEvents : t.raw .GOTGINT = s.stored .GOTGINT 0xFFFFFFFF
  events : t.raw .GINTSTS = s.stored .GINTSTS 0xFFFFFFFF
  mask : t.raw .GINTMSK = 0xB0000004
  exist : t.recordsExist = s.recordsExist
  frame : Frame s t [.GAHBCFG, .GUSBCFG, .GOTGCTL, .GINTMSK, .GOTGINT, .GINTSTS] [.core, .context]

/-- What `core_init` ends with (R201). -/
def initEnd (x : Ctx) : M Status := do
  let c ← ask State.core
  let st ← startEngineFor c.opState
  if st = .ok then ask fun s => if s.core.cfgError then .configError else .ok
  else initFailed x st

/-- The state of a core that has become functional (R201). -/
def State.functionalIn (s : State) (x : Ctx) : State := (s.withCore { s.core with functional := true }).inCtx x

theorem bitOf_stored_gotgctl (s : State) : bitOf (s.stored .GOTGCTL 0) 16 = bitOf (s.raw .GOTGCTL) 16 := by
  have hm : bitOf (~~~0xE02#32) 16 = true := by decide
  rw [s.stored_plain rfl rfl, show rwMask s.hw .GOTGCTL = 0xE02#32 from rfl, bitOf_or, bitOf_and, bitOf_and, hm]
  simp

theorem setOpState_run {s : State} (k : s.Ready) (h : Hooks) : setOpStateFromHardware h s =
    .ok ((), (s.note (.rd 0x000 (s.raw .GOTGCTL))).withCore { s.core with opState := s.plug }) := by
  rw [setOpStateFromHardware, run_bind_ok (regRead_ready k (by simp) (by simp) h), run_modCore]
  rfl

theorem resolveParams_run (h : Hooks) (s : State) : resolveParams h s = .ok ((), s.withCore s.core.resolved) := rfl

theorem coreInitProgram_run {s : State} (k : s.Ready) (hc : s.hw.caps.fits) (h0 : s.raw .GINTMSK = 0)
    (x : Ctx) (h : Hooks) : ∃ t, coreInitProgram x h s = initEnd x h t ∧ s.Configured t x := by
  obtain ⟨a, ha, ka, ca, xa, fa⟩ := readCapabilities_run k hc h
  have kb : (a.withCore a.core.resolved).Ready := by simpa using ka
  obtain ⟨b, hb, wb⟩ := programCore_run kb h
  have word := wb.word
  simp only [List.mem_cons, List.not_mem_nil, or_false, forall_eq_or_imp, forall_eq] at word
  obtain ⟨hgate, husb, hotg⟩ := word
  have raw (r : Reg) : (a.withCore a.core.resolved).raw r = s.raw r := fa.raw_all r
  have stored (r : Reg) (v : Word) : (a.withCore a.core.resolved).stored r v = s.stored r v := State.stored_congr fa.hw (raw r) v
  rw [State.raw_writeReg_plain _ _ (by simp), stored] at hgate husb hotg
  have fb : Frame s b [.GAHBCFG, .GUSBCFG, .GOTGCTL] [.core] :=
    ((frame_withCore (by simp) _).mpr (fa.mono (by simp) (by simp))).trans (wb.frame.mono (by simp) (by simp))
  obtain ⟨c, hc, kc, otg, sts, msk, fc⟩ := initInterrupts_run (s := (b.note (.rd 0x000 (b.raw .GOTGCTL))).withCore
    { b.core with opState := b.plug }) (by simpa using wb.ready) ((fb.raw_eq (by simp) (by simp)).trans h0) h
  have hplug : b.plug = s.plug := by rw [State.plug, hotg, bitOf_stored_gotgctl, State.plug]
  have hcore : c.core = { a.core.resolved with opState := s.plug } := by
    have hb : b.core = a.core.resolved := wb.frame.core (by simp) (by simp)
    rw [fc.core (by simp) (by simp), ← hplug, ← hb]
    rfl
  have hgateC : c.raw .GAHBCFG = s.stored .GAHBCFG a.core.resolved.gahbcfg := (fc.raw_eq (by simp) (by simp)).trans hgate
  have hexist : c.recordsExist = s.recordsExist :=
    (fc.exist (by simp) (by simp)).trans ((wb.frame.exist (by simp) (by simp)).trans xa)
  refine ⟨c.functionalIn x, ?_, ?_⟩
  · rw [coreInitProgram, run_bind_ok ha, run_bind_ok (resolveParams_run ..), run_bind_ok hb, run_bind_ok (setOpState_run wb.ready h),
      run_bind_ok hc]
    rfl
  · refine ⟨?_, ?_, rfl, ?_, ?_, ?_, ?_, ?_, ?_, hexist, ?_⟩
    · refine ⟨kc.env, .inr ?_, kc.settled, kc.idle⟩
      show bitOf (c.raw .GAHBCFG) 0 = false
      rw [hgateC, s.bitOf_stored_gate, bitOf_gahbcfg]
    · show { c.core with functional := true } = _
      rw [hcore, ca]
      rfl
    · show c.raw .GAHBCFG = s.stored .GAHBCFG ({ c.core with functional := true } : CoreRec).gahbcfg
      rw [hgateC, hcore]
      rfl
    · show c.raw .GUSBCFG = s.stored .GUSBCFG ({ c.core with functional := true } : CoreRec).gusbcfg
      rw [fc.raw_eq (by simp) (by simp), hcore]
      exact husb
    · exact (fc.raw_eq (by simp) (by simp)).trans hotg
    · exact otg.trans (State.stored_congr fb.hw (fb.raw_eq (by simp) (by simp)) _)
    · exact sts.trans (State.stored_congr fb.hw (fb.raw_eq (by simp) (by simp)) _)
    · exact msk
    · have fw : Frame s c [.GAHBCFG, .GUSBCFG, .GOTGCTL, .GINTMSK, .GOTGINT, .GINTSTS] [.core] :=
        ((frame_withCore (by simp) _).mpr ((frame_note _).mpr (fb.mono (by simp) (by simp)))).trans (fc.mono (by simp) (by simp))
      exact (frame_inCtx _ (by simp)).mpr ((frame_withCore (by simp) _).mpr (fw.mono (by simp) (by simp)))

end Sys2Proof.Machine

/-! PROOF. What an engine start leaves (R206, R207, R410). -/

namespace Sys2Proof.Machine

open Sys2Proof

/-! The device engine. -/

/-- The registers that a device engine start writes, but for the places of the endpoints' Tx FIFOs. -/
def deviceStartRegs : List Reg :=
  [.GRXFSIZ, .GNPTXFSIZ, .GRSTCTL, .DCFG, .DIEPMSK, .DOEPMSK, .DIEPCTL 0, .DOEPCTL 0, .DAINTMSK, .DIEPEMPMSK, .GINTMSK]

/-- The registers of the Tx FIFOs of `n` endpoints (R33). -/
def txRegs (n : Nat) : List Reg := (txNumbers.filter fun j => decide (j.val < n)).map .DIEPTXF

namespace State.DeviceBegun

variable {s v u w t : State} (g : s.DeviceBegun v u w t)
include g

theorem core_u : u.core = { s.core with fifo := u.core.fifo, cfgError := u.core.cfgError } ∧ u.core.fifo.rx = (0, s.rxGrant s.core.params) ∧
    u.core.fifo.nptx = (s.rxGrant s.core.params, s.npGrant s.core.params) := by
  have hu := g.lay.core
  rw [g.shared.core] at hu
  rw [hu]
  exact ⟨rfl, rfl, rfl⟩

theorem core_w : w.core = u.core := g.role.frame.core (by simp) (by simp)

theorem core : t.core = { s.core with fifo := u.core.fifo, cfgError := u.core.cfgError, deviceEngine := true } := by
  rw [g.setUp.core, g.core_w, g.core_u.1]

theorem caps_v : v.core.caps = s.core.caps := by rw [g.shared.core]

/-- Up to the set-up only the FIFOs and the registers of `role_program` have changed. -/
theorem frame_w : Frame s w ([.GRXFSIZ, .GNPTXFSIZ, .GRSTCTL, .DCFG] ++ txRegs s.core.caps.nEp) [.core, .fifo] := by
  have hlay := g.lay.frame
  rw [g.caps_v] at hlay
  exact (g.shared.frame.mono (by simp) (by simp)).trans ((hlay.mono (List.subset_append_right ..) (by simp)).trans (g.role.frame.mono (by simp) (by simp)))

theorem frame : Frame s t (deviceStartRegs ++ txRegs s.core.caps.nEp) (.core :: .fifo :: .ep0 :: endpointParts) :=
  (g.frame_w.mono (List.append_subset.mpr ⟨by simp [deviceStartRegs], List.subset_append_right ..⟩) (by simp)).trans (g.setUp.frame.mono (by simp [deviceStartRegs]) (by simp))

/-- The registers of the set-up are as before until then. -/
theorem raw_w {r : Reg} (hr : r ∉ [Reg.GRXFSIZ, .GNPTXFSIZ, .GRSTCTL, .DCFG]) (ht : ∀ i, r ≠ .DIEPTXF i) : w.raw r = s.raw r := by
  refine g.frame_w.raw_eq (fun q hq => ?_) (ht 0)
  rcases List.mem_append.mp hq with hq | hq
  · refine ⟨fun e => hr (e ▸ hq), ?_⟩
    rintro rfl
    simp at hq
  · obtain ⟨i, hi, rfl⟩ := mem_txRegs hq
    exact ⟨ht i, by simpa using hi⟩

theorem stored_w {r : Reg} (hr : r ∉ [Reg.GRXFSIZ, .GNPTXFSIZ, .GRSTCTL, .DCFG]) (ht : ∀ i, r ≠ .DIEPTXF i) (x : Word) :
    w.stored r x = s.stored r x := State.stored_congr g.frame_w.hw (g.raw_w hr ht) x

theorem rxWord : t.raw .GRXFSIZ = s.stored .GRXFSIZ (fld 0 16 (s.rxGrant s.core.params)) := by
  rw [g.setUp.frame.raw_eq (by simp) (by simp), g.role.frame.raw_eq (by simp) (by simp), g.lay.raw_other (by simp), g.shared.rxWord]

theorem npWord : t.raw .GNPTXFSIZ = fifoSizeWord (s.rxGrant s.core.params) (s.npGrant s.core.params) := by
  rw [g.setUp.frame.raw_eq (by simp) (by simp), g.role.frame.raw_eq (by simp) (by simp), g.lay.raw_other (by simp), g.shared.npWord]

theorem txWord {i : Fin 16} (h0 : i ≠ 0) (hi : i.val < s.core.caps.nEp) :
    t.raw (.DIEPTXF i) = fifoSizeWord t.core.fifo.epTx[i.val].1 t.core.fifo.epTx[i.val].2 := by
  have hmem : i ∈ txNumbers := List.mem_filter.mpr ⟨List.mem_finRange i, decide_eq_true fun e => h0 (Fin.ext e)⟩
  rw [g.setUp.frame.raw_eq (by simp) (by simpa using h0), g.role.frame.raw_eq (by simp) (by simpa using h0),
    g.lay.word i hmem (g.caps_v ▸ hi), g.core]

theorem dcfg : t.raw .DCFG = s.stored .DCFG s.core.dcfg := by
  have hcfg : u.core.dcfg = s.core.dcfg := by
    rw [g.core_u.1]
    rfl
  rw [g.setUp.frame.raw_eq (by simp) (by simp), g.role.config, hcfg]
  exact State.stored_congr (g.lay.frame.hw.trans g.shared.frame.hw)
    ((g.lay.raw_other (by simp)).trans (g.shared.frame.raw_eq (by simp) (by simp))) _

theorem grstctl (h : s.raw .GRSTCTL = 0x80000000#32) : t.raw .GRSTCTL = 0x80000000#32 := by
  rw [g.setUp.frame.raw_eq (by simp) (by simp)]
  refine g.role.idle ?_
  rw [g.lay.raw_other (by simp), g.shared.frame.raw_eq (by simp) (by simp), h]

theorem fifo (h : s.fifo = emptyFifo) : t.fifo = emptyFifo := by
  rw [g.setUp.frame.fifo (by simp [mem_endpointParts_iff])]
  refine g.role.empty ?_
  rw [g.lay.frame.fifo (by simp), g.shared.frame.fifo (by simp), h]

theorem isDesc_w : w.isDesc = s.isDesc := by
  rw [State.isDesc, g.core_w, g.core_u.1, State.isDesc]

theorem isSlave_w : w.isSlave = s.isSlave := by
  rw [State.isSlave, g.core_w, g.core_u.1, State.isSlave]

theorem inMask : t.raw .DIEPMSK = s.stored .DIEPMSK (diepmskValue s.isDesc) := by
  rw [g.setUp.inMask, g.isDesc_w, g.stored_w (by simp) (by simp)]

theorem outMask : t.raw .DOEPMSK = s.stored .DOEPMSK (doepmskValue s.isDesc) := by
  rw [g.setUp.outMask, g.isDesc_w, g.stored_w (by simp) (by simp)]

theorem inCtl : t.raw (.DIEPCTL 0) = endpointActions (bit1 27) (s.stored (.DIEPCTL 0) (bit1 27)) := by
  rw [g.setUp.inCtl, g.stored_w (by simp) (by simp)]

theorem outCtl : t.raw (.DOEPCTL 0) = endpointActions (bit1 27) (s.stored (.DOEPCTL 0) (bit1 27)) := by
  rw [g.setUp.outCtl, g.stored_w (by simp) (by simp)]

theorem empty : t.raw .DIEPEMPMSK = s.stored .DIEPEMPMSK 0 := by
  rw [g.setUp.empty, g.stored_w (by simp) (by simp)]

theorem mask : t.raw .GINTMSK = s.stored .GINTMSK (s.raw .GINTMSK ||| 0x000C7800 ||| bitIf s.isSlave 4) := by
  rw [g.setUp.mask, g.isSlave_w, g.raw_w (by simp) (by simp), g.stored_w (by simp) (by simp)]

theorem ep (e : EpRef) : t.ep e = { blankEp with disabling := (s.ep e).disabling } := by
  rw [g.setUp.ep, g.frame_w.ep e (by simp) (by simp)]

theorem exist : t.recordsExist = s.recordsExist :=
  g.setUp.exist.trans ((g.role.frame.exist (by simp) (by simp)).trans (g.lay.exist.trans g.shared.exist))

theorem ep0 : t.ep0 = { s.ep0 with state := .disconnected, address := 0, config := 0 } := by
  rw [g.setUp.ep0, g.frame_w.ep0 (by simp) (by simp)]

theorem raw_other {r : Reg} (hr : r ∉ deviceStartRegs) (ht : ∀ n, r ≠ .DIEPTXF n) : t.raw r = s.raw r := by
  refine g.frame.raw_eq (fun q hq => ?_) (ht 0)
  rcases List.mem_append.mp hq with hq | hq
  · refine ⟨fun e => hr (e ▸ hq), ?_⟩
    rintro rfl
    simp [deviceStartRegs] at hq
  · obtain ⟨n, hn, rfl⟩ := mem_txRegs hq
    exact ⟨ht n, by simpa using hn⟩

theorem isDesc_t : s.isDesc = decide (t.core.dmaMode = .descDma) := by
  rw [g.core]
  rfl

theorem isSlave_t : s.isSlave = decide (t.core.dmaMode = .slave) := by
  rw [g.core]
  rfl

theorem trace : ∃ l, t.trace = .cb .deviceRoleStart :: l ∧ s.trace <:+ l := by
  obtain ⟨l, hl, hs⟩ := g.setUp.trace
  exact ⟨l, hl, g.shared.trace.trans (g.lay.trace.trans (g.role.trace.trans hs))⟩

end State.DeviceBegun

/-! The host engine. -/

/-- The registers that a host engine start writes. -/
def hostStartRegs : List Reg := [.GRXFSIZ, .GNPTXFSIZ, .HPTXFSIZ, .GRSTCTL, .HCFG, .HAINTMSK, .GINTMSK]

/-- The periodic Tx FIFO's grant (R206). -/
def State.ptGrant (s : State) (p : InitParams) : Nat :=
  min p.hptxFifo.toNat (s.core.caps.fifoDepth - s.rxGrant p - s.npGrant p)

namespace State.HostBegun

variable {s v u w t : State} (g : s.HostBegun v u w t)
include g

theorem core_u : u.core = { s.core with fifo := u.core.fifo, cfgError := u.core.cfgError } ∧ u.core.fifo.rx = (0, s.rxGrant s.core.params) ∧
    u.core.fifo.nptx = (s.rxGrant s.core.params, s.npGrant s.core.params) ∧
    u.core.fifo.hptx = (s.rxGrant s.core.params + s.npGrant s.core.params, s.ptGrant s.core.params) := by
  have hu := g.core
  rw [g.shared.core] at hu
  rw [hu]
  exact ⟨rfl, rfl, rfl, rfl⟩

theorem whole (h : u.core.cfgError = false) : s.rxGrant s.core.params = s.core.params.rxFifo.toNat ∧
    s.npGrant s.core.params = s.core.params.nptxFifo.toNat ∧ s.ptGrant s.core.params = s.core.params.hptxFifo.toNat := by
  rw [g.core] at h
  obtain ⟨hv, hpt⟩ := CoreRec.granted (c := v.core) h
  obtain ⟨-, hrx, hnp⟩ := g.shared.whole hv
  exact ⟨hrx, hnp, hpt⟩

theorem core_w : w.core = u.core := g.role.frame.core (by simp) (by simp)

theorem core_t : t.core = { s.core with fifo := u.core.fifo, cfgError := u.core.cfgError, hostEngine := true } := by
  rw [g.setUp.core, g.core_w, g.core_u.1]

/-- Up to the set-up only the FIFOs and the registers of `role_program` have changed. -/
theorem frame_w : Frame s w [.GRXFSIZ, .GNPTXFSIZ, .HPTXFSIZ, .GRSTCTL, .HCFG] [.core, .fifo] :=
  (g.shared.frame.mono (by simp) (by simp)).trans ((g.lay.mono (by simp) (by simp)).trans (g.role.frame.mono (by simp) (by simp)))

theorem frame : Frame s t hostStartRegs (.core :: .fifo :: .htog :: channelParts) :=
  (g.frame_w.mono (by simp [hostStartRegs]) (by simp)).trans (g.setUp.frame.mono (by simp [hostStartRegs]) (by simp))

theorem rxWord : t.raw .GRXFSIZ = s.stored .GRXFSIZ (fld 0 16 (s.rxGrant s.core.params)) := by
  rw [g.setUp.frame.raw_eq (by simp) (by simp), g.role.frame.raw_eq (by simp) (by simp), g.lay.raw_eq (by simp) (by simp), g.shared.rxWord]

theorem npWord : t.raw .GNPTXFSIZ = fifoSizeWord (s.rxGrant s.core.params) (s.npGrant s.core.params) := by
  rw [g.setUp.frame.raw_eq (by simp) (by simp), g.role.frame.raw_eq (by simp) (by simp), g.lay.raw_eq (by simp) (by simp), g.shared.npWord]

theorem ptWord : t.raw .HPTXFSIZ = fifoSizeWord (s.rxGrant s.core.params + s.npGrant s.core.params) (s.ptGrant s.core.params) := by
  rw [g.setUp.frame.raw_eq (by simp) (by simp), g.role.frame.raw_eq (by simp) (by simp), g.word]
  rfl

theorem hcfg : t.raw .HCFG = s.stored .HCFG s.core.hcfg := by
  have hcfg : u.core.hcfg = s.core.hcfg := by
    rw [g.core_u.1]
    rfl
  rw [g.setUp.frame.raw_eq (by simp) (by simp), g.role.config, hcfg]
  exact State.stored_congr (g.lay.hw.trans g.shared.frame.hw)
    ((g.lay.raw_eq (by simp) (by simp)).trans (g.shared.frame.raw_eq (by simp) (by simp))) _

theorem grstctl (h : s.raw .GRSTCTL = 0x80000000#32) : t.raw .GRSTCTL = 0x80000000#32 := by
  rw [g.setUp.frame.raw_eq (by simp) (by simp)]
  refine g.role.idle ?_
  rw [g.lay.raw_eq (by simp) (by simp), g.shared.frame.raw_eq (by simp) (by simp), h]

theorem fifo (h : s.fifo = emptyFifo) : t.fifo = emptyFifo := by
  rw [g.setUp.frame.fifo (by simp [mem_channelParts_iff])]
  refine g.role.empty ?_
  rw [g.lay.fifo (by simp), g.shared.frame.fifo (by simp), h]

theorem summary : t.raw .HAINTMSK = s.stored .HAINTMSK 0 := by
  rw [g.setUp.summary]
  exact State.stored_congr g.frame_w.hw (g.frame_w.raw_eq (by simp) (by simp)) _

theorem mask : t.raw .GINTMSK = s.stored .GINTMSK (s.raw .GINTMSK ||| bit1 25 ||| bitIf s.isSlave 4) := by
  have hslave : w.isSlave = s.isSlave := by rw [State.isSlave, g.core_w, g.core_u.1, State.isSlave]
  have hraw : w.raw .GINTMSK = s.raw .GINTMSK := g.frame_w.raw_eq (by simp) (by simp)
  rw [g.setUp.mask, hslave, hraw]
  exact State.stored_congr g.frame_w.hw hraw _

theorem exist_t : t.recordsExist = s.recordsExist :=
  g.setUp.exist.trans ((g.role.frame.exist (by simp) (by simp)).trans (g.exist.trans g.shared.exist))

theorem trace_t : ∃ l, t.trace = .cb .hostRoleStart :: l ∧ s.trace <:+ l := by
  obtain ⟨l, hl, hs⟩ := g.setUp.trace
  exact ⟨l, hl, g.shared.trace.trans (g.trace.trans (g.role.trace.trans hs))⟩

end State.HostBegun

end Sys2Proof.Machine

/-! PROOF. CORE_INIT (R201): the device and the host engine started on a reset core. -/

namespace Sys2Proof.Machine

open Sys2Proof

/-! The core before its engine starts. -/

/-- From `s` to `t` the core has been initialised up to the start of its engine, in context `x` (R201). -/
structure State.Initialised (s t : State) (base : Word) (p : InitParams) (x : Ctx) : Prop where
  ready : t.Ready
  core : t.core = { s.core with
    base := base, params := p, caps := s.hw.caps, dmaMode := resolvedDma s.hw.caps p.dmaMode, opState := s.plug, fifo := t.core.fifo
    functional := true, cfgError := t.core.cfgError, deviceEngine := false, hostEngine := false }
  context : t.ctx = x
  ep : ∀ e, t.ep e = blankEp
  ch : ∀ c, t.chan c = blankCh
  pool : t.pool = List.replicate s.hw.poolCap none
  ep0 : t.ep0 = { s.ep0 with state := .disconnected, address := 0, config := 0, remoteWakeup := false }
  iso : t.iso = []
  htog : t.htog = []
  exist : t.recordsExist = true
  fifo : t.fifo = emptyFifo
  bytes : ∀ a, t.byte a = s.byte a
  hw : t.hw = s.hw
  prompt : t.prompt = s.prompt
  replies : t.replies = s.replies
  gahbcfg : t.raw .GAHBCFG = t.core.gahbcfg
  gusbcfg : t.raw .GUSBCFG = t.core.gusbcfg
  otg : t.raw .GOTGCTL = s.raw .GOTGCTL &&& 0x000D0000
  mask : t.raw .GINTMSK = 0xB0000004
  reset : t.raw .GRSTCTL = 0x80000000
  events : t.raw .GINTSTS = s.raw .GINTSTS &&& 0x1
  otgEvents : t.raw .GOTGINT = 0
  rest : ∀ a, a ∉ [Reg.GAHBCFG, .GUSBCFG, .GOTGCTL, .GINTMSK, .GOTGINT, .GINTSTS, .GRSTCTL].map Reg.offset → SMap.get 0 t.regs a = 0

theorem gahbcfg_rw (c : CoreRec) : c.gahbcfg &&& ~~~0x3F#32 = 0#32 := by
  have h : ∀ (n : Fin 16) (b : Bool), (fld 1 4 n.val ||| bitIf b 5) &&& ~~~0x3F#32 = 0#32 := by decide
  exact h c.params.burst.toFin _

theorem gusbcfg_rw (c : CoreRec) : c.gusbcfg &&& ~~~0x358#32 = 0#32 := by
  have h : ∀ b d e f g : Bool, (bitIf b 3 ||| bitIf d 4 ||| bitIf e 6 ||| bitIf f 8 ||| bitIf g 9) &&& ~~~0x358#32 = 0#32 := by decide
  exact h ..

/-- The masked words that a second mask leaves alone. -/
theorem and_within (w m n : Word) (h : m &&& n = m) : w &&& m &&& n = w &&& m := by rw [BitVec.and_assoc, h]

theorem initialised_of {s a t : State} {base : Word} {p : InitParams} {x : Ctx} (r : s.Reborn a base p) (c : a.Configured t x) :
    s.Initialised t base p x := by
  have word (q : Reg) : a.raw q = if q.offset = 0x014 then s.raw .GINTSTS &&& 0x1 else if q.offset = 0x010 then 0x80000000 else
      if q.offset = 0x000 then s.raw .GOTGCTL &&& 0x000D0000 else 0 := r.word q.offset
  have zero {q : Reg} (hq : q.offset ∉ [0x014, 0x010, 0x000]) : a.raw q = 0#32 := by
    simp only [List.mem_cons, List.not_mem_nil, or_false, not_or] at hq
    rw [word, if_neg hq.1, if_neg hq.2.1, if_neg hq.2.2]
    rfl
  have otg : a.raw .GOTGCTL = s.raw .GOTGCTL &&& 0x000D0000 := word .GOTGCTL
  have hplug : a.plug = s.plug := by
    have h : bitOf (0xD0000 : Word) 16 = true := by decide
    rw [State.plug, State.plug, otg, bitOf_and, h, Bool.and_true]
  have within {q : Reg} {v m : Word} (hm : rwMask a.hw q = m) (hc : w1cMask q = 0#32) (hs : w1sMask q = 0#32)
      (hq : q.offset ∉ [0x014, 0x010, 0x000]) (hv : v &&& ~~~m = 0#32) : a.stored q v = v :=
    a.stored_within hm hc hs (zero hq) hv
  have f := c.frame
  refine
    { ready := c.ready, core := ?_, context := c.context
      ep := fun e => (f.ep e (by simp) (by simp)).trans (r.ep e), ch := fun k => (f.ch k (by simp) (by simp)).trans (r.ch k)
      pool := (f.pool (by simp) (by simp)).trans r.pool, ep0 := (f.ep0 (by simp) (by simp)).trans r.ep0
      iso := (f.iso (by simp) (by simp)).trans r.iso, htog := (f.htog (by simp) (by simp)).trans r.htog
      exist := c.exist.trans r.exist, fifo := (f.fifo (by simp)).trans r.fifo
      bytes := fun b => (f.mem (by simp) b).trans (r.bytes b), hw := f.hw.trans r.hw, prompt := f.inputs.2.2.2.trans r.prompt
      replies := f.inputs.2.2.1.trans r.replies
      gahbcfg := ?_, gusbcfg := ?_, otg := ?_, mask := c.mask, reset := ?_, events := ?_, otgEvents := ?_, rest := fun b hb => ?_ }
  · rw [c.core, hplug, r.core, r.hw]
    rfl
  · exact c.gahbcfg.trans (within (q := .GAHBCFG) (m := 0x3F#32) rfl rfl rfl (by decide) (gahbcfg_rw _))
  · exact c.gusbcfg.trans (within (q := .GUSBCFG) (m := 0x358#32) rfl rfl rfl (by decide) (gusbcfg_rw _))
  · have hkeep : a.raw .GOTGCTL &&& ~~~0xE02#32 = a.raw .GOTGCTL := by
      rw [otg]
      exact and_within _ _ _ (by decide)
    rw [c.otg, a.stored_plain rfl rfl, show rwMask a.hw .GOTGCTL = 0xE02#32 from rfl, hkeep, otg,
      show (0 : Word) &&& 0xE02#32 = 0#32 from by decide, BitVec.or_zero]
  · rw [f.raw_eq (by simp) (by simp)]
    exact word .GRSTCTL
  · rw [c.events, a.stored_w1c (k := 1) (by decide), show (0xFFFFFFFF : Word) &&& w1cMask .GINTSTS = 0xF9F3FFCA#32 from by decide, word .GINTSTS]
    exact and_within _ _ _ (by decide)
  · rw [c.otgEvents, a.stored_w1c (k := 1) (by decide), zero (by decide), BitVec.zero_and]
    rfl
  · simp only [List.map_cons, List.map_nil, List.mem_cons, List.not_mem_nil, or_false, not_or] at hb
    obtain ⟨h8, hc, h0, h18, h4, h14, h10⟩ := hb
    exact (f.regs b (by simp [h8, hc, h0, h18, h4, h14])).trans ((r.word b).trans ((if_neg h14).trans ((if_neg h10).trans (if_neg h0))))

theorem fld_rx (n : Nat) : fld 0 16 n &&& ~~~0x0000FFFF#32 = 0#32 := by
  refine word_ext fun j hj => ?_
  rw [bitOf_and, bitOf_not hj, show 0x0000FFFF#32 = ones 0 16 from by decide, bitOf_ones, bitOf_fld, bitOf_zero]
  simp only [hj, Nat.zero_le, true_and, Nat.zero_add]
  by_cases h : j < 16 <;> simp [h]

/-- The lowest bit of a word. -/
theorem and_one (w : Word) : w &&& 0x1 = bitIf (bitOf w 0) 0 := by
  refine word_ext fun j hj => ?_
  have hone : bitOf (0x1 : Word) j = decide (j < 32 ∧ j = 0) := bitOf_bit1 0 j
  rw [bitOf_and, hone, bitOf_bitIf]
  by_cases h : j = 0 <;> simp [h]

theorem State.Initialised.zero {s b : State} {base : Word} {p : InitParams} {x : Ctx} (i : s.Initialised b base p x) {q : Reg}
    (hq : q.offset ∉ [Reg.GAHBCFG, .GUSBCFG, .GOTGCTL, .GINTMSK, .GOTGINT, .GINTSTS, .GRSTCTL].map Reg.offset) : b.looked.raw q = 0#32 :=
  i.rest q.offset hq

theorem State.Initialised.stored_rx {s b : State} {base : Word} {p : InitParams} {x : Ctx} (i : s.Initialised b base p x) (n : Nat) :
    b.looked.stored .GRXFSIZ (fld 0 16 n) = fld 0 16 n :=
  b.looked.stored_within (m := 0x0000FFFF#32) rfl rfl rfl (i.zero (by decide)) (fld_rx n)

/-! The run of `core_init`. -/

theorem State.Reborn.of_note {s a : State} {e : TraceEv} {base : Word} {p : InitParams} (r : (s.note e).Reborn a base p) :
    s.Reborn a base p :=
  ⟨r.ready, r.core, r.ep, r.ch, r.pool, r.ep0, r.iso, r.htog, r.exist, r.fifo, r.bytes, r.hw, r.prompt, r.replies, r.word⟩

section
variable {s : State} {p : InitParams} (k : s.Ready) (hp : s.prompt = true) (hc : s.hw.caps.fits) (hd : s.hw.caps.dedFifo = true)
  (hpd : p.dedicatedFifo = true)
include k hp hc hd hpd

/-- `core_init` where LINK completes the reset (R201). -/
theorem coreInit_run (base : Word) (h31 : bitOf (s.raw .GRSTCTL) 31 = true) (hl : 1 ≤ s.hw.resetPollLimit) (h : Hooks) :
    ∃ t, coreInit base p h s = initEnd s.ctx h t ∧ s.Initialised t base p s.ctx := by
  have hbit : bitOf (s.peek .GHWCFG4) 25 = true := (bitOf_ghwcfg4 s.hw.caps).1.trans hd
  obtain ⟨a, ha, ra⟩ := coreInitFrom_run (s := s.note (.rd 0x050 (s.peek .GHWCFG4))) (by simpa using k) hp base p h31 hl h
  have hmask : a.raw .GINTMSK = 0 := ra.word 0x018
  obtain ⟨t, ht, ct⟩ := coreInitProgram_run ra.ready (by rw [ra.hw]; exact hc) hmask s.ctx h
  refine ⟨t, ?_, initialised_of ra.of_note ct⟩
  rw [coreInit, hpd, if_pos rfl, run_bind_ok (regRead_ready k (by simp) (by simp) h), hbit, if_pos rfl]
  exact ha.trans ht

end

theorem initEnd_device {s : State} (k : s.Ready) (hp : s.prompt = true) (hr : s.replies = []) (ho : s.core.opState = .bPeripheral)
    (hs : s.enginesStopped = true) (hm : s.hostMode = false) (hn : 1 ≤ s.hw.caps.nEp) (hf : 1 ≤ s.hw.flushPollLimit)
    (hl : 1 ≤ s.hw.modeWaitLimit) (x : Ctx) (m : Nat) : ∃ v u w t,
      initEnd x (hooksAt m) s = .ok (if t.core.cfgError then .configError else .ok, t) ∧ s.looked.DeviceBegun v u w t := by
  obtain ⟨v, u, w, t, ht, g⟩ := deviceEngineStart_run hs (k.between _) k hr hp hf hl hm hn
  refine ⟨v, u, w, t, ?_, g⟩
  rw [initEnd, run_ask_bind, ho, startEngineFor, run_bind_ok ht, if_pos rfl, run_ask]

theorem initEnd_host {s : State} (k : s.Ready) (hp : s.prompt = true) (hr : s.replies = []) (ho : s.core.opState = .aHost)
    (hs : s.enginesStopped = true) (hm : s.hostMode = true) (hf : 1 ≤ s.hw.flushPollLimit)
    (hl : 1 ≤ s.hw.modeWaitLimit) (x : Ctx) (m : Nat) : ∃ v u w t,
      initEnd x (hooksAt m) s = .ok (if t.core.cfgError then .configError else .ok, t) ∧ s.looked.HostBegun v u w t := by
  obtain ⟨v, u, w, t, ht, g⟩ := hostEngineStart_run hs (k.between _) k hr hp hf hl hm
  refine ⟨v, u, w, t, ?_, g⟩
  rw [initEnd, run_ask_bind, ho, startEngineFor, run_bind_ok ht, if_pos rfl, run_ask]

end Sys2Proof.Machine

/-! PROOF. CORE_INIT of a device (R201, R410; O18). -/

namespace Sys2Proof.Machine

open Sys2Proof

section
variable {s b v u w t : State} {base : Word} {p : InitParams} {x : Ctx} (i : s.Initialised b base p x)
  (g : b.looked.DeviceBegun v u w t)
include i

include g

namespace State.Initialised

theorem device_core : t.core = { s.core with
    base := base, params := p, caps := s.hw.caps, dmaMode := resolvedDma s.hw.caps p.dmaMode, opState := s.plug
    fifo := t.core.fifo, functional := true, cfgError := t.core.cfgError, deviceEngine := true, hostEngine := false } := by
  rw [g.core, b.core_looked, i.core]

theorem device_gahbcfg : t.raw .GAHBCFG = (fld 1 4 p.burst.toNat ||| bitIf (decide (t.core.dmaMode ≠ .slave)) 5) := by
  have hcore : b.core.gahbcfg = t.core.gahbcfg := by
    rw [g.core]
    rfl
  rw [g.raw_other (by simp [deviceStartRegs]) (by simp), b.raw_looked, i.gahbcfg, hcore, CoreRec.gahbcfg, i.device_core g]

theorem device_gusbcfg : t.raw .GUSBCFG = (bitIf p.phyWidth16 3 ||| bitIf (decide (resolvedPhy s.hw.caps p = .ulpi)) 4 |||
    bitIf (decide (resolvedPhy s.hw.caps p = .fsSerial)) 6 ||| bitIf (decide (p.otgCap ≠ .none)) 8 |||
    bitIf (decide (p.otgCap = .hnpSrp)) 9) := by
  rw [g.raw_other (by simp [deviceStartRegs]) (by simp), b.raw_looked, i.gusbcfg, CoreRec.gusbcfg, i.core]

theorem device_dcfg : t.raw .DCFG = (fld 0 2 (if resolvedPhy s.hw.caps p = .fsSerial then 3 else natOf p.fullSpeed) |||
    bitIf (decide (t.core.dmaMode = .descDma)) 23) := by
  have hspeed : speedCode b.core = if resolvedPhy s.hw.caps p = .fsSerial then 3 else natOf p.fullSpeed := by
    rw [speedCode, i.core]
    cases resolvedPhy s.hw.caps p <;> rfl
  have hrw : b.core.dcfg &&& ~~~0x008007F3#32 = 0#32 := by
    have h : ∀ (n : Fin 4) (d : Bool), (fld 0 2 n.val ||| bitIf d 23) &&& ~~~0x008007F3#32 = 0#32 := by decide
    have hlt : speedCode b.core < 4 := by
      rw [hspeed]
      cases p.fullSpeed <;> split <;> decide
    exact h ⟨_, hlt⟩ _
  have hmode : b.core.dmaMode = t.core.dmaMode := by
    rw [g.core]
    rfl
  rw [g.dcfg]
  refine (b.looked.stored_within (m := 0x008007F3#32) rfl rfl rfl (i.zero (by decide)) hrw).trans ?_
  rw [CoreRec.dcfg, hspeed, hmode]

theorem device_inMask : t.raw .DIEPMSK = if t.core.dmaMode = .descDma then 0x20F else 0x00F := by
  have hrw : ∀ d, diepmskValue d &&& ~~~0x0000130F#32 = 0#32 := by decide
  rw [g.inMask, b.looked.stored_within (m := 0x0000130F#32) rfl rfl rfl (i.zero (by decide)) (hrw _), g.isDesc_t, diepmskValue]
  simp only [decide_eq_true_eq]

theorem device_outMask : t.raw .DOEPMSK = if t.core.dmaMode = .descDma then 0x130F else 0x110F := by
  have hrw : ∀ d, doepmskValue d &&& ~~~0x0000138F#32 = 0#32 := by decide
  rw [g.outMask, b.looked.stored_within (m := 0x0000138F#32) rfl rfl rfl (i.zero (by decide)) (hrw _), g.isDesc_t, doepmskValue]
  simp only [decide_eq_true_eq]

theorem device_inCtl : t.raw (.DIEPCTL 0) = 0x00020000 := by
  rw [g.inCtl, State.stored, i.zero (by decide)]
  exact (by decide : endpointActions (bit1 27) (writeWord 0x03EC87FF#32 0 0xC0000000 0#32 (bit1 27)) = 0x00020000)

theorem device_outCtl : t.raw (.DOEPCTL 0) = 0x00020000 := by
  rw [g.outCtl, State.stored, i.zero (by decide)]
  exact (by decide : endpointActions (bit1 27) (writeWord 0x002C87FF#32 0 0xC0000000 0#32 (bit1 27)) = 0x00020000)

theorem device_mask : t.raw .GINTMSK = if t.core.dmaMode = .slave then 0xB00C7814 else 0xB00C7804 := by
  have hraw : b.looked.raw .GINTMSK = 0xB0000004 := i.mask
  have hval : ∀ d : Bool, writeWord 0xFFFFFFFE#32 0 0 0xB0000004 (0xB0000004 ||| 0x000C7800 ||| bitIf d 4) =
      if d then 0xB00C7814 else 0xB00C7804 := by decide
  rw [g.mask, State.stored, hraw, g.isSlave_t]
  refine (hval _).trans ?_
  simp only [decide_eq_true_eq]

theorem device_empty : t.raw .DIEPEMPMSK = 0 := by
  rw [g.empty, b.looked.stored_within (m := 0x0000FFFF#32) rfl rfl rfl (i.zero (by decide)) (by decide)]

theorem device_rest (a : Nat) (ha : a ∉ ([Reg.GAHBCFG, .GUSBCFG, .GOTGCTL, .GRSTCTL, .GINTSTS, .GRXFSIZ, .GNPTXFSIZ, .DCFG, .DIEPMSK,
    .DOEPMSK, .DAINTMSK, .GINTMSK, .DIEPCTL 0, .DOEPCTL 0] ++ txRegs s.hw.caps.nEp).map Reg.offset) : SMap.get 0 t.regs a = 0 := by
  by_cases he : a = Reg.offset .DIEPEMPMSK
  · rw [he]
    exact i.device_empty g
  by_cases ho : a = Reg.offset .GOTGINT
  · rw [ho]
    exact (g.raw_other (r := .GOTGINT) (by simp [deviceStartRegs]) (by simp)).trans i.otgEvents
  have hcaps : b.looked.core.caps = s.hw.caps := by rw [b.core_looked, i.core]
  rw [List.map_append, List.mem_append, not_or] at ha
  obtain ⟨ha, htx⟩ := ha
  simp only [List.map_cons, List.map_nil, List.mem_cons, List.not_mem_nil, or_false, not_or] at ha
  refine (g.frame.regs a ?_).trans (i.rest a ?_)
  · rw [List.map_append, List.mem_append, not_or, hcaps]
    refine ⟨?_, htx⟩
    simp only [deviceStartRegs, List.map_cons, List.map_nil, List.mem_cons, List.not_mem_nil, or_false, not_or]
    simp only [ha, he, not_false_eq_true, and_self]
  · simp only [List.map_cons, List.map_nil, List.mem_cons, List.not_mem_nil, or_false, not_or]
    simp only [ha, ho, not_false_eq_true, and_self]

end State.Initialised

end

theorem txNumbers_below (n : Nat) :
    ((List.finRange 16).filter fun i => decide (1 ≤ i.val) && decide (i.val < n)) = txNumbers.filter fun j => decide (j.val < n) := by
  rw [txNumbers, List.filter_filter]
  refine List.filter_congr fun j _ => ?_
  rw [Bool.and_comm]
  simp [Nat.one_le_iff_ne_zero]

theorem txRegs_eq (n : Nat) :
    ((List.finRange 16).filter fun i => decide (1 ≤ i.val) && decide (i.val < n)).map Reg.DIEPTXF = txRegs n := by
  rw [txNumbers_below, txRegs]

/-- CORE_INIT runs as `core_init` does (R201). -/
theorem exec_coreInit {s u : State} (hft : s.FromTask) {base : Word} {p : InitParams} {st : Status}
    (e : coreInit base p (hooksAt s.level) s = .ok (st, u)) : exec (.coreInit base p) s = .next (u.returned (.status st)) := by
  refine runCmd_ok ?_
  rw [coreInitCmd, run_bind_ok (taskOnly_ok hft _), run_bind_ok e]
  rfl

section
variable {s : State} {p : InitParams} (k : s.Ready) (hp : s.prompt = true) (hr : s.replies = []) (hc : s.hw.caps.fits)
  (hd : s.hw.caps.dedFifo = true) (hpd : p.dedicatedFifo = true) (h31 : bitOf (s.raw .GRSTCTL) 31 = true)
  (hl : 1 ≤ s.hw.resetPollLimit) (hf : 1 ≤ s.hw.flushPollLimit) (hw : 1 ≤ s.hw.modeWaitLimit)
include k hp hr hc hd hpd h31 hl hf hw

/-- `core_init` of a device (R201, R410). -/
theorem coreInit_device (base : Word) (h16 : bitOf (s.raw .GOTGCTL) 16 = true) (hm : s.hostMode = false) (m : Nat) :
    ∃ b v u w t, coreInit base p (hooksAt m) s = .ok (if t.core.cfgError then .configError else .ok, t) ∧
      s.Initialised b base p s.ctx ∧ b.looked.DeviceBegun v u w t := by
  obtain ⟨b, hb, i⟩ := coreInit_run k hp hc hd hpd base h31 hl (hooksAt m)
  have hbm : b.hostMode = false := by
    rw [State.hostMode, i.events, bitOf_and, show bitOf (s.raw .GINTSTS) 0 = false from hm, Bool.false_and]
  obtain ⟨v, u, w, t, ht, g⟩ := initEnd_device i.ready (i.prompt.trans hp) (i.replies.trans hr) (by rw [i.core, State.plug, if_pos h16])
    (by rw [State.enginesStopped, i.core]; rfl) hbm (by rw [i.hw]; exact hc.1) (by rw [i.hw]; exact hf) (by rw [i.hw]; exact hw) s.ctx m
  exact ⟨b, v, u, w, t, hb.trans ht, i, g⟩

end

/-- Settles O18: the reset core is configured, and its device engine is started. -/
theorem coreInitStartsTheDevice : Obligations.CoreInitStartsTheDevice := by
  intro s base p he hr hp ht hs hu hft hc hd hpd h31 hl hf hw h16 hm
  have k : s.Ready := State.ready_of_tick he hs hu fun _ => ht
  obtain ⟨b, v, u, w, t, hrun, i, g⟩ := coreInit_device k hp hr hc hd hpd h31 hl hf hw base h16 hm s.level
  have hcore := i.device_core g
  have hplug : s.plug = .bPeripheral := if_pos h16
  have hparts {q : Part} (hq : q ∉ [.core, .fifo, .ep0]) (he : ∀ e, q ≠ .ep e) : q ∉ .core :: .fifo :: .ep0 :: endpointParts := by
    simpa [mem_endpointParts_iff, he] using hq
  have hrec : Part.records ∉ .core :: .fifo :: .ep0 :: endpointParts := hparts (by simp) (by simp)
  have f := g.frame
  have hrx : t.core.fifo.rx = (0, b.looked.rxGrant b.looked.core.params) := by rw [g.core]; exact g.core_u.2.1
  have hnp : t.core.fifo.nptx = (b.looked.rxGrant b.looked.core.params, b.looked.npGrant b.looked.core.params) := by
    rw [g.core]; exact g.core_u.2.2
  refine ⟨_, exec_coreInit hft hrun, rfl, ?_, ?_, ?_, ?_, ?_, ?_, ?_, ?_, (f.pool (hparts (by simp) (by simp)) hrec).trans i.pool,
    (f.iso (hparts (by simp) (by simp)) hrec).trans i.iso, (f.htog (hparts (by simp) (by simp)) hrec).trans i.htog, ?_, fun e => ?_,
    fun c => (f.ch c (hparts (by simp) (by simp)) hrec).trans (i.ch c), g.exist.trans i.exist,
    (f.context (hparts (by simp) (by simp))).trans i.context, fun a => (f.mem (hparts (by simp) (by simp)) a).trans (i.bytes a),
    (g.fifo i.fifo :), (g.raw_other (by simp [deviceStartRegs]) (by simp)).trans i.otg, (g.grstctl i.reset :), ?_, (i.device_gahbcfg g :),
    (i.device_gusbcfg g :), ?_, ?_, fun n h1 hn => ?_, (i.device_dcfg g :), (i.device_inMask g :), (i.device_outMask g :), (g.setUp.summary :),
    (i.device_inCtl g :), (i.device_outCtl g :), (i.device_mask g :), fun a ha => (i.device_rest g a :) ?_⟩
  · exact congrArg CoreRec.functional hcore
  · exact (congrArg CoreRec.opState hcore).trans hplug
  · exact congrArg CoreRec.deviceEngine hcore
  · exact congrArg CoreRec.hostEngine hcore
  · exact congrArg CoreRec.base hcore
  · exact congrArg CoreRec.params hcore
  · exact congrArg CoreRec.caps hcore
  · exact congrArg CoreRec.dmaMode hcore
  · exact congrArg Ep0Rec.state g.ep0
  · refine (g.ep e).trans ?_
    rw [show b.looked.ep e = b.ep e from rfl, i.ep]
  · refine ((g.raw_other (by simp [deviceStartRegs]) (by simp)).trans i.events).trans ?_
    rw [and_one, show bitOf (s.raw .GINTSTS) 0 = false from hm]
    rfl
  · refine g.rxWord.trans ((i.stored_rx _).trans ?_)
    show fld 0 16 _ = fld 0 16 t.core.fifo.rx.2
    rw [hrx]
  · refine g.npWord.trans ?_
    show _ = fld 0 16 t.core.fifo.nptx.1 ||| fld 16 16 t.core.fifo.nptx.2
    rw [hnp]
    rfl
  · exact (g.txWord (i := n) (fun e => by simp [e] at h1) (by rw [b.core_looked, i.core]; exact hn) :)
  · rw [← txRegs_eq]
    exact ha

end Sys2Proof.Machine

/-! PROOF. CORE_INIT of a host (R201, R410; O19). -/

namespace Sys2Proof.Machine

open Sys2Proof

/-- `core_init` of a host (R201, R410). -/
theorem coreInit_host {s : State} {p : InitParams} (k : s.Ready) (hp : s.prompt = true) (hr : s.replies = []) (hc : s.hw.caps.fits)
    (hd : s.hw.caps.dedFifo = true) (hpd : p.dedicatedFifo = true) (h31 : bitOf (s.raw .GRSTCTL) 31 = true)
    (hl : 1 ≤ s.hw.resetPollLimit) (hf : 1 ≤ s.hw.flushPollLimit) (hw : 1 ≤ s.hw.modeWaitLimit) (base : Word)
    (h16 : bitOf (s.raw .GOTGCTL) 16 = false) (hm : s.hostMode = true) (m : Nat) :
    ∃ b v u w t, coreInit base p (hooksAt m) s = .ok (if t.core.cfgError then .configError else .ok, t) ∧
      s.Initialised b base p s.ctx ∧ b.looked.HostBegun v u w t := by
  obtain ⟨b, hb, i⟩ := coreInit_run k hp hc hd hpd base h31 hl (hooksAt m)
  have hbm : b.hostMode = true := by
    rw [State.hostMode, i.events, bitOf_and, show bitOf (s.raw .GINTSTS) 0 = true from hm]
    decide
  obtain ⟨v, u, w, t, ht, g⟩ := initEnd_host i.ready (i.prompt.trans hp) (i.replies.trans hr) (by rw [i.core, State.plug, h16]; rfl)
    (by rw [State.enginesStopped, i.core]; rfl) hbm (by rw [i.hw]; exact hf) (by rw [i.hw]; exact hw) s.ctx m
  exact ⟨b, v, u, w, t, hb.trans ht, i, g⟩

section
variable {s b v u w t : State} {base : Word} {p : InitParams} {x : Ctx} (i : s.Initialised b base p x)
  (g : b.looked.HostBegun v u w t)
include i g

namespace State.Initialised

theorem host_core : t.core = { s.core with
    base := base, params := p, caps := s.hw.caps, dmaMode := resolvedDma s.hw.caps p.dmaMode, opState := s.plug
    fifo := t.core.fifo, functional := true, cfgError := t.core.cfgError, deviceEngine := false, hostEngine := true } := by
  rw [g.core_t, b.core_looked, i.core]

theorem host_gahbcfg : t.raw .GAHBCFG = (fld 1 4 p.burst.toNat ||| bitIf (decide (t.core.dmaMode ≠ .slave)) 5) := by
  have hcore : b.core.gahbcfg = t.core.gahbcfg := by
    rw [g.core_t]
    rfl
  rw [g.frame.raw_eq (by simp [hostStartRegs]) (by simp), b.raw_looked, i.gahbcfg, hcore, CoreRec.gahbcfg, i.host_core g]

theorem host_gusbcfg : t.raw .GUSBCFG = (bitIf p.phyWidth16 3 ||| bitIf (decide (resolvedPhy s.hw.caps p = .ulpi)) 4 |||
    bitIf (decide (resolvedPhy s.hw.caps p = .fsSerial)) 6 ||| bitIf (decide (p.otgCap ≠ .none)) 8 |||
    bitIf (decide (p.otgCap = .hnpSrp)) 9) := by
  rw [g.frame.raw_eq (by simp [hostStartRegs]) (by simp), b.raw_looked, i.gusbcfg, CoreRec.gusbcfg, i.core]

theorem host_hcfg : t.raw .HCFG = (bitIf p.fullSpeed 2 ||| bitIf (decide (t.core.dmaMode = .descDma)) 23) := by
  have hrw : ∀ c d : Bool, (bitIf c 2 ||| bitIf d 23) &&& ~~~0x00800004#32 = 0#32 := by decide
  rw [g.hcfg]
  refine (b.looked.stored_within (m := 0x00800004#32) rfl rfl rfl (i.zero (by decide)) (hrw _ _)).trans ?_
  rw [b.core_looked, i.core, i.host_core g]

theorem host_mask : t.raw .GINTMSK = if t.core.dmaMode = .slave then 0xB2000014 else 0xB2000004 := by
  have hraw : b.looked.raw .GINTMSK = 0xB0000004 := i.mask
  have hslave : b.looked.isSlave = decide (t.core.dmaMode = .slave) := by
    rw [g.core_t]
    rfl
  have hval : ∀ d : Bool, writeWord 0xFFFFFFFE#32 0 0 0xB0000004 (0xB0000004 ||| bit1 25 ||| bitIf d 4) =
      if d then 0xB2000014 else 0xB2000004 := by decide
  rw [g.mask, State.stored, hraw, hslave]
  refine (hval _).trans ?_
  simp only [decide_eq_true_eq]

theorem host_rest (a : Nat) (ha : a ∉ [Reg.GAHBCFG, .GUSBCFG, .GOTGCTL, .GRSTCTL, .GINTSTS, .GRXFSIZ, .GNPTXFSIZ, .HPTXFSIZ, .HCFG,
    .GINTMSK].map Reg.offset) : SMap.get 0 t.regs a = 0 := by
  by_cases he : a = Reg.offset .HAINTMSK
  · rw [he]
    refine g.summary.trans ?_
    rw [b.looked.stored_within (m := 0x0000FFFF#32) rfl rfl rfl (i.zero (by decide)) (by decide)]
  by_cases ho : a = Reg.offset .GOTGINT
  · rw [ho]
    exact (g.frame.raw_eq (r := .GOTGINT) (by simp [hostStartRegs]) (by simp)).trans i.otgEvents
  simp only [List.map_cons, List.map_nil, List.mem_cons, List.not_mem_nil, or_false, not_or] at ha
  refine (g.frame.regs a ?_).trans (i.rest a ?_)
  · simp only [hostStartRegs, List.map_cons, List.map_nil, List.mem_cons, List.not_mem_nil, or_false, not_or]
    simp only [ha, he, not_false_eq_true, and_self]
  · simp only [List.map_cons, List.map_nil, List.mem_cons, List.not_mem_nil, or_false, not_or]
    simp only [ha, ho, not_false_eq_true, and_self]

end State.Initialised

end

/-- Settles O19: the reset core is configured, and its host engine is started. -/
theorem coreInitStartsTheHost : Obligations.CoreInitStartsTheHost := by
  intro s base p he hr hp ht hs hu hft hc hd hpd h31 hl hf hw h16 hm
  have k : s.Ready := State.ready_of_tick he hs hu fun _ => ht
  obtain ⟨b, v, u, w, t, hrun, i, g⟩ := coreInit_host k hp hr hc hd hpd h31 hl hf hw base h16 hm s.level
  have hcore := i.host_core g
  have hplug : s.plug = .aHost := by rw [State.plug, h16]; rfl
  have hparts {q : Part} (hq : q ∉ [.core, .fifo, .htog]) (he : ∀ c, q ≠ .ch c) : q ∉ .core :: .fifo :: .htog :: channelParts := by
    simpa [mem_channelParts_iff, he] using hq
  have hrec : Part.records ∉ .core :: .fifo :: .htog :: channelParts := hparts (by simp) (by simp)
  have f := g.frame
  obtain ⟨-, hrx, hnp, hpt⟩ := g.core_u
  have hfifo : t.core.fifo = u.core.fifo := by rw [g.core_t]
  have hcfg : t.core.cfgError = u.core.cfgError := by rw [g.core_t]
  have hparams : b.looked.core.params = p := by rw [b.core_looked, i.core]
  have hdepth : b.looked.core.caps.fifoDepth = s.hw.caps.fifoDepth := by rw [b.core_looked, i.core]
  rw [← hfifo, hparams] at hrx hnp hpt
  refine ⟨_, exec_coreInit hft hrun, rfl, ?_, ?_, ?_, ?_, ?_, ?_, ?_, ?_, fun c => (g.setUp.ch c :),
    (f.pool (hparts (by simp) (by simp)) hrec).trans i.pool, (g.setUp.htog :),
    (f.iso (hparts (by simp) (by simp)) hrec).trans i.iso, g.exist_t.trans i.exist,
    (f.context (hparts (by simp) (by simp))).trans i.context, fun a => (f.mem (hparts (by simp) (by simp)) a).trans (i.bytes a),
    (g.fifo i.fifo :), (f.raw_eq (by simp [hostStartRegs]) (by simp)).trans i.otg, (g.grstctl i.reset :), ?_, (i.host_gahbcfg g :),
    (i.host_gusbcfg g :), ?_, ?_, (i.host_hcfg g :), ?_, (i.host_mask g :), ?_⟩
  · exact congrArg CoreRec.functional hcore
  · exact (congrArg CoreRec.opState hcore).trans hplug
  · exact congrArg CoreRec.hostEngine hcore
  · exact congrArg CoreRec.deviceEngine hcore
  · exact congrArg CoreRec.base hcore
  · exact congrArg CoreRec.params hcore
  · exact congrArg CoreRec.caps hcore
  · exact congrArg CoreRec.dmaMode hcore
  · refine ((f.raw_eq (by simp [hostStartRegs]) (by simp)).trans i.events).trans ?_
    rw [and_one, show bitOf (s.raw .GINTSTS) 0 = true from hm]
    rfl
  · refine g.rxWord.trans ((i.stored_rx _).trans ?_)
    show fld 0 16 _ = fld 0 16 t.core.fifo.rx.2
    rw [hrx, hparams]
  · refine g.npWord.trans ?_
    show _ = fld 0 16 t.core.fifo.nptx.1 ||| fld 16 16 t.core.fifo.nptx.2
    rw [hnp, hparams]
    rfl
  · refine g.ptWord.trans ?_
    show _ = fld 0 16 t.core.fifo.hptx.1 ||| fld 16 16 t.core.fifo.hptx.2
    rw [hpt, hparams]
    rfl
  · simp only [State.returned_core, hrx, hnp, hpt]
    have hle : ∀ n d : Nat, min n d ≤ n ∧ min n d ≤ d := fun n d => ⟨min_le_left n d, min_le_right n d⟩
    obtain ⟨hrx1, hrx2⟩ := hle p.rxFifo.toNat b.looked.core.caps.fifoDepth
    obtain ⟨hnp1, hnp2⟩ := hle p.nptxFifo.toNat (b.looked.core.caps.fifoDepth - b.looked.rxGrant p)
    obtain ⟨hpt1, hpt2⟩ := hle p.hptxFifo.toNat (b.looked.core.caps.fifoDepth - b.looked.rxGrant p - b.looked.npGrant p)
    rw [← State.rxGrant] at hrx1 hrx2
    rw [← State.npGrant] at hnp1 hnp2
    rw [← State.ptGrant] at hpt1 hpt2
    refine ⟨by omega, trivial, trivial, trivial, hrx1, hnp1, hpt1, fun he => ?_, (i.host_rest g :)⟩
    have hwhole := g.whole (hcfg ▸ he)
    rwa [hparams] at hwhole

end Sys2Proof.Machine

/-! PROOF. The FIFO budget of a device (P3, R206; O20), and the ends of CORE_INIT that start no engine. -/

namespace Sys2Proof.Machine

open Sys2Proof

/-! Initialisations that fail (R203, R207, R458). -/

/-- An initialisation that ends with the status of a failed step, or in the fatal mode wait. -/
def InitFails (r : Except Stop (Status × State)) : Prop :=
  (∃ st u, r = .ok (st, u) ∧ st ≠ .ok ∧ st ≠ .configError) ∨ r = .error (.fault .modeWait)

theorem initFailed_run (x : Ctx) (st : Status) (h : Hooks) (s : State) :
    initFailed x st h s = .ok (st, (s.withCore { s.core with functional := false }).inCtx x) := rfl

/-- A prompt LINK that has nothing to finish changes GRSTCTL no more than one that never acts. -/
theorem pollGrstctl_ready {k : Nat} {v : Bool} {h : Hooks} (limit : Nat) : ∀ {s : State}, s.Ready →
    bitOf (s.raw .GRSTCTL) k = !v → ∃ t, pollGrstctl k v limit h s = .ok (false, t) := by
  induction limit with
  | zero => exact fun {s} _ _ => ⟨s, rfl⟩
  | succ n ih =>
    intro s r hv
    obtain ⟨t, ht⟩ := ih (s := s.polled) (State.ready_polled r) (by simpa [State.polled] using hv)
    have hne : (bitOf (s.raw .GRSTCTL) k == v) = false := by
      rw [hv]
      cases v <;> rfl
    refine ⟨t, ?_⟩
    rw [pollGrstctl] at ht ⊢
    simp only [poll, run_bind, regRead_grstctl_after (r.between h), hne, run_pure, Bool.false_eq_true, if_false]
    exact ht

/-- AHBIDLE never reads 1 (R203). -/
theorem coreResetSeq_notIdle {s : State} (k : s.Ready) (hb : bitOf (s.raw .GRSTCTL) 31 = false ∨ s.hw.resetPollLimit = 0)
    (h : Hooks) : ∃ t, coreResetSeq h s = .ok (.initTimeoutAhbIdle, t) := by
  obtain ⟨t, ht⟩ : ∃ t, pollGrstctl 31 true s.hw.resetPollLimit h s = .ok (false, t) := by
    rcases hb with hb | hb
    · exact pollGrstctl_ready _ k hb
    · exact ⟨s, by rw [hb]; rfl⟩
  refine ⟨t, ?_⟩
  rw [coreResetSeq, run_ask_bind, run_bind_ok ht]
  rfl

theorem coreInitFrom_notIdle {s : State} (k : s.Ready) (hb : bitOf (s.raw .GRSTCTL) 31 = false ∨ s.hw.resetPollLimit = 0)
    (base : Word) (p : InitParams) (h : Hooks) :
    InitFails (coreInitFrom base p h s) := by
  have hraw := s.raw_restarted base p (r := .GRSTCTL) (by simp) (by simp)
  obtain ⟨t, ht⟩ := coreResetSeq_notIdle (State.ready_restarted k base p)
    (by rw [hraw]; simpa [State.restarted, State.freshRecords] using hb) h
  exact .inl ⟨_, _, (coreInitFrom_restarts k base p h).trans ((run_bind_ok ht).trans (initFailed_run ..)), by simp, by simp⟩

/-- The mode wait that may not read once is fatal. -/
theorem waitMode_zero {s : State} (hl : s.hw.modeWaitLimit = 0) (host : Bool) (h : Hooks) :
    waitMode host h s = .error (.fault .modeWait) := by
  rw [waitMode, run_ask_bind, hl]
  rfl

/-- A flush that may not be polled once times out. -/
theorem flushTxFifo_zero {s : State} (k : s.Ready) (hl : s.hw.flushPollLimit = 0) (num : Nat) (h : Hooks) :
    ∃ t, flushTxFifo num h s = .ok (.flushTimeout, t) := by
  have hwrite := regWrite_ready k (accessible_grstctl s) (bit1 5 ||| fld 6 5 num) h
  refine ⟨s.asked (bit1 5 ||| fld 6 5 num), ?_⟩
  rw [flushTxFifo, run_ask_bind, run_bind_ok hwrite, hl]
  rfl

theorem run_bind_error {α β : Type} {p : M α} {f : α → M β} {h : Hooks} {s : State} {e : Stop} (hp : p h s = .error e) :
    (p >>= f) h s = .error e := by
  rw [run_bind, hp]

/-- The device engine that may not wait, or not poll a flush, does not start. -/
theorem initEnd_fails {s : State} (k : s.Ready) (ho : s.core.opState = .bPeripheral) (hs : s.enginesStopped = true)
    (hm : s.hostMode = false) (hl : s.hw.modeWaitLimit = 0 ∨ s.hw.flushPollLimit = 0) (x : Ctx) (h : Hooks) :
    InitFails (initEnd x h s) := by
  rw [initEnd, run_ask_bind, ho, startEngineFor]
  by_cases hw : s.hw.modeWaitLimit = 0
  · refine .inr (run_bind_error ?_)
    rw [deviceEngineStart, run_ask_bind, hs, run_bind_ok (assertThat_true ..), run_bind_error (waitMode_zero hw false h)]
  · have k0 : s.looked.Ready := by simpa [State.looked] using k
    obtain ⟨v, u, hpart, shared, lay⟩ := fifoPartition_device k0 hm s.core.params h
    have hu : u.hw = s.hw := lay.frame.hw.trans shared.frame.hw
    obtain ⟨t, ht⟩ := flushTxFifo_zero (lay.ready shared.ready) (hu ▸ hl.resolve_left hw) 0x10 h
    have hrole : roleProgram h s.looked = .ok (.initTimeoutFlush, t) := by
      rw [roleProgram, run_ask_bind]
      exact (run_bind_ok hpart).trans (run_bind_ok ht)
    have hstart : deviceEngineStart h s = .ok (.initTimeoutFlush, t.withCore { t.core with functional := false }) := by
      rw [deviceEngineStart, run_ask_bind, hs, run_bind_ok (assertThat_true ..),
        run_bind_ok (waitMode_now (k.between h) k.settled hm (Nat.one_le_iff_ne_zero.mpr hw)), run_bind_ok hrole]
      rfl
    exact .inl ⟨_, _, (run_bind_ok hstart).trans (initFailed_run ..), by simp, by simp⟩

/-- Every step of `core_init` is needed: where one may fail the initialisation does (R201, R203, R207, R458). -/
theorem coreInit_fails {s : State} {p : InitParams} (k : s.Ready) (hp : s.prompt = true)
    (hc : s.hw.caps.fits) (hpd : p.dedicatedFifo = true) (base : Word) (h16 : bitOf (s.raw .GOTGCTL) 16 = true)
    (hm : s.hostMode = false) (m : Nat)
    (hbad : ¬ (s.hw.caps.dedFifo = true ∧ bitOf (s.raw .GRSTCTL) 31 = true ∧ 1 ≤ s.hw.resetPollLimit ∧ 1 ≤ s.hw.flushPollLimit ∧
      1 ≤ s.hw.modeWaitLimit)) : InitFails (coreInit base p (hooksAt m) s) := by
  have hread := regRead_ready k (r := .GHWCFG4) (by simp) (by simp) (hooksAt m)
  have hbit : bitOf (s.peek .GHWCFG4) 25 = s.hw.caps.dedFifo := (bitOf_ghwcfg4 s.hw.caps).1
  by_cases hd : s.hw.caps.dedFifo = true
  · by_cases hidle : bitOf (s.raw .GRSTCTL) 31 = true ∧ 1 ≤ s.hw.resetPollLimit
    · obtain ⟨b, hb, i⟩ := coreInit_run k hp hc hd hpd base hidle.1 hidle.2 (hooksAt m)
      have hbm : b.hostMode = false := by
        rw [State.hostMode, i.events, bitOf_and, show bitOf (s.raw .GINTSTS) 0 = false from hm, Bool.false_and]
      rw [hb]
      refine initEnd_fails i.ready (by rw [i.core, State.plug, if_pos h16]) (by rw [State.enginesStopped, i.core]; rfl) hbm ?_ _ _
      rw [i.hw]
      by_contra hl
      exact hbad ⟨hd, hidle.1, hidle.2, by omega, by omega⟩
    · rw [coreInit, hpd, if_pos rfl, run_bind_ok hread, hbit, hd, if_pos rfl]
      refine coreInitFrom_notIdle (by simpa using k) ?_ base p _
      rcases not_and_or.mp hidle with h | h
      · exact .inl (by simpa using h)
      · exact .inr (Nat.lt_one_iff.mp (Nat.not_le.mp h))
  · refine .inl ⟨.badParam, s.note (.rd 0x050 (s.peek .GHWCFG4)), ?_, by simp, by simp⟩
    rw [coreInit, hpd, if_pos rfl, run_bind_ok hread, hbit, if_neg hd]
    rfl

/-- Outside task context, with assertions compiled in, CORE_INIT is fatal (R544). -/
theorem exec_coreInit_context {s : State} (hft : ¬ s.FromTask) (base : Word) (p : InitParams) :
    exec (.coreInit base p) s = .fault (.assertion .context) := by
  rw [State.FromTask, not_or] at hft
  have hd : s.hw.debug = true := by simpa using hft.2
  have hc : (decide (s.ctx = .task) && !s.inCb) = false := by
    cases hi : s.inCb <;> simp_all
  have htask : taskOnly (hooksAt s.level) s = .error (.fault (.assertion .context)) := by
    simp [taskOnly, assertThat, hc, hd, stopWith]
  show runCmd (.coreInit base p) (coreInitCmd base p) s = _
  rw [runCmd, coreInitCmd, run_bind_error htask]
  rfl

/-- A CORE_INIT that ends Ok or ConfigError has had every step succeed. -/
theorem coreInit_succeeds {s t : State} {base : Word} {p : InitParams} (hft : s.FromTask) (he : exec (.coreInit base p) s = .next t)
    (hok : t.result = .status .ok ∨ t.result = .status .configError) : ¬ InitFails (coreInit base p (hooksAt s.level) s) := by
  rintro (⟨st, u, hu, h1, h2⟩ | hfault)
  · obtain rfl : u.returned (.status st) = t := by
      have h := (exec_coreInit hft hu).symm.trans he
      injection h
    rcases hok with h | h
    · injection h with h
      exact h1 h
    · injection h with h
      exact h2 h
  · have h : exec (.coreInit base p) s = .fault .modeWait := by
      show runCmd (.coreInit base p) (coreInitCmd base p) s = _
      rw [runCmd, coreInitCmd, run_bind_ok (taskOnly_ok hft _), run_bind_error hfault]
      rfl
    rw [h] at he
    cases he

/-! The budget (R206). -/

theorem mem_txNumbers {i : Fin 16} (h : 1 ≤ i.val) : i ∈ txNumbers :=
  List.mem_filter.mpr ⟨List.mem_finRange i, decide_eq_true (Nat.one_le_iff_ne_zero.mp h)⟩

/-- Settles O20: an initialisation that succeeds has laid the FIFOs out as `fifo_partition` does. -/
theorem fifoPartitionFits : Obligations.FifoPartitionFits := by
  intro s t base p he hr hp ht hs hu hc hpd hm h16 hex hok
  have k : s.Ready := State.ready_of_tick he hs hu fun _ => ht
  have hft : s.FromTask := by
    by_contra hn
    rw [exec_coreInit_context hn] at hex
    cases hex
  obtain ⟨hd, h31, hl, hf, hw⟩ := not_not.mp fun hn => coreInit_succeeds hft hex hok (coreInit_fails k hp hc hpd base h16 hm s.level hn)
  obtain ⟨b, v, u, w, r, hrun, i, g⟩ := coreInit_device k hp hr hc hd hpd h31 hl hf hw base h16 hm s.level
  obtain rfl : r.returned (.status (if r.core.cfgError then .configError else .ok)) = t := by
    have h := (exec_coreInit hft hrun).symm.trans hex
    injection h
  have hparams : b.looked.core.params = p := by rw [b.core_looked, i.core]
  have hcaps : b.looked.core.caps = s.hw.caps := by rw [b.core_looked, i.core]
  have hvcaps : v.core.caps = s.hw.caps := g.caps_v.trans hcaps
  have hfifo : r.core.fifo = u.core.fifo := by rw [g.core]
  have hcfg : r.core.cfgError = u.core.cfgError := by rw [g.core]
  obtain ⟨-, hrx, hnp⟩ := g.core_u
  have lay := g.lay
  rw [← hfifo, hparams] at hrx hnp
  rw [hparams, hcaps] at lay
  have hle : b.looked.rxGrant p ≤ p.rxFifo.toNat ∧ b.looked.rxGrant p ≤ s.hw.caps.fifoDepth :=
    ⟨min_le_left _ _, hcaps ▸ min_le_right _ _⟩
  have hle' : b.looked.npGrant p ≤ p.nptxFifo.toNat ∧ b.looked.npGrant p ≤ s.hw.caps.fifoDepth - b.looked.rxGrant p :=
    ⟨min_le_left _ _, hcaps ▸ min_le_right _ _⟩
  intro request
  simp only [State.returned_core, hrx, hnp, txNumbers_below]
  refine ⟨?_, trivial, trivial, hle.1, hle'.1, fun n h1 hn => ⟨?_, ?_, ?_⟩, fun hres => ?_⟩
  · have hfit := lay.fits
    rw [hvcaps, FifoTable.total, ← hfifo] at hfit
    omega
  · have hstart := lay.start n (mem_txNumbers h1) (hvcaps ▸ hn)
    rwa [FifoTable.total, ← hfifo] at hstart
  · have hin := lay.within n (mem_txNumbers h1) (hvcaps ▸ hn)
    rw [← hfifo] at hin
    exact hin
  · exact (g.txWord (i := n) (fun e => by simp [e] at h1) (hcaps ▸ hn) :)
  · have herr : u.core.cfgError = false := by
      rw [← hcfg]
      by_contra hn
      rw [Bool.not_eq_false] at hn
      simp [State.returned, hn] at hres
    obtain ⟨hv, hwhole⟩ := lay.whole herr
    obtain ⟨-, hrxw, hnpw⟩ := g.shared.whole hv
    rw [hparams] at hrxw hnpw
    refine ⟨hrxw, hnpw, fun n h1 hn => ?_, fun n h1 hn => (hwhole n (mem_txNumbers h1)).2 (hvcaps ▸ hn)⟩
    have hreq := (hwhole n (mem_txNumbers h1)).1 (hvcaps ▸ hn)
    rw [← hfifo] at hreq
    exact hreq

end Sys2Proof.Machine

/-! PROOF. The connector changes (R402, R403; O47). -/

namespace Sys2Proof.Machine

open Sys2Proof

/-- An event whose handler stops the machine. -/
theorem runEvt_fault {i : Instr} {p : M Unit} {s : State} {f : Fault} (h : p (hooksAt s.level) (s.inCtx .isr) = .error (.fault f)) :
    runEvt i p s = .fault f := by
  have hrun : asHandler p (hooksAt s.level) s = .error (.fault f) := by
    rw [asHandler, run_ask_bind]
    exact (run_bind_ok (run_act ..)).trans (run_bind_error h)
  rw [runEvt, runProc, hrun]
  rfl

/-- A machine in handler context, with nothing settling and no disable of EP0 IN pending, is ready. -/
theorem State.ready_inIsr {s : State} (he : s.env = []) (hu : s.unsettled = false)
    (hd : s.prompt = true → s.disablePending (.ep ⟨0, .IN⟩) = false) : (s.inCtx .isr).Ready :=
  ⟨he, .inl (by simp [State.inCtx]), hu, hd⟩

theorem setGate_ready {s : State} (k : s.Ready) (b : Bool) (h : Hooks) : setGate b h s = .ok ((), s.gated b) := by
  have hread := regRead_ready (r := .GAHBCFG) k (by simp) (by simp) h
  have hkeep (e : TraceEv) (w : Word) : (s.note e).keepDma 5 (!(s.note e).isSlave) w = w :=
    State.keepDma_settled (by simpa using k.settled) _ _ _
  rw [setGate, regUpdateAt, run_bind_ok hread, run_ask_bind]
  simp only [id_eq, hkeep]
  exact regWrite_ready (by simpa using k) (accessible_gahbcfg _) _ h

/-- The handler of a connector change where no engine runs, up to the mode wait (R402). -/
theorem evtConidstschng_begins {s : State} (k : s.Ready) (hd : s.core.deviceEngine = false) (hh : s.core.hostEngine = false)
    (h16 : bitOf (s.raw .GOTGCTL) 16 = true) (h : Hooks) : ∃ u, evtConidstschng h s = (do waitMode false; coreReinit) h u ∧
    u.Ready ∧ u.raw .GINTSTS = s.raw .GINTSTS &&& ~~~(bit1 28) ∧ Frame s u [.GINTSTS] [] := by
  have kc : (s.cleared .GINTSTS 28).Ready := by simpa [State.cleared] using k
  have hraw : (s.cleared .GINTSTS 28).raw .GOTGCTL = s.raw .GOTGCTL := by simp [State.cleared]
  have hcore : (s.cleared .GINTSTS 28).core = s.core := by simp [State.cleared]
  refine ⟨(s.cleared .GINTSTS 28).note (.rd 0x000 (s.raw .GOTGCTL)), ?_, by simpa using kc, by simp [w1cMask], by simp [State.cleared]⟩
  rw [evtConidstschng, run_bind_ok (regWrite_ready k (accessible_gintsts _) _ h)]
  refine (run_bind_ok (regRead_ready kc (r := .GOTGCTL) (by simp) (by simp) h)).trans ?_
  have hpeek : (s.cleared .GINTSTS 28).peek .GOTGCTL = s.raw .GOTGCTL := hraw
  rw [run_ask_bind, hpeek, State.note_core, hcore, hd, hh, h16]
  rfl

/-- The core is initialised again and its gate opens (R403). -/
theorem coreReinit_run {s : State} {h : Hooks} {st : Status} {t : State} (hi : coreInit s.core.base s.core.params h s = .ok (st, t))
    (hst : st = .ok ∨ st = .configError) (k : t.Ready) : coreReinit h s = .ok ((), t.gated true) := by
  rw [coreReinit, run_ask_bind, run_bind_ok hi, run_doIf, decide_eq_true hst, if_pos rfl]
  exact setGate_ready k true h

/-- Settles O47: the event is cleared, and the core is initialised again, or the mode never follows the plug. -/
theorem connectorChangeInitialisesAgain : Obligations.ConnectorChangeInitialisesAgain := by
  intro s he hr ht hu hd hh h16
  have k : (s.inCtx .isr).Ready := State.ready_inIsr he hu fun hp => idle_of_tick he hp hu ht
  obtain ⟨u, hbegin, ku, hsts, fu⟩ := evtConidstschng_begins k (by exact hd) (by exact hh) (by exact h16) (hooksAt s.level)
  have hmode : u.hostMode = s.hostMode := by
    rw [State.hostMode, hsts, bitOf_and, bitOf_not (by decide), bitOf_bit1]
    exact Bool.and_true _
  refine ⟨fun hp hc hded hpd h31 hl hf hw hm => runEvt_of ?_, fun hm => runEvt_fault ?_⟩
  · have hcore : u.core = s.core := fu.core (by simp) (by simp)
    have hz : u.looked.hostMode = false := hmode.trans hm
    have huhw : u.hw = s.hw := fu.hw
    have hotg : u.looked.raw .GOTGCTL = s.raw .GOTGCTL := fu.raw_eq (by simp) (by simp)
    have hrst : u.looked.raw .GRSTCTL = s.raw .GRSTCTL := fu.raw_eq (by simp) (by simp)
    have kz : u.looked.Ready := by simpa [State.looked] using ku
    obtain ⟨b, v, w, x, t, hrun, i, g⟩ := coreInit_device kz (p := u.looked.core.params) (fu.inputs.2.2.2.trans hp) (fu.inputs.2.2.1.trans hr)
      (huhw ▸ hc) (huhw ▸ hded) (hcore ▸ hpd) (hrst ▸ h31) (huhw ▸ hl) (huhw ▸ hf) (huhw ▸ hw) u.looked.core.base (hotg ▸ h16) hz s.level
    have hst : (if t.core.cfgError then Status.configError else .ok) = .ok ∨ (if t.core.cfgError then Status.configError else .ok) = .configError := by
      cases t.core.cfgError <;> simp
    have kt : t.Ready := g.setUp.ready
    refine ⟨t.gated true, ?_, ?_⟩
    · exact hbegin.trans ((run_bind_ok (waitMode_now (ku.between _) ku.settled hz (huhw ▸ hw))).trans (coreReinit_run hrun hst kt))
    · have fg : Frame t ((t.gated true).inCtx s.ctx) [.GAHBCFG] [.context] := by simp [State.gated]
      have ht := i.device_core g
      have hcg : ((t.gated true).inCtx s.ctx).core = t.core := fg.core (by simp) (by simp)
      have hplug : u.looked.plug = .bPeripheral := if_pos (hotg ▸ h16)
      have hparts {q : Part} (hq : q ∉ [.core, .fifo, .ep0]) (he : ∀ e, q ≠ .ep e) : q ∉ .core :: .fifo :: .ep0 :: endpointParts := by
        simpa [mem_endpointParts_iff, he] using hq
      have hrec : Part.records ∉ .core :: .fifo :: .ep0 :: endpointParts := hparts (by simp) (by simp)
      have f := g.frame
      have hmask := fg.raw_eq (r := .GINTMSK) (by simp) (by simp)
      rw [i.device_mask g] at hmask
      refine ⟨?_, ?_, ?_, ?_, ?_, ?_, ?_, fun e => ?_, fun c => ?_, ?_, ?_, ?_, rfl, ?_, ?_, ?_, ?_, ?_, fun a => ?_, ?_⟩
      · rw [hcg, ht]
      · rw [hcg, ht, hplug]
      · rw [hcg, ht]
      · rw [hcg, ht]
      · rw [hcg, ht]
        show u.core.base = _
        rw [hcore]
      · rw [hcg, ht]
        show u.core.params = _
        rw [hcore]
      · rw [hcg, ht]
        exact congrArg HwParams.caps huhw
      · rw [fg.ep e (by simp) (by simp), g.ep e, show b.looked.ep e = b.ep e from rfl, i.ep]
      · rw [fg.ch c (by simp) (by simp), f.ch c (hparts (by simp) (by simp)) hrec]
        exact i.ch c
      · rw [fg.pool (by simp) (by simp), f.pool (hparts (by simp) (by simp)) hrec]
        exact i.pool.trans (by rw [show u.looked.hw = s.hw from huhw])
      · rw [fg.iso (by simp) (by simp), f.iso (hparts (by simp) (by simp)) hrec]
        exact i.iso
      · rw [fg.exist (by simp) (by simp), g.exist]
        exact i.exist
      · show bitOf ((t.gated true).raw .GAHBCFG) 0 = true
        rw [State.raw_gated, if_pos rfl, bitOf_or, show bitOf (0x1 : Word) 0 = true from rfl, Bool.or_true]
      · rw [fg.raw_eq (by simp) (by simp), g.raw_other (by simp [deviceStartRegs]) (by simp), b.raw_looked, i.events, and_one,
          show bitOf (u.looked.raw .GINTSTS) 0 = false from hz]
        rfl
      · rw [fg.raw_eq (by simp) (by simp), g.raw_other (by simp [deviceStartRegs]) (by simp), b.raw_looked, i.otgEvents]
      · rw [fg.raw_eq (by simp) (by simp), g.setUp.summary]
      · rw [hcg]
        exact hmask
      · rw [fg.mem (by simp) a, f.mem (hparts (by simp) (by simp)) a]
        exact (i.bytes a).trans (fu.mem (by simp) a)
      · rw [fg.fifo (by simp)]
        exact g.fifo i.fifo
  · exact hbegin.trans (run_bind_error (waitMode_never (host := false) ku (hmode.trans hm) _))

end Sys2Proof.Machine

/-! PROOF. Session end, disconnect and host negotiation (R404 to R407; O46). -/

namespace Sys2Proof.Machine

open Sys2Proof

/-! The roles of an event (R404, R405, R407). -/

section
variable {s v : State} {h : Hooks}

theorem evtSesenddet_peripheral (hw : regWrite .GOTGINT (bit1 2) h s = .ok ((), v)) (hp : v.peripheral = true) :
    evtSesenddet h s = sessionEnd h v := by
  rw [evtSesenddet, run_bind_ok hw, run_ask_bind]
  rw [State.peripheral] at hp
  cases ho : v.core.opState <;> simp_all

theorem evtSesenddet_bHost (hw : regWrite .GOTGINT (bit1 2) h s = .ok ((), v)) (ho : v.core.opState = .bHost) :
    evtSesenddet h s = fallBack h v := by
  rw [evtSesenddet, run_bind_ok hw, run_ask_bind, ho]

theorem evtSesenddet_aRole (hw : regWrite .GOTGINT (bit1 2) h s = .ok ((), v)) (ho : v.core.opState = .aHost ∨ v.core.opState = .aSuspend) :
    evtSesenddet h s = .ok ((), v) := by
  rw [evtSesenddet, run_bind_ok hw, run_ask_bind]
  rcases ho with ho | ho <;> rw [ho] <;> rfl

theorem evtDisconnint_bHost (hw : regWrite .GINTSTS (bit1 29) h s = .ok ((), v)) (ho : v.core.opState = .bHost) :
    evtDisconnint h s = fallBack h v := by
  rw [evtDisconnint, run_bind_ok hw, run_ask_bind, ho]

theorem evtDisconnint_aHost (hw : regWrite .GINTSTS (bit1 29) h s = .ok ((), v)) (ho : v.core.opState = .aHost) :
    evtDisconnint h s = callback .disconnect h v := by
  rw [evtDisconnint, run_bind_ok hw, run_ask_bind, ho]

theorem evtDisconnint_other (hw : regWrite .GINTSTS (bit1 29) h s = .ok ((), v)) (ha : v.core.opState ≠ .aHost)
    (hb : v.core.opState ≠ .bHost) : evtDisconnint h s = .ok ((), v) := by
  rw [evtDisconnint, run_bind_ok hw, run_ask_bind]
  cases ho : v.core.opState <;> simp_all

section
variable {u z : State} {x y : Word} (hw : regWrite .GOTGINT (bit1 9) h s = .ok ((), v)) (hr : regRead .GOTGCTL h v = .ok (x, u))
include hw hr

theorem evtHstneg_failed (h8 : bitOf x 8 = false) : evtHstnegsucstschng h s = hnpFailed h u := by
  rw [evtHstnegsucstschng, run_bind_ok hw, run_bind_ok hr, h8]
  rfl

variable (h8 : bitOf x 8 = true) (hm : regRead .GINTSTS h u = .ok (y, z))
include h8 hm

theorem evtHstneg_late (hl : bitOf y 0 = true ∨ z.core.opState ≠ .bPeripheral) : evtHstnegsucstschng h s = .ok ((), z) := by
  have hoff : (!bitOf y 0 && decide (z.core.opState = .bPeripheral)) = false := by
    rcases hl with hl | hl <;> simp [hl]
  rw [evtHstnegsucstschng, run_bind_ok hw, run_bind_ok hr, h8, if_pos rfl, run_bind_ok hm, run_ask_bind, run_doIf, hoff]
  rfl

theorem evtHstneg_becomes (h0 : bitOf y 0 = false) (ho : z.core.opState = .bPeripheral) : evtHstnegsucstschng h s = becomeHost h z := by
  rw [evtHstnegsucstschng, run_bind_ok hw, run_bind_ok hr, h8, if_pos rfl, run_bind_ok hm, run_ask_bind, run_doIf, h0, ho]
  rfl

end

end

/-! The end of a session of a peripheral (R404). -/

theorem sessionEnd_off {s : State} (hr : s.replies = []) (hd : s.core.deviceEngine = false) (m : Nat) :
    sessionEnd (hooksAt m) s = .ok ((), s.note (.cb .disconnect)) := by
  rw [sessionEnd, run_ask_bind, hd]
  exact callback_calm m .disconnect hr

theorem sessionEnd_on {s : State} (k : s.Ready) (hr : s.replies = []) (hd : s.core.deviceEngine = true) (hm : s.hostMode = false)
    (hn : 1 ≤ s.hw.caps.nEp) (h31 : bitOf (s.raw (.DIEPCTL 0)) 31 = false)
    (hb : ∀ e : EpRef, e.num ≠ 0 → (s.ep e).enabled = false ∧ (s.ep e).x.active = none ∧ (s.ep e).x.queue = []) (m : Nat) :
    ∃ u, sessionEnd (hooksAt m) s = .ok ((), u.note (.cb .disconnect)) ∧ s.DeviceStopped u := by
  obtain ⟨u, hu, d⟩ := deviceEngineStop_paced k hm hn h31 hr hb m
  have hstop := hu.run k.env (d.frame.inputs.2.1.trans k.env)
  refine ⟨u, ?_, d⟩
  rw [sessionEnd, run_ask_bind, hd, run_bind, run_doIf, if_pos rfl, hstop]
  exact callback_calm m .disconnect (d.frame.inputs.2.2.1.trans hr)

section
variable {s : State} (a : s.Alone)
include a

theorem sesenddet_off (hp : s.peripheral = true) (hd : s.core.deviceEngine = false) :
    ∃ t, exec .otgSesenddet s = .next t ∧ t.raw .GOTGINT = s.raw .GOTGINT &&& ~~~(bit1 2) ∧
      t.trace = .cb .disconnect :: .wr 0x004 (bit1 2) :: s.trace ∧ Frame s t [.GOTGINT] [] := by
  have hw := regWrite_calm (r := .GOTGINT) a.calm (by simp) (bit1 2) (hooksAt s.level)
  refine runEvt_of ⟨_, (evtSesenddet_peripheral hw (by simpa using hp)).trans (sessionEnd_off ?_ ?_ _), ?_, ?_, ?_⟩
  · simpa using a.replies
  · simpa using hd
  · simp [w1cMask]
  · simp [Reg.offset]
  · simp

theorem sesenddet_on (hp : s.peripheral = true) (hd : s.core.deviceEngine = true) (hm : s.hostMode = false) (hn : 1 ≤ s.hw.caps.nEp)
    (h31 : bitOf (s.raw (.DIEPCTL 0)) 31 = false)
    (hb : ∀ e : EpRef, e.num ≠ 0 → (s.ep e).enabled = false ∧ (s.ep e).x.active = none ∧ (s.ep e).x.queue = []) :
    ∃ t, exec .otgSesenddet s = .next t ∧ t.core = { s.core with deviceEngine := false } ∧
      t.trace.head? = some (.cb .disconnect) ∧ .cb .deviceRoleStop ∈ t.trace.take 2 ∧ t.iso = [] ∧
      t.ep0 = { s.ep0 with state := .disconnected, address := 0, config := 0 } ∧ t.raw .DAINTMSK = 0 ∧
      t.raw .DIEPEMPMSK &&& 0xFFFF = 0 ∧ t.raw .DCFG = s.raw .DCFG &&& ~~~0x7F0#32 ∧
      t.raw .GINTMSK = s.raw .GINTMSK &&& ~~~0x000C7810#32 ∧ t.raw .GOTGINT = s.raw .GOTGINT &&& ~~~(bit1 2) ∧
      Frame s t [.GOTGINT, .GINTMSK, .DAINTMSK, .DIEPEMPMSK, .DCFG] [.core, .ep0, .iso, .ep ⟨0, .IN⟩, .ep ⟨0, .OUT⟩] := by
  have hw := regWrite_calm (r := .GOTGINT) a.calm (by simp) (bit1 2) (hooksAt s.level)
  have k : ((s.inCtx .isr).cleared .GOTGINT 2).Ready := by simpa [State.cleared] using a.calm.ready
  have hc : Frame (s.inCtx .isr) ((s.inCtx .isr).cleared .GOTGINT 2) [.GOTGINT] [] := by simp [State.cleared]
  obtain ⟨u, hu, d⟩ := sessionEnd_on k (by simpa [State.cleared] using a.replies) (by simpa [State.cleared] using hd)
    (by simpa [State.cleared] using hm) (by simpa [State.cleared] using hn) (by simpa [State.cleared] using h31)
    (by simpa [State.cleared] using hb) s.level
  obtain ⟨l, hl, hs⟩ := d.trace
  have f := d.frame
  refine runEvt_of ⟨_, (evtSesenddet_peripheral hw (by simpa using hp)).trans hu, ?_, rfl, ?_, d.iso, ?_, d.summary, d.empty, ?_, ?_, ?_, ?_⟩
  · exact d.core.trans (by rw [hc.core (by simp) (by simp)]; rfl)
  · show TraceEv.cb .deviceRoleStop ∈ (TraceEv.cb .disconnect :: u.trace).take 2
    rw [hl]
    simp
  · exact d.ep0.trans (by rw [hc.ep0 (by simp) (by simp)]; rfl)
  · exact d.config.trans (by rw [hc.raw_eq (by simp) (by simp)]; rfl)
  · exact d.mask.trans (by rw [hc.raw_eq (by simp) (by simp)]; rfl)
  · exact (f.raw_eq (by simp) (by simp)).trans (by simp [w1cMask])
  · refine Frame.event_trans (u := (s.inCtx .isr).cleared .GOTGINT 2) (by simp [State.cleared]) ?_
    simpa using f.mono (by simp) (by simp)

theorem sesenddet_aRole (ho : s.core.opState = .aHost ∨ s.core.opState = .aSuspend) :
    ∃ t, exec .otgSesenddet s = .next t ∧ t.raw .GOTGINT = s.raw .GOTGINT &&& ~~~(bit1 2) ∧ Frame s t [.GOTGINT] [] := by
  have hw := regWrite_calm (r := .GOTGINT) a.calm (by simp) (bit1 2) (hooksAt s.level)
  exact runEvt_of ⟨_, evtSesenddet_aRole hw (by simpa using ho), by simp [w1cMask], by simp⟩

theorem disconnint_aHost (ho : s.core.opState = .aHost) :
    ∃ t, exec .topDisconnint s = .next t ∧ t.raw .GINTSTS = s.raw .GINTSTS &&& ~~~(bit1 29) ∧
      t.trace = .cb .disconnect :: .wr 0x014 (bit1 29) :: s.trace ∧ Frame s t [.GINTSTS] [] := by
  have hw := regWrite_calm (r := .GINTSTS) a.calm (by simp) (bit1 29) (hooksAt s.level)
  refine runEvt_of ⟨_, (evtDisconnint_aHost hw (by simpa using ho)).trans (callback_calm _ _ (by simpa using a.replies)), ?_, ?_, ?_⟩
  · simp [w1cMask]
  · simp [Reg.offset]
  · simp

theorem disconnint_other (ha : s.core.opState ≠ .aHost) (hb : s.core.opState ≠ .bHost) :
    ∃ t, exec .topDisconnint s = .next t ∧ t.raw .GINTSTS = s.raw .GINTSTS &&& ~~~(bit1 29) ∧ Frame s t [.GINTSTS] [] := by
  have hw := regWrite_calm (r := .GINTSTS) a.calm (by simp) (bit1 29) (hooksAt s.level)
  exact runEvt_of ⟨_, evtDisconnint_other hw (by simpa using ha) (by simpa using hb), by simp [w1cMask], by simp⟩

/-! The outcome of host negotiation (R405, R406). -/

theorem hstneg_fails (h8 : bitOf (s.raw .GOTGCTL) 8 = false) :
    ∃ t, exec .otgHstnegsucstschng s = .next t ∧ t.raw .GOTGINT = s.raw .GOTGINT &&& ~~~(bit1 9) ∧
      t.raw .GOTGCTL = s.raw .GOTGCTL ||| 0x00000A00 ∧ t.trace.head? = some (.log .hnpPeerUnresponsive) ∧
      Frame s t [.GOTGINT, .GOTGCTL] [] := by
  have hset : s.stored .GOTGCTL (s.raw .GOTGCTL ||| 0xA00#32) = s.raw .GOTGCTL ||| 0xA00#32 :=
    s.stored_or rfl rfl (by rw [show rwMask s.hw .GOTGCTL = 0xE02#32 from rfl]; decide)
  have c := a.calm
  have kc : ((s.inCtx .isr).cleared .GOTGINT 9).Calm := by simpa [State.cleared] using c
  have hw := regWrite_calm (r := .GOTGINT) c (by simp) (bit1 9) (hooksAt s.level)
  have hr := regRead_calm (r := .GOTGCTL) kc (by simp) (by simp) (hooksAt s.level)
  refine runEvt_of ⟨_, (evtHstneg_failed hw hr (by simpa [State.cleared] using h8)).trans
    ((run_bind_ok (regUpdate_calm (by simpa using kc) (by simp) (by simp) _ _)).trans rfl), ?_, ?_, rfl, ?_⟩
  · simp [State.cleared, w1cMask]
  · simp [State.cleared, hset]
  · simp [State.cleared]

theorem hstneg_late (h8 : bitOf (s.raw .GOTGCTL) 8 = true) (hl : s.hostMode = true ∨ s.core.opState ≠ .bPeripheral) :
    ∃ t, exec .otgHstnegsucstschng s = .next t ∧ t.raw .GOTGINT = s.raw .GOTGINT &&& ~~~(bit1 9) ∧ Frame s t [.GOTGINT] [] := by
  have c := a.calm
  have kc : ((s.inCtx .isr).cleared .GOTGINT 9).Calm := by simpa [State.cleared] using c
  have hw := regWrite_calm (r := .GOTGINT) c (by simp) (bit1 9) (hooksAt s.level)
  have hr := regRead_calm (r := .GOTGCTL) kc (by simp) (by simp) (hooksAt s.level)
  have hm := regRead_calm (s := ((s.inCtx .isr).cleared .GOTGINT 9).note (.rd (Reg.offset .GOTGCTL)
    (((s.inCtx .isr).cleared .GOTGINT 9).peek .GOTGCTL))) (r := .GINTSTS) (by simpa using kc) (by simp) (by simp) (hooksAt s.level)
  refine runEvt_of ⟨_, evtHstneg_late hw hr (by simpa [State.cleared] using h8) hm ?_, ?_, ?_⟩
  · simpa [State.cleared] using hl
  · simp [State.cleared, w1cMask]
  · simp [State.cleared]

end

end Sys2Proof.Machine

/-! PROOF. The role switches of B_HOST and B_PERIPHERAL (R404, R405, R407; O46). -/

namespace Sys2Proof.Machine

open Sys2Proof

/-! LINK changes the mode at an access (R30, R474). -/

/-- From `s` to `t` LINK has changed the mode, and has confirmed a disable of EP0 IN where one was pending. -/
structure State.Turned (s t : State) (host : Bool) : Prop where
  ready : t.Ready
  mode : t.hostMode = host
  only : t = { s with regs := t.regs, engine := t.engine, trace := t.trace }
  raw : ∀ r, r ∉ [Reg.GINTSTS, .DIEPCTL 0, .DIEPINT 0] → r ≠ .DIEPTXF 0 → t.raw r = s.raw r
  events : t.raw .GINTSTS = withBit (s.raw .GINTSTS) 0 host
  trace : s.trace <:+ t.trace

/-- The state after LINK has set the mode bit. -/
def State.turn (s : State) (host : Bool) : State := s.hwSet .GINTSTS (withBit (s.raw .GINTSTS) 0 host)

/-- The state after LINK has confirmed the disable of EP0 IN. -/
def State.confirmed (s : State) : State := (s.disableHw (.ep ⟨0, .IN⟩)).setBits (.DIEPINT 0) 0x2

theorem State.raw_turn (s : State) (host : Bool) {r : Reg} (hr : r ≠ .GINTSTS) (h0 : r ≠ .DIEPTXF 0) : (s.turn host).raw r = s.raw r :=
  s.raw_setRaw_ne _ (Reg.offset_ne hr h0 (by simp))

theorem State.events_turn (s : State) (host : Bool) : (s.turn host).raw .GINTSTS = withBit (s.raw .GINTSTS) 0 host :=
  s.raw_setRaw_same .GINTSTS _

theorem State.settled_turn {s : State} (h : s.unsettled = false) (host : Bool) : (s.turn host).unsettled = false := by
  rw [State.unsettled, s.raw_turn host (by simp) (by simp)]
  exact h

theorem tick_turn {s : State} (k : s.Ready) (hp : s.prompt = true) (host : Bool) :
    (s.withEnv [[.curmod host]]).tick = (s.turn host).when ((s.turn host).disablePending (.ep ⟨0, .IN⟩)) State.confirmed := by
  have hslot : (s.withEnv [[.curmod host]]).takeSlot = s.turn host := by
    show (s.withEnv []).turn host = _
    rw [State.withEnv_same k.env]
  rw [State.tick, hslot, when_true (show (s.withEnv [[.curmod host]]).prompt = true from hp),
    promptActs_settled (State.settled_turn k.settled host)]
  rfl

theorem State.raw_confirmed (s : State) {r : Reg} (hc : r ≠ .DIEPCTL 0) (hi : r ≠ .DIEPINT 0) (h0 : r ≠ .DIEPTXF 0) :
    s.confirmed.raw r = s.raw r := by
  have hdrop (u : State) (x : XRef) : (u.dropWalk x).raw r = u.raw r := rfl
  have hclear (u : State) (w : Word) : (u.clearBits (ctlOf (.ep ⟨0, .IN⟩)) w).raw r = u.raw r :=
    u.raw_setRaw_ne _ (Reg.offset_ne hc h0 (by simp [ctlOf, epCtl]))
  rw [State.confirmed, State.raw_setBits_other _ _ hi h0 (by simp), State.disableHw, State.endHw, when_false (by decide), hdrop, hclear, hclear]

theorem State.confirmed_eq (s : State) : s.confirmed =
    ((((s.clearBits (.DIEPCTL 0) 0x40000000).clearBits (.DIEPCTL 0) 0x80000000).dropWalk (.ep ⟨0, .IN⟩)).setBits (.DIEPINT 0) 0x2) := by
  rw [State.confirmed, State.disableHw, State.endHw, when_false (by decide)]
  rfl

theorem State.confirmed_only (s : State) : s.confirmed = { s with
    regs := s.confirmed.regs, engine := s.confirmed.engine, trace := s.confirmed.trace } := by
  rw [State.confirmed_eq]
  rfl

theorem State.trace_confirmed (s : State) : s.trace <:+ s.confirmed.trace := by
  rw [State.confirmed_eq]
  exact ⟨[_, _, _], rfl⟩

theorem State.idle_confirmed (s : State) : s.confirmed.disablePending (.ep ⟨0, .IN⟩) = false := by
  have hdrop (u : State) (x : XRef) : (u.dropWalk x).raw (.DIEPCTL 0) = u.raw (.DIEPCTL 0) := rfl
  have hclear (u : State) (w : Word) : (u.clearBits (ctlOf (.ep ⟨0, .IN⟩)) w).raw (.DIEPCTL 0) = u.raw (.DIEPCTL 0) &&& ~~~w :=
    u.raw_setRaw_same (.DIEPCTL 0) _
  have hctl : s.confirmed.raw (.DIEPCTL 0) = s.raw (.DIEPCTL 0) &&& ~~~0x40000000 &&& ~~~0x80000000 := by
    rw [State.confirmed, State.raw_setBits_other _ _ (by simp) (by simp) (by simp), State.disableHw, State.endHw,
      when_false (by decide), hdrop, hclear, hclear]
  have h30 : bitOf (~~~(0x40000000 : Word)) 30 = false := by decide
  rw [State.disablePending, show ctlOf (.ep ⟨0, .IN⟩) = .DIEPCTL 0 from rfl, hctl, bitOf_and, bitOf_and, h30]
  simp

/-- The mode changes at the access whose slot says so. -/
theorem between_turned {s : State} (k : s.Ready) (hc : s.ctx = .isr) (hp : s.prompt = true) (host : Bool) (h : Hooks) :
    ∃ t, between h (s.withEnv [[.curmod host]]) = .ok ((), t) ∧ s.Turned t host := by
  have hmode : bitOf (withBit (s.raw .GINTSTS) 0 host) 0 = host := by simp [bitOf_withBit]
  have hirq (t : State) (ht : t.ctx = .isr) : t.irqDue = false := by simp [State.irqDue, ht]
  have htick := tick_turn k hp host
  cases hd : (s.turn host).disablePending (.ep ⟨0, .IN⟩) with
  | false =>
    rw [hd, when_false rfl] at htick
    refine ⟨s.turn host, by simp [between, htick, hirq _ (show (s.turn host).ctx = .isr from hc)], ?_⟩
    refine ⟨⟨k.env, .inl hc, State.settled_turn k.settled host, fun _ => hd⟩, ?_, rfl, fun r hr h0 => ?_, s.events_turn host, ?_⟩
    · rw [State.hostMode, s.events_turn, hmode]
    · exact s.raw_turn host (fun e => hr (by simp [e])) h0
    · exact List.suffix_cons _ _
  | true =>
    rw [hd, when_true rfl] at htick
    have hsts : (s.turn host).confirmed.raw .GINTSTS = withBit (s.raw .GINTSTS) 0 host :=
      ((s.turn host).raw_confirmed (by simp) (by simp) (by simp)).trans (s.events_turn host)
    have hu : (s.turn host).confirmed.unsettled = false := by
      rw [State.unsettled, State.raw_confirmed _ (by simp) (by simp) (by simp)]
      exact State.settled_turn k.settled host
    have honly := (s.turn host).confirmed_only
    have hctx : (s.turn host).confirmed.ctx = .isr := (congrArg State.ctx honly).trans hc
    have henv : (s.turn host).confirmed.env = [] := (congrArg State.env honly).trans k.env
    refine ⟨(s.turn host).confirmed, by simp [between, htick, hirq _ hctx], ⟨henv, .inl hctx, hu, fun _ => State.idle_confirmed _⟩, ?_,
      honly, fun r hr h0 => ?_, hsts, List.IsSuffix.trans (l₂ := (s.turn host).trace) (List.suffix_cons _ _) (State.trace_confirmed _)⟩
    · rw [State.hostMode, hsts, hmode]
    · simp only [List.mem_cons, List.not_mem_nil, or_false, not_or] at hr
      exact (State.raw_confirmed _ hr.2.1 hr.2.2 h0).trans (s.raw_turn host hr.1 h0)

/-- A trace that has told one thing and last another. -/
theorem told_twice {c d : TraceEv} {l new old before : List TraceEv} (hl : l = c :: new) (hn : d :: old <:+ new) (ho : before <:+ old) :
    ∃ m, l = m ++ before ∧ d ∈ m ∧ m.head? = some c := by
  obtain ⟨i, rfl⟩ := hn
  obtain ⟨j, rfl⟩ := ho
  exact ⟨c :: (i ++ d :: j), by simp [hl], by simp, rfl⟩

/-! B_HOST falls back (R404, R407). -/

/-- A core record in another role. -/
def CoreRec.inRole (c : CoreRec) (st : OpState) : CoreRec := { c with opState := st }

/-- The stages of a fall-back: the host engine stops, LINK turns to device mode, the device engine starts. -/
structure State.FellBack (s q a v u w t : State) : Prop where
  stop : s.HostStopped q
  turned : (q.withCore (q.core.inRole .bPeripheral)).Turned a false
  start : a.looked.DeviceBegun v u w t

section
variable {s : State} (k : s.Ready) (hm : s.hostMode = true) (hr : s.replies = []) (hch : ∀ c, (s.chan c).allocated = false)
  (hd : s.core.deviceEngine = false)
include k hm hr hch hd

theorem fallBack_run (hc : s.ctx = .isr) (hp : s.prompt = true) (hn : 1 ≤ s.hw.caps.nEp) (hf : 1 ≤ s.hw.flushPollLimit)
    (hl : 1 ≤ s.hw.modeWaitLimit) (m : Nat) : ∃ q a v u w t,
      fallBack (hooksAt m) (s.withEnv (List.replicate 3 [] ++ [[.curmod false]])) = .ok ((), t) ∧ s.FellBack q a v u w t := by
  obtain ⟨q, hq, stop⟩ := hostEngineStop_paced k hm hr m hch
  have fq := stop.frame
  have kq : (q.withCore (q.core.inRole .bPeripheral)).Ready := by simpa using fq.ready k (by simp) (by simp)
  obtain ⟨a, ha, turned⟩ := between_turned kq ((fq.context (by simp)).trans hc) (fq.inputs.2.2.2.trans hp) false (hooksAt m)
  have hw : a.hw = s.hw := (congrArg State.hw turned.only).trans fq.hw
  obtain ⟨v, u, w, t, ht, start⟩ := deviceEngineStart_run
    (s := (q.withCore (q.core.inRole .bPeripheral)).withEnv [[.curmod false]]) (a := a) (m := m) (by
      show (!q.core.deviceEngine && !q.core.hostEngine) = true
      rw [stop.core, hd]
      rfl) ha turned.ready ((congrArg State.replies turned.only).trans (fq.inputs.2.2.1.trans hr))
    ((congrArg State.prompt turned.only).trans (fq.inputs.2.2.2.trans hp)) (hw ▸ hf) (by show 1 ≤ q.hw.modeWaitLimit; rw [fq.hw]; exact hl) turned.mode (hw ▸ hn)
  refine ⟨q, a, v, u, w, t, ?_, stop, turned, start⟩
  rw [fallBack, run_bind_ok (hq.run_slots _)]
  refine (run_bind_ok (run_modCore ..)).trans ((run_bind_ok ht).trans ?_)
  rfl

/-- LINK that never turns to device mode: the wait is fatal (R410, R458). -/
theorem fallBack_stuck (m : Nat) : fallBack (hooksAt m) s = .error (.fault .modeWait) := by
  obtain ⟨q, hq, stop⟩ := hostEngineStop_paced k hm hr m hch
  have fq := stop.frame
  have kq : (q.withCore (q.core.inRole .bPeripheral)).Ready := by simpa using fq.ready k (by simp) (by simp)
  have hmode : (q.withCore (q.core.inRole .bPeripheral)).hostMode = true := (fq.hostMode_eq (by simp)).trans hm
  have hstopped : (q.withCore (q.core.inRole .bPeripheral)).enginesStopped = true := by
    show (!q.core.deviceEngine && !q.core.hostEngine) = true
    rw [stop.core, hd]
    rfl
  have hstart : deviceEngineStart (hooksAt m) (q.withCore (q.core.inRole .bPeripheral)) = .error (.fault .modeWait) := by
    rw [deviceEngineStart, run_ask_bind, hstopped, run_bind_ok (assertThat_true ..)]
    exact run_bind_error (waitMode_never (host := false) kq hmode _)
  rw [fallBack, run_bind_ok (hq.run k.env (fq.inputs.2.1.trans k.env))]
  exact (run_bind_ok (run_modCore ..)).trans (run_bind_error hstart)

end

namespace State.FellBack

variable {s q a v u w t : State} (g : s.FellBack q a v u w t)
include g

theorem core_a : a.core = { s.core with hostEngine := false, opState := .bPeripheral } := by
  rw [g.turned.only]
  show q.core.inRole .bPeripheral = _
  rw [g.stop.core]
  rfl

theorem core : t.core = { s.core with
    hostEngine := false, opState := .bPeripheral, deviceEngine := true, fifo := t.core.fifo, cfgError := t.core.cfgError } := by
  rw [g.start.core, a.core_looked, g.core_a]

/-- The registers that neither a stop of the host engine nor a start of the device engine writes, nor LINK. -/
theorem raw {r : Reg} (h1 : r ∉ [Reg.GINTMSK, .HAINTMSK, .GINTSTS, .DIEPINT 0]) (h2 : r ∉ deviceStartRegs) (ht : ∀ n, r ≠ .DIEPTXF n) :
    t.raw r = s.raw r := by
  simp only [List.mem_cons, List.not_mem_nil, or_false, not_or] at h1
  obtain ⟨hmsk, hsum, hsts, hint⟩ := h1
  have hctl : r ≠ .DIEPCTL 0 := fun e => h2 (by simp [deviceStartRegs, e])
  rw [g.start.raw_other h2 ht, a.raw_looked, g.turned.raw r (by simp [hsts, hctl, hint]) (ht 0)]
  exact g.stop.frame.raw_eq (by simp [hmsk, hsum]) (ht 0)

theorem summary : t.raw .HAINTMSK &&& 0xFFFF = 0 := by
  rw [g.start.raw_other (by simp [deviceStartRegs]) (by simp), a.raw_looked, g.turned.raw _ (by simp) (by simp)]
  exact g.stop.summary

theorem events : t.raw .GINTSTS = withBit (s.raw .GINTSTS) 0 false := by
  rw [g.start.raw_other (by simp [deviceStartRegs]) (by simp), a.raw_looked, g.turned.events]
  exact congrArg (fun x => withBit x 0 false) (g.stop.frame.raw_eq (by simp) (by simp))

theorem mask : t.raw .GINTMSK = s.raw .GINTMSK &&& ~~~0x06000030#32 ||| 0x000C7800 ||| bitIf s.isSlave 4 := by
  have hraw : a.looked.raw .GINTMSK = s.raw .GINTMSK &&& ~~~0x06000030#32 :=
    (g.turned.raw .GINTMSK (by simp) (by simp)).trans g.stop.mask
  have hslave : a.looked.isSlave = s.isSlave := by
    rw [State.isSlave, a.core_looked, g.core_a, State.isSlave]
  have hrw : ∀ b, (0x000C7800 ||| bitIf b 4) &&& ~~~0xFFFFFFFE#32 = 0#32 := by decide
  have hset := a.looked.stored_or (r := .GINTMSK) (w := 0x000C7800 ||| bitIf s.isSlave 4) rfl rfl (hrw _)
  rw [g.start.mask, hslave, BitVec.or_assoc, hset, hraw, BitVec.or_assoc]

theorem ep (e : EpRef) : t.ep e = { blankEp with disabling := (s.ep e).disabling } := by
  have ha : a.looked.ep e = q.ep e := by
    rw [show a.looked.ep e = a.ep e from rfl, g.turned.only]
    rfl
  rw [g.start.ep, ha, g.stop.frame.ep e (by simp) (by simp)]

theorem iso : t.iso = [] := by
  have ha : a.looked.iso = q.iso := by
    rw [show a.looked.iso = a.iso from rfl, g.turned.only]
    rfl
  rw [g.start.frame.iso (by simp [mem_endpointParts_iff]) (by simp [mem_endpointParts_iff]), ha]
  exact g.stop.iso

theorem pool : t.pool = s.pool := by
  have ha : a.looked.pool = q.pool := by
    rw [show a.looked.pool = a.pool from rfl, g.turned.only]
    rfl
  rw [g.start.frame.pool (by simp [mem_endpointParts_iff]) (by simp [mem_endpointParts_iff]), ha, g.stop.frame.pool (by simp) (by simp)]

theorem bytes (x : Word) : t.byte x = s.byte x := by
  have ha : a.looked.byte x = q.byte x := by
    rw [show a.looked.byte x = a.byte x from rfl, g.turned.only]
    rfl
  rw [g.start.frame.mem (by simp [mem_endpointParts_iff]), ha, g.stop.frame.mem (by simp)]

/-- UPPER is told that the host role is over, and last that the device role begins. -/
theorem trace : ∃ l, t.trace = l ++ s.trace ∧ .cb .hostRoleStop ∈ l ∧ l.head? = some (.cb .deviceRoleStart) := by
  obtain ⟨old, hold, hs⟩ := g.stop.trace
  obtain ⟨new, hnew, ha⟩ := g.start.trace
  have hq : q.trace <:+ a.trace := g.turned.trace
  exact told_twice hnew (hold ▸ hq.trans ((List.suffix_cons _ _).trans ha)) hs

end State.FellBack

end Sys2Proof.Machine

/-! PROOF. The events that switch B_HOST back (R404, R407; O46). -/

namespace Sys2Proof.Machine

open Sys2Proof

/-- The machine in handler context, without the script that waits. -/
def State.unscripted (s : State) : State := (s.withEnv []).inCtx .isr

theorem State.ready_unscripted {s : State} (hu : s.unsettled = false) (hp : s.prompt = true)
    (ht : State.tick { s with env := [] } = { s with env := [] }) : s.unscripted.Ready :=
  State.ready_inIsr (s := s.withEnv []) rfl hu fun _ => idle_of_tick (s := s.withEnv []) rfl hp hu ht

/-- A first write that takes an empty slot. -/
theorem regWrite_slot {s : State} (k : s.Ready) {r : Reg} (ha : s.accessible r = true) (v : Word) (l : List (List EnvAct)) (h : Hooks) :
    regWrite r v h (s.withEnv ([] :: l)) = .ok ((), ((s.writeReg r v).note (.wr r.offset v)).withEnv l) :=
  (Paced.write k ha v).run_slots (h := h) l

section
variable {s : State} {i : Instr} {p : M Unit} {r : Reg} {k : Nat}
  (hexec : ∀ s, exec i s = runEvt i p s)
  (hbody : ∀ {h : Hooks} {u v : State}, regWrite r (bit1 k) h u = .ok ((), v) → v.core.opState = .bHost → p h u = fallBack h v)
  (hev : r = .GOTGINT ∨ r = .GINTSTS) (ho : s.core.opState = .bHost) (hd : s.core.deviceEngine = false) (hm : s.hostMode = true)
  (hch : ∀ c, (s.chan c).allocated = false) (hr : s.replies = []) (hu : s.unsettled = false)
include hexec hbody hev ho hd hm hch hr hu

/-- A LINK that never acts: the fall-back ends in the fatal mode wait. -/
theorem fallBack_fault (he : s.env = []) (hp : s.prompt = false) : exec i s = .fault .modeWait := by
  have kz : (s.inCtx .isr).Ready := State.ready_inIsr he hu fun h => absurd h (by simp [hp])
  have hne : r ≠ .GAHBCFG ∧ r ≠ .GRSTCTL ∧ r ≠ .DIEPCTL 0 ∧ r ≠ .DIEPTXF 0 ∧ r.keepsFifo = true := by
    rcases hev with rfl | rfl <;> simp
  have hacc : (s.inCtx .isr).accessible r = true := by rcases hev with rfl | rfl <;> simp
  have ky : ((s.inCtx .isr).cleared r k).Ready := by
    rw [State.cleared, State.ready_note, State.ready_writeReg _ hne.1 hne.2.1 hne.2.2.1 hne.2.2.2.1]
    exact kz
  rw [hexec]
  refine runEvt_fault ((hbody (regWrite_ready kz hacc _ _) (by simpa using ho)).trans (fallBack_stuck ky ?_ ?_ ?_ ?_ _))
  · simpa [State.cleared] using hm
  · simpa [State.cleared] using hr
  · simpa [State.cleared] using hch
  · simpa [State.cleared] using hd

/-- A LINK that turns to device mode when the new engine waits for it. -/
theorem fallBack_turns (hk : bitOf (w1cMask r) k = true) (he : s.env = [[], [], [], [], [.curmod false]]) (hp : s.prompt = true)
    (ht : State.tick { s with env := [] } = { s with env := [] }) (hc : s.hw.caps.fits) (hf : 1 ≤ s.hw.flushPollLimit)
    (hl : 1 ≤ s.hw.modeWaitLimit) : ∃ q a v u w t, exec i s = .next (t.inCtx s.ctx) ∧
      (s.unscripted.cleared r k).FellBack q a v u w t := by
  have kz : s.unscripted.Ready := State.ready_unscripted hu hp ht
  have hne : r ≠ .GAHBCFG ∧ r ≠ .GRSTCTL ∧ r ≠ .DIEPCTL 0 ∧ r ≠ .DIEPTXF 0 ∧ r.keepsFifo = true := by
    rcases hev with rfl | rfl <;> simp
  have hacc : s.unscripted.accessible r = true := by rcases hev with rfl | rfl <;> simp
  have ky : (s.unscripted.cleared r k).Ready := by
    rw [State.cleared, State.ready_note, State.ready_writeReg _ hne.1 hne.2.1 hne.2.2.1 hne.2.2.2.1]
    exact kz
  have hst : s.inCtx .isr = s.unscripted.withEnv ([] :: (List.replicate 3 [] ++ [[.curmod false]])) :=
    congrArg (fun l => (s.withEnv l).inCtx .isr) he
  have hw := regWrite_slot kz hacc (bit1 k) (List.replicate 3 [] ++ [[.curmod false]]) (hooksAt s.level)
  have hfr : Frame s.unscripted (s.unscripted.cleared r k) [r] [] := by simp [State.cleared, hne]
  have hhw : (s.unscripted.cleared r k).hw = s.hw := hfr.hw
  have hctx : (s.unscripted.cleared r k).ctx = .isr := hfr.context (by simp)
  have hcore : (s.unscripted.cleared r k).core = s.core := hfr.core (by simp) (by simp)
  have hmode : (s.unscripted.cleared r k).hostMode = true := by
    rw [State.cleared, State.hostMode_of_note, State.hostMode_writeReg]
    exact hm
  obtain ⟨q, a, v, u, w, t, hrun, g⟩ := fallBack_run ky hmode (hfr.inputs.2.2.1.trans hr)
    (fun c => (congrArg ChRec.allocated (hfr.ch c (by simp) (by simp))).trans (hch c)) ((congrArg CoreRec.deviceEngine hcore).trans hd) hctx (hfr.inputs.2.2.2.trans hp) (hhw ▸ hc.1) (hhw ▸ hf)
    (hhw ▸ hl) s.level
  refine ⟨q, a, v, u, w, t, ?_, g⟩
  rw [hexec]
  refine runEvt_ok (x := ()) ?_
  rw [hst]
  exact (hbody hw ((congrArg CoreRec.opState hcore).trans ho)).trans hrun

end

/-- What a fall-back leaves, told of the state before its event. -/
theorem State.FellBack.outcome {s q a v u w t : State} {r : Reg} {k : Nat} (g : (s.unscripted.cleared r k).FellBack q a v u w t)
    (hev : (r = .GOTGINT ∧ k = 2) ∨ (r = .GINTSTS ∧ k = 29)) :
    ∃ l, t.core.opState = .bPeripheral ∧ t.core.hostEngine = false ∧ t.core.deviceEngine = true ∧
      t.core.functional = s.core.functional ∧ t.hostMode = false ∧ t.trace = l ++ s.trace ∧ .cb .hostRoleStop ∈ l ∧
      l.head? = some (.cb .deviceRoleStart) ∧ (∀ e, t.ep e = { blankEp with disabling := (s.ep e).disabling }) ∧
      t.ep0.state = .disconnected ∧ t.iso = [] ∧ t.pool = s.pool ∧ bitOf (t.raw r) k = false ∧ t.raw .HAINTMSK &&& 0xFFFF = 0 ∧
      t.raw .DAINTMSK = 0x00010001 ∧
      t.raw .GINTMSK = ((s.raw .GINTMSK &&& ~~~0x06000030#32) ||| 0x000C7800 ||| bitIf s.isSlave 4) ∧
      t.raw .GAHBCFG = s.raw .GAHBCFG ∧ (∀ x, t.byte x = s.byte x) := by
  have hfr : Frame s.unscripted (s.unscripted.cleared r k) [r] [] := by
    rcases hev with ⟨rfl, -⟩ | ⟨rfl, -⟩ <;> simp [State.cleared]
  have hcore : (s.unscripted.cleared r k).core = s.core := hfr.core (by simp) (by simp)
  have hraw {x : Reg} (h1 : x ≠ .GOTGINT) (h2 : x ≠ .GINTSTS) (h0 : x ≠ .DIEPTXF 0) : (s.unscripted.cleared r k).raw x = s.raw x := by
    refine (hfr.raw_eq (fun y hy => ?_) h0).trans rfl
    obtain rfl := List.mem_singleton.mp hy
    rcases hev with ⟨rfl, -⟩ | ⟨rfl, -⟩ <;> simp [h1, h2]
  have hlog : s.trace <:+ (s.unscripted.cleared r k).trace := by
    rw [State.cleared, State.note_trace, State.writeReg_trace]
    exact List.suffix_cons _ _
  obtain ⟨l, hl, hstop, hhead⟩ := g.trace
  obtain ⟨m, hm⟩ := hlog
  refine ⟨l ++ m, ?_, ?_, ?_, ?_, ?_, ?_, List.mem_append_left _ hstop, ?_, fun e => ?_, ?_, g.iso, ?_, ?_, g.summary,
    g.start.setUp.summary, ?_, ?_, fun x => (g.bytes x).trans (hfr.mem (by simp) x)⟩
  · rw [g.core]
  · rw [g.core]
  · rw [g.core]
  · rw [g.core, hcore]
  · rw [State.hostMode, g.events]
    simp [bitOf_withBit]
  · rw [hl, ← hm, List.append_assoc]
  · rw [List.head?_append, hhead]
    rfl
  · rw [g.ep, hfr.ep e (by simp) (by simp)]
    rfl
  · rw [g.start.ep0]
  · exact g.pool.trans (hfr.pool (by simp) (by simp))
  · have hlow (w : Word) (j : Nat) (hj : j < 32) : bitOf (w &&& ~~~(bit1 j)) j = false := by
      rw [bitOf_and, bitOf_not hj, bitOf_bit1]
      simp [hj]
    rcases hev with ⟨rfl, rfl⟩ | ⟨rfl, rfl⟩
    · rw [g.raw (by simp) (by simp [deviceStartRegs]) (by simp), State.raw_cleared _ (by decide)]
      exact hlow _ 2 (by decide)
    · rw [g.events, State.raw_cleared _ (by decide), bitOf_withBit, if_neg (by decide)]
      exact hlow _ 29 (by decide)
  · rw [g.mask, hraw (by simp) (by simp) (by simp), State.isSlave, hcore, State.isSlave]
  · rw [g.raw (by simp) (by simp [deviceStartRegs]) (by simp), hraw (by simp) (by simp) (by simp)]

end Sys2Proof.Machine

/-! PROOF. The switch of B_PERIPHERAL to B_HOST (R405; O46). -/

namespace Sys2Proof.Machine

open Sys2Proof

/-- The stages of a take-over: the device engine stops, LINK turns to host mode, the host engine starts. -/
structure State.TookOver (s q a v u w t : State) : Prop where
  stop : s.DeviceStopped q
  turned : (q.withCore (q.core.inRole .bHost)).Turned a true
  start : a.looked.HostBegun v u w t

section
variable {s : State} (k : s.Ready) (hm : s.hostMode = false) (hn : 1 ≤ s.hw.caps.nEp) (h31 : bitOf (s.raw (.DIEPCTL 0)) 31 = false)
  (hr : s.replies = []) (hb : ∀ e : EpRef, e.num ≠ 0 → (s.ep e).enabled = false ∧ (s.ep e).x.active = none ∧ (s.ep e).x.queue = [])
  (hh : s.core.hostEngine = false)
include k hm hn h31 hr hb hh

theorem becomeHost_run (hc : s.ctx = .isr) (hp : s.prompt = true) (hf : 1 ≤ s.hw.flushPollLimit) (hl : 1 ≤ s.hw.modeWaitLimit) (m : Nat) :
    ∃ q a v u w t, becomeHost (hooksAt m) (s.withEnv (List.replicate (if s.isSlave then 9 else 7) [] ++ [[.curmod true]])) = .ok ((), t) ∧
      s.TookOver q a v u w t := by
  obtain ⟨q, hq, stop⟩ := deviceEngineStop_paced k hm hn h31 hr hb m
  have fq := stop.frame
  have kq : (q.withCore (q.core.inRole .bHost)).Ready := by simpa using fq.ready k (by simp) (by simp)
  obtain ⟨a, ha, turned⟩ := between_turned kq ((fq.context (by simp)).trans hc) (fq.inputs.2.2.2.trans hp) true (hooksAt m)
  have hw : a.hw = s.hw := (congrArg State.hw turned.only).trans fq.hw
  obtain ⟨v, u, w, t, ht, start⟩ := hostEngineStart_run
    (s := (q.withCore (q.core.inRole .bHost)).withEnv [[.curmod true]]) (a := a) (m := m) (by
      show (!q.core.deviceEngine && !q.core.hostEngine) = true
      rw [stop.core, hh]
      rfl) ha turned.ready ((congrArg State.replies turned.only).trans (fq.inputs.2.2.1.trans hr))
    ((congrArg State.prompt turned.only).trans (fq.inputs.2.2.2.trans hp)) (hw ▸ hf)
    (by show 1 ≤ q.hw.modeWaitLimit; rw [fq.hw]; exact hl) turned.mode
  refine ⟨q, a, v, u, w, t, ?_, stop, turned, start⟩
  rw [becomeHost, run_bind_ok (hq.run_slots _)]
  refine (run_bind_ok (run_modCore ..)).trans ((run_bind_ok ht).trans ?_)
  rfl

/-- LINK that never turns to host mode: the wait is fatal (R410, R458). -/
theorem becomeHost_stuck (m : Nat) : becomeHost (hooksAt m) s = .error (.fault .modeWait) := by
  obtain ⟨q, hq, stop⟩ := deviceEngineStop_paced k hm hn h31 hr hb m
  have fq := stop.frame
  have kq : (q.withCore (q.core.inRole .bHost)).Ready := by simpa using fq.ready k (by simp) (by simp)
  have hmode : (q.withCore (q.core.inRole .bHost)).hostMode = false := (fq.hostMode_eq (by simp)).trans hm
  have hstopped : (q.withCore (q.core.inRole .bHost)).enginesStopped = true := by
    show (!q.core.deviceEngine && !q.core.hostEngine) = true
    rw [stop.core, hh]
    rfl
  have hstart : hostEngineStart (hooksAt m) (q.withCore (q.core.inRole .bHost)) = .error (.fault .modeWait) := by
    rw [hostEngineStart, run_ask_bind, hstopped, run_bind_ok (assertThat_true ..)]
    exact run_bind_error (waitMode_never (host := true) kq hmode _)
  rw [becomeHost, run_bind_ok (hq.run k.env (fq.inputs.2.1.trans k.env))]
  exact (run_bind_ok (run_modCore ..)).trans (run_bind_error hstart)

end

namespace State.TookOver

variable {s q a v u w t : State} (g : s.TookOver q a v u w t)
include g

theorem core_a : a.core = { s.core with deviceEngine := false, opState := .bHost } := by
  rw [g.turned.only]
  show q.core.inRole .bHost = _
  rw [g.stop.core]
  rfl

theorem core : t.core = { s.core with
    hostEngine := true, opState := .bHost, deviceEngine := false, fifo := u.core.fifo, cfgError := u.core.cfgError } := by
  rw [g.start.core_t, a.core_looked, g.core_a]

/-- The registers that the host engine's start does not write, nor LINK, are as the stop has left them. -/
theorem raw_q {r : Reg} (h1 : r ∉ [Reg.GINTSTS, .DIEPCTL 0, .DIEPINT 0]) (h2 : r ∉ hostStartRegs) (h0 : r ≠ .DIEPTXF 0) : t.raw r = q.raw r := by
  have hstart : t.raw r = a.looked.raw r :=
    g.start.frame.raw_eq (fun x hx => ⟨fun e => h2 (e.symm ▸ hx), by rintro rfl; simp [hostStartRegs] at hx⟩) h0
  rw [hstart, a.raw_looked, g.turned.raw r h1 h0]
  rfl

theorem raw {r : Reg} (h1 : r ∉ [Reg.GINTSTS, .DIEPCTL 0, .DIEPINT 0]) (h2 : r ∉ hostStartRegs)
    (h3 : r ∉ [Reg.GINTMSK, .DAINTMSK, .DIEPEMPMSK, .DCFG]) (h0 : r ≠ .DIEPTXF 0) : t.raw r = s.raw r := by
  rw [g.raw_q h1 h2 h0]
  exact g.stop.frame.raw_eq (fun x hx => ⟨fun e => h3 (e.symm ▸ hx), by rintro rfl; simp at hx⟩) h0

theorem events : t.raw .GINTSTS = withBit (s.raw .GINTSTS) 0 true := by
  rw [g.start.frame.raw_eq (by simp [hostStartRegs]) (by simp), a.raw_looked, g.turned.events]
  exact congrArg (fun x => withBit x 0 true) (g.stop.frame.raw_eq (by simp) (by simp))

theorem summary : t.raw .HAINTMSK &&& 0xFFFF = 0 := by
  rw [g.start.summary, State.stored_plain _ rfl rfl, show rwMask a.looked.hw .HAINTMSK = 0xFFFF#32 from rfl]
  refine word_ext fun j hj => ?_
  have hzero : bitOf (0 : Word) j = false := bitOf_zero j
  rw [bitOf_and, bitOf_or, bitOf_and, bitOf_and, bitOf_not hj, hzero, Bool.false_and, Bool.or_false, Bool.and_assoc]
  cases bitOf (0xFFFF#32) j <;> simp

theorem mask : t.raw .GINTMSK = s.raw .GINTMSK &&& ~~~0x000C7810#32 ||| bit1 25 ||| bitIf s.isSlave 4 := by
  have hraw : a.looked.raw .GINTMSK = s.raw .GINTMSK &&& ~~~0x000C7810#32 :=
    (g.turned.raw .GINTMSK (by simp) (by simp)).trans g.stop.mask
  have hslave : a.looked.isSlave = s.isSlave := by
    rw [State.isSlave, a.core_looked, g.core_a, State.isSlave]
  have hrw : ∀ b, (bit1 25 ||| bitIf b 4) &&& ~~~0xFFFFFFFE#32 = 0#32 := by decide
  have hset := a.looked.stored_or (r := .GINTMSK) (w := bit1 25 ||| bitIf s.isSlave 4) rfl rfl (hrw _)
  rw [g.start.mask, hslave, BitVec.or_assoc, hset, hraw, BitVec.or_assoc]

theorem iso : t.iso = [] := by
  have ha : a.looked.iso = q.iso := by
    rw [show a.looked.iso = a.iso from rfl, g.turned.only]
    rfl
  rw [g.start.frame.iso (by simp [mem_channelParts_iff]) (by simp [mem_channelParts_iff]), ha]
  exact g.stop.iso

theorem pool : t.pool = s.pool := by
  have ha : a.looked.pool = q.pool := by
    rw [show a.looked.pool = a.pool from rfl, g.turned.only]
    rfl
  rw [g.start.frame.pool (by simp [mem_channelParts_iff]) (by simp [mem_channelParts_iff]), ha, g.stop.frame.pool (by simp) (by simp)]

theorem ep0 : t.ep0 = { s.ep0 with state := .disconnected, address := 0, config := 0 } := by
  have ha : a.looked.ep0 = q.ep0 := by
    rw [show a.looked.ep0 = a.ep0 from rfl, g.turned.only]
    rfl
  rw [g.start.frame.ep0 (by simp [mem_channelParts_iff]) (by simp [mem_channelParts_iff]), ha]
  exact g.stop.ep0

theorem bytes (x : Word) : t.byte x = s.byte x := by
  have ha : a.looked.byte x = q.byte x := by
    rw [show a.looked.byte x = a.byte x from rfl, g.turned.only]
    rfl
  rw [g.start.frame.mem (by simp [mem_channelParts_iff]), ha, g.stop.frame.mem (by simp)]

/-- UPPER is told that the device role is over, and last that the host role begins. -/
theorem trace : ∃ l, t.trace = l ++ s.trace ∧ .cb .deviceRoleStop ∈ l ∧ l.head? = some (.cb .hostRoleStart) := by
  obtain ⟨old, hold, hs⟩ := g.stop.trace
  obtain ⟨new, hnew, ha⟩ := g.start.trace_t
  have hq : q.trace <:+ a.trace := g.turned.trace
  exact told_twice hnew (hold ▸ hq.trans ((List.suffix_cons _ _).trans ha)) hs

end State.TookOver

end Sys2Proof.Machine

/-! PROOF. A negotiation that succeeds in B_PERIPHERAL (R405; O46). -/

namespace Sys2Proof.Machine

open Sys2Proof

/-- The state after a read of a register. -/
def State.seen (s : State) (r : Reg) : State := s.note (.rd r.offset (s.peek r))

/-- The state from which a successful negotiation switches the role. -/
def State.won (s : State) : State := ((s.cleared .GOTGINT 9).seen .GOTGCTL).seen .GINTSTS

theorem frame_won (s : State) : Frame s s.won [.GOTGINT] [] := by simp [State.won, State.seen, State.cleared]

theorem trace_won (s : State) : s.trace <:+ s.won.trace := by
  rw [State.won, State.seen, State.cleared]
  exact ⟨[_, _, _], rfl⟩

theorem raw_won (s : State) : s.won.raw .GOTGINT = s.raw .GOTGINT &&& ~~~(bit1 9) := by
  simp [State.won, State.seen, State.cleared, w1cMask]

theorem State.ready_won {s : State} (k : s.Ready) : s.won.Ready := by simpa [State.won, State.seen, State.cleared] using k

theorem evtHstneg_at {s : State} (k : s.Ready) (h8 : bitOf (s.raw .GOTGCTL) 8 = true) (hm : s.hostMode = false)
    (ho : s.core.opState = .bPeripheral) {l : List (List EnvAct)} (hl : ∀ j < 3, Vacant l j) (h : Hooks) :
    evtHstnegsucstschng h (s.at l 0) = becomeHost h (s.won.at l 3) := by
  have ky : (s.cleared .GOTGINT 9).Ready := by simpa [State.cleared] using k
  have hw := regWrite_at (r := .GOTGINT) k (by simp) (hl 0 (by decide)) (bit1 9) h
  have hr := regRead_at (r := .GOTGCTL) ky (by simp) (hl 1 (by decide)) (by simp) h
  have hs := regRead_at (s := (s.cleared .GOTGINT 9).note (.rd Reg.GOTGCTL.offset ((s.cleared .GOTGINT 9).peek .GOTGCTL)))
    (r := .GINTSTS) (by simpa [State.seen] using ky) (by simp) (hl 2 (by decide)) (by simp) h
  have hctl : bitOf ((s.cleared .GOTGINT 9).peek .GOTGCTL) 8 = true := by simpa [State.cleared] using h8
  refine evtHstneg_becomes hw hr hctl hs ?_ ?_
  · simpa [State.seen, State.cleared] using hm
  · simpa [State.won, State.seen, State.cleared] using ho

section
variable {s : State} (ho : s.core.opState = .bPeripheral) (hm : s.hostMode = false) (h8 : bitOf (s.raw .GOTGCTL) 8 = true)
  (hn : 1 ≤ s.hw.caps.nEp) (h31 : bitOf (s.raw (.DIEPCTL 0)) 31 = false)
  (hb : ∀ e : EpRef, e.num ≠ 0 → (s.ep e).enabled = false ∧ (s.ep e).x.active = none ∧ (s.ep e).x.queue = [])
  (hh : s.core.hostEngine = false) (hr : s.replies = []) (hu : s.unsettled = false)
include ho hm h8 hn h31 hb hh hr hu

/-- A LINK that never acts: the take-over ends in the fatal mode wait. -/
theorem hstneg_fault (he : s.env = []) (hp : s.prompt = false) : exec .otgHstnegsucstschng s = .fault .modeWait := by
  have kz : (s.inCtx .isr).Ready := State.ready_inIsr he hu fun h => absurd h (by simp [hp])
  have f := frame_won (s.inCtx .isr)
  have hneg := evtHstneg_at kz (by simpa using h8) (by simpa using hm) (by simpa using ho) (l := []) (fun j _ => by simp [Vacant])
    (hooksAt s.level)
  rw [State.at, State.at, List.drop_nil, List.drop_nil, State.withEnv_same (s := s.inCtx .isr) he, State.withEnv_same (f.inputs.2.1.trans he)] at hneg
  refine runEvt_fault (hneg.trans (becomeHost_stuck (State.ready_won kz) ?_ ?_ ?_ ?_ ?_ ?_ _))
  · exact (f.hostMode_eq (by simp)).trans hm
  · exact f.hw ▸ hn
  · rw [f.raw_eq (by simp) (by simp)]
    exact h31
  · exact f.inputs.2.2.1.trans hr
  · intro e hne
    rw [f.ep e (by simp) (by simp)]
    exact hb e hne
  · rw [f.core (by simp) (by simp)]
    exact hh

/-- A LINK that turns to host mode when the new engine waits for it. -/
theorem hstneg_turns (he : s.env = List.replicate (if s.isSlave then 12 else 10) [] ++ [[.curmod true]]) (hp : s.prompt = true)
    (ht : State.tick { s with env := [] } = { s with env := [] }) (hf : 1 ≤ s.hw.flushPollLimit) (hl : 1 ≤ s.hw.modeWaitLimit) :
    ∃ q a v u w t, exec .otgHstnegsucstschng s = .next (t.inCtx s.ctx) ∧ s.unscripted.won.TookOver q a v u w t := by
  have kz : s.unscripted.Ready := State.ready_unscripted hu hp ht
  have f := frame_won s.unscripted
  have hslave : s.unscripted.won.isSlave = s.isSlave := by
    rw [State.isSlave, f.core (by simp) (by simp)]
    rfl
  have hvacant : ∀ j < 3, Vacant s.env j := by
    intro j hj x hx
    rw [he, List.drop_append_of_le_length (by simp; split <;> omega), List.take_append_of_le_length (by simp; split <;> omega)] at hx
    exact List.eq_of_mem_replicate (List.mem_of_mem_drop (List.mem_of_mem_take hx))
  have hrest : s.env.drop 3 = List.replicate (if s.unscripted.won.isSlave then 9 else 7) [] ++ [[.curmod true]] := by
    rw [he, hslave, List.drop_append_of_le_length (by simp; split <;> omega), List.drop_replicate]
    split <;> rfl
  have hneg := evtHstneg_at kz h8 hm ho hvacant (hooksAt s.level)
  obtain ⟨q, a, v, u, w, t, hrun, g⟩ := becomeHost_run (State.ready_won kz) ((f.hostMode_eq (by simp)).trans hm) (f.hw ▸ hn)
    (by rw [f.raw_eq (by simp) (by simp)]; exact h31) (f.inputs.2.2.1.trans hr)
    (fun e hne => by rw [f.ep e (by simp) (by simp)]; exact hb e hne) (by rw [f.core (by simp) (by simp)]; exact hh)
    (f.context (by simp)) (f.inputs.2.2.2.trans hp) (f.hw ▸ hf) (f.hw ▸ hl) s.level
  refine ⟨q, a, v, u, w, t, runEvt_ok (x := ()) (hneg.trans ?_), g⟩
  rw [State.at, hrest]
  exact hrun

end

/-- What a take-over leaves, told of the state before its event. -/
theorem State.TookOver.outcome {s q a v u w t : State} (g : s.unscripted.won.TookOver q a v u w t) :
    ∃ l, t.core.opState = .bHost ∧ t.core.hostEngine = true ∧
      t.core.deviceEngine = false ∧ t.core.functional = s.core.functional ∧ t.hostMode = true ∧
      t.trace = l ++ s.trace ∧ .cb .deviceRoleStop ∈ l ∧ l.head? = some (.cb .hostRoleStart) ∧
      (∀ c, t.chan c = blankCh) ∧ t.htog = [] ∧ t.iso = [] ∧ t.pool = s.pool ∧
      t.ep0 = { s.ep0 with state := .disconnected, address := 0, config := 0 } ∧ bitOf (t.raw .GOTGINT) 9 = false ∧
      t.raw .DAINTMSK = 0 ∧ t.raw .DCFG = s.raw .DCFG &&& ~~~0x7F0#32 ∧ t.raw .HAINTMSK &&& 0xFFFF = 0 ∧
      t.raw .GINTMSK = ((s.raw .GINTMSK &&& ~~~0x000C7810#32) ||| bit1 25 ||| bitIf s.isSlave 4) ∧
      t.raw .GAHBCFG = s.raw .GAHBCFG ∧ (∀ x, t.byte x = s.byte x) := by
  have f := frame_won s.unscripted
  have hcore : s.unscripted.won.core = s.core := f.core (by simp) (by simp)
  have hraw {x : Reg} (h1 : x ≠ .GOTGINT) (h0 : x ≠ .DIEPTXF 0) : s.unscripted.won.raw x = s.raw x :=
    (f.raw_eq (by simpa using h1) h0).trans rfl
  obtain ⟨l, hl, hstop, hhead⟩ := g.trace
  obtain ⟨m, hm⟩ := trace_won s.unscripted
  have hlog : t.trace = (l ++ m) ++ s.trace := by
    rw [hl, ← hm, List.append_assoc]
    rfl
  refine ⟨l ++ m, ?_, ?_, ?_, ?_, ?_, hlog, List.mem_append_left _ hstop, ?_, g.start.setUp.ch, g.start.setUp.htog, g.iso, ?_, ?_, ?_,
    ?_, ?_, g.summary, ?_, ?_, fun x => (g.bytes x).trans (f.mem (by simp) x)⟩
  · rw [g.core]
  · rw [g.core]
  · rw [g.core]
  · rw [g.core, hcore]
  · rw [State.hostMode, g.events]
    simp [bitOf_withBit]
  · rw [List.head?_append, hhead]
    rfl
  · exact g.pool.trans (f.pool (by simp) (by simp))
  · rw [g.ep0, f.ep0 (by simp) (by simp)]
    rfl
  · have h9 : bitOf (~~~(bit1 9)) 9 = false := by decide
    rw [g.raw (by simp) (by simp [hostStartRegs]) (by simp) (by simp), raw_won, bitOf_and, h9, Bool.and_false]
  · exact (g.raw_q (by simp) (by simp [hostStartRegs]) (by simp)).trans g.stop.summary
  · rw [g.raw_q (by simp) (by simp [hostStartRegs]) (by simp), g.stop.config, hraw (by simp) (by simp)]
  · rw [g.mask, hraw (by simp) (by simp), State.isSlave, hcore, State.isSlave]
  · rw [g.raw (by simp) (by simp [hostStartRegs]) (by simp) (by simp), hraw (by simp) (by simp)]

/-- Settles O46: the clauses on the end of a session, a disconnect and a negotiation, then the two role switches. -/
theorem sessionAndNegotiationEvents : Obligations.SessionAndNegotiationEvents := by
  refine ⟨fun s a => ⟨sesenddet_off a, sesenddet_on a, sesenddet_aRole a, disconnint_aHost a, disconnint_other a⟩,
    fun s a => ⟨hstneg_fails a, hstneg_late a⟩, ?_, ?_⟩
  · intro s i r k hcase ho _ hd hm hch hr hu
    simp only [List.mem_cons, Prod.mk.injEq, List.not_mem_nil, or_false] at hcase
    have hexec : ∃ p : M Unit, (∀ s, exec i s = runEvt i p s) ∧
        ∀ {h : Hooks} {u v : State}, regWrite r (bit1 k) h u = .ok ((), v) → v.core.opState = .bHost → p h u = fallBack h v := by
      rcases hcase with ⟨rfl, rfl, rfl⟩ | ⟨rfl, rfl, rfl⟩
      · exact ⟨evtSesenddet, fun _ => rfl, evtSesenddet_bHost⟩
      · exact ⟨evtDisconnint, fun _ => rfl, evtDisconnint_bHost⟩
    have hev : (r = .GOTGINT ∧ k = 2) ∨ (r = .GINTSTS ∧ k = 29) := hcase.imp And.right And.right
    obtain ⟨p, hexec, hbody⟩ := hexec
    refine ⟨?_, ?_⟩
    · exact fallBack_fault hexec hbody (hev.imp And.left And.left) ho hd hm hch hr hu
    · intro he hp ht hc _ hf hl
      have hk : bitOf (w1cMask r) k = true := by rcases hev with ⟨rfl, rfl⟩ | ⟨rfl, rfl⟩ <;> decide
      obtain ⟨q, a, v, u, w, t, hnext, g⟩ :=
        fallBack_turns hexec hbody (hev.imp And.left And.left) ho hd hm hch hr hu hk he hp ht hc hf hl
      obtain ⟨l, role, host, device, functional, mode, log, told, last, eps, ep0, iso, pool, rest⟩ := g.outcome hev
      exact ⟨_, l, hnext, role, host, device, functional, mode, log, told, last, eps, ep0, iso, pool, rfl, rest⟩
  · intro s ho _ hh hm h8 _ hc h31 hb hr hu
    refine ⟨hstneg_fault ho hm h8 hc.1 h31 hb hh hr hu, fun he hp ht hf hl => ?_⟩
    obtain ⟨q, a, v, u, w, t, hnext, g⟩ := hstneg_turns ho hm h8 hc.1 h31 hb hh hr hu he hp ht hf hl
    obtain ⟨l, role, host, device, functional, mode, log, told, last, chans, toggles, iso, pool, rest⟩ := g.outcome
    exact ⟨_, l, hnext, role, host, device, functional, mode, log, told, last, chans, toggles, iso, pool, rfl, rest⟩

end Sys2Proof.Machine
